-- ==== Sys2Proof/Word.lean ====
section
/-!
DEFINITION. The word types of Garta (spec/01 R13, R14; spec/08 R206) and their plainest arithmetic:
scalar registers, vector lanes, vector registers of 64 lanes, predicates, slot words, bundles.
-/
namespace Sys2Proof

/-- A 64-bit scalar register, predicate, control register or address (R14). -/
abbrev Word := BitVec 64
/-- One 32-bit lane of a vector register (R297), or a slot word (R206). -/
abbrev Lane := BitVec 32
/-- A vector register: 64 lanes of 32 bits, lane i in bits [32i+31:32i] (R297). -/
abbrev VecWord := BitVec 2048
/-- A byte of memory. -/
abbrev Byte := BitVec 8
/-- An expanded bundle of eight slot words (R206). -/
abbrev Bundle := BitVec 256

/-- Scalar register number s0 to s63 (R222). -/
abbrev SReg := BitVec 6
/-- Vector register number v0 to v31 (R222). -/
abbrev VReg := BitVec 5
/-- Predicate number p0 to p7 (R222). -/
abbrev PReg := BitVec 3
/-- Accumulator number a0 to a3 (R222). -/
abbrev AReg := BitVec 2
/-- Ring handle h0 to h15 (R222). -/
abbrev HReg := BitVec 4
/-- A slot position 0 to 7 of a bundle (R206). -/
abbrev Pos := BitVec 3
/-- A context of the package: 4 * core + context number (R11, R13). -/
abbrev CtxId := BitVec 11
/-- A core of the package, 64 * cluster + number (R11). -/
abbrev CoreId := BitVec 9
/-- A cluster 0 to 7 (R11). -/
abbrev ClusterId := BitVec 3

/-- The core of a context. -/
abbrev CtxId.core (c : CtxId) : CoreId := c.extractLsb' 2 9
/-- The context number of a context in its core. -/
abbrev CtxId.num (c : CtxId) : BitVec 2 := c.extractLsb' 0 2
/-- The context of number n of a core. -/
abbrev CtxId.of (core : CoreId) (n : BitVec 2) : CtxId := core ++ n
/-- The cluster of a core. -/
abbrev CoreId.cluster (c : CoreId) : ClusterId := c.extractLsb' 6 3
/-- The number of a core in its cluster. -/
abbrev CoreId.num (c : CoreId) : BitVec 6 := c.extractLsb' 0 6
/-- The compute die of a cluster (R11: cluster c sits on die c / 2). -/
abbrev ClusterId.die (c : ClusterId) : BitVec 2 := c.extractLsb' 1 2

end Sys2Proof
end

