-- ==== Sys2Proof/Syntax.lean ====
section
/-!
DEFINITION. The instructions of Garta-5 and the steps of its other agents: one constructor per row of
spec/opcode_table.json. The first 188 constructors are slot instructions (spec/08 R223 to R234), their fields
already split; the other 94 are the events of engines, scheduler, host, brake van and porch (spec/95).
-/
namespace Sys2Proof

/-- The data formats of R24, in code order. -/
inductive Fmt
  | fp32 | bf16 | e4m3 | dpw8 | i8 | i16 | i32 | i64 | w8 | w16 | w32 | w64
deriving DecidableEq, Repr

/-- The four memory spaces of R123, in code order. -/
inductive Space
  | pm | peer | hall | glob
deriving DecidableEq, Repr

/-- A scalar operand that a B bit may replace by the broadcast port (R217, R222). -/
inductive SOpd
  | reg (r : SReg)
  | port
deriving DecidableEq, Repr

/-- A vector operand that a B bit may replace by the broadcast port splatted across lanes (R217, R231). -/
inductive VOpd
  | reg (r : VReg)
  | port
deriving DecidableEq, Repr

/-- A ring operand of MS and MV words: handle, producer or consumer, count (R133, R229). -/
structure RingOpd where
  h : HReg
  producer : Bool
  n : BitVec 6
deriving DecidableEq, Repr

/-- The operations of atom, red and redo in code order (R230). -/
inductive AtomOp
  | add | fadd | min | max | minw | maxw | and | or | xor | exch | cas
deriving DecidableEq, Repr

/-- The transformations of a copy in code order (R280). -/
inductive CopyKind
  | plain | conv | encb | dxp | pack | unpk
deriving DecidableEq, Repr

/-- The operation pairs of the stream instructions in code order (R323). -/
inductive Pair
  | bf16 | e4m3 | dw8b | dw8e | f32 | i8
deriving DecidableEq, Repr

/-- The modes of mmas in code order (R328). -/
inductive MmasMode
  | plain | enc | abs
deriving DecidableEq, Repr

/-- The functions of vfn in code order (R313). -/
inductive VFun
  | exp2 | log2 | rcp | rsq | tanh | sigm | gelu | silu
deriving DecidableEq, Repr

/-- The reductions of vred in code order (R312). -/
inductive RedOp
  | sum | max | min | sumabs
deriving DecidableEq, Repr

/-- The comparisons of fcmp and the floating ones of vcmp (R263, R303), and the integer ones of vcmp. -/
inductive CmpOp
  | eq | ne | lt | le | un | ieq | ine | ilt | ile | ult | ule
deriving DecidableEq, Repr

/-- The clocks that rdclk reads (R226, R268). -/
inductive ClkSel
  | gcc | ctm | dtc
deriving DecidableEq, Repr

/-- The control registers of R235. -/
inductive CReg
  | pcx | ctm | gcc | dtc | dlw | wst | civ | wfl | tcs | tad | sfm | tvb | fpc | fps | dcf | dca
  | capw | capn | tx | ty | tz | cpos | csz | vovf | dga | lc (l : Fin 6)
deriving DecidableEq, Repr

/-- The unit classes that the brake van leases (R458). -/
inductive UnitClass
  | core | link | channel
deriving DecidableEq, Repr

/-- The outcome codes of a lease (R464). -/
inductive LeaseOutcome
  | returned | marginal | retired | aborted
deriving DecidableEq, Repr

/-- The engine thread that an event names, by its number in the machine's engine lists (R438). -/
inductive EngRef
  | copy (id : Nat) | red (id : Nat) | omnibus (id : Nat) | cond (id : Nat)
deriving DecidableEq, Repr

/-- A context's read of a HOST page that waits for its completion: one whose value it waits for, a segment fetch, or one of an engine
thread that it has forked (R493). -/
inductive HostRead
  | value (rid : Nat) | fetch | engine (e : EngRef)
deriving DecidableEq, Repr

/-- Where a storage array holds an error (R477): a word of PM, a hall or HBM4E by its key, a word in a cellar slice or a landing, a
word of a core's L1 that is dirty or not, an entry of a receive queue; a segment in a loop buffer, a cached translation by its
place, a ring-table entry, a register, an accumulator, a core's weight banks, which parity guards. -/
inductive ErrorAt
  | word (key : Nat) | cellar (key : Nat) | l1 (k : CoreId) (key : Nat) (dirty : Bool) | queue (c : CtxId) (q : BitVec 3) (i : Nat)
  | loopBuffer (c : CtxId) (seg : BitVec 56) | translation (n : Nat) | ring (k : CoreId) (e : BitVec 6)
  | s (c : CtxId) (r : SReg) | v (c : CtxId) (r : VReg) | p (c : CtxId) (r : PReg)
  | acc (c : CtxId) (a : AReg) | bank (k : CoreId)
deriving DecidableEq, Repr

/-- A region as a mailbox command names it: its partition and the address of its RCB there (R422, R475). -/
structure RegionName where
  part : BitVec 4
  rcb : Word
deriving DecidableEq, Repr

/-- The context of a store as an MDPW record names it: core, context, partition, RCB of its region, linear index (R453, R454). -/
structure Writer where
  core : CoreId
  num : BitVec 2
  part : BitVec 4
  rcb : Word
  lidx : Word
deriving DecidableEq, Repr

/-- A firmware image as the boot ROM finds it in a slot: the fields of its header, the length and the SHA-384 digest of the body
behind it, and whether each of its signatures verifies under its fused key (R503). -/
structure FirmwareImage where
  magic : BitVec 32
  bodyLength : Nat
  svn : BitVec 32
  digest : BitVec 384
  foundLength : Nat
  foundDigest : BitVec 384
  rsa : Bool
  slh : Bool
deriving DecidableEq, Repr

/-- A link flit without its transport check (R494): channel, kind, destination and source chip, poison and
last marks, tag, sequence number and 48 payload bytes. -/
structure Flit where
  vc : BitVec 4
  kind : BitVec 4
  dchip : BitVec 6
  schip : BitVec 6
  psn : Bool
  last : Bool
  tag : BitVec 16
  seq : BitVec 16
  pay : BitVec 384
deriving DecidableEq, Repr

/-- The operands of the mailbox command that registers a partition (R481): where the partition RCB, the PTB and
the queue table lie in physical memory, the management mark, the staging quotas in MiB of the four omnibus
engines (R491) and the porch route masks, one of 12 bits per chip (R497). -/
structure RegArgs where
  part : BitVec 4
  rcb : Word
  ptb : Word
  queues : Word
  mgmt : Bool
  quotas : List (BitVec 7)
  routes : List (BitVec 12)
deriving DecidableEq, Repr

/-- One range of an access-table entry: LO and HI words (R485). -/
structure AccRange where
  lo : Word
  hi : Word
deriving DecidableEq, Repr

/-- The targets that hold an access table (R485, R486). -/
inductive Target
  | cellar (d : BitVec 2) | hbm (k : BitVec 3) | hall (c : ClusterId) | landing (d : BitVec 2)
  | omnibus (d : BitVec 2) | pantry | porch | pcie
deriving DecidableEq, Repr

/-- The lease configuration of R459. -/
structure LeaseConfig where
  perc : BitVec 32
  perl : BitVec 32
  perm : BitVec 32
  en : BitVec 3
  log : Word
  logn : BitVec 5
deriving DecidableEq, Repr

/-- The trace configuration of R510. -/
structure TraceConfig where
  ring : Word
  logn : BitVec 5
  period : BitVec 5
  branch : Bool
  mask : BitVec 4
deriving DecidableEq, Repr

/-- The findings of a power-on that the manual leaves to the silicon under test (R502 to R504): the images in the firmware slots,
the islands that fail otherwise than in one unit, the units that fail self-test, each with the number of the first failing pattern
and what its retirement record says of the failure, and the ports that train. -/
structure BootFindings where
  slotA : FirmwareImage
  slotB : FirmwareImage
  islands : BitVec 16
  failing : List (UnitClass × Nat × BitVec 16 × Word)
  trained : BitVec 12
  /-- the GCC of the lowest-indexed chip reached, when the chip joins a job (R502 step 4) -/
  gcc : Word
deriving DecidableEq, Repr

/-- The instruction set: one constructor per row of spec/opcode_table.json, in the table's order. -/
inductive Instr
  -- C slot (R225)
  | nop
  | br (a : SReg) (z : Bool) (sd : BitVec 9) (ix : BitVec 8)
  | jmp (sd : BitVec 16) (ix : BitVec 8)
  | jmpr (a : SReg)
  | call (sd : BitVec 16) (ix : BitVec 8)
  | ret
  | loop (lv : BitVec 3) (a : SReg) (nm : BitVec 12)
  | loopi (lv : BitVec 3) (nm : BitVec 12) (cnt : BitVec 16)
  | lbrk (lv : BitVec 3)
  | lstr (lv : BitVec 3) (target step : SReg)
  | gate (lv : BitVec 3) (fm lm : BitVec 7)
  | halt
  | trap (imm : BitVec 8)
  | tret
  | sleep (d a b : SReg)
  | yield
  | waitf (m : BitVec 8)
  | cregOpen (addr : BitVec 48)
  | cregClose
  | chkerr (d a : SReg)
  | cmpt (a b : SReg)
  | capack (d a : SReg)
  | jmpl (addr : BitVec 48)
  -- SA and SB slots (R227)
  | add (d a b : SReg) | sub (d a b : SReg) | and (d a b : SReg) | or (d a b : SReg) | xor (d a b : SReg)
  | andn (d a b : SReg) | orn (d a b : SReg) | xnor (d a b : SReg)
  | shl (d a b : SReg) | shr (d a b : SReg) | sar (d a b : SReg) | rol (d a b : SReg)
  | seq (d a b : SReg) | sne (d a b : SReg) | slt (d a b : SReg) | sle (d a b : SReg)
  | sltw (d a b : SReg) | slew (d a b : SReg)
  | min (d a b : SReg) | max (d a b : SReg) | minw (d a b : SReg) | maxw (d a b : SReg)
  | mul (d a b : SReg) | mulh (d a b : SReg) | mulhw (d a b : SReg)
  | div (d a b : SReg) | divw (d a b : SReg) | rem (d a b : SReg) | remw (d a b : SReg)
  | popc (d a : SReg) | clz (d a : SReg) | ctz (d a : SReg) | brev (d a : SReg) | bswap (d a : SReg)
  | bfx (d a : SReg) (pos lm : BitVec 6) | bfi (d a : SReg) (pos lm : BitVec 6)
  | sel (d a b c : SReg)
  | lea (d a b : SReg) (x : BitVec 3)
  | addi (d a : SReg) (imm : BitVec 12) | andi (d a : SReg) (imm : BitVec 12) | ori (d a : SReg) (imm : BitVec 12)
  | xori (d a : SReg) (imm : BitVec 12) | slti (d a : SReg) (imm : BitVec 12)
  | shli (d a sh : BitVec 6) | shri (d a sh : BitVec 6) | sari (d a sh : BitVec 6)
  | movi (d : SReg) (imm : BitVec 18) | movhi (d : SReg) (q : BitVec 2) (imm : BitVec 16)
  | li48 (d : SReg) (imm : BitVec 48)
  | fadd (d a b : SReg) | fsub (d a b : SReg) | fmul (d a b : SReg) | ffma (d a b c : SReg)
  | fmin (d a b : SReg) | fmax (d a b : SReg)
  | fcmp (cc : CmpOp) (d a b : SReg)
  | fcvt (d a : SReg) (src dst : Fmt)
  | fdiv (d a b : SReg) | fsqrt (d a : SReg)
  | mfc (d : SReg) (cr : CReg) | mtc (cr : CReg) (a : SReg)
  | bcast (a : SReg)
  | rdclk (d : SReg) (clk : ClkSel)
  -- M slot (R230)
  | ld (sp : Space) (ty : Fmt) (d : SReg) (ba : SOpd) (off : BitVec 4)
  | ldRing (ty : Fmt) (d : SReg) (r : RingOpd)
  | st (sp : Space) (ty : Fmt) (a : SReg) (ba : SOpd) (off : BitVec 4)
  | stRing (ty : Fmt) (a : SReg) (r : RingOpd)
  | vld (sp : Space) (ty : Fmt) (vd : VReg) (ba : SOpd) (off : BitVec 5)
  | vldRing (ty : Fmt) (vd : VReg) (r : RingOpd)
  | vst (sp : Space) (ty : Fmt) (va : VReg) (ba : SOpd) (off : BitVec 5)
  | vstRing (ty : Fmt) (va : VReg) (r : RingOpd)
  | vlds (sp : Space) (ty : Fmt) (vd : VReg) (ba : SOpd) (sr : SReg)
  | vsts (sp : Space) (ty : Fmt) (va : VReg) (ba : SOpd) (sr : SReg)
  | gath (sp : Space) (ty : Fmt) (vd vi : VReg) (ba : SOpd)
  | scat (sp : Space) (ty : Fmt) (va vi : VReg) (ba : SOpd)
  | ldf (sp : Space) (d : SReg) (ba : SOpd) (lim : SReg)
  | ldfEmpty (sp : Space) (d : SReg) (ba : SOpd) (lim : SReg)
  | ste (sp : Space) (a : SReg) (ba : SOpd) (lim : SReg)
  | fetag (sp : Space) (d : SReg) (ba : SOpd)
  | fetagSet (sp : Space) (a : SReg) (ba : SOpd)
  | rdef (h : HReg) (a : SReg)
  | advp (h : HReg) (n : BitVec 13) | advc (h : HReg) (n : BitVec 13)
  | rqry (d : SReg) (h : HReg) (wd : Bool)
  | copy (d a b c : SReg) (ssp dsp : Space) (kind : CopyKind) (sfmt dfmt : Fmt) (h : HReg) (re : Bool)
      (ns : BitVec 6) (tag : Bool) (zc : BitVec 2)
  | cpqry (d a : SReg)
  | atom (op : AtomOp) (sp : Space) (d ba a : SReg)
  | redo (op : AtomOp) (sp : Space) (ba a : SReg)
  | red (op : AtomOp) (sp : Space) (ba a : SReg)
  | bararr (sp : Space) (d : SReg) (ba : SOpd)
  | barwait (sp : Space) (d : SReg) (ba : SOpd) (lim : SReg)
  | baraw (sp : Space) (d : SReg) (ba : SOpd) (lim : SReg)
  | barinit (sp : Space) (d : SReg) (ba : SOpd) (a : SReg)
  | evsig (sp : Space) (ba : SOpd) (a : SReg)
  | evwait (sp : Space) (d : SReg) (ba : SOpd) (lim : SReg)
  | fence (d lim : SReg) (mask : BitVec 8)
  | phase (sp : Space) (ba : SOpd)
  | phend
  | dgst (sp : Space) (ba : SOpd) (a : SReg)
  | pref (hint : BitVec 6) (ba : SOpd) (off : BitVec 4)
  | symNew (d a b : SReg)
  | symSig (a b c : SReg)
  | symQry (d a b : SReg)
  | symRel (a b c : SReg)
  | cond (d a b c e : SReg) (h : HReg) (re : Bool)
  | condQry (d a : SReg)
  -- VA and VB slots (R232)
  | vadd (vd va : VReg) (vb : VOpd) (p : PReg) | vsub (vd va : VReg) (vb : VOpd) (p : PReg)
  | vmul (vd va : VReg) (vb : VOpd) (p : PReg) | vfma (vd va : VReg) (vb : VOpd) (p : PReg)
  | vfms (vd va : VReg) (vb : VOpd) (p : PReg) | vmin (vd va : VReg) (vb : VOpd) (p : PReg)
  | vmax (vd va : VReg) (vb : VOpd) (p : PReg)
  | vabs (vd va : VReg) (p : PReg) | vneg (vd va : VReg) (p : PReg)
  | vcmp (cc : CmpOp) (pd : PReg) (va : VReg) (vb : VOpd) (p : PReg)
  | vsel (vd va : VReg) (vb : VOpd) (p : PReg)
  | vand (vd va : VReg) (vb : VOpd) (p : PReg) | vor (vd va : VReg) (vb : VOpd) (p : PReg)
  | vxor (vd va : VReg) (vb : VOpd) (p : PReg) | vandn (vd va : VReg) (vb : VOpd) (p : PReg)
  | vshl (vd va : VReg) (vb : VOpd) (p : PReg) | vshr (vd va : VReg) (vb : VOpd) (p : PReg)
  | vsar (vd va : VReg) (vb : VOpd) (p : PReg)
  | viadd (vd va : VReg) (vb : VOpd) (p : PReg) | visub (vd va : VReg) (vb : VOpd) (p : PReg)
  | vimul (vd va : VReg) (vb : VOpd) (p : PReg)
  | vcvt (vd va : VReg) (dst : Fmt) (p : PReg)
  | vqnt (vd va : VReg) (vb : VOpd) (p : PReg)
  | vdqnt (vd va : VReg) (vb : VOpd) (p : PReg)
  | vred (op : RedOp) (vd va : VReg) (p : PReg)
  | vpart (vd : VReg) (p : PReg)
  | vperm (vd va : VReg) (vb : VOpd) (p : PReg)
  | vmov (vd : VReg) (vb : VOpd) (p : PReg)
  | vfn (f : VFun) (vd va : VReg) (p : PReg)
  | vidx (vd : VReg) (vb : VOpd) (p : PReg)
  | vcnt (vd : VReg) (p : PReg)
  | rlxb (vd va : VReg) (vb : VOpd) (p : PReg)
  | rlx (vd vl : VReg) (p : PReg) (fs : BitVec 3) (ut : Bool) (ta ar : SReg)
  | vabsacc (vd va : VReg) (vb : VOpd) (p : PReg)
  | vcmpt (va : VReg) (vb : VOpd)
  | pand (pd pa pb : PReg) | por (pd pa pb : PReg) | pxor (pd pa pb : PReg) | pnot (pd pa : PReg)
  -- T slot (R233)
  | mma (pair : Pair) (ac : AReg) (v : VReg) (km : BitVec 4) (eb : SOpd)
  | mmaE (pair : Pair) (ac : AReg) (v : VReg) (km : BitVec 4)
  | mmas (ac : AReg) (a : SOpd) (b c : SReg) (rc0 : Bool) (nm : BitVec 6) (pair : Pair) (mode : MmasMode)
      (rot rg : Bool) (h : HReg) (rn : BitVec 6)
  | wld (bk : Bool) (ty : Fmt) (a : SOpd)
  | wswap
  | aclr (ac : AReg)
  | adrn (ac : AReg) (v : VReg) (nr : BitVec 5)
  | adrnC (ac : AReg) (v : VReg) (nr : BitVec 5)
  | ast (ac : AReg) (a : SOpd)
  | mmaD (pair : Pair) (ac : AReg) (v : VReg) (km : BitVec 4)
  | aqry (d : SReg) (ac : AReg)
  -- X slot (R234)
  | send (v : VReg) (a : SOpd)
  | recv (v : VReg) (q : BitVec 3) | recva (v : VReg) (q : BitVec 3) | recvm (v : VReg) (q : BitVec 3)
  | sends (a b : SReg)
  | recvs (d : SReg) (q : BitVec 3)
  | xqry (d a : SReg) | xpost (d a : SReg) | xcanc (d a : SReg)
  -- events of a context (spec/95)
  | bundleDecodeFailure (c : CtxId)
  | segmentExpansion (c : CtxId) (seg : BitVec 56)
  | fetchFault (c : CtxId)
  | fpx (c : CtxId)
  | pmiss (c : CtxId)
  | swt (c : CtxId)
  | capc (c : CtxId)
  | containmentUnwinding (c : CtxId)
  | pendingValueArrival (c : CtxId) (rid : Nat)
  | slipBufferRelease (c : CtxId) (slot : Pos)
  | contextSwitch (core : CoreId)
  | waitExpiry (c : CtxId) (slot : Pos)
  | sleepWake (c : CtxId)
  | taskStart (part : BitVec 4) (q : BitVec 6)
  | taskRetirement (c : CtxId)
  -- engine threads
  | copyAcceptance (c : CtxId)
  | copyCompletion (id : Nat)
  | lateFault (e : EngRef)
  | reductionAcceptance (id : Nat)
  | reductionApplication (id : Nat)
  | phaseBookkeeping (id : Nat)
  | significanceContribution (id : Nat)
  | referenceUpdate (id : Nat)
  | condensation (id : Nat)
  | sendArrival (id : Nat)
  | omnibusStep (id : Nat)
  | earlyArrival (die : BitVec 2) (gid : BitVec 16) (inst : Nat) (rank : Nat) (block : BitVec 1024)
      (entries : List (BitVec 16)) (data : List (Byte × Bool))
  | instanceTimeout (id : Nat)
  | peer (die : BitVec 2) (gid : BitVec 16) (inst : Nat)
  | collectiveCompletion (id : Nat)
  | cancellationReport (die : BitVec 2) (gid : BitVec 16) (inst : Nat)
  -- scheduler
  | tail (part : BitVec 4) (q : BitVec 6) (val : Word)
  | cancelDoorbell (part : BitVec 4) (q : BitVec 6) (val : Word)
  | admission (part : BitVec 4) (q : BitVec 6)
  | holdTest (part : BitVec 4)
  | aging (part : BitVec 4) (q : BitVec 6)
  | preemption (region : Nat)
  | regionResume (group : Nat)
  | launchEnd (launch : Nat)
  | teardown (part : BitVec 4) (fdom : BitVec 16)
  -- translation and host
  | tinv (part : BitVec 4) (val : Word)
  | invalidationCompletion (part : BitVec 4)
  | retry (part : BitVec 4) (val : Word)
  | decline (part : BitVec 4) (val : Word)
  | registerWrite (fn : BitVec 5) (off : BitVec 16) (val : Word)
  | bar4Read (part : BitVec 4) (off : BitVec 36) (len : Nat)
  | bar4Write (part : BitVec 4) (off : BitVec 36) (bytes : List Byte)
  | completionTimeout (c : CtxId) (r : HostRead)
  | mdpw (block : BitVec 44) (writers : List Writer)
  | patrolScrubbing (e : ErrorAt) (correctable : Bool)
  | stepDigest (launch : Nat)
  -- reliability
  | coreLease
  | linkPortLease
  | memoryChannelLease
  | forcedLease (cls : UnitClass)
  | leaseEnd (cls : UnitClass) (outcome : LeaseOutcome) (pat : BitVec 16) (fdet : Word)
  | hourlyHalving
  | capcRecord (c : CtxId)
  -- link flits, with the port they arrive on
  | idle (port : BitVec 4) (f : Flit)
  | req (port : BitVec 4) (f : Flit)
  | data (port : BitVec 4) (f : Flit)
  | rsp (port : BitVec 4) (f : Flit)
  | cred (port : BitVec 4) (f : Flit)
  | hold (port : BitVec 4) (f : Flit)
  | resume (port : BitVec 4) (f : Flit)
  | epa (port : BitVec 4) (f : Flit)
  | err (port : BitVec 4) (f : Flit)
  | replay (port : BitVec 4) (f : Flit)
  -- resets, power, trace
  | computeDomainReset
  | porchDomainReset
  | powerOn (b : BootFindings)
  | clockBinMove (cluster : ClusterId) (bin : BitVec 2)
  | sample (c : CtxId)
  -- mailbox commands (R507)
  | registerPartition (a : RegArgs)
  | deregisterPartition (part : BitVec 4)
  | accessTableEntry (t : Target) (master : BitVec 8) (ranges : List AccRange)
  | leaseConfiguration (buf : Word)
  | traceConfiguration (part : BitVec 4) (cfg : TraceConfig)
  | preemptRegion (r : RegionName)
  | noticeMode (r : RegionName) (mode : Bool)
  | commit
  | selfTestRecordRead
  | scoresRead
  | leaseRecordsRead
  | retirementStoreRead
  | islandClocksRead
  | certs
  | quote (nonce : BitVec 256)
  -- device and link
  | deviceReset
  | flitCrcFailure (port : BitVec 4) (seq : BitVec 16)
  | discardedFlit (port : BitVec 4) (f : Flit)
  | lossOfLock (port : BitVec 4)
  | computeDomainBringUp
  | porchUp
deriving DecidableEq, Repr

/-- The fields of a prefix word (R212). -/
structure Prefix where
  rm : BitVec 3
  sat : Bool
  dup : Bool
  fe : Bool
  fmt : BitVec 4
deriving DecidableEq, Repr

/-- The prefix that changes nothing (R214). -/
def Prefix.zero : Prefix := ⟨0, false, false, false, 0⟩

/-- One instruction of a decoded bundle: its head's position, the prefix before it, and itself (R206, R213). -/
structure SlotInstr where
  pos : Pos
  pfx : Option Prefix
  instr : Instr
deriving DecidableEq, Repr

/-- The prefix fields in force for a slot instruction. -/
def SlotInstr.mods (i : SlotInstr) : Prefix := i.pfx.getD Prefix.zero

end Sys2Proof
end

