-- ==== Sys2Proof/WellFormed.lean ====
section
/-!
DEFINITION. Well-formed instructions: format codes (R24), slot classes (R206), prefix admission (R214, R215), and the
checks on an instruction's own fields that fail decode with ILL (R219 check 4).
-/
namespace Sys2Proof

/-- The 4-bit code of a format (R24). -/
def Fmt.code : Fmt → BitVec 4
  | .fp32 => 0 | .bf16 => 1 | .e4m3 => 2 | .dpw8 => 3 | .i8 => 4 | .i16 => 5 | .i32 => 6 | .i64 => 7
  | .w8 => 8 | .w16 => 9 | .w32 => 10 | .w64 => 11

/-- The format of a code; none for 0xC to 0xF (R24). -/
def Fmt.ofCode (c : BitVec 4) : Option Fmt :=
  match c.toNat with
  | 0 => some .fp32 | 1 => some .bf16 | 2 => some .e4m3 | 3 => some .dpw8
  | 4 => some .i8 | 5 => some .i16 | 6 => some .i32 | 7 => some .i64
  | 8 => some .w8 | 9 => some .w16 | 10 => some .w32 | 11 => some .w64
  | _ => none

/-- The width of a format in bytes (R24). -/
def Fmt.bytes : Fmt → Nat
  | .fp32 | .i32 | .w32 => 4
  | .bf16 | .i16 | .w16 => 2
  | .e4m3 | .dpw8 | .i8 | .w8 => 1
  | .i64 | .w64 => 8

/-- The slot classes (R206). -/
inductive SlotClass
  | c | s | m | v | t | x
deriving DecidableEq, Repr

/-- The class of a slot position (R206). -/
def SlotClass.ofPos (p : Pos) : SlotClass :=
  match p.toNat with
  | 0 => .c | 1 => .s | 2 => .s | 3 => .m | 4 => .v | 5 => .v | 6 => .t | _ => .x

/-- The slot class of an instruction; none for an event of another agent. -/
def Instr.cls : Instr → Option SlotClass
  | .nop | .br .. | .jmp .. | .jmpr .. | .call .. | .ret | .loop .. | .loopi .. | .lbrk .. | .lstr .. | .gate ..
  | .halt | .trap .. | .tret | .sleep .. | .yield | .waitf .. | .cregOpen .. | .cregClose | .chkerr .. | .cmpt ..
  | .capack .. | .jmpl .. => some .c
  | .add .. | .sub .. | .and .. | .or .. | .xor .. | .andn .. | .orn .. | .xnor .. | .shl .. | .shr .. | .sar ..
  | .rol .. | .seq .. | .sne .. | .slt .. | .sle .. | .sltw .. | .slew .. | .min .. | .max .. | .minw .. | .maxw ..
  | .mul .. | .mulh .. | .mulhw .. | .div .. | .divw .. | .rem .. | .remw .. | .popc .. | .clz .. | .ctz ..
  | .brev .. | .bswap .. | .bfx .. | .bfi .. | .sel .. | .lea .. | .addi .. | .andi .. | .ori .. | .xori ..
  | .slti .. | .shli .. | .shri .. | .sari .. | .movi .. | .movhi .. | .li48 .. | .fadd .. | .fsub .. | .fmul ..
  | .ffma .. | .fmin .. | .fmax .. | .fcmp .. | .fcvt .. | .fdiv .. | .fsqrt .. | .mfc .. | .mtc .. | .bcast ..
  | .rdclk .. => some .s
  | .ld .. | .ldRing .. | .st .. | .stRing .. | .vld .. | .vldRing .. | .vst .. | .vstRing .. | .vlds .. | .vsts ..
  | .gath .. | .scat .. | .ldf .. | .ldfEmpty .. | .ste .. | .fetag .. | .fetagSet .. | .rdef .. | .advp ..
  | .advc .. | .rqry .. | .copy .. | .cpqry .. | .atom .. | .redo .. | .red .. | .bararr .. | .barwait ..
  | .baraw .. | .barinit .. | .evsig .. | .evwait .. | .fence .. | .phase .. | .phend | .dgst .. | .pref ..
  | .symNew .. | .symSig .. | .symQry .. | .symRel .. | .cond .. | .condQry .. => some .m
  | .vadd .. | .vsub .. | .vmul .. | .vfma .. | .vfms .. | .vmin .. | .vmax .. | .vabs .. | .vneg .. | .vcmp ..
  | .vsel .. | .vand .. | .vor .. | .vxor .. | .vandn .. | .vshl .. | .vshr .. | .vsar .. | .viadd .. | .visub ..
  | .vimul .. | .vcvt .. | .vqnt .. | .vdqnt .. | .vred .. | .vpart .. | .vperm .. | .vmov .. | .vfn .. | .vidx ..
  | .vcnt .. | .rlxb .. | .rlx .. | .vabsacc .. | .vcmpt .. | .pand .. | .por .. | .pxor .. | .pnot .. => some .v
  | .mma .. | .mmaE .. | .mmas .. | .wld .. | .wswap | .aclr .. | .adrn .. | .adrnC .. | .ast .. | .mmaD ..
  | .aqry .. => some .t
  | .send .. | .recv .. | .recva .. | .recvm .. | .sends .. | .recvs .. | .xqry .. | .xpost .. | .xcanc .. => some .x
  | _ => none

/-- The wide instructions of R209. -/
def Instr.isWide : Instr → Bool
  | .loopi .. | .cregOpen .. | .jmpl .. | .li48 .. | .copy .. | .cond .. | .rlx .. | .mmas .. => true
  | _ => false

/-- The transfers of R104, which may not stand in a delay slot. -/
def Instr.isBranch : Instr → Bool
  | .br .. | .jmp .. | .jmpr .. | .jmpl .. | .call .. | .ret | .lbrk .. | .halt => true
  | _ => false

/-- The weight format of an operation pair (R323). -/
def Pair.weights : Pair → Fmt
  | .bf16 => .bf16 | .e4m3 => .e4m3 | .dw8b => .dpw8 | .dw8e => .dpw8 | .f32 => .fp32 | .i8 => .i8

/-- The activation format of an operation pair (R323). -/
def Pair.acts : Pair → Fmt
  | .bf16 => .bf16 | .e4m3 => .e4m3 | .dw8b => .bf16 | .dw8e => .e4m3 | .f32 => .fp32 | .i8 => .i8

/-- The pair that a weight format forms with an activation format (R320, R323). -/
def Pair.ofFormats (w a : Fmt) : Option Pair :=
  [Pair.bf16, .e4m3, .dw8b, .dw8e, .f32, .i8].find? (fun p => p.weights == w && p.acts == a)

/-- The pairs with DPW8 weights take an Eb operand (R325). -/
def Pair.hasEb : Pair → Bool
  | .dw8b | .dw8e => true
  | _ => false

/-- The prefix fields RM, SAT, DUP and FE that an instruction's description admits (R214, R237, R271, R299, R320,
R353). -/
structure Admits where
  rm : Bool
  sat : Bool
  dup : Bool
  fe : Bool
deriving DecidableEq, Repr

/-- What an instruction admits in its prefix (R214). -/
def Instr.admits : Instr → Admits
  | .add .. | .sub .. | .mul .. | .addi .. | .viadd .. | .visub .. | .vimul .. | .vfn .. => ⟨false, true, true, false⟩
  | .fadd .. | .fsub .. | .fmul .. | .ffma .. | .fdiv .. | .fsqrt .. | .fcvt .. | .vadd .. | .vsub .. | .vmul ..
  | .vfma .. | .vfms .. => ⟨true, true, true, false⟩
  | .vred op _ _ _ => match op with
    | .sum | .sumabs => ⟨true, true, true, false⟩
    | .max | .min => ⟨false, false, true, false⟩
  | .vcvt .. | .vdqnt .. => ⟨true, true, true, true⟩
  | .vqnt .. => ⟨false, false, true, true⟩
  | .mtc .. | .bcast .. | .rdclk .. | .rlxb .. | .rlx .. | .vcmpt .. => ⟨false, false, false, false⟩
  | .ld .. | .ldRing .. | .st .. | .stRing .. | .vld .. | .vldRing .. | .vst .. | .vstRing .. | .vlds .. | .vsts ..
  | .gath .. | .scat .. | .atom .. | .red .. | .redo .. | .mma .. | .mmaE .. | .mmaD .. | .mmas .. | .wld ..
  | .recva .. | .recvm .. => ⟨false, false, false, true⟩
  | i => match i.cls with
    | some .s | some .v => ⟨false, false, true, false⟩
    | _ => ⟨false, false, false, false⟩

/-- The vector accesses refuse 64-bit elements (R273). -/
def Fmt.vectorOk (f : Fmt) : Bool := f.bytes ≤ 4

/-- The formats in which atom, red and redo work under FE (R285). -/
def AtomOp.fmtOk (op : AtomOp) (f : Fmt) : Bool :=
  match op, f with
  | .fadd, .fp32 => true
  | .fadd, _ => false
  | _, .i32 | _, .w32 | _, .i64 | _, .w64 => true
  | _, _ => false

/-- The formats that vcvt reads and writes (R309). -/
def Fmt.vcvtOk (f : Fmt) : Bool := f != .dpw8 && f != .i64 && f != .w64

/-- The formats of vqnt's weights, vdqnt's results (R310, R311). -/
def Fmt.isFloat : Fmt → Bool
  | .fp32 | .bf16 | .e4m3 => true
  | _ => false

/-- The formats of a weight image (R321). -/
def Fmt.wldOk : Fmt → Bool
  | .fp32 | .bf16 | .e4m3 | .dpw8 | .i8 => true
  | _ => false

/-- Whether an instruction admits the format that a prefix with FE = 1 names (R215). -/
def Instr.feOk (i : Instr) (f : Fmt) : Bool :=
  match i with
  | .ld .. | .ldRing .. | .st .. | .stRing .. => true
  | .vld .. | .vldRing .. | .vst .. | .vstRing .. | .vlds .. | .vsts .. | .gath .. | .scat .. => f.vectorOk
  | .atom op .. => op.fmtOk f
  | .red op .. => op.fmtOk f
  | .redo op .. => op.fmtOk f
  | .vcvt .. => f.vcvtOk
  | .vqnt .. | .vdqnt .. => f.isFloat
  | .mma p .. => (Pair.ofFormats p.weights f).isSome
  | .mmas _ _ _ _ _ _ p mode .. => (Pair.ofFormats p.weights f).isSome && (mode == .plain || f == p.acts)
  | .mmaE p .. | .mmaD p .. => f == p.acts
  | .wld .. => f.wldOk
  | .recva .. | .recvm .. => f == .fp32 || f == .i32 || f == .w32
  | _ => false

/-- A prefix is admitted by its target (R212, R214, R215). -/
def Instr.prefixOk (i : Instr) (p : Prefix) : Bool :=
  let a := i.admits
  (p.rm.toNat ≤ 4) && (p.rm == 0 || a.rm) && (!p.sat || a.sat) && (!p.dup || a.dup) && (!p.fe || a.fe) &&
  (if p.fe then (match Fmt.ofCode p.fmt with | some f => i.feOk f | none => false) else p.fmt == 0)

/-- The formats and counts of a copy that decode refuses (R145, R222, R280). -/
def copyDecodeOk (b : SReg) (ssp dsp : Space) (kind : CopyKind) (sfmt dfmt : Fmt) (h : HReg) (re : Bool)
    (ns : BitVec 6) : Bool :=
  (re || (h == 0 && ns == 0)) && (!re || b == 0) &&
  (kind == .plain || (ssp == .pm && (re || dsp == .hall)) || (ssp == .hall && (re || dsp == .pm))) &&
  (kind != .conv || (sfmt != .dpw8 && dfmt != .dpw8)) && (kind != .dxp || dfmt != .dpw8)

/-- The checks on an instruction's own fields that fail decode with ILL (R219 check 4); an event is no instruction
word and is not well-formed. -/
def Instr.wf : Instr → Bool
  | .loop lv .. | .loopi lv .. | .lbrk lv | .lstr lv .. | .gate lv .. => lv.toNat ≤ 5
  | .bfx _ _ pos lm | .bfi _ _ pos lm => pos.toNat + lm.toNat ≤ 63
  | .fcmp cc .. => match cc with
    | .eq | .ne | .lt | .le | .un => true
    | _ => false
  | .fcvt _ _ src dst => src != .dpw8 && dst != .dpw8
  | .vld _ ty .. | .vst _ ty .. | .vlds _ ty .. | .vsts _ ty .. | .gath _ ty .. | .scat _ ty .. => ty.vectorOk
  | .vldRing ty .. | .vstRing ty .. => ty.vectorOk
  | .ldf sp .. | .ldfEmpty sp .. | .ste sp .. | .fetag sp .. | .fetagSet sp .. => sp != .glob
  | .copy _ _ b _ ssp dsp kind sfmt dfmt h re ns _ _ => copyDecodeOk b ssp dsp kind sfmt dfmt h re ns
  | .red op .. | .redo op .. => op != .exch && op != .cas
  | .pref hint .. => hint.toNat ≤ 1
  | .cond _ _ _ _ _ h re => re || h == 0
  | .vcvt _ _ dst _ => dst.vcvtOk
  | .rlxb vd .. => vd.toNat ≤ 30
  | .rlx vd vl _ _ ut ta _ => vd.toNat ≤ 29 && vl.toNat ≤ 30 && (ut || ta == 0)
  | .mma p _ v km eb => v.toNat + km.toNat ≤ 31 && (p.hasEb || eb == .reg 0)
  | .mmaE p _ v km => v.toNat + km.toNat ≤ 31 && (p == .bf16 || p == .f32)
  | .mmaD p _ v km => v.toNat + km.toNat ≤ 31 && v.toNat ≤ 30 && (p == .bf16 || p == .f32)
  | .mmas _ a _ c _ _ p mode _ rg h rn =>
    (p.hasEb || c == 0) && (mode == .plain || p == .bf16 || p == .f32) &&
    (if rg then a == .reg 0 && rn != 0 else h == 0 && rn == 0)
  | .wld _ ty _ => ty.wldOk
  | .adrn _ v nr => v.toNat + nr.toNat ≤ 31
  | .adrnC _ v nr => nr.toNat ≤ 1 && v.toNat + nr.toNat ≤ 31
  | i => i.cls.isSome

/-- A slot instruction is well-formed: its class fits its position, its fields and its prefix are admitted; li48 and
rlx head in SA and VA only, and a wide instruction stands at one of the positions of R209. -/
def SlotInstr.wf (x : SlotInstr) : Bool :=
  x.instr.cls == some (SlotClass.ofPos x.pos) && x.instr.wf && x.instr.prefixOk x.mods &&
  (!x.instr.isWide || (x.pos != 2 && x.pos != 5 && x.pos != 7)) && (x.pos != 0 || x.pfx == none)

end Sys2Proof
end

