-- ==== Sys2Proof/Decode.lean ====
section
/-!
DEFINITION. The decoder and the encoder of slot words and bundles (spec/08 R206 to R235). decode never fails to answer:
a word that is no instruction is refused by name (R221). The encoder writes the same tables the other way.
-/
namespace Sys2Proof

/-- Why a bundle is refused before any state is looked at (R219 checks 1, 3 and 4). -/
inductive Reject
  | wide | orph | bcst | ill
deriving DecidableEq, Repr

/-- SEL of a slot word (R207). -/
def selOf (w : Lane) : BitVec 2 := w.extractLsb' 30 2
/-- MAJ of a slot word (R207). -/
def majOf (w : Lane) : BitVec 6 := w.extractLsb' 24 6

/-! ## Codes of the fields -/

/-- The code of a space (R123). -/
def Space.code : Space → BitVec 2
  | .pm => 0 | .peer => 1 | .hall => 2 | .glob => 3
/-- The space of a code (R123). -/
def Space.ofCode (c : BitVec 2) : Space :=
  match c.toNat with
  | 0 => .pm | 1 => .peer | 2 => .hall | _ => .glob
/-- The code of an atomic operation (R230). -/
def AtomOp.code : AtomOp → BitVec 4
  | .add => 0 | .fadd => 1 | .min => 2 | .max => 3 | .minw => 4 | .maxw => 5 | .and => 6 | .or => 7 | .xor => 8
  | .exch => 9 | .cas => 10
/-- The atomic operation of a code (R230). -/
def AtomOp.ofCode (c : BitVec 4) : Option AtomOp :=
  match c.toNat with
  | 0 => some .add | 1 => some .fadd | 2 => some .min | 3 => some .max | 4 => some .minw | 5 => some .maxw
  | 6 => some .and | 7 => some .or | 8 => some .xor | 9 => some .exch | 10 => some .cas | _ => none
/-- The code of a copy kind (R280). -/
def CopyKind.code : CopyKind → BitVec 3
  | .plain => 0 | .conv => 1 | .encb => 2 | .dxp => 3 | .pack => 4 | .unpk => 5
/-- The copy kind of a code (R280). -/
def CopyKind.ofCode (c : BitVec 3) : Option CopyKind :=
  match c.toNat with
  | 0 => some .plain | 1 => some .conv | 2 => some .encb | 3 => some .dxp | 4 => some .pack | 5 => some .unpk | _ => none
/-- The code of a pair (R323). -/
def Pair.code : Pair → BitVec 3
  | .bf16 => 0 | .e4m3 => 1 | .dw8b => 2 | .dw8e => 3 | .f32 => 4 | .i8 => 5
/-- The pair of a code (R323). -/
def Pair.ofCode (c : BitVec 3) : Option Pair :=
  match c.toNat with
  | 0 => some .bf16 | 1 => some .e4m3 | 2 => some .dw8b | 3 => some .dw8e | 4 => some .f32 | 5 => some .i8 | _ => none
/-- The code of a mode of mmas (R328). -/
def MmasMode.code : MmasMode → BitVec 2
  | .plain => 0 | .enc => 1 | .abs => 2
/-- The mode of mmas of a code (R328). -/
def MmasMode.ofCode (c : BitVec 2) : Option MmasMode :=
  match c.toNat with
  | 0 => some .plain | 1 => some .enc | 2 => some .abs | _ => none
/-- The code of a function of vfn (R313). -/
def VFun.code : VFun → BitVec 5
  | .exp2 => 0 | .log2 => 1 | .rcp => 2 | .rsq => 3 | .tanh => 4 | .sigm => 5 | .gelu => 6 | .silu => 7
/-- The function of vfn of a code (R313). -/
def VFun.ofCode (c : BitVec 5) : Option VFun :=
  match c.toNat with
  | 0 => some .exp2 | 1 => some .log2 | 2 => some .rcp | 3 => some .rsq | 4 => some .tanh | 5 => some .sigm
  | 6 => some .gelu | 7 => some .silu | _ => none
/-- The code of a reduction (R312). -/
def RedOp.code : RedOp → BitVec 5
  | .sum => 0 | .max => 1 | .min => 2 | .sumabs => 3
/-- The reduction of a code (R312). -/
def RedOp.ofCode (c : BitVec 5) : Option RedOp :=
  match c.toNat with
  | 0 => some .sum | 1 => some .max | 2 => some .min | 3 => some .sumabs | _ => none
/-- The code of a comparison (R303; fcmp takes codes 0 to 4, R263). -/
def CmpOp.code : CmpOp → BitVec 5
  | .eq => 0 | .ne => 1 | .lt => 2 | .le => 3 | .un => 4 | .ieq => 8 | .ine => 9 | .ilt => 10 | .ile => 11
  | .ult => 12 | .ule => 13
/-- The comparison of a code (R303). -/
def CmpOp.ofCode (c : BitVec 5) : Option CmpOp :=
  match c.toNat with
  | 0 => some .eq | 1 => some .ne | 2 => some .lt | 3 => some .le | 4 => some .un | 8 => some .ieq | 9 => some .ine
  | 10 => some .ilt | 11 => some .ile | 12 => some .ult | 13 => some .ule | _ => none
/-- The code of a clock (R226). -/
def ClkSel.code : ClkSel → BitVec 2
  | .gcc => 0 | .ctm => 1 | .dtc => 2
/-- The clock of a code (R226, R268). -/
def ClkSel.ofCode (c : BitVec 2) : Option ClkSel :=
  match c.toNat with
  | 0 => some .gcc | 1 => some .ctm | 2 => some .dtc | _ => none
/-- The CRN of a control register (R235). -/
def CReg.code : CReg → BitVec 8
  | .pcx => 0x00 | .ctm => 0x01 | .gcc => 0x02 | .dtc => 0x03 | .dlw => 0x04 | .wst => 0x05 | .civ => 0x06
  | .wfl => 0x07 | .tcs => 0x08 | .tad => 0x09 | .sfm => 0x0A | .tvb => 0x0B | .fpc => 0x0C | .fps => 0x0D
  | .dcf => 0x0E | .dca => 0x0F | .capw => 0x10 | .capn => 0x11 | .tx => 0x12 | .ty => 0x13 | .tz => 0x14
  | .cpos => 0x15 | .csz => 0x16 | .vovf => 0x17 | .dga => 0x18
  | .lc l => 0x20 + BitVec.ofNat 8 l.val
/-- The control register of a CRN; every number not listed is unassigned (R235). -/
def CReg.ofCode (c : BitVec 8) : Option CReg :=
  match c.toNat with
  | 0x00 => some .pcx | 0x01 => some .ctm | 0x02 => some .gcc | 0x03 => some .dtc | 0x04 => some .dlw
  | 0x05 => some .wst | 0x06 => some .civ | 0x07 => some .wfl | 0x08 => some .tcs | 0x09 => some .tad
  | 0x0A => some .sfm | 0x0B => some .tvb | 0x0C => some .fpc | 0x0D => some .fps | 0x0E => some .dcf
  | 0x0F => some .dca | 0x10 => some .capw | 0x11 => some .capn | 0x12 => some .tx | 0x13 => some .ty
  | 0x14 => some .tz | 0x15 => some .cpos | 0x16 => some .csz | 0x17 => some .vovf | 0x18 => some .dga
  | 0x20 => some (.lc 0) | 0x21 => some (.lc 1) | 0x22 => some (.lc 2) | 0x23 => some (.lc 3)
  | 0x24 => some (.lc 4) | 0x25 => some (.lc 5) | _ => none

/-- A field that B may replace: with B = 1 the field must be zero (R222). -/
def sOpd (b : Bool) (r : SReg) : Option SOpd :=
  if b then (if r = 0 then some .port else none) else some (.reg r)
/-- The vector form of `sOpd` (R231). -/
def vOpd (b : Bool) (r : VReg) : Option VOpd :=
  if b then (if r = 0 then some .port else none) else some (.reg r)
/-- The B bit of an operand. -/
def SOpd.b : SOpd → BitVec 1
  | .reg _ => 0 | .port => 1
/-- The register field of an operand. -/
def SOpd.r : SOpd → SReg
  | .reg r => r | .port => 0
/-- The B bit of a vector operand. -/
def VOpd.b : VOpd → BitVec 1
  | .reg _ => 0 | .port => 1
/-- The register field of a vector operand. -/
def VOpd.r : VOpd → VReg
  | .reg r => r | .port => 0
/-- A bit of a word as a Bool. -/
def bitAt (w : Lane) (k : Nat) : Bool := w.getLsbD k
/-- A Bool as a one-bit field. -/
def bit1 (b : Bool) : BitVec 1 := BitVec.ofBool b

/-! ## Decoding complete words of one slot class -/

/-- A C word with SEL = 00 (R223, R225). -/
def decodeC (w : Lane) : Option Instr :=
  let a := w.extractLsb' 18 6
  let lv := w.extractLsb' 21 3
  let cz (i : Instr) : Option Instr := if w.extractLsb' 0 24 = 0 then some i else none
  match (majOf w).toNat with
  | 0x00 => cz .nop
  | 0x01 => some (.br a (bitAt w 17) (w.extractLsb' 8 9) (w.extractLsb' 0 8))
  | 0x02 => some (.jmp (w.extractLsb' 8 16) (w.extractLsb' 0 8))
  | 0x03 => if a = 0 ∧ w.extractLsb' 0 12 = 0 then some (.jmpr (w.extractLsb' 12 6)) else none
  | 0x04 => some (.call (w.extractLsb' 8 16) (w.extractLsb' 0 8))
  | 0x05 => cz .ret
  | 0x06 => if w.extractLsb' 12 3 = 0 then some (.loop lv (w.extractLsb' 15 6) (w.extractLsb' 0 12)) else none
  | 0x08 => if w.extractLsb' 0 21 = 0 then some (.lbrk lv) else none
  | 0x09 => if w.extractLsb' 0 9 = 0 then some (.lstr lv (w.extractLsb' 15 6) (w.extractLsb' 9 6)) else none
  | 0x0A => if w.extractLsb' 0 7 = 0 then some (.gate lv (w.extractLsb' 14 7) (w.extractLsb' 7 7)) else none
  | 0x0B => cz .halt
  | 0x0C => if w.extractLsb' 8 16 = 0 then some (.trap (w.extractLsb' 0 8)) else none
  | 0x0D => cz .tret
  | 0x0E => if w.extractLsb' 0 6 = 0 then some (.sleep a (w.extractLsb' 12 6) (w.extractLsb' 6 6)) else none
  | 0x0F => cz .yield
  | 0x10 => if w.extractLsb' 8 16 = 0 then some (.waitf (w.extractLsb' 0 8)) else none
  | 0x12 => cz .cregClose
  | 0x13 => if w.extractLsb' 0 12 = 0 then some (.chkerr a (w.extractLsb' 12 6)) else none
  | 0x14 => if a = 0 ∧ w.extractLsb' 0 6 = 0 then some (.cmpt (w.extractLsb' 12 6) (w.extractLsb' 6 6)) else none
  | 0x15 => if w.extractLsb' 0 12 = 0 then some (.capack a (w.extractLsb' 12 6)) else none
  | _ => none

/-- An SA or SB word with SEL = 00 (R226, R227). -/
def decodeS (w : Lane) : Option Instr :=
  let d := w.extractLsb' 18 6
  let a := w.extractLsb' 12 6
  let b := w.extractLsb' 6 6
  let lo : BitVec 6 := w.extractLsb' 0 6
  let s3 (k : Nat) (i : Instr) : Option Instr := if lo = BitVec.ofNat 6 (8 * k) then some i else none
  let un (k : Nat) (i : Instr) : Option Instr := if b = 0 then s3 k i else none
  match (majOf w).toNat with
  | 0x01 => match (w.extractLsb' 3 3).toNat with
    | 0 => s3 0 (.add d a b)
    | 1 => s3 1 (.sub d a b)
    | 2 => s3 2 (.and d a b)
    | 3 => s3 3 (.or d a b)
    | 4 => s3 4 (.xor d a b)
    | 5 => s3 5 (.andn d a b)
    | 6 => s3 6 (.orn d a b)
    | 7 => s3 7 (.xnor d a b)
    | _ => none
  | 0x02 => match (w.extractLsb' 3 3).toNat with
    | 0 => s3 0 (.shl d a b)
    | 1 => s3 1 (.shr d a b)
    | 2 => s3 2 (.sar d a b)
    | 3 => s3 3 (.rol d a b)
    | _ => none
  | 0x03 => match (w.extractLsb' 3 3).toNat with
    | 0 => s3 0 (.seq d a b)
    | 1 => s3 1 (.sne d a b)
    | 2 => s3 2 (.slt d a b)
    | 3 => s3 3 (.sle d a b)
    | 4 => s3 4 (.sltw d a b)
    | 5 => s3 5 (.slew d a b)
    | _ => none
  | 0x04 => match (w.extractLsb' 3 3).toNat with
    | 0 => s3 0 (.min d a b)
    | 1 => s3 1 (.max d a b)
    | 2 => s3 2 (.minw d a b)
    | 3 => s3 3 (.maxw d a b)
    | _ => none
  | 0x05 => match (w.extractLsb' 3 3).toNat with
    | 0 => s3 0 (.mul d a b)
    | 1 => s3 1 (.mulh d a b)
    | 2 => s3 2 (.mulhw d a b)
    | _ => none
  | 0x06 => match (w.extractLsb' 3 3).toNat with
    | 0 => s3 0 (.div d a b)
    | 1 => s3 1 (.divw d a b)
    | 2 => s3 2 (.rem d a b)
    | 3 => s3 3 (.remw d a b)
    | _ => none
  | 0x07 => match (w.extractLsb' 3 3).toNat with
    | 0 => un 0 (.popc d a)
    | 1 => un 1 (.clz d a)
    | 2 => un 2 (.ctz d a)
    | 3 => un 3 (.brev d a)
    | 4 => un 4 (.bswap d a)
    | _ => none
  | 0x20 => match (w.extractLsb' 3 3).toNat with
    | 0 => s3 0 (.fadd d a b)
    | _ => none
  | 0x21 => match (w.extractLsb' 3 3).toNat with
    | 0 => s3 0 (.fsub d a b)
    | _ => none
  | 0x22 => match (w.extractLsb' 3 3).toNat with
    | 0 => s3 0 (.fmul d a b)
    | _ => none
  | 0x24 => match (w.extractLsb' 3 3).toNat with
    | 0 => s3 0 (.fmin d a b)
    | 1 => s3 1 (.fmax d a b)
    | _ => none
  | 0x27 => match (w.extractLsb' 3 3).toNat with
    | 0 => s3 0 (.fdiv d a b)
    | 1 => un 1 (.fsqrt d a)
    | _ => none
  | 0x08 => some (.bfx d a b lo)
  | 0x09 => some (.bfi d a b lo)
  | 0x0A => some (.sel d a b lo)
  | 0x0B => if w.extractLsb' 3 3 = 0 then some (.lea d a b (w.extractLsb' 0 3)) else none
  | 0x10 => some (.addi d a (w.extractLsb' 0 12))
  | 0x11 => some (.andi d a (w.extractLsb' 0 12))
  | 0x12 => some (.ori d a (w.extractLsb' 0 12))
  | 0x13 => some (.xori d a (w.extractLsb' 0 12))
  | 0x14 => some (.slti d a (w.extractLsb' 0 12))
  | 0x15 =>
    if w.extractLsb' 6 4 = 0 then
      match (w.extractLsb' 10 2).toNat with
      | 0 => some (.shli d a lo)
      | 1 => some (.shri d a lo)
      | 2 => some (.sari d a lo)
      | _ => none
    else none
  | 0x16 => some (.movi d (w.extractLsb' 0 18))
  | 0x17 => some (.movhi d (w.extractLsb' 16 2) (w.extractLsb' 0 16))
  | 0x23 => some (.ffma d a b lo)
  | 0x25 =>
    if w.extractLsb' 0 3 = 0 then
      (CmpOp.ofCode ((w.extractLsb' 3 3).setWidth 5)).map (fun cc => .fcmp cc d a b)
    else none
  | 0x26 =>
    if w.extractLsb' 0 4 = 0 then
      match Fmt.ofCode (w.extractLsb' 8 4), Fmt.ofCode (w.extractLsb' 4 4) with
      | some f, some t => some (.fcvt d a f t)
      | _, _ => none
    else none
  | 0x30 =>
    if a = 0 ∧ w.extractLsb' 0 4 = 0 then (CReg.ofCode (w.extractLsb' 4 8)).map (fun c => .mfc d c) else none
  | 0x31 =>
    if d = 0 ∧ w.extractLsb' 0 4 = 0 then (CReg.ofCode (w.extractLsb' 4 8)).map (fun c => .mtc c a) else none
  | 0x32 => if d = 0 ∧ b = 0 ∧ lo = 0 then some (.bcast a) else none
  | 0x33 =>
    if w.extractLsb' 2 16 = 0 then (ClkSel.ofCode (w.extractLsb' 0 2)).map (fun c => .rdclk d c) else none
  | _ => none

/-- The MS words ld, st and pref share their fields (R228, R229). -/
def decodeMS (w : Lane) (mem : Space → Fmt → SReg → SOpd → BitVec 4 → Instr)
    (ring : Fmt → SReg → RingOpd → Instr) : Option Instr :=
  match Fmt.ofCode (w.extractLsb' 18 4) with
  | none => none
  | some ty =>
    let d := w.extractLsb' 12 6
    if bitAt w 11 then
      if w.extractLsb' 22 2 = 0 then some (ring ty d ⟨w.extractLsb' 7 4, bitAt w 6, w.extractLsb' 0 6⟩) else none
    else
      (sOpd (bitAt w 4) (w.extractLsb' 5 6)).map
        (fun ba => mem (Space.ofCode (w.extractLsb' 22 2)) ty d ba (w.extractLsb' 0 4))

/-- The MV words vld and vst share their fields (R228, R229). -/
def decodeMV (w : Lane) (mem : Space → Fmt → VReg → SOpd → BitVec 5 → Instr)
    (ring : Fmt → VReg → RingOpd → Instr) : Option Instr :=
  match Fmt.ofCode (w.extractLsb' 18 4) with
  | none => none
  | some ty =>
    let v := w.extractLsb' 13 5
    if bitAt w 12 then
      if w.extractLsb' 22 2 = 0 ∧ w.extractLsb' 0 1 = 0 then
        some (ring ty v ⟨w.extractLsb' 8 4, bitAt w 7, w.extractLsb' 1 6⟩)
      else none
    else
      (sOpd (bitAt w 5) (w.extractLsb' 6 6)).map
        (fun ba => mem (Space.ofCode (w.extractLsb' 22 2)) ty v ba (w.extractLsb' 0 5))

/-- An M word with SEL = 00 (R228, R230). -/
def decodeM (w : Lane) : Option Instr :=
  let sp := Space.ofCode (w.extractLsb' 22 2)
  let v := w.extractLsb' 13 5
  let mt (k : Space → Fmt → VReg → SOpd → SReg → Instr) : Option Instr :=
    match Fmt.ofCode (w.extractLsb' 18 4), sOpd (bitAt w 0) (w.extractLsb' 7 6) with
    | some ty, some ba => some (k sp ty v ba (w.extractLsb' 1 6))
    | _, _ => none
  let mg (k : Space → Fmt → VReg → VReg → SOpd → Instr) : Option Instr :=
    if w.extractLsb' 0 1 = 0 then
      match Fmt.ofCode (w.extractLsb' 18 4), sOpd (bitAt w 1) (w.extractLsb' 2 6) with
      | some ty, some ba => some (k sp ty v (w.extractLsb' 8 5) ba)
      | _, _ => none
    else none
  let mf (k : Bool → SReg → SOpd → SReg → Option Instr) : Option Instr :=
    if w.extractLsb' 0 2 = 0 then
      match sOpd (bitAt w 2) (w.extractLsb' 9 6) with
      | some ba => k (bitAt w 21) (w.extractLsb' 15 6) ba (w.extractLsb' 3 6)
      | none => none
    else none
  let ma (k : AtomOp → SReg → SReg → SReg → Option Instr) : Option Instr :=
    match AtomOp.ofCode (w.extractLsb' 18 4) with
    | some op => k op (w.extractLsb' 12 6) (w.extractLsb' 6 6) (w.extractLsb' 0 6)
    | none => none
  let mb (k : SReg → SOpd → SReg → Option Instr) : Option Instr :=
    if w.extractLsb' 0 3 = 0 then
      match sOpd (bitAt w 3) (w.extractLsb' 10 6) with
      | some ba => k (w.extractLsb' 16 6) ba (w.extractLsb' 4 6)
      | none => none
    else none
  let q1 : SReg := w.extractLsb' 18 6
  let q2 : SReg := w.extractLsb' 12 6
  let q3 : SReg := w.extractLsb' 6 6
  let q4 : SReg := w.extractLsb' 0 6
  match (majOf w).toNat with
  | 0x01 => decodeMS w .ld .ldRing
  | 0x02 => decodeMS w .st .stRing
  | 0x03 => decodeMV w .vld .vldRing
  | 0x04 => decodeMV w .vst .vstRing
  | 0x05 => mt .vlds
  | 0x06 => mt .vsts
  | 0x07 => mg .gath
  | 0x08 => mg .scat
  | 0x09 => mf (fun op d ba l => some (if op then .ldfEmpty sp d ba l else .ldf sp d ba l))
  | 0x0A => mf (fun op d ba l => if op then none else some (.ste sp d ba l))
  | 0x0B => mf (fun op d ba l =>
      if l = 0 then some (if op then .fetagSet sp d ba else .fetag sp d ba) else none)
  | 0x0C => if w.extractLsb' 0 14 = 0 then some (.rdef (w.extractLsb' 20 4) (w.extractLsb' 14 6)) else none
  | 0x0D => if w.extractLsb' 0 7 = 0 then some (.advp (w.extractLsb' 20 4) (w.extractLsb' 7 13)) else none
  | 0x0E => if w.extractLsb' 0 7 = 0 then some (.advc (w.extractLsb' 20 4) (w.extractLsb' 7 13)) else none
  | 0x0F =>
    if w.extractLsb' 0 13 = 0 then some (.rqry (w.extractLsb' 14 6) (w.extractLsb' 20 4) (bitAt w 13)) else none
  | 0x11 => if q3 = 0 ∧ q4 = 0 then some (.cpqry q1 q2) else none
  | 0x12 => ma (fun op d ba a => some (.atom op sp d ba a))
  | 0x13 => ma (fun op d ba a => if d = 0 then some (.redo op sp ba a) else none)
  | 0x14 => ma (fun op d ba a => if d = 0 then some (.red op sp ba a) else none)
  | 0x15 => mb (fun d ba a => if a = 0 then some (.bararr sp d ba) else none)
  | 0x16 => mb (fun d ba a => some (.barwait sp d ba a))
  | 0x17 => mb (fun d ba a => some (.baraw sp d ba a))
  | 0x18 => mb (fun d ba a => some (.barinit sp d ba a))
  | 0x19 => mb (fun d ba a => if d = 0 then some (.evsig sp ba a) else none)
  | 0x1A => mb (fun d ba a => some (.evwait sp d ba a))
  | 0x1B =>
    if w.extractLsb' 22 2 = 0 ∧ w.extractLsb' 0 2 = 0 then
      some (.fence (w.extractLsb' 16 6) (w.extractLsb' 10 6) (w.extractLsb' 2 8))
    else none
  | 0x1C => mb (fun d ba a => if d = 0 ∧ a = 0 then some (.phase sp ba) else none)
  | 0x1D => if w.extractLsb' 0 24 = 0 then some .phend else none
  | 0x1E => mb (fun d ba a => if d = 0 then some (.dgst sp ba a) else none)
  | 0x1F =>
    if w.extractLsb' 22 2 = 3 ∧ w.extractLsb' 18 4 = 0 ∧ bitAt w 11 = false then
      (sOpd (bitAt w 4) (w.extractLsb' 5 6)).map (fun ba => .pref q2 ba (w.extractLsb' 0 4))
    else none
  | 0x20 => if q4 = 0 then some (.symNew q1 q2 q3) else none
  | 0x21 => if q1 = 0 then some (.symSig q2 q3 q4) else none
  | 0x22 => if q4 = 0 then some (.symQry q1 q2 q3) else none
  | 0x23 => if q1 = 0 then some (.symRel q2 q3 q4) else none
  | 0x25 => if q3 = 0 ∧ q4 = 0 then some (.condQry q1 q2) else none
  | _ => none

/-- A VA or VB word with SEL = 00 (R231, R232). -/
def decodeV (w : Lane) : Option Instr :=
  let vd := w.extractLsb' 19 5
  let va := w.extractLsb' 14 5
  let p := w.extractLsb' 6 3
  let vr (k : VOpd → Option Instr) : Option Instr := (vOpd (bitAt w 5) (w.extractLsb' 9 5)).bind k
  let un (i : Option Instr) : Option Instr := if w.extractLsb' 9 5 = 0 ∧ bitAt w 5 = false then i else none
  match (majOf w).toNat with
  | 0x01 => if w.extractLsb' 0 5 = 0 then vr (fun vb => some (.vadd vd va vb p)) else none
  | 0x02 => if w.extractLsb' 0 5 = 0 then vr (fun vb => some (.vsub vd va vb p)) else none
  | 0x03 => if w.extractLsb' 0 5 = 0 then vr (fun vb => some (.vmul vd va vb p)) else none
  | 0x04 => if w.extractLsb' 0 5 = 0 then vr (fun vb => some (.vfma vd va vb p)) else none
  | 0x05 => if w.extractLsb' 0 5 = 0 then vr (fun vb => some (.vfms vd va vb p)) else none
  | 0x06 => if w.extractLsb' 0 5 = 0 then vr (fun vb => some (.vmin vd va vb p)) else none
  | 0x07 => if w.extractLsb' 0 5 = 0 then vr (fun vb => some (.vmax vd va vb p)) else none
  | 0x0A => if w.extractLsb' 0 5 = 0 then vr (fun vb => some (.vsel vd va vb p)) else none
  | 0x0B => match (w.extractLsb' 0 5).toNat with
    | 0 => vr (fun vb => some (.vand vd va vb p))
    | 1 => vr (fun vb => some (.vor vd va vb p))
    | 2 => vr (fun vb => some (.vxor vd va vb p))
    | 3 => vr (fun vb => some (.vandn vd va vb p))
    | _ => none
  | 0x0C => match (w.extractLsb' 0 5).toNat with
    | 0 => vr (fun vb => some (.vshl vd va vb p))
    | 1 => vr (fun vb => some (.vshr vd va vb p))
    | 2 => vr (fun vb => some (.vsar vd va vb p))
    | _ => none
  | 0x0D => match (w.extractLsb' 0 5).toNat with
    | 0 => vr (fun vb => some (.viadd vd va vb p))
    | 1 => vr (fun vb => some (.visub vd va vb p))
    | 2 => vr (fun vb => some (.vimul vd va vb p))
    | _ => none
  | 0x0F => if w.extractLsb' 0 5 = 0 then vr (fun vb => some (.vqnt vd va vb p)) else none
  | 0x10 => if w.extractLsb' 0 5 = 0 then vr (fun vb => some (.vdqnt vd va vb p)) else none
  | 0x13 => if w.extractLsb' 0 5 = 0 then vr (fun vb => some (.vperm vd va vb p)) else none
  | 0x18 => if w.extractLsb' 0 5 = 0 then vr (fun vb => some (.rlxb vd va vb p)) else none
  | 0x1A => if w.extractLsb' 0 5 = 0 then vr (fun vb => some (.vabsacc vd va vb p)) else none
  | 0x08 => match (w.extractLsb' 0 5).toNat with
    | 0 => un (some (.vabs vd va p))
    | 1 => un (some (.vneg vd va p))
    | _ => none
  | 0x09 =>
    if w.extractLsb' 6 2 = 0 then
      match CmpOp.ofCode (w.extractLsb' 0 5), vOpd (bitAt w 5) (w.extractLsb' 11 5) with
      | some cc, some vb => some (.vcmp cc (w.extractLsb' 21 3) (w.extractLsb' 16 5) vb (w.extractLsb' 8 3))
      | _, _ => none
    else none
  | 0x0E =>
    if w.extractLsb' 0 6 = 0 ∧ bitAt w 9 = false then
      (Fmt.ofCode (w.extractLsb' 10 4)).map (fun t => .vcvt vd va t p)
    else none
  | 0x11 => un ((RedOp.ofCode (w.extractLsb' 0 5)).map (fun op => .vred op vd va p))
  | 0x12 => if va = 0 ∧ w.extractLsb' 0 5 = 0 then un (some (.vpart vd p)) else none
  | 0x14 => if va = 0 ∧ w.extractLsb' 0 5 = 0 then vr (fun vb => some (.vmov vd vb p)) else none
  | 0x15 => un ((VFun.ofCode (w.extractLsb' 0 5)).map (fun f => .vfn f vd va p))
  | 0x16 => if va = 0 ∧ w.extractLsb' 0 5 = 0 then vr (fun vb => some (.vidx vd vb p)) else none
  | 0x17 => if va = 0 ∧ w.extractLsb' 0 5 = 0 then un (some (.vcnt vd p)) else none
  | 0x1B => if vd = 0 ∧ p = 0 ∧ w.extractLsb' 0 5 = 0 then vr (fun vb => some (.vcmpt va vb)) else none
  | 0x1C =>
    if w.extractLsb' 0 12 = 0 then
      let pd := w.extractLsb' 21 3
      let pa := w.extractLsb' 18 3
      let pb := w.extractLsb' 15 3
      match (w.extractLsb' 12 3).toNat with
      | 0 => some (.pand pd pa pb)
      | 1 => some (.por pd pa pb)
      | 2 => some (.pxor pd pa pb)
      | 3 => if pb = 0 then some (.pnot pd pa) else none
      | _ => none
    else none
  | _ => none

/-- A T word with SEL = 00 (R233). -/
def decodeT (w : Lane) : Option Instr :=
  let ac := w.extractLsb' 22 2
  let a := w.extractLsb' 16 6
  let v := w.extractLsb' 11 5
  let nr := w.extractLsb' 6 5
  let vm := w.extractLsb' 17 5
  let km := w.extractLsb' 13 4
  let tm (k : Pair → SOpd → Option Instr) : Option Instr :=
    if w.extractLsb' 3 3 = 0 then
      match Pair.ofCode (w.extractLsb' 0 3), sOpd (bitAt w 6) (w.extractLsb' 7 6) with
      | some p, some eb => k p eb
      | _, _ => none
    else none
  match (majOf w).toNat with
  | 0x01 => tm (fun p eb => some (.mma p ac vm km eb))
  | 0x02 => tm (fun p eb => if eb = .reg 0 then some (.mmaE p ac vm km) else none)
  | 0x04 =>
    if ac = 0 ∧ v = 0 ∧ nr = 0 then
      match Fmt.ofCode (w.extractLsb' 0 4), sOpd (bitAt w 5) a with
      | some ty, some o => some (.wld (bitAt w 4) ty o)
      | _, _ => none
    else none
  | 0x05 => if w.extractLsb' 0 24 = 0 then some .wswap else none
  | 0x06 => if w.extractLsb' 0 22 = 0 then some (.aclr ac) else none
  | 0x07 => if a = 0 ∧ w.extractLsb' 0 6 = 0 then some (.adrn ac v nr) else none
  | 0x08 => if a = 0 ∧ w.extractLsb' 0 6 = 0 then some (.adrnC ac v nr) else none
  | 0x09 =>
    if w.extractLsb' 6 10 = 0 ∧ w.extractLsb' 0 5 = 0 then (sOpd (bitAt w 5) a).map (fun o => .ast ac o) else none
  | 0x0A => tm (fun p eb => if eb = .reg 0 then some (.mmaD p ac vm km) else none)
  | 0x0B => if w.extractLsb' 0 16 = 0 then some (.aqry a ac) else none
  | _ => none

/-- An X word with SEL = 00 (R234, R353). -/
def decodeX (w : Lane) : Option Instr :=
  let v := w.extractLsb' 19 5
  let pop (k : BitVec 3 → Instr) : Option Instr :=
    if w.extractLsb' 16 3 = 0 ∧ w.extractLsb' 0 13 = 0 then some (k (w.extractLsb' 13 3)) else none
  let d : SReg := w.extractLsb' 18 6
  let a : SReg := w.extractLsb' 12 6
  let xs (i : Instr) : Option Instr := if w.extractLsb' 0 12 = 0 then some i else none
  match (majOf w).toNat with
  | 0x01 => if w.extractLsb' 0 12 = 0 then (sOpd (bitAt w 12) (w.extractLsb' 13 6)).map (fun o => .send v o) else none
  | 0x02 => pop (fun q => .recv v q)
  | 0x03 => pop (fun q => .recva v q)
  | 0x04 => pop (fun q => .recvm v q)
  | 0x05 => if d = 0 ∧ w.extractLsb' 0 6 = 0 then some (.sends a (w.extractLsb' 6 6)) else none
  | 0x06 => if a = 0 ∧ w.extractLsb' 9 3 = 0 ∧ w.extractLsb' 0 6 = 0 then some (.recvs d (w.extractLsb' 6 3)) else none
  | 0x07 => xs (.xqry d a)
  | 0x08 => xs (.xpost d a)
  | 0x09 => xs (.xcanc d a)
  | _ => none

/-- A complete word of a slot class (R207); the all-zero word is the NOP of its slot, an instruction in C only. -/
def decodeWord (k : SlotClass) (w : Lane) : Option Instr :=
  match k with
  | .c => decodeC w
  | .s => decodeS w
  | .m => decodeM w
  | .v => decodeV w
  | .t => decodeT w
  | .x => decodeX w

/-- A head and its continuation (R209, R210). -/
def decodeWide (k : SlotClass) (h t : Lane) : Option Instr :=
  match k, (majOf h).toNat with
  | .c, 0x07 =>
    if h.extractLsb' 12 9 = 0 ∧ t.extractLsb' 16 14 = 0 then
      some (.loopi (h.extractLsb' 21 3) (h.extractLsb' 0 12) (t.extractLsb' 0 16))
    else none
  | .c, 0x11 =>
    if t.extractLsb' 24 6 = 0 then some (.cregOpen (t.extractLsb' 0 24 ++ h.extractLsb' 0 24)) else none
  | .c, 0x16 =>
    if t.extractLsb' 24 6 = 0 then some (.jmpl (t.extractLsb' 0 24 ++ h.extractLsb' 0 24)) else none
  | .s, 0x18 => some (.li48 (h.extractLsb' 18 6) (t.extractLsb' 0 30 ++ h.extractLsb' 0 18))
  | .m, 0x10 =>
    if t.extractLsb' 2 1 = 0 then
      match CopyKind.ofCode (t.extractLsb' 23 3), Fmt.ofCode (t.extractLsb' 19 4), Fmt.ofCode (t.extractLsb' 15 4) with
      | some kd, some sf, some df =>
        some (.copy (h.extractLsb' 18 6) (h.extractLsb' 12 6) (h.extractLsb' 6 6) (h.extractLsb' 0 6)
          (Space.ofCode (t.extractLsb' 28 2)) (Space.ofCode (t.extractLsb' 26 2)) kd sf df (t.extractLsb' 11 4)
          (bitAt t 10) (t.extractLsb' 4 6) (bitAt t 3) (t.extractLsb' 0 2))
      | _, _, _ => none
    else none
  | .m, 0x24 =>
    if t.extractLsb' 0 19 = 0 then
      some (.cond (h.extractLsb' 18 6) (h.extractLsb' 12 6) (h.extractLsb' 6 6) (h.extractLsb' 0 6)
        (t.extractLsb' 24 6) (t.extractLsb' 20 4) (bitAt t 19))
    else none
  | .v, 0x19 =>
    if h.extractLsb' 0 1 = 0 ∧ t.extractLsb' 0 24 = 0 then
      some (.rlx (h.extractLsb' 19 5) (h.extractLsb' 14 5) (h.extractLsb' 11 3) (h.extractLsb' 8 3) (bitAt h 7)
        (h.extractLsb' 1 6) (t.extractLsb' 24 6))
    else none
  | .t, 0x03 =>
    if h.extractLsb' 0 2 = 0 ∧ t.extractLsb' 0 7 = 0 then
      match sOpd (bitAt h 3) (h.extractLsb' 16 6), Pair.ofCode (t.extractLsb' 21 3), MmasMode.ofCode (t.extractLsb' 19 2) with
      | some a, some p, some md =>
        some (.mmas (h.extractLsb' 22 2) a (h.extractLsb' 10 6) (h.extractLsb' 4 6) (bitAt h 2) (t.extractLsb' 24 6) p md
          (bitAt t 18) (bitAt t 17) (t.extractLsb' 13 4) (t.extractLsb' 7 6))
      | _, _, _ => none
    else none
  | _, _ => none

/-! ## The encoder -/

/-- A complete word: SEL 00, MAJ, 24 operand bits (R207). -/
def word (maj : BitVec 6) (ops : BitVec 24) : Lane := (0#2 ++ maj ++ ops : BitVec 32)
/-- A head word (R208). -/
def headWord (maj : BitVec 6) (ops : BitVec 24) : Lane := (1#2 ++ maj ++ ops : BitVec 32)
/-- A continuation word (R208). -/
def contWord (payload : BitVec 30) : Lane := (3#2 ++ payload : BitVec 32)
/-- An S3 word (R226). -/
def s3Word (maj : BitVec 6) (min : BitVec 3) (d a b : SReg) (x : BitVec 3) : Lane :=
  word maj (d ++ a ++ b ++ min ++ x : BitVec 24)
/-- A VR word (R231). -/
def vrWord (maj : BitVec 6) (min : BitVec 5) (vd va : VReg) (vb : VOpd) (p : PReg) : Lane :=
  word maj (vd ++ va ++ vb.r ++ p ++ vb.b ++ min : BitVec 24)
/-- An MS word with a base (R228). -/
def msWord (maj : BitVec 6) (sp : BitVec 2) (ty : BitVec 4) (d : SReg) (ba : SOpd) (off : BitVec 4) : Lane :=
  word maj (sp ++ ty ++ d ++ 0#1 ++ ba.r ++ ba.b ++ off : BitVec 24)
/-- An MS word with a ring operand (R229). -/
def msRing (maj : BitVec 6) (ty : Fmt) (d : SReg) (r : RingOpd) : Lane :=
  word maj (0#2 ++ ty.code ++ d ++ 1#1 ++ r.h ++ bit1 r.producer ++ r.n : BitVec 24)
/-- An MV word with a base (R228). -/
def mvWord (maj : BitVec 6) (sp : Space) (ty : Fmt) (v : VReg) (ba : SOpd) (off : BitVec 5) : Lane :=
  word maj (sp.code ++ ty.code ++ v ++ 0#1 ++ ba.r ++ ba.b ++ off : BitVec 24)
/-- An MV word with a ring operand (R229). -/
def mvRing (maj : BitVec 6) (ty : Fmt) (v : VReg) (r : RingOpd) : Lane :=
  word maj (0#2 ++ ty.code ++ v ++ 1#1 ++ r.h ++ bit1 r.producer ++ r.n ++ 0#1 : BitVec 24)
/-- An MF word (R228). -/
def mfWord (maj : BitVec 6) (sp : Space) (op : BitVec 1) (d : SReg) (ba : SOpd) (l : SReg) : Lane :=
  word maj (sp.code ++ op ++ d ++ ba.r ++ l ++ ba.b ++ 0#2 : BitVec 24)
/-- An MA word (R228). -/
def maWord (maj : BitVec 6) (op : AtomOp) (sp : Space) (d ba a : SReg) : Lane :=
  word maj (sp.code ++ op.code ++ d ++ ba ++ a : BitVec 24)
/-- An MB word (R228). -/
def mbWord (maj : BitVec 6) (sp : Space) (d : SReg) (ba : SOpd) (a : SReg) : Lane :=
  word maj (sp.code ++ d ++ ba.r ++ a ++ ba.b ++ 0#3 : BitVec 24)
/-- A TM word (R233). -/
def tmWord (maj : BitVec 6) (p : Pair) (ac : AReg) (v : VReg) (km : BitVec 4) (eb : SOpd) : Lane :=
  word maj (ac ++ v ++ km ++ eb.r ++ eb.b ++ 0#3 ++ p.code : BitVec 24)

/-- The words of an instruction, one or two (R209); an event of another agent has none. -/
def encode : Instr → List Lane
  | .nop => [0]
  | .br a z sd ix => [word 0x01 (a ++ bit1 z ++ sd ++ ix : BitVec 24)]
  | .jmp sd ix => [word 0x02 (sd ++ ix : BitVec 24)]
  | .jmpr a => [word 0x03 (0#6 ++ a ++ 0#12 : BitVec 24)]
  | .call sd ix => [word 0x04 (sd ++ ix : BitVec 24)]
  | .ret => [word 0x05 0]
  | .loop lv a nm => [word 0x06 (lv ++ a ++ 0#3 ++ nm : BitVec 24)]
  | .loopi lv nm cnt => [headWord 0x07 (lv ++ 0#9 ++ nm : BitVec 24), contWord (0#14 ++ cnt : BitVec 30)]
  | .lbrk lv => [word 0x08 (lv ++ 0#21 : BitVec 24)]
  | .lstr lv t s => [word 0x09 (lv ++ t ++ s ++ 0#9 : BitVec 24)]
  | .gate lv fm lm => [word 0x0A (lv ++ fm ++ lm ++ 0#7 : BitVec 24)]
  | .halt => [word 0x0B 0]
  | .trap m => [word 0x0C (0#16 ++ m : BitVec 24)]
  | .tret => [word 0x0D 0]
  | .sleep d a b => [word 0x0E (d ++ a ++ b ++ 0#6 : BitVec 24)]
  | .yield => [word 0x0F 0]
  | .waitf m => [word 0x10 (0#16 ++ m : BitVec 24)]
  | .cregOpen ad => [headWord 0x11 (ad.extractLsb' 0 24), contWord (0#6 ++ ad.extractLsb' 24 24 : BitVec 30)]
  | .cregClose => [word 0x12 0]
  | .chkerr d a => [word 0x13 (d ++ a ++ 0#12 : BitVec 24)]
  | .cmpt a b => [word 0x14 (0#6 ++ a ++ b ++ 0#6 : BitVec 24)]
  | .capack d a => [word 0x15 (d ++ a ++ 0#12 : BitVec 24)]
  | .jmpl ad => [headWord 0x16 (ad.extractLsb' 0 24), contWord (0#6 ++ ad.extractLsb' 24 24 : BitVec 30)]
  | .add d a b => [s3Word 0x01 0 d a b 0]
  | .sub d a b => [s3Word 0x01 1 d a b 0]
  | .and d a b => [s3Word 0x01 2 d a b 0]
  | .or d a b => [s3Word 0x01 3 d a b 0]
  | .xor d a b => [s3Word 0x01 4 d a b 0]
  | .andn d a b => [s3Word 0x01 5 d a b 0]
  | .orn d a b => [s3Word 0x01 6 d a b 0]
  | .xnor d a b => [s3Word 0x01 7 d a b 0]
  | .shl d a b => [s3Word 0x02 0 d a b 0]
  | .shr d a b => [s3Word 0x02 1 d a b 0]
  | .sar d a b => [s3Word 0x02 2 d a b 0]
  | .rol d a b => [s3Word 0x02 3 d a b 0]
  | .seq d a b => [s3Word 0x03 0 d a b 0]
  | .sne d a b => [s3Word 0x03 1 d a b 0]
  | .slt d a b => [s3Word 0x03 2 d a b 0]
  | .sle d a b => [s3Word 0x03 3 d a b 0]
  | .sltw d a b => [s3Word 0x03 4 d a b 0]
  | .slew d a b => [s3Word 0x03 5 d a b 0]
  | .min d a b => [s3Word 0x04 0 d a b 0]
  | .max d a b => [s3Word 0x04 1 d a b 0]
  | .minw d a b => [s3Word 0x04 2 d a b 0]
  | .maxw d a b => [s3Word 0x04 3 d a b 0]
  | .mul d a b => [s3Word 0x05 0 d a b 0]
  | .mulh d a b => [s3Word 0x05 1 d a b 0]
  | .mulhw d a b => [s3Word 0x05 2 d a b 0]
  | .div d a b => [s3Word 0x06 0 d a b 0]
  | .divw d a b => [s3Word 0x06 1 d a b 0]
  | .rem d a b => [s3Word 0x06 2 d a b 0]
  | .remw d a b => [s3Word 0x06 3 d a b 0]
  | .fadd d a b => [s3Word 0x20 0 d a b 0]
  | .fsub d a b => [s3Word 0x21 0 d a b 0]
  | .fmul d a b => [s3Word 0x22 0 d a b 0]
  | .fmin d a b => [s3Word 0x24 0 d a b 0]
  | .fmax d a b => [s3Word 0x24 1 d a b 0]
  | .fdiv d a b => [s3Word 0x27 0 d a b 0]
  | .popc d a => [s3Word 0x07 0 d a 0 0]
  | .clz d a => [s3Word 0x07 1 d a 0 0]
  | .ctz d a => [s3Word 0x07 2 d a 0 0]
  | .brev d a => [s3Word 0x07 3 d a 0 0]
  | .bswap d a => [s3Word 0x07 4 d a 0 0]
  | .fsqrt d a => [s3Word 0x27 1 d a 0 0]
  | .bfx d a p l => [word 0x08 (d ++ a ++ p ++ l : BitVec 24)]
  | .bfi d a p l => [word 0x09 (d ++ a ++ p ++ l : BitVec 24)]
  | .sel d a b c => [word 0x0A (d ++ a ++ b ++ c : BitVec 24)]
  | .lea d a b x => [s3Word 0x0B 0 d a b x]
  | .addi d a i => [word 0x10 (d ++ a ++ i : BitVec 24)]
  | .andi d a i => [word 0x11 (d ++ a ++ i : BitVec 24)]
  | .ori d a i => [word 0x12 (d ++ a ++ i : BitVec 24)]
  | .xori d a i => [word 0x13 (d ++ a ++ i : BitVec 24)]
  | .slti d a i => [word 0x14 (d ++ a ++ i : BitVec 24)]
  | .shli d a sh => [word 0x15 (d ++ a ++ 0#2 ++ 0#4 ++ sh : BitVec 24)]
  | .shri d a sh => [word 0x15 (d ++ a ++ 1#2 ++ 0#4 ++ sh : BitVec 24)]
  | .sari d a sh => [word 0x15 (d ++ a ++ 2#2 ++ 0#4 ++ sh : BitVec 24)]
  | .movi d i => [word 0x16 (d ++ i : BitVec 24)]
  | .movhi d q i => [word 0x17 (d ++ q ++ i : BitVec 24)]
  | .li48 d i => [headWord 0x18 (d ++ i.extractLsb' 0 18 : BitVec 24), contWord (i.extractLsb' 18 30)]
  | .ffma d a b c => [word 0x23 (d ++ a ++ b ++ c : BitVec 24)]
  | .fcmp cc d a b => [s3Word 0x25 (cc.code.extractLsb' 0 3) d a b 0]
  | .fcvt d a f t => [word 0x26 (d ++ a ++ f.code ++ t.code ++ 0#4 : BitVec 24)]
  | .mfc d c => [word 0x30 (d ++ 0#6 ++ c.code ++ 0#4 : BitVec 24)]
  | .mtc c a => [word 0x31 (0#6 ++ a ++ c.code ++ 0#4 : BitVec 24)]
  | .bcast a => [s3Word 0x32 0 0 a 0 0]
  | .rdclk d c => [word 0x33 (d ++ 0#16 ++ c.code : BitVec 24)]
  | .ld sp ty d ba o => [msWord 0x01 sp.code ty.code d ba o]
  | .ldRing ty d r => [msRing 0x01 ty d r]
  | .st sp ty d ba o => [msWord 0x02 sp.code ty.code d ba o]
  | .stRing ty d r => [msRing 0x02 ty d r]
  | .vld sp ty v ba o => [mvWord 0x03 sp ty v ba o]
  | .vldRing ty v r => [mvRing 0x03 ty v r]
  | .vst sp ty v ba o => [mvWord 0x04 sp ty v ba o]
  | .vstRing ty v r => [mvRing 0x04 ty v r]
  | .vlds sp ty v ba s => [word 0x05 (sp.code ++ ty.code ++ v ++ ba.r ++ s ++ ba.b : BitVec 24)]
  | .vsts sp ty v ba s => [word 0x06 (sp.code ++ ty.code ++ v ++ ba.r ++ s ++ ba.b : BitVec 24)]
  | .gath sp ty v vi ba => [word 0x07 (sp.code ++ ty.code ++ v ++ vi ++ ba.r ++ ba.b ++ 0#1 : BitVec 24)]
  | .scat sp ty v vi ba => [word 0x08 (sp.code ++ ty.code ++ v ++ vi ++ ba.r ++ ba.b ++ 0#1 : BitVec 24)]
  | .ldf sp d ba l => [mfWord 0x09 sp 0 d ba l]
  | .ldfEmpty sp d ba l => [mfWord 0x09 sp 1 d ba l]
  | .ste sp a ba l => [mfWord 0x0A sp 0 a ba l]
  | .fetag sp d ba => [mfWord 0x0B sp 0 d ba 0]
  | .fetagSet sp a ba => [mfWord 0x0B sp 1 a ba 0]
  | .rdef h a => [word 0x0C (h ++ a ++ 0#14 : BitVec 24)]
  | .advp h n => [word 0x0D (h ++ n ++ 0#7 : BitVec 24)]
  | .advc h n => [word 0x0E (h ++ n ++ 0#7 : BitVec 24)]
  | .rqry d h wd => [word 0x0F (h ++ d ++ bit1 wd ++ 0#13 : BitVec 24)]
  | .copy d a b c ssp dsp k sf df h re ns tag zc =>
    [headWord 0x10 (d ++ a ++ b ++ c : BitVec 24),
     contWord (ssp.code ++ dsp.code ++ k.code ++ sf.code ++ df.code ++ h ++ bit1 re ++ ns ++ bit1 tag ++ 0#1 ++ zc
       : BitVec 30)]
  | .cpqry d a => [word 0x11 (d ++ a ++ 0#12 : BitVec 24)]
  | .atom op sp d ba a => [maWord 0x12 op sp d ba a]
  | .redo op sp ba a => [maWord 0x13 op sp 0 ba a]
  | .red op sp ba a => [maWord 0x14 op sp 0 ba a]
  | .bararr sp d ba => [mbWord 0x15 sp d ba 0]
  | .barwait sp d ba l => [mbWord 0x16 sp d ba l]
  | .baraw sp d ba l => [mbWord 0x17 sp d ba l]
  | .barinit sp d ba a => [mbWord 0x18 sp d ba a]
  | .evsig sp ba a => [mbWord 0x19 sp 0 ba a]
  | .evwait sp d ba l => [mbWord 0x1A sp d ba l]
  | .fence d l m => [word 0x1B (0#2 ++ d ++ l ++ m ++ 0#2 : BitVec 24)]
  | .phase sp ba => [mbWord 0x1C sp 0 ba 0]
  | .phend => [word 0x1D 0]
  | .dgst sp ba a => [mbWord 0x1E sp 0 ba a]
  | .pref hint ba o => [msWord 0x1F 3 0 hint ba o]
  | .symNew d a b => [word 0x20 (d ++ a ++ b ++ 0#6 : BitVec 24)]
  | .symSig a b c => [word 0x21 (0#6 ++ a ++ b ++ c : BitVec 24)]
  | .symQry d a b => [word 0x22 (d ++ a ++ b ++ 0#6 : BitVec 24)]
  | .symRel a b c => [word 0x23 (0#6 ++ a ++ b ++ c : BitVec 24)]
  | .cond d a b c e h re =>
    [headWord 0x24 (d ++ a ++ b ++ c : BitVec 24), contWord (e ++ h ++ bit1 re ++ 0#19 : BitVec 30)]
  | .condQry d a => [word 0x25 (d ++ a ++ 0#12 : BitVec 24)]
  | .vadd vd va vb p => [vrWord 0x01 0 vd va vb p]
  | .vsub vd va vb p => [vrWord 0x02 0 vd va vb p]
  | .vmul vd va vb p => [vrWord 0x03 0 vd va vb p]
  | .vfma vd va vb p => [vrWord 0x04 0 vd va vb p]
  | .vfms vd va vb p => [vrWord 0x05 0 vd va vb p]
  | .vmin vd va vb p => [vrWord 0x06 0 vd va vb p]
  | .vmax vd va vb p => [vrWord 0x07 0 vd va vb p]
  | .vsel vd va vb p => [vrWord 0x0A 0 vd va vb p]
  | .vand vd va vb p => [vrWord 0x0B 0 vd va vb p]
  | .vor vd va vb p => [vrWord 0x0B 1 vd va vb p]
  | .vxor vd va vb p => [vrWord 0x0B 2 vd va vb p]
  | .vandn vd va vb p => [vrWord 0x0B 3 vd va vb p]
  | .vshl vd va vb p => [vrWord 0x0C 0 vd va vb p]
  | .vshr vd va vb p => [vrWord 0x0C 1 vd va vb p]
  | .vsar vd va vb p => [vrWord 0x0C 2 vd va vb p]
  | .viadd vd va vb p => [vrWord 0x0D 0 vd va vb p]
  | .visub vd va vb p => [vrWord 0x0D 1 vd va vb p]
  | .vimul vd va vb p => [vrWord 0x0D 2 vd va vb p]
  | .vqnt vd va vb p => [vrWord 0x0F 0 vd va vb p]
  | .vdqnt vd va vb p => [vrWord 0x10 0 vd va vb p]
  | .vperm vd va vb p => [vrWord 0x13 0 vd va vb p]
  | .rlxb vd va vb p => [vrWord 0x18 0 vd va vb p]
  | .vabsacc vd va vb p => [vrWord 0x1A 0 vd va vb p]
  | .vabs vd va p => [vrWord 0x08 0 vd va (.reg 0) p]
  | .vneg vd va p => [vrWord 0x08 1 vd va (.reg 0) p]
  | .vcmp cc pd va vb p => [word 0x09 (pd ++ va ++ vb.r ++ p ++ 0#2 ++ vb.b ++ cc.code : BitVec 24)]
  | .vcvt vd va t p => [word 0x0E (vd ++ va ++ t.code ++ 0#1 ++ p ++ 0#6 : BitVec 24)]
  | .vred op vd va p => [vrWord 0x11 op.code vd va (.reg 0) p]
  | .vpart vd p => [vrWord 0x12 0 vd 0 (.reg 0) p]
  | .vmov vd vb p => [vrWord 0x14 0 vd 0 vb p]
  | .vfn f vd va p => [vrWord 0x15 f.code vd va (.reg 0) p]
  | .vidx vd vb p => [vrWord 0x16 0 vd 0 vb p]
  | .vcnt vd p => [vrWord 0x17 0 vd 0 (.reg 0) p]
  | .rlx vd vl p fs ut ta ar =>
    [headWord 0x19 (vd ++ vl ++ p ++ fs ++ bit1 ut ++ ta ++ 0#1 : BitVec 24), contWord (ar ++ 0#24 : BitVec 30)]
  | .vcmpt va vb => [vrWord 0x1B 0 0 va vb 0]
  | .pand pd pa pb => [word 0x1C (pd ++ pa ++ pb ++ 0#3 ++ 0#12 : BitVec 24)]
  | .por pd pa pb => [word 0x1C (pd ++ pa ++ pb ++ 1#3 ++ 0#12 : BitVec 24)]
  | .pxor pd pa pb => [word 0x1C (pd ++ pa ++ pb ++ 2#3 ++ 0#12 : BitVec 24)]
  | .pnot pd pa => [word 0x1C (pd ++ pa ++ 0#3 ++ 3#3 ++ 0#12 : BitVec 24)]
  | .mma p ac v km eb => [tmWord 0x01 p ac v km eb]
  | .mmaE p ac v km => [tmWord 0x02 p ac v km (.reg 0)]
  | .mmas ac a b c rc0 nm p md rot rg h rn =>
    [headWord 0x03 (ac ++ a.r ++ b ++ c ++ a.b ++ bit1 rc0 ++ 0#2 : BitVec 24),
     contWord (nm ++ p.code ++ md.code ++ bit1 rot ++ bit1 rg ++ h ++ rn ++ 0#7 : BitVec 30)]
  | .wld bk ty a => [word 0x04 (0#2 ++ a.r ++ 0#5 ++ 0#5 ++ a.b ++ bit1 bk ++ ty.code : BitVec 24)]
  | .wswap => [word 0x05 0]
  | .aclr ac => [word 0x06 (ac ++ 0#22 : BitVec 24)]
  | .adrn ac v nr => [word 0x07 (ac ++ 0#6 ++ v ++ nr ++ 0#6 : BitVec 24)]
  | .adrnC ac v nr => [word 0x08 (ac ++ 0#6 ++ v ++ nr ++ 0#6 : BitVec 24)]
  | .ast ac a => [word 0x09 (ac ++ a.r ++ 0#10 ++ a.b ++ 0#5 : BitVec 24)]
  | .mmaD p ac v km => [tmWord 0x0A p ac v km (.reg 0)]
  | .aqry d ac => [word 0x0B (ac ++ d ++ 0#16 : BitVec 24)]
  | .send v a => [word 0x01 (v ++ a.r ++ a.b ++ 0#12 : BitVec 24)]
  | .recv v q => [word 0x02 (v ++ 0#3 ++ q ++ 0#13 : BitVec 24)]
  | .recva v q => [word 0x03 (v ++ 0#3 ++ q ++ 0#13 : BitVec 24)]
  | .recvm v q => [word 0x04 (v ++ 0#3 ++ q ++ 0#13 : BitVec 24)]
  | .sends a b => [word 0x05 (0#6 ++ a ++ b ++ 0#6 : BitVec 24)]
  | .recvs d q => [word 0x06 (d ++ 0#6 ++ 0#3 ++ q ++ 0#6 : BitVec 24)]
  | .xqry d a => [word 0x07 (d ++ a ++ 0#12 : BitVec 24)]
  | .xpost d a => [word 0x08 (d ++ a ++ 0#12 : BitVec 24)]
  | .xcanc d a => [word 0x09 (d ++ a ++ 0#12 : BitVec 24)]
  | _ => []

/-- The instruction that the words of a slot class stand for, before the checks of WellFormed (R207, R208, R211). -/
def decodeWords (k : SlotClass) : List Lane → Option Instr
  | [w] => if selOf w = 0 then decodeWord k w else none
  | [h, t] => if selOf h = 1 ∧ selOf t = 3 then decodeWide k h t else none
  | _ => none

/-- The prefix word of its fields (R212). -/
def encodePrefix (p : Prefix) : Lane :=
  (2#2 ++ p.rm ++ bit1 p.sat ++ bit1 p.dup ++ bit1 p.fe ++ p.fmt ++ 0#20 : BitVec 32)

/-- The fields of a prefix word, and whether its reserved bits are zero (R212). -/
def decodePrefix (w : Lane) : Prefix × Bool :=
  (⟨w.extractLsb' 27 3, bitAt w 26, bitAt w 25, bitAt w 24, w.extractLsb' 20 4⟩, w.extractLsb' 0 20 = 0)

/-! ## Bundles -/

/-- Slot word k of an expanded bundle (R206). -/
def Bundle.word (b : Bundle) (k : Nat) : Lane := b.extractLsb' (32 * k) 32

/-- A mask with one position marked. -/
def mark (k : Nat) : BitVec 8 := 1#8 <<< k

/-- A run of the structural scan of R219 from position k, with fuel: the first malformed word decides. -/
def scanFrom (b : Bundle) : Nat → Nat → Option (Reject × BitVec 8)
  | 0, _ => none
  | fuel + 1, k =>
    if k ≥ 8 then none
    else
      let w := b.word k
      let nxt := b.word (k + 1)
      match (selOf w).toNat with
      | 0 => scanFrom b fuel (k + 1)
      | 1 =>
        if ¬ (k = 0 ∨ k = 1 ∨ k = 3 ∨ k = 4 ∨ k = 6) then some (.wide, mark k)
        else if selOf nxt ≠ 3 then some (.wide, mark k ||| mark (k + 1))
        else scanFrom b fuel (k + 2)
      | 2 =>
        if k = 7 then some (.orph, mark k)
        else if nxt = 0 ∨ selOf nxt = 2 ∨ selOf nxt = 3 then some (.orph, mark k)
        else scanFrom b fuel (k + 1)
      | _ => some (.wide, mark k)

/-- The structural check of a bundle (R219 check 1). -/
def structureCheck (b : Bundle) : Option (Reject × BitVec 8) := scanFrom b 9 0

/-- Whether a word asks for the broadcast port: the B bit of its format (R217, R228, R231, R233, R234). -/
def readsPort (k : Nat) (w : Lane) : Bool :=
  let sel := (selOf w).toNat
  let m := (majOf w).toNat
  if sel = 0 then
    match SlotClass.ofPos (BitVec.ofNat 3 k) with
    | .m =>
      if m = 0x01 ∨ m = 0x02 ∨ m = 0x1F then !bitAt w 11 && bitAt w 4
      else if m = 0x03 ∨ m = 0x04 then !bitAt w 12 && bitAt w 5
      else if m = 0x05 ∨ m = 0x06 then bitAt w 0
      else if m = 0x07 ∨ m = 0x08 then bitAt w 1
      else if m = 0x09 ∨ m = 0x0A ∨ m = 0x0B then bitAt w 2
      else if 0x15 ≤ m ∧ m ≤ 0x1E ∧ m ≠ 0x1B then bitAt w 3
      else false
    | .v => 0x01 ≤ m ∧ m ≤ 0x1B ∧ m ≠ 0x19 && bitAt w 5
    | .t =>
      if m = 0x01 ∨ m = 0x02 ∨ m = 0x0A then bitAt w 6
      else 0x04 ≤ m ∧ m ≤ 0x0B && bitAt w 5
    | .x => 0x01 ≤ m ∧ m ≤ 0x04 && bitAt w 12
    | _ => false
  else sel = 1 && k = 6 && m = 0x03 && bitAt w 3

/-- Whether a word is a bcast (R217, R227). -/
def isBcast (k : Nat) (w : Lane) : Bool := (k = 1 || k = 2) && selOf w = 0 && majOf w = 0x32

/-- The positions 0 to 7 that satisfy a test, as a mask. -/
def markAll (t : Nat → Bool) : BitVec 8 :=
  (List.range 8).foldl (fun m k => if t k then m ||| mark k else m) 0

/-- The positions that ask for the broadcast port; a wide mmas stands at its head's position and the lending one
(R210, R217, R219). -/
def portReaders (b : Bundle) : BitVec 8 :=
  markAll (fun k => readsPort k (b.word k) || (k = 7 && selOf (b.word 6) = 1 && readsPort 6 (b.word 6)))

/-- The broadcast check of a bundle (R217, R219 check 3). -/
def bcastCheck (b : Bundle) : Option (Reject × BitVec 8) :=
  let writers := markAll (fun k => isBcast k (b.word k))
  let readers := portReaders b
  if isBcast 1 (b.word 1) && isBcast 2 (b.word 2) then some (.bcst, writers)
  else if writers = 0 ∧ readers ≠ 0 then some (.bcst, readers)
  else none

/-- The slots of a head: its own position and the lending one (R210). -/
def slotMask (i : Instr) (k : Nat) : BitVec 8 := if i.isWide then mark k ||| mark (k + 1) else mark k

/-- The widest set of prefix fields that any instruction of a slot class admits (the table of R214). -/
def SlotClass.admits : SlotClass → Admits
  | .c => ⟨false, false, false, false⟩
  | .s => ⟨true, true, true, false⟩
  | .m | .t | .x => ⟨false, false, false, true⟩
  | .v => ⟨true, true, true, true⟩

/-- A prefix that no instruction of the class admits: reserved bits, an RM from 101 to 111, a format code that names no
format or stands without FE, or a field outside the class's widest set (R212, R214, R215). Before a word that is no
instruction a prefix is judged by this alone (notes/assumptions/44.md, DEDUCED). -/
def Prefix.unfit (k : SlotClass) (p : Prefix) (clean : Bool) : Bool :=
  !(clean && p.rm.toNat ≤ 4 && (p.rm == 0 || k.admits.rm) && (!p.sat || k.admits.sat) && (!p.dup || k.admits.dup) &&
    (!p.fe || k.admits.fe) && (if p.fe then (Fmt.ofCode p.fmt).isSome else p.fmt == 0))

/-- The prefix before position k and whether its reserved bits are zero (R213). -/
def Bundle.prefixAt (b : Bundle) (k : Nat) : Option (Prefix × Bool) :=
  if k ≠ 0 ∧ selOf (b.word (k - 1)) = 2 then some (decodePrefix (b.word (k - 1))) else none

/-- Check 4 of R219 on the words of one instruction: what they stand for, if anything, with the prefix before them. An
instruction that fails marks its own positions, a prefix that fails marks itself and its target, and both may fail at
once (R214, R219). -/
def decodeTarget (k : Nat) (own : BitVec 8) (i : Option Instr) (pfx : Option (Prefix × Bool)) :
    Except (BitVec 8) (Option SlotInstr) :=
  let bad : Bool := match pfx, i with
    | none, _ => false
    | some (p, clean), some i => !(clean && i.prefixOk p)
    | some (p, clean), none => p.unfit (SlotClass.ofPos (BitVec.ofNat 3 k)) clean
  match i with
  | some i =>
    if i.wf && !bad then .ok (some ⟨BitVec.ofNat 3 k, pfx.map (·.1), i⟩)
    else .error (if bad then mark (k - 1) ||| own else own)
  | none => .error (if bad then mark (k - 1) ||| own else own)

/-- What stands at position k: nothing (a NOP outside C, a prefix, a continuation), an instruction, or a refusal with
the positions it marks (R213, R214, R219 check 4). The structural check has passed. -/
def decodeAt (b : Bundle) (k : Nat) : Except (BitVec 8) (Option SlotInstr) :=
  let w := b.word k
  let cls := SlotClass.ofPos (BitVec.ofNat 3 k)
  match (selOf w).toNat with
  | 0 => if w = 0 ∧ k ≠ 0 then .ok none else decodeTarget k (mark k) (decodeWords cls [w]) (b.prefixAt k)
  | 1 => decodeTarget k (mark k ||| mark (k + 1)) (decodeWords cls [w, b.word (k + 1)]) (b.prefixAt k)
  | _ => .ok none

/-- A gate of a position that holds a continuation or a prefix fails decode in C (R218). -/
def gateCheck (b : Bundle) (i : Option SlotInstr) : BitVec 8 :=
  match i with
  | some ⟨_, _, .gate _ fm lm⟩ =>
    if (List.range 7).any (fun j => (fm ||| lm).getLsbD j && (selOf (b.word (j + 1))).toNat ≥ 2) then mark 0 else 0
  | _ => 0

/-- Check 4 of R219 over every word: the instructions of the bundle, or all failing positions. -/
def wordsCheck (b : Bundle) : Except (BitVec 8) (List SlotInstr) :=
  let rs := (List.range 8).map (decodeAt b)
  let bad : BitVec 8 := rs.foldl (fun m r => match r with | .error e => m ||| e | .ok _ => m) 0
  let gate : BitVec 8 := match rs.head? with
    | some (.ok o) => gateCheck b o
    | _ => 0
  if bad ||| gate ≠ 0 then .error (bad ||| gate)
  else .ok (rs.filterMap (fun r => match r with | .ok o => o | .error _ => none))

/-- A bundle's instructions, or the first failing check of R219 that the words alone decide, with SFM. The checks
against state (DSLOT, UNIT, PRIV) stand in Machine/Issue.lean, at their places in the order of R219. -/
def decodeBundle (b : Bundle) : Except (Reject × BitVec 8) (List SlotInstr) :=
  match structureCheck b with
  | some e => .error e
  | none =>
    match bcastCheck b with
    | some e => .error e
    | none =>
      match wordsCheck b with
      | .error m => .error (.ill, m)
      | .ok l => .ok l

/-- Put words at a position of a bundle. -/
def placeWords (pos : Nat) (ws : List Lane) : Bundle :=
  (ws.zip (List.range 8)).foldl
    (fun (b : Bundle) (p : Lane × Nat) => b ||| ((p.1.setWidth 256 : Bundle) <<< (32 * (pos + p.2)))) (0 : Bundle)

/-- The bundle of one slot instruction, its prefix before it (R206, R213). -/
def encodeSlot (x : SlotInstr) : Bundle :=
  placeWords x.pos.toNat (encode x.instr) |||
    match x.pfx with
    | some p => placeWords (x.pos.toNat - 1) [encodePrefix p]
    | none => 0

/-! ## The opcode table's words -/

/-- The slot classes in the order in which `decodeTableWord` asks them: a table word does not say its slot, and the
six maps use the same majors (R216); this order lets the most rows of the table read as themselves
(notes/assumptions/12.md, DESIGN CHOICE). -/
def tableClasses : List SlotClass := [.x, .v, .s, .t, .m, .c]

/-- The first class that reads the words as a well-formed instruction. -/
def tableClassOf (ws : List Lane) : Option (SlotClass × Instr) :=
  tableClasses.findSome? (fun k =>
    match decodeWords k ws with
    | some i => if i.wf then some (k, i) else none
    | none => none)

/-- The words of a table row's bits: the first word in bits 31..0, the next in bits 63..32. A head takes the
continuation after it, whose SEL is given when the table's bits end before it. -/
def tableWords (nbits w : Nat) : List Lane :=
  let h : Lane := BitVec.ofNat 32 w
  if selOf h = 1 then
    [h, if nbits ≤ 32 then contWord 0 else BitVec.ofNat 32 (w / 2 ^ 32)]
  else [h]

/-- The instruction that the decoder reads from the bits of a table row. -/
def decodeTableWord (nbits w : Nat) : Option Instr := (tableClassOf (tableWords nbits w)).map (·.2)

end Sys2Proof
end

