-- ==== Sys2Proof/Config.lean ====
section
/-!
DEFINITION. What a step cannot know from the manual: free values, each an opaque constant without a body
(notes/assumptions 1 to 4). No proof can see what they are, so a claim that holds is true whatever they are.
-/
namespace Sys2Proof.Config

/-- The nanoseconds of device time that pass before the n-th step (R5, R23: wall times are no promise). -/
opaque elapsed : Nat → Nat
/-- A 64-bit value that the manual leaves open, drawn with the machine's counter (R9, R284, R347, R367). -/
opaque freeWord : Nat → Word
/-- A byte that the manual leaves open (R503, R508: signatures and certificates). -/
opaque freeByte : Nat → Byte
/-- The certificate chains of the device with a serial number, made at manufacture (R508 gives neither length nor contents). -/
opaque certificates : Word → List Byte
/-- Whether a granule whose result is unspecified keeps its prior value, by draw and granule (R9). -/
opaque granuleKept : Nat → Nat → Bool
/-- Which engine thread writes part of its destination before a step, by draw, as a number in its list (R160). -/
opaque progress : Nat → Nat
/-- A byte of the data that a collective's members have not contributed, by draw and place (R9, R367). -/
opaque missingByte : Nat → Nat → Byte
/-- The delay from a copy's acceptance to its promise in ns, drawn with the machine's counter (R138). -/
opaque promiseDelay : Nat → Nat
/-- Which of the waiting contributions of a binomial-tree node comes next (R362, arrival order). -/
opaque arrivalPick : Nat → Nat

/-- The cellar slice that homes a 256-byte line of physical memory, by line number: the hash is not architectural. -/
opaque homeSlice : Nat → BitVec 2
/-- The HBM4E stack that holds a 256-byte line, by line number (the same hash). -/
opaque homeStack : Nat → BitVec 3
/-- The landing that homes the synchronisation objects of a 256-byte line of storage, by line number (R157). -/
opaque homeLanding : Nat → BitVec 2
/-- Whether a cached translation is still in its cache, by GCC, number of the cache and virtual page (R436: which entry a
full cache drops is open). -/
opaque cacheKept : Nat → Nat → Nat → Bool
/-- Whether a granule of a wide access is performed apart from the first ones, by draw and granule (R154: their order is
unspecified). -/
opaque granuleLate : Nat → Nat → Bool

/-- How many reductions under way a landing has room for; one without any takes the next (R286 names no bound). -/
opaque landingRoom : BitVec 2 → Nat

/-- An error that arises in storage with time: the unit's key, and whether it is correctable (R148: when is not given). -/
opaque upset : Nat → Option (Nat × Bool)
/-- The key under which a cluster's access table knows a byte of a core's PM, and a context's receive queue (R125, R348:
R486 gives none). -/
opaque peerKey : Nat → BitVec 48
opaque queueKey : Nat → BitVec 48
/-- The entry of a symbol in another chip's pantry in the layout of R78, by GCC, job and id; 0 for one that was never issued there
or that another job owns (R57, R81, R83, R87, R342). -/
opaque pantryAbroad : Nat → Nat → BitVec 32 → BitVec 256
/-- The number of tasks that a launch places on another chip, by chip and launch (R348). -/
opaque tasksAbroad : BitVec 6 → Nat → Nat
/-- The payload of a flit that carries part of a request, by draw (R494 gives no layout). -/
opaque sendPayload : Nat → BitVec 384
/-- The partition for whose job a chip's request was made, from the payload of its REQ flit (R484, R494). -/
opaque requestPart : BitVec 6 → BitVec 384 → BitVec 4
/-- The flags that an instance raised, as a member that writes no destination reports them, by draw (R361, R367). -/
opaque rootFlags : Nat → BitVec 3
/-- The send that the payloads of a transfer from another chip stand for, if it is one: the launch on this chip, the
placement index, the queue and the entry (R349, R494). -/
opaque transferSend : BitVec 6 → List (BitVec 384) → Option (Nat × Nat × BitVec 3 × VecWord)

/-- The functions with certified tables in the relaxation unit (R74). -/
inductive CertFn
  | gelu | silu | tanh | sigm | exp
deriving DecidableEq, Repr

/-- The interval F(x) that contains f(x), its ends as FP32 words: the manual gives no table (R74). -/
opaque certF : CertFn → Lane → Lane × Lane
/-- The interval F'(x) that contains f'(x), its ends as FP32 words (R74). -/
opaque certF' : CertFn → Lane → Lane × Lane
/-- M2(a, b), an upper bound of |f''| over [a, b] as an FP32 word (R74). -/
opaque certM2 : CertFn → Lane → Lane → Lane
/-- beta of CHORD over (l, u) for a function with certified tables, as an FP32 word: the manual states no formula for it
(R72, R74). -/
opaque certBeta : CertFn → Lane → Lane → Lane

end Sys2Proof.Config
end

