-- ==== Sys2Proof/Machine/State.lean ====
section
/-!
DEFINITION. The state of a Garta package as plain data: every context with its registers and time, every core and
cluster, the engine threads in flight, the pantry, the scheduler's and the supervisor's records, the host's
registers, the brake van, the porch, and the one memory of the package. INVENTORY.md, heading State, lists each field
with the rule that names it.
-/
namespace Sys2Proof.Machine

/-- The trap causes of R441. -/
inductive Cause
  | ill | orph | wide | dslot | bcst | fend | unit | priv | align | pflt | accv | wattr | lwin | accb | pmiss
  | detov | detout | cmpm | pois | capc | divg | swt | fpx | user | loope | crege | rule | symx
deriving DecidableEq, Repr

/-- Floating-point flags, in the bit order of FPS (R36). -/
structure Flags where
  inx : Bool
  inv : Bool
  ovf : Bool
  qsat : Bool
deriving DecidableEq, Repr

/-- What a result is written to (R93): a register, a control register, WST at the end of a wait (R119), or nothing
but its contribution of flags. -/
inductive Dest
  | none | s (r : SReg) | v (r : VReg) | p (r : PReg) | ctl (c : CReg) | wait
deriving DecidableEq, Repr

/-- A result held until its due context time, and until its value has arrived (R93, R94, R95). -/
structure Result where
  rid : Nat
  /-- CTM of the bundle that issued the producer. -/
  issued : Word
  /-- CTM at which the result is due (R93); at a trap, the remaining distance (R100). -/
  due : Word
  /-- Slot position of the producer: the higher one wins at equal due time (R93). -/
  pos : Pos
  /-- Bundle address of the producer, the TAD of an FPX (R37). -/
  pc : Word
  dest : Dest
  val : VecWord
  /-- The lanes of a vector register that the result still writes (R298); all ones for every other destination. -/
  mask : Word
  /-- The lanes that its producer writes, whatever a later write has overtaken (R93, R298). -/
  wrote : Word
  /-- The producer has not executed yet: it stands in a slip buffer (R96). -/
  held : Bool
  /-- The producer may contribute to FPS (R36). -/
  mayFlag : Bool
  /-- The value has arrived; a fixed-latency result always has (R95). -/
  arrived : Bool
  /-- Sum of the strides applied while the value had not arrived (R107); for a write of CIV, what fell due after it while
  it had not arrived (R253). -/
  stride : Word
  flags : Flags
  /-- The flags whose trap enables suppress the write and raise FPX (R37). -/
  fpx : Option Flags
  /-- Poison consumed into a register (PREG) or an engine (PENG), counted in CIV at the due time (R451). -/
  preg : Bool
  peng : Bool
  /-- RDROP is set at the due time (R439). -/
  rdrop : Bool
  /-- The producer is marked DUP, and which instruction it is (R216). -/
  dup : Bool
  op : Nat
  /-- The value comes from a HOST page over PCI Express (R493). -/
  host : Bool
  /-- A write of FPS, or of CIV, that falls due later has overtaken its contribution (R36, R93). -/
  noFps : Bool
  noCiv : Bool
deriving DecidableEq, Repr

/-- What last wrote a register: the instruction by its number in Instr, its slot, and whether it is marked DUP (R216). -/
structure Maker where
  op : Nat
  pos : Pos
  dup : Bool
deriving DecidableEq, Repr

/-- The registers that an instruction in a slip buffer reads: captured at issue, pending ones filled in when their
writer delivers (R96). -/
structure RegView where
  s : Vector Word 64
  v : Vector VecWord 32
  p : Vector Word 8
  fpc : Word
  /-- The control register that an mfc or chkerr reads. -/
  ctl : Word
deriving DecidableEq, Repr

/-- A wait in progress: the DTC at which it began and its limit in ns (R118); `q` is the barrier phase waited for,
once a baraw has arrived (R289). -/
structure Wait where
  t0 : Word
  limit : Word
  q : Option (BitVec 32)
  /-- The wait of a slipped reader for its operands (R118). -/
  reader : Bool
deriving DecidableEq, Repr

/-- A value that a slip-buffer entry still waits for: the result's number, the register it comes through, the
stride and lanes that counted when the entry was issued (R95, R107), and the pending results that it overtakes. -/
structure Need where
  rid : Nat
  dest : Dest
  stride : Word
  mask : Word
  older : List Nat
deriving DecidableEq, Repr

/-- A run of storage that a waiting instruction will read or write, fixed at issue (R96, R152). -/
structure Touch where
  write : Bool
  key : Nat
  len : Nat
deriving DecidableEq, Repr

/-- An instruction in a slip buffer (R96, R427). -/
structure SlipEntry where
  slot : Pos
  pc : Word
  ctm : Word
  ins : SlotInstr
  port : Option Word
  view : RegView
  /-- The values that the entry still waits for. -/
  need : List Need
  /-- The entry's own results, in the order in which its meaning delivers them. -/
  rids : List (Dest × Nat)
  /-- The storage that the entry touches, as translated and checked at issue (R96, R437). -/
  touch : List Touch
  wait : Option Wait
  /-- The limit has passed: the entry runs once more and then ends (R118, R120). -/
  expired : Bool
deriving DecidableEq, Repr

/-- A run of bundles of one segment: indices lo to hi (R112). -/
structure Span where
  seg : BitVec 56
  lo : Nat
  hi : Nat
deriving DecidableEq, Repr

/-- One level of the loop sequencer (R105 to R109). -/
structure Loop where
  active : Bool
  lc : BitVec 32
  /-- The body starts here. -/
  start : Word
  /-- Its last bundle, and the bundle after the body, which may lie past the end of the chain; both known once no bundle of
  the body is still to be located. -/
  last : Word
  after : Word
  afterEnd : Bool
  /-- The part of the body that is located; how many bundles more it has, and where they begin (R105, R113). -/
  body : List Span
  rest : Nat
  onward : Word
  /-- The first iteration is running (R108). -/
  first : Bool
  strides : List (SReg × Word)
  /-- CTM at which the level was started (R252). -/
  opened : Word
deriving DecidableEq, Repr

/-- A segment expanded into a half of the loop buffer, or the fault found while expanding it (R110 to R113). -/
structure Segment where
  seg : BitVec 56
  nb : Nat
  next : Word
  bundles : List Bundle
  fault : Option (Cause × BitVec 32 × Word)
deriving DecidableEq, Repr

/-- An entry of the containment region stack: its handler, and the CTM of its creg.open (R251, R252). -/
structure Region where
  handler : Word
  opened : Word
deriving DecidableEq, Repr

/-- A boundary trap that waits for its boundary (R445). -/
structure BTrap where
  level : BitVec 3
  cause : Cause
  tad : Word
  sfm : BitVec 8
  det : BitVec 32
  /-- CTM of the bundle of the instruction that it is due to (R252). -/
  issued : Word
deriving DecidableEq, Repr

/-- The trap registers TCS, TAD and SFM, or their shadow set (R443, R447). -/
structure TrapRegs where
  tcs : Word
  tad : Word
  sfm : Word
deriving DecidableEq, Repr

/-- The deadline or time that a context waits on without issuing, and the flags of WFL that a waitf waits for (R115,
R248). -/
structure Hold where
  t0 : Word
  limit : Word
  flags : BitVec 8
deriving DecidableEq, Repr

/-- What holds a bundle unissued: pending values; the slot whose full slip buffer it needs; entries of slip buffers, by CTM and
slot, whose work comes before it; the address of a peer frame that is out of service (R97, R425, R513). -/
structure Holds where
  gate : List Nat
  full : Option Pos
  behind : List (Word × Pos)
  away : Option Word
deriving DecidableEq, Repr

/-- What a handler entry freezes, kept per handler level (R448). -/
structure Frozen where
  results : List Result
  slip : List SlipEntry
  loops : Vector Loop 6
  /-- The marks on pending delay slots and on the bundles after an untaken branch (R104, R109, R90). -/
  breaking : Option (BitVec 3)
  halting : Bool
  shadowSlots : BitVec 2
  /-- A waitf that was waiting, its limit counted from now (R100, R115). -/
  waiting : Option Hold
  /-- The return point, when it lies past the end of the chain (R114). -/
  pastEnd : Option Word
  /-- The operations in flight on each accumulator by SEQ, and the banks still to become ready, with the distances of their due
  times; 0 for a bank that is ready (R99, R100). -/
  flights : Vector (List (BitVec 16 × Word)) 4
  ready : Vector Word 2
deriving DecidableEq, Repr

/-- A 64 by 64 accumulator with its companions (R317). Row q of the tile is a vector of 64 columns. -/
structure Acc where
  tile : Vector VecWord 64
  cerr : VecWord
  crem : VecWord
  rowdepth : VecWord
  depth : BitVec 32
  rc : BitVec 6
  dc : BitVec 6
  kind : BitVec 2
  seq : BitVec 16
  /-- The operations in flight: SEQ and due CTM, oldest first (R99). -/
  flight : List (BitVec 16 × Word)
deriving DecidableEq, Repr

/-- DTC: while in service it is GCC less a base, else it stands still (R117). -/
inductive Clock
  | running (base : Word) | frozen (value : Word)
deriving DecidableEq, Repr

/-- What a context is doing (R90, R392, R449): idle without a task; running; draining after halt; stopped by HFLT;
out of service (pre-empted). -/
inductive Run
  | idle | running | draining | hflt | out
deriving DecidableEq, Repr

/-- The task of a context (R88, R348, R413). -/
structure Task where
  /-- Number of the task, unique on this device. -/
  serial : Nat
  launch : Nat
  lidx : Word
  /-- Placement index (R348). -/
  pidx : Nat
  /-- Lead of the coach and number of members (R101). -/
  lead : CtxId
  size : Nat
  region : Nat
  part : BitVec 4
  nacc : Nat
  nrng : Nat
  cor : Bool
deriving DecidableEq, Repr

/-- One exact-mode range of a phase: the flat memory keys lo to hi (R293, R150). -/
structure Range where
  lo : Nat
  hi : Nat
deriving DecidableEq, Repr

/-- An exact-mode phase: opener, barrier object, read and write ranges of the eight engine classes; `isOpen` until
phend, at a CTM, registered until its threads have ended (R172, R295). -/
structure Phase where
  id : Nat
  cid : CtxId
  serial : Nat
  cluster : ClusterId
  launch : Nat
  barrier : Nat
  rd : List (Nat × Range)
  wr : List (Nat × Range)
  isOpen : Bool
  closed : Word
deriving DecidableEq, Repr

/-- The control registers of a context that mtc may write or that hold per-task values (R122, R178, R235, R443). -/
structure Ctl where
  dlw : Word
  wst : Word
  civ : Word
  wfl : Word
  tvb : Word
  fpc : Word
  fps : Word
  dcf : Word
  dca : Word
  capn : Word
  tx : Word
  ty : Word
  tz : Word
  cpos : Word
  csz : Word
  vovf : Word
  dga : Word
deriving DecidableEq, Repr

/-- The control-flow state of a context. -/
structure Flow where
  /-- The bundle that issues next. -/
  pc : Word
  /-- The fall-through ran past the end of the chain (R114). -/
  pastEnd : Bool
  /-- Delay slots of a taken branch still to issue, and its target (R104, R220). -/
  dsl : BitVec 2
  dst : Word
  /-- Bundles after an untaken branch in which a branch is refused (R104). -/
  shadowSlots : BitVec 2
  /-- The pending delay slots belong to lbrk of this level: no iteration ends in them (R109). -/
  breaking : Option (BitVec 3)
  /-- The pending delay slots belong to halt (R90). -/
  halting : Bool
  /-- The first bundle of a handler, entered with this cause, has not issued yet (R448). -/
  entering : Option Cause
  /-- The waitf or C-slot wait that blocks the context since this DTC (R115). -/
  waiting : Option Hold
  /-- The waiting waitf has reached its limit: its bundle commits at the next issue (R115). -/
  expired : Bool
  /-- What holds the bundle that issues next (R97, R513). -/
  holds : Holds
deriving DecidableEq, Repr

/-- A hardware context (R13, R14, R89, R235). -/
structure Ctx where
  run : Run
  task : Option Task
  s : Vector Word 64
  v : Vector VecWord 32
  p : Vector Word 8
  acc : Vector Acc 4
  h : Vector (Option (BitVec 6)) 16
  ctl : Ctl
  trap : TrapRegs
  shadow : TrapRegs
  level : BitVec 3
  frozen : List Frozen
  ctm : Word
  dtc : Clock
  flow : Flow
  loops : Vector Loop 6
  lbuf : List Segment
  results : List Result
  nextRid : Nat
  slip : List SlipEntry
  cregs : List Region
  btraps : List BTrap
  /-- Poison was consumed inside a containment region by the bundle at this address (R252). -/
  unwind : Option Word
  phase : Option Nat
  /-- Reductions issued in the current phase (R173). -/
  redSeq : Nat
  rq : Vector (List (VecWord × Bool)) 8
  copyNum : BitVec 16
  condNum : BitVec 16
  postNum : BitVec 16
  /-- The CTM at which the dividers of SA and SB are free (R258). -/
  divFree : Vector Word 2
  /-- The acknowledged notice number, and the DTC since which a notice stands unacknowledged (R474). -/
  ack : BitVec 32
  ackSince : Option Word
  /-- When the context became ready, as a count of the machine's; none while it is not (R98). -/
  readySince : Option Nat
  /-- The GCC of the last WESC record, and the events that the next one merges (R430). -/
  wescAt : Option Word
  wescMore : BitVec 32
  /-- What last wrote each register (R216). -/
  madeS : Vector (Option Maker) 64
  madeV : Vector (Option Maker) 32
deriving DecidableEq, Repr

/-- An entry of a core's ring table (R131), with the region of its definer (R277). -/
structure Ring where
  base : BitVec 32
  hall : Bool
  sszl : BitVec 4
  valid : Bool
  err : Bool
  nslm : BitVec 12
  cls : BitVec 8
  fill : BitVec 13
  free : BitVec 13
  pend : BitVec 13
  rptr : BitVec 12
  wptr : BitVec 12
  region : Nat
  /-- The definer has retired: the entry ends once its reserved slots are returned (R142, R277). -/
  retiring : Bool
deriving DecidableEq, Repr

/-- A weight bank of the tile engine (R316): its stored image, format, and the holder's CTM at which it is ready;
`busy` is the CTM until which a beat still reads it (R322). -/
structure Bank where
  img : BitVec 131072
  fmt : Option Fmt
  ready : Word
  busy : Word
deriving DecidableEq, Repr

/-- The service state of a core, port or channel (R458, R466). -/
inductive Service
  | inService | leased | retired
deriving DecidableEq, Repr

/-- A core: ring table, tile-engine banks and their holder, the context that issues, the region that owns its PM. -/
structure Core where
  rings : Vector Ring 64
  bank : Vector Bank 2
  act : Bool
  holder : Option (BitVec 2)
  cur : BitVec 2
  /-- Consecutive bundles of the current context while another of the core was ready (R98). -/
  burst : Nat
  region : Option Nat
  service : Service
deriving DecidableEq, Repr

/-- The effective operands of a copy as an engine thread (R280 to R283). -/
structure CopyCmd where
  kind : CopyKind
  sfmt : Fmt
  dfmt : Fmt
  rm : BitVec 3
  sat : Bool
  ssp : Space
  src : Word
  dsp : Space
  dst : Word
  len : Nat
  dbytes : Nat
  tag : Bool
  zc : BitVec 2
  xw : Nat
  xr : Word
  ring : Option (BitVec 6)
  ns : Nat
  wptr : BitVec 12
  flag : Option (BitVec 3)
  /-- The keys of its barrier object and of its event object, as translated at issue (R96, R437). -/
  barrier : Option Nat
  event : Option Nat
deriving DecidableEq, Repr

/-- The status codes of a copy (R142). -/
inductive CopySt
  | run | ok | zfit | fault | cancelled
deriving DecidableEq, Repr

/-- The task that forked an engine thread: its context, serial number, launch, linear index, region and partition, and the CTM
of the bundle that forked it (R160, R162, R171). -/
structure Owner where
  cid : CtxId
  serial : Nat
  launch : Nat
  lidx : Word
  region : Nat
  part : BitVec 4
  /-- The phase under which it was forked (R295). -/
  phase : Option Nat
  ctm : Word
deriving DecidableEq, Repr

/-- What an access needs of a page and of an access table (R434, R485); `sync` is a barrier or event operation. -/
inductive Access
  | read | write | atomic | sync | fetch
deriving DecidableEq, Repr

/-- A copy in the dray (R137 to R144). `stopped` while a late fault or pre-emption holds it; `published` says its ring
publication has been made; `joined` that the issuing context has observed its completion (R36). -/
structure Copy extends Owner where
  id : Nat
  num : BitVec 16
  cmd : CopyCmd
  st : CopySt
  promise : Word
  pms : Bool
  stopped : Bool
  /-- A translation that it holds has been revoked: the access and the address (R437, R438). -/
  revoked : Option (Access × Word)
  published : Bool
  joined : Bool
  flags : Flags
  /-- PH of the barrier object of its tag at acceptance: the phase for which it is accepted (R164, R165). -/
  bph : BitVec 32
  /-- The bytes of its sources that the running attempt has read ahead, with their poison, and the granules of its destination
  that it has written (R143, R160). -/
  ahead : List (Nat × Byte × Bool)
  done : List Nat
deriving DecidableEq, Repr

/-- The stages of a reduction (R158, R173): issued; held by a late fault; buffered at its landing. -/
inductive RedSt
  | issued | faulted | buffered
deriving DecidableEq, Repr

/-- A red or redo in flight (R158, R159, R173). -/
structure Red extends Owner where
  id : Nat
  ordered : Bool
  op : AtomOp
  wide : Bool
  sp : Space
  va : Word
  loc : Nat
  val : Word
  rm : BitVec 3
  seq : Nat
  st : RedSt
  revoked : Option (Access × Word)
  exact : Bool
  barrier : Nat
  /-- The barrier phase it belongs to, once an arrival has been counted (R173). -/
  bphase : Option (BitVec 32)
  /-- The CTM of the arrival that covers it (R166, R173). -/
  cover : Word
  /-- It lies in the overflow area of its region (R174). -/
  spilled : Bool
deriving DecidableEq, Repr

/-- A send that has left its port (R354). One from another chip names the channel, chip and tag to answer (R349, R494). -/
structure Send extends Owner where
  origin : Option (BitVec 4 × BitVec 6 × BitVec 16)
  id : Nat
  chip : BitVec 6
  dest : CtxId
  dserial : Nat
  q : BitVec 3
  val : VecWord
  poison : Bool
deriving DecidableEq, Repr

/-- A plain write of a global granule by a task in a phase, kept until the barrier's next completion (R177). -/
structure PhaseWrite where
  barrier : Nat
  granule : Nat
  serial : Nat
  cid : CtxId
  va : Word
deriving DecidableEq, Repr

/-- The units of a context's wide access that are performed apart from its first ones (R154): their size in bytes and the
address that the access named, the bytes still to be written, and the lanes of a result that are still to be read, as lane
numbers with the keys of their elements. -/
structure Late where
  cid : CtxId
  size : Nat
  va : Word
  writes : List (Nat × Byte)
  rid : Nat
  fmt : Fmt
  lanes : List (Nat × Nat)
deriving DecidableEq, Repr

/-- The states of a pantry entry (R78). -/
inductive SymSt
  | free | live | condensing
deriving DecidableEq, Repr

/-- A pantry entry (R78), with the job that owns it and the region whose budget it counts against (R81). It is stored as free
or live; a live one that a cond is condensing reports so. -/
structure Sym where
  id : BitVec 32
  job : Nat
  region : Nat
  group : BitVec 16
  refs : BitVec 16
  sig : Word
  et : Byte
  st : SymSt
deriving DecidableEq, Repr

/-- A sym.sig contribution in flight (R341). -/
structure SigJob extends Owner where
  id : Nat
  job : Nat
  first : BitVec 32
  src : Nat
  n : Nat
  group : BitVec 16
  et : Byte
deriving DecidableEq, Repr

/-- A sym.rel update in flight (R343). -/
structure RelJob extends Owner where
  id : Nat
  job : Nat
  first : BitVec 32
  n : Nat
  add : Bool
deriving DecidableEq, Repr

/-- The status codes of cond.qry (R347). -/
inductive CondSt
  | run | ok | atdr | order | count | symf | fault | cancelled
deriving DecidableEq, Repr

/-- A write of a condensation: its address, the runs of storage that it reaches as first key and length, and its bytes
(R84, R345). -/
structure CondWrite where
  va : Word
  runs : List (Nat × Nat)
  bytes : List Byte
deriving DecidableEq, Repr

/-- A cond in an attic (R344, R345). `work` holds the symbols that it condenses and its writes, once the attic has read
everything and translated the pages that it writes. -/
structure Cond extends Owner where
  id : Nat
  num : BitVec 16
  cluster : ClusterId
  atd : Word
  m : Nat
  vec : Option Word
  /-- The key of its event object, as translated at issue (R437, R513). -/
  event : Option Nat
  ring : Option (BitVec 6)
  st : CondSt
  mc : BitVec 32
  stopped : Bool
  revoked : Option (Access × Word)
  work : Option (List (BitVec 32) × List CondWrite)
  /-- Its ring slot has been published or returned, or it has none (R134, R141). -/
  published : Bool
  /-- The granules that it has written (R86, R160). -/
  done : List Nat
deriving DecidableEq, Repr

/-- A contribution of a member to a collective instance (R365): its block, group entries and data. -/
structure Contrib where
  die : BitVec 2
  gid : BitVec 16
  inst : Nat
  rank : Nat
  block : BitVec 1024
  entries : List (BitVec 16)
  /-- The source elements' bytes, each with its mark of poison. -/
  data : List (Byte × Bool)
deriving DecidableEq, Repr

/-- The status of a post (R367). -/
inductive PostSt
  | run | ok | failed | cancelled
deriving DecidableEq, Repr

/-- A posted collective at one member (R357 to R368). -/
structure Post extends Owner where
  id : Nat
  num : BitVec 16
  die : BitVec 2
  gid : BitVec 16
  inst : Nat
  rank : Nat
  block : BitVec 1024
  entries : List (BitVec 16)
  st : PostSt
  rsn : BitVec 3
  flags : Flags
  started : Word
  limit : Word
  /-- Its requests to members on other chips have gone out (R364). -/
  asked : Bool
  stepped : Bool
  /-- The key of its event object, as translated when the post was accepted (R357, R437). -/
  event : Nat
  /-- The bytes of its source that it has read ahead, and the granules of its destination that it has written (R160, R360). -/
  ahead : List (Nat × Byte × Bool)
  done : List Nat
deriving DecidableEq, Repr

/-- A late-fault record awaiting resolution (R438). -/
structure Fault438 where
  id : BitVec 32
  part : BitVec 4
  eng : EngRef
deriving DecidableEq, Repr

/-- The state of a launch (R414 to R420). -/
inductive LaunchSt
  | submitted | held | released | digest | ended
deriving DecidableEq, Repr

/-- A submitted launch: its record (R413) and progress. -/
structure Launch where
  id : Nat
  part : BitVec 4
  q : BitVec 6
  index : BitVec 32
  record : BitVec 1024
  recAddr : Word
  region : Nat
  st : LaunchSt
  /-- Tasks started and retired so far. -/
  started : Nat
  retired : Nat
  /-- The cores that retired a task (R469). -/
  retiredOn : List CoreId
  /-- The tasks' digests folded so far (R456). -/
  digest : Word
  boost : BitVec 3
  waitingSince : Option Word
  rstat : BitVec 32
deriving DecidableEq, Repr

/-- The effective budgets of one level of a region's chain (R408, R409). Its RCB lies at a virtual address of a partition, or
at a physical one, which `space` says (R406). -/
structure Level where
  rcb : Word
  space : Option (BitVec 4)
  cores : BitVec 64
  ctxs : BitVec 32
  accs : BitVec 32
  hallb : BitVec 32
  symb : BitVec 32
deriving DecidableEq, Repr

/-- The effective values of a region (R408, R409) and what it holds; `chain` runs from its own RCB to the device RCB. -/
structure Rgn where
  id : Nat
  rcb : Word
  part : BitVec 4
  chain : List Level
  prio : BitVec 3
  exact : Bool
  isolated : Bool
  serial : Bool
  clkb : BitVec 2
  share : BitVec 32
  fdom : BitVec 16
  esc : BitVec 8
  cways : BitVec 32
  mslot : Word
  lvc : BitVec 16
  lport : BitVec 16
  dlwmax : Word
  tvb : Word
  save : Word
  savesz : Word
  ovfa : Word
  ovfsz : Word
  evq : Word
  /-- Notice number, mode, cores retired since registration (R472, R475). -/
  seq : BitVec 32
  mode : Bool
  nret : BitVec 8
  /-- The notice for which a CAPC record was posted (R474). -/
  posted : BitVec 32
deriving DecidableEq, Repr

/-- A resume group of a pre-empted core (R425, R426): its slot of the save area and the images of its contexts. -/
structure Group where
  id : Nat
  region : Nat
  slot : Nat
  core : CoreId
  withdrawn : Bool
  /-- Only the withdrawal of another core stopped it: the region still holds this core (R392). -/
  kept : Bool
  holder : Option (BitVec 2)
  bank : Vector Bank 2
  act : Bool
  rings : Vector Ring 64
  images : List (BitVec 2 × Ctx)
  /-- The peer frames that name this PM: the core it left, and those it had left before (R425). -/
  frames : List CoreId
  /-- A resume has been refused (R428). -/
  refused : Bool
deriving DecidableEq, Repr

/-- A launch queue of a partition (R411) with its submission and scheduling state (R412, R420). -/
structure Queue where
  base : Word
  lnent : BitVec 5
  en : Bool
  head : BitVec 32
  tail : BitVec 32
  table : Word
  deficit : Int
deriving DecidableEq, Repr

/-- The rounds of the scheduler (R420): whether an event since the last round may let a start be made; the queues that the
running round has still to visit, the deficit of the first already raised or not; whether the round has started a task;
its level. -/
structure Sched where
  again : Bool
  todo : List (BitVec 4 × BitVec 6)
  served : Bool
  started : Bool
  level : Nat
deriving DecidableEq, Repr

/-- A partition (R481): RCB and PTB as registered, its queues, translation and fault counters, host registers. -/
structure Part where
  registered : Bool
  mgmt : Bool
  rcb : Word
  root : Word
  fq : Word
  eq : Word
  rpd : Word
  rqm : Word
  queues : Vector Queue 64
  quotas : Vector (BitVec 7) 4
  wbase : Word
  herr : BitVec 32
  tinvBusy : Bool
  tinvSeq : BitVec 32
  /-- The waiting instructions that use a dropped translation: serial number of the task, CTM, slot (R437). -/
  tinvWaits : List (Nat × Word × Pos)
  /-- The copies, conds and posts whose objects were translated through a dropped entry, by number (R437). -/
  tinvThreads : List Nat
  nextFault : BitVec 32
  trace : Option TraceConfig
  traceDropped : BitVec 32
deriving DecidableEq, Repr

/-- Where a translation is cached: the micro cache of a core, or the translation cache of a cluster (R13, R436). -/
inductive TlbHolder
  | core (c : CoreId) | cluster (k : ClusterId)
deriving DecidableEq, Repr

/-- A cached translation (R436): its cache, partition, virtual page base, page size as a power of two, leaf entry. -/
structure Tlb where
  holder : TlbHolder
  part : BitVec 4
  va : BitVec 56
  bits : Nat
  pte : Word
deriving DecidableEq, Repr

/-- A lease in progress (R461 to R463). -/
structure Lease where
  unit : Nat
  start : Word
  npre : BitVec 16
  forced : Bool
deriving DecidableEq, Repr

/-- The brake van (R458 to R471): configuration, running leases, schedule positions, scores, records. -/
structure Van where
  cfg : LeaseConfig
  running : Vector (Option Lease) 3
  next : Vector Nat 3
  scores : Vector (Vector (BitVec 10) 512) 3
  forced : Vector (List Nat) 3
  log : List (BitVec 256)
  store : List (BitVec 512)
  /-- Units out of service for good, by class. -/
  retired : Vector (List Nat) 3
  /-- Event counters of the units, in the order of R469 (HIST of R467). -/
  hist : List (UnitClass × Nat × Nat × BitVec 16)
  lastHour : Nat
  /-- GCC at which the last scheduled lease of each class was due (R460), and at which each ISOLATED partition last had a
  core leased (R476). -/
  due : Vector Word 3
  isoLast : List (BitVec 4 × Word)
  /-- Lease records that wait for room in the log (R431, R465). -/
  logHeld : List (BitVec 256)
deriving DecidableEq, Repr

/-- A link port (R494 to R497). -/
structure Port where
  service : Service
  trained : Bool
  locked : Bool
  /-- The partner asked us to hold traffic (R462). -/
  holding : Bool
  held : List Flit
  txSeq : BitVec 16
  rxSeq : BitVec 16
  /-- Flits sent and kept for replay, oldest first. -/
  sent : List Flit
  credits : Vector (BitVec 16) 16
  discards : Nat
  lockLost : Bool
deriving DecidableEq, Repr

/-- A request of a local endpoint that waits for an answer over a link (R499, R500). -/
inductive LinkUse
  | post (id : Nat) | send (id : Nat) | other
deriving DecidableEq, Repr

/-- The porch (R497 to R501). -/
structure Porch where
  up : Bool
  /-- Local endpoints are marked absent during a compute-domain reset (R499). -/
  absent : Bool
  routes : Vector (BitVec 12) 64
  ports : Vector Port 12
  /-- Outstanding requests of local endpoints, by tag. -/
  outstanding : List (BitVec 16 × BitVec 4 × BitVec 6 × LinkUse)
  /-- Inbound requests accepted and not answered. -/
  inbound : List (BitVec 4 × Flit)
  /-- Flits delivered to local endpoints. -/
  inbox : List Flit
deriving DecidableEq, Repr

/-- The management controller (R502 to R508): mailbox registers, self-test record, safe state, fused minimum SVN. -/
structure Mgmt where
  up : Bool
  safe : Bool
  mbarg : Word
  busy : Bool
  /-- The CODE of the command that runs or ran last (R507). -/
  code : BitVec 8
  mst : BitVec 3
  mseq : BitVec 32
  boot : BitVec 32
  svn : BitVec 32
  /-- The digest of the body of the image that runs (R503, R508). -/
  digest : BitVec 384
  svnMin : BitVec 32
  selfTest : BitVec 512
  clockBin : Vector (BitVec 2) 8
  /-- The retired memory channels have left the address map (R466). -/
  removed : List Nat
  serialNo : Word
  computeUp : Bool
  /-- Errors in arrays that belong to no leasable unit (R469). -/
  otherErrors : BitVec 32
deriving DecidableEq, Repr

/-- The issue environment: which instruction runs where, set by the step (R93, R206, R217). -/
structure Env where
  cid : CtxId
  pos : Pos
  pc : Word
  ctm : Word
  pfx : Prefix
  /-- The instruction, by its number in Instr (R216). -/
  op : Nat
  port : Option Word
  /-- The slots gated off in this bundle (R108, R218) or left out by waitf (R115). -/
  off : BitVec 8
  /-- The slip-buffer entry that runs now. -/
  slipped : Option SlipEntry
  /-- The bundle does not issue now: the context blocks; and what holds it (R97, R115). -/
  block : Bool
  holds : Holds
  /-- An issue trap was taken by this slot: cause, detail, faulting address, marked positions. -/
  raised : Option (Cause × BitVec 32 × Word × BitVec 8)
  /-- The C slot's decision, compared across the members of a coach (R103). -/
  outcome : Word
  /-- The C slot has set where the context goes on: the bundle's end does not move the pc. -/
  redirect : Bool
  /-- A loop with a count of 0 skips its body: the bundle after it, whether that lies past the end of the chain, and the last
  bundle of the body, if it is located (R106). -/
  skip : Option (Word × Bool × Option Word)
deriving DecidableEq, Repr

/-- The two orderable parts (R1). -/
inductive PartNo
  | e | s
deriving DecidableEq, Repr

/-- The machine. -/
structure State where
  part : PartNo
  /-- The chip's index in its job, and how many chips the job spans (R17, R77). -/
  chip : BitVec 6
  chips : Nat
  gcc : Word
  /-- Numbers the free values of Config drawn so far: the model's own field. -/
  free : Nat
  /-- The steps of other agents that come next, in order: the model's own field. -/
  agenda : List Instr
  /-- A released slip-buffer entry that runs in the next step: the model's own field. -/
  stage : Option (CtxId × SlipEntry)
  /-- The core that issues next: the model's own field. -/
  turn : CoreId
  env : Env
  ctxs : Vector Ctx 2048
  cores : Vector Core 512
  mem : List Host.Cell
  /-- The words of PM and hall whose tag is empty, as flat keys of their first byte, ascending (R127). -/
  empties : List Nat
  /-- The poisoned words and blocks, as flat keys of their first byte, ascending (R149). -/
  poison : List Nat
  /-- Units of storage with an error that no read has met yet, with the mark of a correctable one (R148). -/
  damaged : List (Nat × Bool)
  /-- Errors of parity-guarded arrays that no read has met yet (R451, R477). -/
  parity : List ErrorAt
  /-- The granules of wide accesses that are still to be performed (R154). -/
  late : List Late
  tlb : List Tlb
  nextId : Nat
  copies : List Copy
  reds : List Red
  sends : List Send
  sigs : List SigJob
  rels : List RelJob
  conds : List Cond
  posts : List Post
  contribs : List Contrib
  /-- Posts accepted so far per omnibus and GID (R359). -/
  gidSeq : List (BitVec 2 × BitVec 16 × Nat)
  /-- Instances that failed (false) or were cancelled (true) before their post here (R366, R368). -/
  early : List (BitVec 2 × BitVec 16 × Nat × Bool)
  phases : List Phase
  /-- Global granules written since the last completion of a barrier (R177). -/
  writes : List PhaseWrite
  syms : List Sym
  /-- The next serials of the jobs' pantry numbering (R77). -/
  symSerial : List (Nat × Nat)
  launches : List Launch
  rgns : List Rgn
  groups : List Group
  /-- Regions whose pre-emption the supervisor has requested (R422). -/
  preempts : List Nat
  sched : Sched
  faults : List Fault438
  /-- Records that wait for room in a full queue: partition, queue address, record (R431, R435). -/
  held : List (BitVec 4 × Word × List Byte)
  /-- Where a withdrawn or moved PM frame of a core now lies for the launches of its region; none while out of service
  (R425). -/
  frames : List (CoreId × List Nat × Option CoreId)
  parts : Vector Part 16
  /-- The device RCB registered (R406). -/
  deviceRcb : Word
  /-- The registered copies of partition RCBs and device RCB: address and contents (R406). -/
  rcbCopies : List (Word × BitVec 2048)
  access : List (Target × BitVec 8 × List AccRange)
  van : Van
  porch : Porch
  mgmt : Mgmt
  /-- Data returned to the host by BAR4 reads and mailbox reads, newest first, with the EP mark of a completion that carries
  poison; none for Unsupported Request (R479, R483). -/
  hostOut : List (Option (List Byte × Bool))
deriving DecidableEq, Repr

/-- Why a step stops. Garta reports every failure that the manual names by a trap, a stop of the context (HFLT),
a status or a record, all of which are next states, so no step of this model faults: the type is empty. -/
inductive Fault
deriving DecidableEq, Repr

/-- Why the model gives a step no meaning. -/
inductive Refusal
  /-- The instruction has no meaning in the model yet: raised by its arm of exec alone; safe. -/
  | notModelled (mnemonic : String)
deriving DecidableEq, Repr

/-! Reset (R89, R127, R131, R317, R502). A register for which the manual gives no value at device reset holds the
value that notes/assumptions/5.md names. -/

/-- An accumulator as aclr and task start leave it (R317). -/
def Acc.reset : Acc :=
  ⟨Vector.replicate 64 0, 0, 0, 0, 0, 0, 0, 0, 0, []⟩

/-- A loop level that is not active (R89). -/
def Loop.idle : Loop := ⟨false, 0, 0, 0, 0, false, [], 0, 0, false, [], 0⟩

/-- The trap registers at their reset value 0 (R443). -/
def TrapRegs.reset : TrapRegs := ⟨0, 0, 0⟩

/-- The control registers at their reset values (R35, R36, R119, R122, R178, R451); DLW, TVB and CAPN, which a task
start sets from its region, hold 0 before any task (notes/assumptions/5.md). -/
def Ctl.reset : Ctl := ⟨0, 0, 0, 0, 0, 0, 0, 0, 0, 0, 0, 0, 0, 0, 0, 0, 0⟩

/-- Nothing holds a bundle. -/
def Holds.none : Holds := ⟨[], .none, [], .none⟩

/-- No bundle in flight. -/
def Flow.reset : Flow := ⟨0, false, 0, 0, 0, none, false, none, none, false, Holds.none⟩

/-- A context without a task. -/
def Ctx.reset : Ctx where
  run := .idle
  task := none
  s := Vector.replicate 64 0
  v := Vector.replicate 32 0
  p := Vector.replicate 8 0
  acc := Vector.replicate 4 Acc.reset
  h := Vector.replicate 16 none
  ctl := Ctl.reset
  trap := TrapRegs.reset
  shadow := TrapRegs.reset
  level := 0
  frozen := []
  ctm := 0
  dtc := .frozen 0
  flow := Flow.reset
  loops := Vector.replicate 6 Loop.idle
  lbuf := []
  results := []
  nextRid := 0
  slip := []
  cregs := []
  btraps := []
  unwind := none
  phase := none
  redSeq := 0
  rq := Vector.replicate 8 []
  copyNum := 0
  condNum := 0
  postNum := 0
  divFree := Vector.replicate 2 0
  ack := 0
  ackSince := none
  readySince := none
  wescAt := none
  wescMore := 0
  madeS := Vector.replicate 64 none
  madeV := Vector.replicate 32 none

/-- A ring-table entry at reset: every field 0, not valid (R131). -/
def Ring.reset : Ring := ⟨0, false, 0, false, false, 0, 0, 0, 0, 0, 0, 0, 0, false⟩

/-- A weight bank that has never been loaded (R320). -/
def Bank.reset : Bank := ⟨0, none, 0, 0⟩

/-- A core without contexts in service. -/
def Core.reset : Core where
  rings := Vector.replicate 64 Ring.reset
  bank := Vector.replicate 2 Bank.reset
  act := false
  holder := none
  cur := 0
  burst := 0
  region := none
  service := .inService

/-- A disabled queue. -/
def Queue.reset : Queue := ⟨0, 0, false, 0, 0, 0, 0⟩

/-- A partition that is not registered (R481); its registers at their reset values (R437, R482). -/
def Part.reset : Part where
  registered := false
  mgmt := false
  rcb := 0
  root := 0
  fq := 0
  eq := 0
  rpd := 0
  rqm := 0
  queues := Vector.replicate 64 Queue.reset
  quotas := Vector.replicate 4 0
  wbase := 0
  herr := 0
  tinvBusy := false
  tinvSeq := 0
  tinvWaits := []
  tinvThreads := []
  nextFault := 0
  trace := none
  traceDropped := 0

/-- The brake van with the reset configuration of R459 and every score 0 (R468). -/
def Van.reset : Van where
  cfg := ⟨1000, 10000, 1000, 0b111, 0, 0⟩
  running := Vector.replicate 3 none
  next := Vector.replicate 3 0
  scores := Vector.replicate 3 (Vector.replicate 512 0)
  forced := Vector.replicate 3 []
  log := []
  store := []
  retired := Vector.replicate 3 []
  hist := []
  lastHour := 0
  due := Vector.replicate 3 0
  isoLast := []
  logHeld := []

/-- A link port before training (R502). -/
def Port.reset : Port :=
  ⟨.inService, false, true, false, [], 0, 0, [], Vector.replicate 16 0, 0, false⟩

/-- The porch before its self-test (R502). -/
def Porch.reset : Porch :=
  ⟨false, false, Vector.replicate 64 0, Vector.replicate 12 Port.reset, [], [], []⟩

/-- The management controller before its boot ROM has run (R502, R507). -/
def Mgmt.reset : Mgmt where
  up := false
  safe := false
  mbarg := 0
  busy := false
  code := 0
  mst := 0
  mseq := 0
  boot := 0
  svn := 0
  digest := 0
  svnMin := 0
  selfTest := 0
  clockBin := Vector.replicate 8 0
  removed := []
  serialNo := 0
  computeUp := false
  otherErrors := 0

/-- The environment when nothing issues. -/
def Env.reset : Env := ⟨0, 0, 0, 0, Prefix.zero, 0, none, 0, none, false, Holds.none, none, 0, false, none⟩

/-- The machine right after reset: a VG5-E alone in its job, GCC 0, no partition registered and no task running. -/
def State.reset : State where
  part := .e
  chip := 0
  chips := 1
  gcc := 0
  free := 0
  agenda := []
  stage := none
  turn := 0
  env := Env.reset
  ctxs := Vector.replicate 2048 Ctx.reset
  cores := Vector.replicate 512 Core.reset
  mem := []
  empties := []
  poison := []
  damaged := []
  parity := []
  late := []
  tlb := []
  nextId := 0
  copies := []
  reds := []
  sends := []
  sigs := []
  rels := []
  conds := []
  posts := []
  contribs := []
  gidSeq := []
  early := []
  phases := []
  writes := []
  syms := []
  symSerial := []
  launches := []
  rgns := []
  groups := []
  preempts := []
  sched := ⟨false, [], false, false, 0⟩
  faults := []
  held := []
  frames := []
  parts := Vector.replicate 16 Part.reset
  deviceRcb := 0
  rcbCopies := []
  access := []
  van := Van.reset
  porch := Porch.reset
  mgmt := Mgmt.reset
  hostOut := []

end Sys2Proof.Machine
end

