-- ==== Sys2Proof/Machine/Flags.lean ====
section
/-!
DEFINITION. Floating-point flags and rounding modes (spec/02 R33, R35, R36): their codes, their union, and which of
them FPC makes trap.
-/
namespace Sys2Proof.Machine

/-- The rounding modes of R33. -/
inductive RMode
  | rne | ru | rd | rz | rna
deriving DecidableEq, Repr

/-- The mode of a code of R33; a code above 100 never reaches FPC or an admitted prefix (R33, R35). -/
def RMode.ofCode (c : BitVec 3) : RMode :=
  match c.toNat with
  | 0 => .rne | 1 => .ru | 2 => .rd | 3 => .rz | _ => .rna

/-- The mode in force: the prefix's RM, or FPC.RM where the prefix has 000 (R33). -/
def effMode (pfx : Prefix) (fpc : Word) : RMode :=
  if pfx.rm = 0 then RMode.ofCode (fpc.extractLsb' 0 3) else RMode.ofCode pfx.rm

/-- No flag. -/
def Flags.none : Flags := ⟨false, false, false, false⟩
/-- Inexact alone. -/
def Flags.inexact : Flags := ⟨true, false, false, false⟩
/-- Invalid alone. -/
def Flags.invalid : Flags := ⟨false, true, false, false⟩
/-- Overflow raises overflow and inexact (R34). -/
def Flags.overflow : Flags := ⟨true, false, true, false⟩
/-- Quantiser saturation alone. -/
def Flags.qsatur : Flags := ⟨false, false, false, true⟩
/-- Inexact if so. -/
def Flags.inxIf (b : Bool) : Flags := ⟨b, false, false, false⟩

/-- The union of two sets of flags (R36). -/
def Flags.or (a b : Flags) : Flags := ⟨a.inx || b.inx, a.inv || b.inv, a.ovf || b.ovf, a.qsat || b.qsat⟩
/-- The flags common to two sets. -/
def Flags.and (a b : Flags) : Flags := ⟨a.inx && b.inx, a.inv && b.inv, a.ovf && b.ovf, a.qsat && b.qsat⟩
/-- Some flag is set. -/
def Flags.any (a : Flags) : Bool := a.inx || a.inv || a.ovf || a.qsat
/-- The union of a list of flags. -/
def Flags.union (l : List Flags) : Flags := l.foldl Flags.or Flags.none

/-- The bits that a set of flags has in FPS (R36). -/
def Flags.toWord (f : Flags) : Word :=
  (BitVec.ofBool f.qsat ++ BitVec.ofBool f.ovf ++ BitVec.ofBool f.inv ++ BitVec.ofBool f.inx : BitVec 4).setWidth 64

/-- The flags whose trap enable is set in FPC: TEX, TEI, TEO, TEQ (R35). -/
def fpcEnables (fpc : Word) : Flags := ⟨fpc.getLsbD 8, fpc.getLsbD 9, fpc.getLsbD 10, fpc.getLsbD 11⟩

end Sys2Proof.Machine
end

