-- ==== Sys2Proof/Machine/Mem.lean ====
section
/-!
DEFINITION. The one memory of the package (spec/05 R123 to R130, R148, R149): flat keys for physical memory, host
memory, PM and hall, the canonical list of cells, byte order, full/empty tags and poison.
-/
namespace Sys2Proof.Machine

/-! ## Cells -/

/-- What an unlisted address reads as (notes/assumptions/6.md). -/
def blankByte : Byte := 0

/-- One byte of memory. -/
def memRead : List Host.Cell → Nat → Byte
  | [], _ => blankByte
  | (k, b) :: l, a => if k = a then b else memRead l a

/-- Memory with one byte replaced; a blank byte is not listed. -/
def memWrite : List Host.Cell → Nat → Byte → List Host.Cell
  | [], a, b => if b = blankByte then [] else [(a, b)]
  | (k, c) :: l, a, b =>
    if a < k then (if b = blankByte then (k, c) :: l else (a, b) :: (k, c) :: l)
    else if a = k then (if b = blankByte then l else (a, b) :: l)
    else (k, c) :: memWrite l a b

/-- Every address of a list of cells is at least lo, they rise strictly, and none holds the blank byte. -/
def cellsFrom : Nat → List Host.Cell → Bool
  | _, [] => true
  | lo, (k, b) :: l => decide (lo ≤ k) && decide (b ≠ blankByte) && cellsFrom (k + 1) l

/-- The canonical form of memory: addresses strictly rising, no blank byte listed. -/
def Memory.wf (m : List Host.Cell) : Bool := cellsFrom 0 m

/-- n bytes from an address on. -/
def memBytes (m : List Host.Cell) (a : Nat) : Nat → List Byte
  | 0 => []
  | n + 1 => memRead m a :: memBytes m (a + 1) n

/-- Bytes stored from an address on. -/
def memStore (m : List Host.Cell) (a : Nat) : List Byte → List Host.Cell
  | [] => m
  | b :: bs => memStore (memWrite m a b) (a + 1) bs

/-- The number that bytes make, least significant first (R206: little-endian). -/
def leNat : List Byte → Nat
  | [] => 0
  | b :: bs => b.toNat + 256 * leNat bs

/-- The n bytes of a number, least significant first. -/
def leBytes : Nat → Nat → List Byte
  | 0, _ => []
  | n + 1, v => BitVec.ofNat 8 v :: leBytes n (v / 256)

/-! ## Keys of the four stores -/

/-- A physical address of HBM4E or landing storage. -/
def physKey (a : Nat) : Nat := a
/-- A PCIe address in host memory (R434). -/
def hostKey (a : Nat) : Nat := 2 ^ 52 + a
/-- A byte of a core's PM. -/
def pmKey (c : CoreId) (off : Nat) : Nat := 2 ^ 53 + c.toNat * 2 ^ 20 + off
/-- A byte of a cluster's hall. -/
def hallKey (c : ClusterId) (off : Nat) : Nat := 2 ^ 54 + c.toNat * 2 ^ 25 + off

/-- A key of PM or hall, whose words carry tags and SECDED (R127, R148). -/
def isLocalKey (k : Nat) : Bool := decide (2 ^ 53 ≤ k)
/-- A key of host memory. -/
def isHostKey (k : Nat) : Bool := decide (2 ^ 52 ≤ k) && decide (k < 2 ^ 53)

/-! ## Sorted sets of keys -/

/-- A key added to an ascending list. -/
def keyAdd : List Nat → Nat → List Nat
  | [], k => [k]
  | x :: l, k => if k < x then k :: x :: l else if k = x then x :: l else x :: keyAdd l k

/-- A key removed. -/
def keyDel (l : List Nat) (k : Nat) : List Nat := l.filter (fun x => x != k)

/-! ## Access to the state's memory -/

/-- A run of storage that an access touches: first key and length. -/
structure Piece where
  key : Nat
  len : Nat
deriving DecidableEq, Repr

/-- The unit that poison marks: a word of PM or hall, a 256-byte block elsewhere (R149). -/
def poisonUnit (k : Nat) : Nat := if isLocalKey k then 8 else 256
/-- The first key of the unit of poison that holds a key. -/
def poisonBase (k : Nat) : Nat := k - k % poisonUnit k

/-- The units of poison that a run touches. -/
def poisonBases (key len : Nat) : List Nat :=
  let u := poisonUnit key
  let b := poisonBase key
  (List.range ((key + len - b + u - 1) / u)).map (fun i => b + u * i)

/-- Whether a run touches poison. -/
def State.poisoned (s : State) (key len : Nat) : Bool :=
  if len = 0 then false else (poisonBases key len).any (fun k => s.poison.contains k)

/-- n bytes at a key. -/
def State.bytesAt (s : State) (key n : Nat) : List Byte := memBytes s.mem key n
/-- A little-endian number of n bytes at a key. -/
def State.natAt (s : State) (key n : Nat) : Nat := leNat (s.bytesAt key n)

/-- The poison left after a write of a run: a unit written whole becomes clean (R149). -/
def clearPoison (l : List Nat) (key len : Nat) : List Nat :=
  l.filter (fun b => !(decide (key ≤ b) && decide (b + poisonUnit b ≤ key + len)))

/-- The errors left after a write of a run: a unit written whole has a fresh check value (R148, R149). -/
def clearDamage (l : List (Nat × Bool)) (key len : Nat) : List (Nat × Bool) :=
  l.filter (fun d => !(decide (key ≤ d.1) && decide (d.1 + poisonUnit d.1 ≤ key + len)))

/-- Bytes written at a key, poison and errors cleared where a unit is written whole (R149). -/
def State.putBytes (s : State) (key : Nat) (bs : List Byte) : State :=
  { s with
    mem := memStore s.mem key bs, poison := clearPoison s.poison key bs.length,
    damaged := clearDamage s.damaged key bs.length }
/-- A little-endian number of n bytes written at a key. -/
def State.putNat (s : State) (key n v : Nat) : State := s.putBytes key (leBytes n v)

/-- The bytes of a list of pieces. -/
def State.piecesBytes (s : State) (ps : List Piece) : List Byte := ps.flatMap (fun p => s.bytesAt p.key p.len)
/-- Whether a list of pieces touches poison. -/
def State.piecesPoisoned (s : State) (ps : List Piece) : Bool := ps.any (fun p => s.poisoned p.key p.len)
/-- Bytes written over a list of pieces, in order. -/
def State.putPieces (s : State) : List Piece → List Byte → State
  | [], _ => s
  | p :: ps, bs => (s.putBytes p.key (bs.take p.len)).putPieces ps (bs.drop p.len)

/-- The keys of the bytes of pieces, in order. -/
def pieceKeys (ps : List Piece) : List Nat := ps.flatMap (fun p => (List.range p.len).map (fun i => p.key + i))

/-- Bytes written one by one at keys. -/
def memPuts (m : List Host.Cell) (l : List (Nat × Byte)) : List Host.Cell := l.foldl (fun m w => memWrite m w.1 w.2) m

/-- A byte with the mark of poison that a transfer carries (R149). -/
abbrev Carried := Byte × Bool

/-- A list of keys holds every byte of a unit of poison. -/
def wholeUnit (keys : List Nat) (b : Nat) : Bool := (List.range (poisonUnit b)).all (fun i => keys.contains (b + i))

/-- Bytes written at keys: a unit that they replace whole becomes clean, and carried poison marks its unit (R149). -/
def State.putCells (s : State) (l : List (Nat × Carried)) : State :=
  let keys := l.map (·.1)
  { s with
    mem := memPuts s.mem (l.map (fun w => (w.1, w.2.1))),
    poison := ((l.filter (fun w => w.2.2)).map (fun w => poisonBase w.1)).foldl keyAdd (s.poison.filter (fun b => !wholeUnit keys b)),
    damaged := s.damaged.filter (fun d => !wholeUnit keys d.1) }

/-- The part of a write that a byte goes with: its unit of a size in bytes; a unit of poison that has a mark or an error, and that
the write replaces whole, is replaced at one time, so that it becomes clean (R149, R154). -/
def State.groupOf (s : State) (keys : List Nat) (size k : Nat) : Nat :=
  let b := poisonBase k
  if (s.poison.contains b || s.damaged.any (fun d => d.1 == b)) && wholeUnit keys b then b / size else k / size

/-- A wide write of a context: the parts that a free choice picks are still to come, the others are written now, each whole at one
time (R154, R160). -/
def State.putWide (s : State) (c : CtxId) (size : Nat) (va : Word) (ps : List Piece) (bs : List Byte) : State :=
  let l := (pieceKeys ps).zip bs
  let later (k : Nat) : Bool := Config.granuleLate s.free (s.groupOf (pieceKeys ps) size k)
  { (s.putCells ((l.filter (fun w => !later w.1)).map (fun w => (w.1, (w.2, false))))) with
    free := s.free + 1,
    late := s.late ++ [⟨c, size, va, l.filter (fun w => later w.1), 0, .w64, []⟩] }

/-- The tag of the word at a key: full unless listed empty (R127). -/
def State.tagFull (s : State) (key : Nat) : Bool := !s.empties.contains (key - key % 8)
/-- The tag of the word at a key set full or empty (R127). -/
def State.setTag (s : State) (key : Nat) (full : Bool) : State :=
  { s with empties := if full then keyDel s.empties (key - key % 8) else keyAdd s.empties (key - key % 8) }

/-! ## Lanes -/

/-- Lane i of a vector register (R297). -/
def lane (v : VecWord) (i : Nat) : Lane := v.extractLsb' (32 * i) 32
/-- The lanes of a vector register, lane 0 first. -/
def lanes (v : VecWord) : List Lane := (List.range 64).map (lane v)
/-- A vector register of lanes, lane 0 first. -/
def ofLanes : List Lane → VecWord
  | [] => 0
  | x :: l => (ofLanes l <<< 32) ||| x.setWidth 2048
/-- The same lane 64 times (R217). -/
def splat (x : Lane) : VecWord := ofLanes (List.replicate 64 x)

/-- The lanes of `new` where a bit of the mask is set, those of `old` elsewhere (R298). -/
def mergeLanes (mask : Word) (old new : VecWord) : VecWord :=
  if mask = BitVec.allOnes 64 then new
  else ofLanes ((List.range 64).map (fun i => if mask.getLsbD i then lane new i else lane old i))

/-- A scalar in the value field of a result. -/
def ofWord (w : Word) : VecWord := w.setWidth 2048
/-- The scalar of a value field. -/
def toWord (v : VecWord) : Word := v.setWidth 64

/-- Lane i of a vector register replaced. -/
def setLane (v : VecWord) (i : Nat) (x : Lane) : VecWord :=
  (v &&& ~~~ ((0xFFFFFFFF#2048) <<< (32 * i))) ||| ((x.setWidth 2048 : VecWord) <<< (32 * i))

/-! ## Extensions of loaded elements (R272, R273) -/

/-- A loaded element extended to a scalar: i8, i16 and i32 by sign, every other by zero (R272). -/
def extScalar (ty : Fmt) (v : Nat) : Word := if fmtSignedSmall ty then extSign ty.bytes v else BitVec.ofNat 64 v
where
  /-- The formats that ld sign-extends (R272). -/
  fmtSignedSmall : Fmt → Bool
    | .i8 | .i16 | .i32 => true
    | _ => false
  /-- Sign extension from a width in bytes. -/
  extSign (b v : Nat) : Word := BitVec.ofInt 64 (if v.testBit (8 * b - 1) then (v : Int) - 2 ^ (8 * b) else v)

/-- A loaded element extended to a lane: i8 and i16 by sign, every other by zero (R273). -/
def extLane (ty : Fmt) (v : Nat) : Lane := (extScalar ty v).setWidth 32

end Sys2Proof.Machine
end

