-- ==== Sys2Proof/Machine/Trans.lean ====
section
/-!
DEFINITION. Address translation (spec/18 R432 to R436) and access tables (spec/20 R484 to R487): what a global range
reaches in storage, and whether a master may reach it.
-/
namespace Sys2Proof.Machine

/-- A stopped translation: PFLT kind, level, and the first faulting address (R442, R444). -/
structure TransFault where
  kind : BitVec 4
  level : BitVec 2
  va : Word
deriving DecidableEq, Repr

/-- DET of a PFLT (R441). -/
def TransFault.det (f : TransFault) : BitVec 32 := (f.level ++ f.kind : BitVec 6).setWidth 32

/-- Bits [63:55] are all equal (R123, R124). -/
def canonical (va : Word) : Bool := va.extractLsb' 55 9 == 0 || va.extractLsb' 55 9 == BitVec.allOnes 9

/-- Sign extension of a 56-bit virtual address (R123). -/
def sext56 (va : Word) : Word := (va.setWidth 56).signExtend 64

/-- The table index of a level and the bits of its leaf's offset (R432). -/
def levelIndex (va : Word) (level : Nat) : Nat :=
  match level with
  | 0 => (va.extractLsb' 39 17).toNat
  | 1 => (va.extractLsb' 30 9).toNat
  | 2 => (va.extractLsb' 21 9).toNat
  | _ => (va.extractLsb' 16 5).toNat
/-- The size of a leaf's page as a power of two (R432). -/
def levelBits (level : Nat) : Nat :=
  match level with
  | 1 => 30 | 2 => 21 | _ => 16
/-- The alignment of the table that a non-leaf entry names, as a power of two (R432). -/
def tableBits (level : Nat) : Nat :=
  match level with
  | 0 => 12 | 1 => 12 | _ => 8

/-- Populated HBM4E of a part (spec/01 R15 table; R433). -/
def hbmCapacity (p : PartNo) : Nat :=
  match p with
  | .e => 512 * 2 ^ 30 | .s => 384 * 2 ^ 30

/-- The capacity that the address map shows: each memory channel that has left it takes 2 GiB away (R433, R466). -/
def State.capacity (s : State) : Nat := hbmCapacity s.part - 2 ^ 31 * s.mgmt.removed.length

/-- ADDR of a table entry (R433). -/
def pteAddr (e : Word) : Nat := (e.extractLsb' 8 44).toNat * 256
/-- ATTR of a table entry (R433). -/
def pteAttr (e : Word) : BitVec 2 := e.extractLsb' 5 2

/-- The checks of R433 on a leaf of a level. -/
def leafOk (capacity : Nat) (level : Nat) (e : Word) : Bool :=
  decide (level ≠ 0) && !e.getLsbD 7 && e.extractLsb' 52 4 == 0 && pteAttr e != 3 &&
  decide (pteAddr e % 2 ^ levelBits level = 0) && (pteAttr e == 2 || decide (pteAddr e < capacity))
/-- The checks of R433 on an entry that names a table. -/
def branchOk (level : Nat) (e : Word) : Bool :=
  decide (level ≠ 3) && !e.getLsbD 7 && e.extractLsb' 52 4 == 0 && e.extractLsb' 2 5 == 0 &&
  decide (pteAddr e % 2 ^ tableBits level = 0)

/-- The walk from a table of a level: the leaf entry and its level, or the PFLT kind and the level of the stop
(R432, R433, R442). -/
def State.walkFrom (s : State) (va : Word) : Nat → Nat → Nat → Except (BitVec 4 × BitVec 2) (Word × Nat)
  | 0, _, level => .error (5, BitVec.ofNat 2 level)
  | fuel + 1, table, level =>
    let e : Word := BitVec.ofNat 64 (s.natAt (physKey (table + 8 * levelIndex va level)) 8)
    if !e.getLsbD 0 then .error (0, BitVec.ofNat 2 level)
    else if e.getLsbD 1 then
      if leafOk s.capacity level e then .ok (e, level) else .error (5, BitVec.ofNat 2 level)
    else if branchOk level e then s.walkFrom va fuel (pteAddr e) (level + 1)
    else .error (5, BitVec.ofNat 2 level)

/-- The table entries that a walk reads, from a table of a level on (R432). -/
def State.walkKeys (s : State) (va : Word) : Nat → Nat → Nat → List Nat
  | 0, _, _ => []
  | fuel + 1, table, level =>
    let k := physKey (table + 8 * levelIndex va level)
    let e : Word := BitVec.ofNat 64 (s.natAt k 8)
    if e.getLsbD 0 && !e.getLsbD 1 && branchOk level e then k :: s.walkKeys va fuel (pteAddr e) (level + 1) else [k]

/-- The caches that serve a requester: a core's own micro cache and that of its cluster; the engines of the package walk
(R13, R436; notes/assumptions/46.md). -/
def cachesOf (core : Option CoreId) : List TlbHolder :=
  match core with
  | some c => [.core c, .cluster c.cluster]
  | none => []

/-- A number for a cache. -/
def TlbHolder.number : TlbHolder → Nat
  | .core c => c.toNat
  | .cluster k => 512 + k.toNat

/-- The entries of a cache (R436). -/
def TlbHolder.size : TlbHolder → Nat
  | .core _ => 256
  | .cluster _ => 16384

/-- A cached translation of an address that serves a core (R436). -/
def State.cached (s : State) (core : Option CoreId) (part : BitVec 4) (va : Word) : Option Tlb :=
  s.tlb.find? (fun t => (cachesOf core).contains t.holder && t.part == part &&
    decide (t.va.toNat / 2 ^ t.bits = (va.setWidth 56).toNat / 2 ^ t.bits) &&
    Config.cacheKept s.gcc.toNat t.holder.number t.va.toNat)

/-- The leaf of an address and its page size as a power of two, through a cached translation or the walker (R436). -/
def State.leafOf (s : State) (core : Option CoreId) (part : BitVec 4) (va : Word) :
    Except (BitVec 4 × BitVec 2) (Word × Nat) :=
  match s.cached core part va with
  | some t => .ok (t.pte, t.bits)
  | none =>
    match s.walkFrom va 4 (s.parts[part.toNat]'(part.isLt)).root.toNat 0 with
    | .ok (e, level) => .ok (e, levelBits level)
    | .error x => .error x

/-- The level of a page size. -/
def bitsLevel (bits : Nat) : BitVec 2 := if bits = 30 then 1 else if bits = 21 then 2 else 3

/-- The permissions of R434 on a leaf: the kind of PFLT that a denial has. -/
def permFault (a : Access) (e : Word) : Option (BitVec 4) :=
  match a with
  | .read => if e.getLsbD 2 then none else some 1
  | .write => if e.getLsbD 3 then none else some 2
  | .fetch => if e.getLsbD 4 then none else some 3
  | .atomic =>
    if pteAttr e = 2 then some 6
    else if !e.getLsbD 2 then some 1
    else if !e.getLsbD 3 then some 2
    else none
  | .sync => if !e.getLsbD 2 then some 1 else if !e.getLsbD 3 then some 2 else none

/-- A translated run: the piece of storage, its attribute, and where it starts in the virtual range. -/
structure Run2 where
  piece : Piece
  attr : BitVec 2
  va : Word
deriving DecidableEq, Repr

/-- The runs of storage that n bytes from a virtual address reach for a requester, page by page (R130, R432). -/
def State.translate (s : State) (core : Option CoreId) (part : BitVec 4) (a : Access) : Nat → Word → Nat → Except TransFault (List Run2)
  | 0, _, _ => .ok []
  | fuel + 1, va, n =>
    if n = 0 then .ok []
    else if !canonical va then .error ⟨4, 0, va⟩
    else
      match s.leafOf core part va with
      | .error (k, l) => .error ⟨k, l, va⟩
      | .ok (e, bits) =>
        match permFault a e with
        | some k => .error ⟨k, if k = 6 then 0 else bitsLevel bits, va⟩
        | none =>
          let off := va.toNat % 2 ^ bits
          let len := min n (2 ^ bits - off)
          let base := pteAddr e + off
          let key := if pteAttr e = 2 then hostKey base else physKey base
          match s.translate core part a fuel (va + BitVec.ofNat 64 len) (n - len) with
          | .error f => .error f
          | .ok rest => .ok (⟨⟨key, len⟩, pteAttr e, va⟩ :: rest)

/-- The translation of a range, with enough fuel for its pages. -/
def State.translateAll (s : State) (core : Option CoreId) (part : BitVec 4) (a : Access) (va : Word) (n : Nat) :
    Except TransFault (List Run2) :=
  s.translate core part a (n / 65536 + 2) va n

/-- A translation entered into a cache as its newest entry; a full cache drops its oldest (R436). -/
def enterTlb (t : Tlb) (l : List Tlb) : List Tlb :=
  t :: (l.filter (fun u => u.holder == t.holder && !(u.part == t.part && u.va == t.va))).take (t.holder.size - 1) ++
    l.filter (fun u => u.holder != t.holder)

/-! ## Access tables (R484 to R486) -/

/-- A range grants an access of bytes lo to hi (R485). -/
def rangeGrants (r : AccRange) (a : Access) (lo hi : Nat) : Bool :=
  r.hi.getLsbD 3 &&
  (match a with
   | .read | .fetch => r.hi.getLsbD 0
   | .write => r.hi.getLsbD 1
   | .atomic | .sync => r.hi.getLsbD 2) &&
  decide (r.lo.toNat / 4096 ≤ lo / 4096) && decide (hi / 4096 ≤ r.hi.toNat / 4096)

/-- The master identity of a class of requester for a partition (R484). -/
def masterOf (part : BitVec 4) (cls : BitVec 4) : BitVec 8 := part ++ cls

/-- A target's table permits an access of bytes lo to hi by a master (R485). -/
def State.permits (s : State) (t : Target) (master : BitVec 8) (a : Access) (lo hi : Nat) : Bool :=
  s.access.any (fun e => e.1 == t && e.2.1 == master && e.2.2.any (fun r => rangeGrants r a lo hi))

/-- A non-memory key is shifted left by 12 (R486). -/
def State.permitsKey (s : State) (t : Target) (master : BitVec 8) (a : Access) (key : Nat) : Bool :=
  s.permits t master a (key * 4096) (key * 4096 + 4095)

/-- The HBM4E stacks that a part populates (R1, R12). -/
def stacksOf (p : PartNo) : List (BitVec 3) :=
  match p with
  | .e => [0, 1, 2, 3, 4, 5, 6, 7]
  | .s => [0, 1, 2, 3, 4, 6]

/-- The stack that holds a line: the hash is not architectural, but it names populated stacks (R12, R16). -/
def State.stackOf (s : State) (line : Nat) : BitVec 3 :=
  ((stacksOf s.part)[(Config.homeStack line).toNat % (stacksOf s.part).length]?).getD 0

/-- The 256-byte lines of a run. -/
def linesOf (key len : Nat) : List Nat :=
  if len = 0 then [] else (List.range ((key + len - 1) / 256 - key / 256 + 1)).map (fun i => key / 256 + i)

/-- The access tables on the path of a translated run permit it (R486): the PCIe table for a HOST page, the landing
for an atomic, else the slice and the controller of every line. -/
def State.permitsRun (s : State) (master : BitVec 8) (a : Access) (r : Run2) : Bool :=
  let k := r.piece.key
  let hi := k + r.piece.len - 1
  if isHostKey k then s.permits .pcie master a (k - 2 ^ 52) (hi - 2 ^ 52)
  else if a = .atomic ∨ a = .sync then
    s.permits (.landing (Config.homeLanding (k / 256))) master a k hi
  else
    (linesOf k r.piece.len).all (fun l =>
      let lo := max k (256 * l)
      let top := min hi (256 * l + 255)
      s.permits (.cellar (Config.homeSlice l)) master a lo top && s.permits (.hbm (s.stackOf l)) master a lo top)

/-- A partition's access to a global range by a class of requester on behalf of a core, or of none: the pieces, or nothing
when translation or a table refuses it. -/
def State.piecesFor (s : State) (core : Option CoreId) (part : BitVec 4) (cls : BitVec 4) (a : Access) (va : Word)
    (n : Nat) : Option (List Piece) :=
  match s.translateAll core part a va n with
  | .error _ => none
  | .ok rs => if rs.all (s.permitsRun (masterOf part cls) a) then some (rs.map (·.piece)) else none

/-- The same for the engines of the package and the scheduler, which no core's caches serve. -/
def State.globalPieces (s : State) (part : BitVec 4) (cls : BitVec 4) (a : Access) (va : Word) (n : Nat) :
    Option (List Piece) :=
  s.piecesFor none part cls a va n

/-- A little-endian number read from a partition's global space by a class of requester. -/
def State.globalNat (s : State) (part : BitVec 4) (cls : BitVec 4) (va : Word) (n : Nat) : Option Nat :=
  (s.globalPieces part cls .read va n).map (fun ps => leNat (s.piecesBytes ps))

/-- Bytes written to a partition's global space by a class of requester; a refused write changes nothing. -/
def State.globalPut (s : State) (part : BitVec 4) (cls : BitVec 4) (va : Word) (bs : List Byte) : State :=
  match s.globalPieces part cls .write va bs.length with
  | some ps => s.putPieces ps bs
  | none => s

/-- Ranges written one after another, all translated and checked before the first write; a refused one changes nothing
(R339, R345). -/
def State.globalPutAll (s : State) (part : BitVec 4) (cls : BitVec 4) (ws : List (Word × List Byte)) : State :=
  (ws.map (fun w => (s.globalPieces part cls .write w.1 w.2.length, w.2))).foldl
    (fun u p => match p.1 with | some ps => u.putPieces ps p.2 | none => u) s

end Sys2Proof.Machine
end

