-- ==== Sys2Proof/Machine/Ops.lean ====
section
/-!
DEFINITION. The named operations over contexts: registers (spec/08 R222), context time and results (spec/04 R92 to R95),
slip buffers (R96, R513), waits (R118 to R121), records (spec/17 R431), and taking a trap and returning from one
(spec/18 R443 to R450).
-/
namespace Sys2Proof.Machine

/-- The outcome of a step of this machine. -/
abbrev Out := Host.Outcome State Fault Refusal

/-! ## Contexts and cores -/

/-- A context. -/
def State.ctx (s : State) (c : CtxId) : Ctx := s.ctxs[c.toNat]'(c.isLt)
/-- A context replaced. -/
def State.setCtx (s : State) (c : CtxId) (x : Ctx) : State := { s with ctxs := s.ctxs.set c.toNat x c.isLt }
/-- A context changed. -/
def State.mapCtx (s : State) (c : CtxId) (f : Ctx → Ctx) : State := s.setCtx c (f (s.ctx c))
/-- The context that issues. -/
def State.cx (s : State) : Ctx := s.ctx s.env.cid
/-- The context that issues, changed. -/
def State.mapCx (s : State) (f : Ctx → Ctx) : State := s.mapCtx s.env.cid f
/-- A core. -/
def State.core (s : State) (c : CoreId) : Core := s.cores[c.toNat]'(c.isLt)
/-- A core changed. -/
def State.mapCore (s : State) (c : CoreId) (f : Core → Core) : State :=
  { s with cores := s.cores.set c.toNat (f (s.core c)) c.isLt }
/-- The core that issues. -/
def State.myCore (s : State) : CoreId := s.env.cid.core
/-- A partition. -/
def State.partOf (s : State) (p : BitVec 4) : Part := s.parts[p.toNat]'(p.isLt)
/-- A partition changed. -/
def State.mapPart (s : State) (p : BitVec 4) (f : Part → Part) : State :=
  { s with parts := s.parts.set p.toNat (f (s.partOf p)) p.isLt }
/-- The region with a number. -/
def State.rgnOf (s : State) (id : Nat) : Option Rgn := s.rgns.find? (fun r => r.id == id)
/-- The region of a context's task. -/
def State.ctxRgn (s : State) (c : CtxId) : Option Rgn := (s.ctx c).task.bind (fun t => s.rgnOf t.region)
/-- Two levels are those of one RCB: the same address of the same space (R406). -/
def Level.same (a b : Level) : Bool := a.rcb == b.rcb && a.space == b.space
/-- The partition of a context's task; 0 without a task. -/
def State.ctxPart (s : State) (c : CtxId) : BitVec 4 :=
  match (s.ctx c).task with
  | some t => t.part
  | none => 0
/-- The region of a context is EXACT (R409). -/
def State.isExact (s : State) (c : CtxId) : Bool :=
  match s.ctxRgn c with
  | some r => r.exact
  | none => false
/-- A free value of the machine, the counter moved on (notes/assumptions/1.md). -/
def State.drawWord (s : State) : Word × State := (Config.freeWord s.free, { s with free := s.free + 1 })

/-- The deadline clock of a context (R117). -/
def State.dtc (s : State) (c : CtxId) : Word :=
  match (s.ctx c).dtc with
  | .running base => s.gcc - base
  | .frozen v => v

/-! ## Registers (R222, R298) -/

/-- A scalar register; s0 reads 0. -/
def Ctx.rs (x : Ctx) (r : SReg) : Word := if r = 0 then 0 else x.s[r.toNat]'(r.isLt)
/-- A vector register. -/
def Ctx.rv (x : Ctx) (r : VReg) : VecWord := x.v[r.toNat]'(r.isLt)
/-- A predicate; p0 reads all ones. -/
def Ctx.rp (x : Ctx) (r : PReg) : Word := if r = 0 then BitVec.allOnes 64 else x.p[r.toNat]'(r.isLt)
/-- A scalar register written; a write to s0 is discarded. -/
def Ctx.ws (x : Ctx) (r : SReg) (w : Word) : Ctx := if r = 0 then x else { x with s := x.s.set r.toNat w r.isLt }
/-- Lanes of a vector register written. -/
def Ctx.wv (x : Ctx) (r : VReg) (mask : Word) (w : VecWord) : Ctx :=
  { x with v := x.v.set r.toNat (mergeLanes mask (x.rv r) w) r.isLt }
/-- A predicate written; a write to p0 is discarded. -/
def Ctx.wp (x : Ctx) (r : PReg) (w : Word) : Ctx := if r = 0 then x else { x with p := x.p.set r.toNat w r.isLt }
/-- An accumulator. -/
def Ctx.ra (x : Ctx) (a : AReg) : Acc := x.acc[a.toNat]'(a.isLt)
/-- An accumulator changed. -/
def Ctx.mapAcc (x : Ctx) (a : AReg) (f : Acc → Acc) : Ctx :=
  { x with acc := x.acc.set a.toNat (f (x.ra a)) a.isLt }
/-- The ring-table entry bound to a handle. -/
def Ctx.rh (x : Ctx) (h : HReg) : Option (BitVec 6) := x.h[h.toNat]'(h.isLt)
/-- A loop level; levels 6 and 7 do not exist and read as idle. -/
def Ctx.level? (x : Ctx) (lv : BitVec 3) : Loop := (x.loops.toList[lv.toNat]?).getD Loop.idle
/-- A loop level changed. -/
def Ctx.mapLoop (x : Ctx) (lv : Nat) (f : Loop → Loop) : Ctx :=
  { x with loops := if h : lv < 6 then x.loops.set lv (f (x.loops[lv]'h)) h else x.loops }
/-- A receive queue. -/
def Ctx.queue (x : Ctx) (q : BitVec 3) : List (VecWord × Bool) := x.rq[q.toNat]'(q.isLt)
/-- A receive queue replaced. -/
def Ctx.setQueue (x : Ctx) (q : BitVec 3) (l : List (VecWord × Bool)) : Ctx :=
  { x with rq := x.rq.set q.toNat l q.isLt }

/-- Handler privilege: inside a handler, or a task of a region of effective priority 7 (R405). -/
def State.handlerRights (s : State) (c : CtxId) : Bool :=
  decide ((s.ctx c).level ≠ 0) ||
  match s.ctxRgn c with
  | some r => r.prio == 7
  | none => false

/-- CAPW of the part (R18). -/
def capwOf : PartNo → Word
  | .e => 0x4051_14C8_8440_7351#64
  | .s => 0x3052_0466_8440_7252#64

/-- A control register as an instruction of the environment reads it (R122, R235, R265). -/
def State.ctlValue (s : State) (cr : CReg) : Word :=
  let x := s.cx
  match cr with
  | .pcx => s.env.pc
  | .ctm => s.env.ctm
  | .gcc => s.gcc
  | .dtc => s.dtc s.env.cid
  | .dlw => x.ctl.dlw
  | .wst => x.ctl.wst
  | .civ => x.ctl.civ
  | .wfl => x.ctl.wfl
  | .tcs => x.trap.tcs
  | .tad => x.trap.tad
  | .sfm => x.trap.sfm
  | .tvb => x.ctl.tvb
  | .fpc => x.ctl.fpc
  | .fps => x.ctl.fps
  | .dcf => x.ctl.dcf
  | .dca => x.ctl.dca
  | .capw => capwOf s.part
  | .capn => x.ctl.capn
  | .tx => x.ctl.tx
  | .ty => x.ctl.ty
  | .tz => x.ctl.tz
  | .cpos => x.ctl.cpos
  | .csz => x.ctl.csz
  | .vovf => x.ctl.vovf
  | .dga => x.ctl.dga
  | .lc l => ((x.loops[l.val]'(l.isLt)).lc).setWidth 64

/-- A control register replaced by a write that has passed its checks (R122, R266); a read-only one ignores it and
DCF clears the bits written as one. -/
def Ctx.setCtl (x : Ctx) (cr : CReg) (w : Word) : Ctx :=
  match cr with
  | .dlw => { x with ctl := { x.ctl with dlw := w } }
  | .wst => { x with ctl := { x.ctl with wst := w } }
  | .civ => { x with ctl := { x.ctl with civ := w } }
  | .wfl => { x with ctl := { x.ctl with wfl := w } }
  | .tcs => { x with trap := { x.trap with tcs := w } }
  | .tad => { x with trap := { x.trap with tad := w } }
  | .sfm => { x with trap := { x.trap with sfm := w } }
  | .tvb => { x with ctl := { x.ctl with tvb := w } }
  | .fpc => { x with ctl := { x.ctl with fpc := w } }
  | .fps => { x with ctl := { x.ctl with fps := w } }
  | .dcf => { x with ctl := { x.ctl with dcf := x.ctl.dcf &&& ~~~ w } }
  | .vovf => { x with ctl := { x.ctl with vovf := w } }
  | .dga => { x with ctl := { x.ctl with dga := w } }
  | .pcx | .ctm | .gcc | .dtc | .dca | .capw | .capn | .tx | .ty | .tz | .cpos | .csz | .lc _ => x

/-! ## Records in memory queues (R431, R435) -/

/-- The header of a record queue: log2 of its record count, HEAD and TAIL (R431). -/
def State.queueHeader (s : State) (part : BitVec 4) (q : Word) : Option (Nat × Nat × Nat) :=
  match s.globalNat part 4 q 16 with
  | none => none
  | some n => some (n % 32, n / 2 ^ 32 % 2 ^ 32, n / 2 ^ 64 % 2 ^ 32)

/-- A record written at TAIL, and TAIL moved on. -/
def State.putRecord (s : State) (part : BitVec 4) (q : Word) (ln tail : Nat) (bs : List Byte) : State :=
  let at' := q + BitVec.ofNat 64 (16 + bs.length * (tail % 2 ^ ln))
  s.globalPutAll part 4 [(at', bs), (q + 8, leBytes 4 (tail + 1))]

/-- A record posted to a queue: written when there is room and none is held before it, else held up to 256 records,
else dropped with OVF set (R431). -/
def State.post (s : State) (part : BitVec 4) (q : Word) (bs : List Byte) : State :=
  match s.queueHeader part q with
  | none => s
  | some (ln, head, tail) =>
    let waiting := s.held.filter (fun h => h.1 == part && h.2.1 == q)
    if (tail + 2 ^ 32 - head) % 2 ^ 32 < 2 ^ ln ∧ waiting = [] then s.putRecord part q ln tail bs
    else if waiting.length < 256 then { s with held := s.held ++ [(part, q, bs)] }
    else s.globalPut part 4 (q + 12) [BitVec.ofNat 8 1]

/-- Held records written where room has come (R431), one pass with fuel. -/
def State.flushHeld : Nat → State → State
  | 0, s => s
  | n + 1, s =>
    match s.held with
    | [] => s
    | (part, q, bs) :: rest =>
      match s.queueHeader part q with
      | none => State.flushHeld n { s with held := rest ++ [(part, q, bs)] }
      | some (ln, head, tail) =>
        if (tail + 2 ^ 32 - head) % 2 ^ 32 < 2 ^ ln then
          State.flushHeld n (({ s with held := rest } : State).putRecord part q ln tail bs)
        else State.flushHeld n { s with held := rest ++ [(part, q, bs)] }

/-- The brake van changed. -/
def State.mapVan (s : State) (f : Van → Van) : State := { s with van := f s.van }
/-- One record put into the lease log when it has room (R431, R465). -/
def State.putLog (s : State) (r : BitVec 256) : Option State :=
  let q := physKey s.van.cfg.log.toNat
  let n := 2 ^ (s.van.cfg.logn.toNat % 32)
  let head := s.natAt (q + 4) 4
  let tail := s.natAt (q + 8) 4
  if (tail + 2 ^ 32 - head) % 2 ^ 32 < n then
    some ((s.putBytes (q + 16 + 32 * (tail % n)) (leBytes 32 r.toNat)).putNat (q + 8) 4 (tail + 1))
  else none

/-- The oldest lease record that waits is written, where there is one and it has room (R431, R465). -/
def State.flushOne (s : State) : Option State :=
  match s.van.logHeld with
  | [] => none
  | r :: rest => (s.putLog r).map (fun t => t.mapVan (fun v => { v with logHeld := rest }))

/-- Lease records that wait are written as far as there is room, with fuel (R431, R465). -/
def State.flushLog (s : State) : Nat → State
  | 0 => s
  | n + 1 => s.flushOne.elim s (fun t => State.flushLog t n)

/-- A trace record (R511). -/
def traceBytes (kind : Nat) (c : CtxId) (any : Bool) (cnt : Nat) (ctm gcc addr : Word) : List Byte :=
  leBytes 1 kind ++ (if any then leBytes 1 c.num.toNat ++ leBytes 2 c.core.toNat else leBytes 3 0) ++ leBytes 4 cnt ++
  leBytes 8 ctm.toNat ++ leBytes 8 gcc.toNat ++ leBytes 8 addr.toNat

/-- One record put into a partition's trace ring, or dropped and counted when the ring is full (R510, R512). -/
def State.putTrace (s : State) (part : BitVec 4) (cfg : TraceConfig) (bs : List Byte) : State :=
  let q := physKey cfg.ring.toNat
  let n := 2 ^ cfg.logn.toNat
  let head := s.natAt (q + 4) 4
  let tail := s.natAt (q + 8) 4
  if (tail + 2 ^ 32 - head) % 2 ^ 32 < n then (s.putBytes (q + 16 + 32 * (tail % n)) bs).putNat (q + 8) 4 (tail + 1)
  else
    s.mapPart part (fun p =>
      { p with traceDropped := if p.traceDropped = BitVec.allOnes 32 then p.traceDropped else p.traceDropped + 1 })

/-- There is room in a trace ring (R512). -/
def State.traceRoom (s : State) (cfg : TraceConfig) : Bool :=
  let q := physKey cfg.ring.toNat
  decide ((s.natAt (q + 8) 4 + 2 ^ 32 - s.natAt (q + 4) 4) % 2 ^ 32 < 2 ^ cfg.logn.toNat)

/-- A traced context writes a record; the first one after a loss comes behind a record of the loss (R511, R512). -/
def State.trace (s : State) (c : CtxId) (kind : Nat) (ctm addr : Word) (cnt : Nat) : State :=
  let part := s.ctxPart c
  match (s.partOf part).trace with
  | none => s
  | some cfg =>
    if !cfg.mask.getLsbD c.num.toNat ∨ (kind = 2 ∧ cfg.branch = false) then s
    else
      let lost := (s.partOf part).traceDropped
      let s1 :=
        if lost ≠ 0 ∧ s.traceRoom cfg then
          (s.mapPart part (fun p => { p with traceDropped := 0 })).putTrace part cfg
            (traceBytes 6 c false lost.toNat 0 s.gcc 0)
        else s
      s1.putTrace part cfg (traceBytes kind c true cnt ctm s.gcc addr)

/-- A record of a region's event queue (R431). -/
def State.postEvent (s : State) (r : Rgn) (kind ctx core cnt : Nat) (det : Word) : State :=
  s.post r.part r.evq
    (leBytes 1 kind ++ leBytes 1 ctx ++ leBytes 2 core ++ leBytes 4 cnt ++ leBytes 8 r.rcb.toNat ++
      leBytes 8 s.gcc.toNat ++ leBytes 8 det.toNat)

/-! ## The end of a wait (R119, R121, R430) -/

/-- The status codes of WST (R119). -/
inductive WaitSt
  | ok | timeout | withdrawn | partly | failed | cancelled
deriving DecidableEq, Repr

/-- The code of a status (R119). -/
def WaitSt.code : WaitSt → Nat
  | .ok => 0 | .timeout => 1 | .withdrawn => 2 | .partly => 3 | .failed => 4 | .cancelled => 5

/-- The fields that the end of a wait writes: ST, CLS and SLOT (R119). -/
def wstBits (st : WaitSt) (cls : BitVec 8) (slot : Pos) : Word :=
  (slot ++ cls ++ 0#5 ++ BitVec.ofNat 3 st.code : BitVec 19).setWidth 64

/-- WST after a wait ends with the given fields; TOC counts timeouts and OK clears it (R119, R121). -/
def nextWst (old bits : Word) : Word :=
  let toc : BitVec 8 := old.extractLsb' 24 8
  let st := (bits.extractLsb' 0 3).toNat
  let toc' : BitVec 8 :=
    if st = 0 then 0 else if st = 1 ∨ st = 2 ∨ st = 3 then (if toc = 255 then 255 else toc + 1) else toc
  (toc'.setWidth 64 <<< 24) ||| (bits &&& 0x7FF07#64)

/-- The effective ESC of a context's region: 0 asks for no WESC (R121, R408). -/
def State.escOf (s : State) (c : CtxId) : BitVec 8 :=
  match s.ctxRgn c with
  | some r => r.esc
  | none => 0

/-- The end of a wait brings TOC to ESC (R121). -/
def reachesEsc (esc : BitVec 8) (old bits : Word) : Bool :=
  let st := (bits.extractLsb' 0 3).toNat
  (st == 1 || st == 2 || st == 3) && esc != 0 && decide (esc.toNat ≤ ((nextWst old bits).extractLsb' 24 8 : BitVec 8).toNat)

/-- WST after the end of a wait: TOC is cleared when it reaches ESC (R121). -/
def wstAfter (esc : BitVec 8) (old bits : Word) : Word :=
  if reachesEsc esc old bits then nextWst old bits &&& ~~~ 0xFF000000#64 else nextWst old bits

/-- The region of a context is told that TOC has reached ESC: one WESC record a millisecond, which counts the others (R121,
R430). -/
def State.escalate (s : State) (c : CtxId) : State :=
  match s.ctxRgn c with
  | none => s
  | some r =>
    let x := s.ctx c
    if x.wescAt.any (fun g => decide ((s.gcc - g).toNat < 1000000)) then s.setCtx c { x with wescMore := x.wescMore + 1 }
    else
      (s.setCtx c { x with wescAt := some s.gcc, wescMore := 0 }).postEvent r 1 c.num.toNat c.core.toNat
        (x.wescMore.toNat + 1) 0

/-- Write WST at the end of a wait; when TOC reaches ESC, the region is told (R121, R430). -/
def State.endWait (s : State) (c : CtxId) (bits : Word) : State :=
  let x := s.ctx c
  let s1 := s.setCtx c { x with ctl := { x.ctl with wst := wstAfter (s.escOf c) x.ctl.wst bits } }
  if reachesEsc (s.escOf c) x.ctl.wst bits then s1.escalate c else s1

/-! ## Results (R93 to R95) -/

/-- A result with nothing in it. -/
def Result.base : Result :=
  ⟨0, 0, 0, 0, 0, .none, 0, BitVec.allOnes 64, BitVec.allOnes 64, false, false, true, 0, Flags.none, none, false, false,
    false, false, 0, false, false, false⟩

/-- The order in which writes take effect: due time, slot position (R93). Of two writes of one slot due at the same time, on
which the manual is silent, the one issued later takes effect last (DESIGN CHOICE, notes/assumptions/17.md). -/
def Result.before (a b : Result) : Bool :=
  decide (a.due.toNat < b.due.toNat) ||
  (decide (a.due = b.due) && (decide (a.pos.toNat < b.pos.toNat) || (decide (a.pos = b.pos) && decide (a.rid < b.rid))))

/-- Insertion into a list sorted by `Result.before`. -/
def insertResult (r : Result) : List Result → List Result
  | [] => [r]
  | x :: l => if r.before x then r :: x :: l else x :: insertResult r l
/-- Results in the order in which they take effect. -/
def sortResults (l : List Result) : List Result := l.foldr insertResult []

/-- Consumptions counted in CIV (R451). -/
def civAdd (civ : Word) (preg peng : Bool) : Word :=
  if preg || peng then
    let cnt : BitVec 16 := civ.extractLsb' 0 16
    let cnt' : BitVec 16 := if cnt = 0xFFFF then cnt else cnt + 1
    (civ &&& ~~~ 0xFFFF#64) ||| cnt'.setWidth 64 ||| (if preg then 0x10000#64 else 0) ||| (if peng then 0x20000#64 else 0)
  else civ

/-- Consumptions and a dropped reduction counted by a result in a CIV word (R439, R451). -/
def Result.civ (r : Result) (w : Word) : Word :=
  if r.rdrop then civAdd w r.preg r.peng ||| 0x40000#64 else civAdd w r.preg r.peng

/-- A CIV word and what has been counted since, together (R253, R451). -/
def civMerge (civ since : Word) : Word :=
  let n := min 0xFFFF (civ.extractLsb' 0 16).toNat + (since.extractLsb' 0 16).toNat
  ((civ ||| since) &&& ~~~ 0xFFFF#64) ||| BitVec.ofNat 64 (min 0xFFFF n)

/-- What a later write leaves of the unarrived results before it: they lose the lanes of the register that it writes, and
their contributions to a control register that it writes (R36, R93). -/
def overtaken (r : Result) (l : List Result) : List Result :=
  l.map (fun x =>
    if !x.before r then x
    else
      let y := { x with
        noFps := x.noFps || decide (r.dest = .ctl .fps), noCiv := x.noCiv || decide (r.dest = .ctl .civ) }
      if r.dest = .ctl .wst ∧ x.dest = .wait then { y with dest := .none }
      else if x.dest = r.dest ∧ x.dest ≠ .none ∧ x.dest ≠ .wait then
        let m := x.mask &&& ~~~ r.mask
        { y with mask := m, dest := if m = 0 then .none else x.dest }
      else y)

/-- A consumption that takes effect is kept for the unarrived writes of CIV that fell due before it (R253). -/
def keptFor (r : Result) (l : List Result) : List Result :=
  l.map (fun y => if y.dest = .ctl .civ ∧ y.before r then { y with stride := r.civ y.stride } else y)

/-- A value written to its destination in a context (R93, R107, R298). -/
def Ctx.writeDest (x : Ctx) (r : Result) : Ctx :=
  match r.dest with
  | .none | .wait => x
  | .s d => x.ws d (toWord r.val + r.stride)
  | .v d => x.wv d r.mask r.val
  | .p d => x.wp d (toWord r.val)
  | .ctl .civ => x.setCtl .civ (civMerge (toWord r.val) r.stride)
  | .ctl c => x.setCtl c (toWord r.val)

/-- A write that FPX suppresses leaves its register, to which the strides of the loop sequencer still apply (R37, R107). -/
def Ctx.strideOnly (x : Ctx) (r : Result) : Ctx :=
  match r.dest with
  | .s d => if r.stride = 0 then x else x.ws d (x.rs d + r.stride)
  | _ => x

/-- What wrote a register goes with it (R216). -/
def Ctx.markMade (x : Ctx) (r : Result) : Ctx :=
  let m : Option Maker := some ⟨r.op, r.pos, r.dup⟩
  match r.dest with
  | .s d => if d = 0 then x else { x with madeS := x.madeS.set d.toNat m d.isLt }
  | .v d => { x with madeV := x.madeV.set d.toNat m d.isLt }
  | _ => x

/-- A boundary trap joins the pending ones; two FPX or CMPM of one bundle become one (R37, R445). -/
def addBTrap (t : BTrap) : List BTrap → List BTrap
  | [] => [t]
  | x :: l =>
    if x.cause = t.cause ∧ x.tad = t.tad ∧ x.level = t.level ∧ x.issued = t.issued ∧ t.cause ≠ .pmiss then
      { x with sfm := x.sfm ||| t.sfm, det := if t.cause = .fpx then x.det ||| t.det else x.det } :: l
    else x :: addBTrap t l

/-- DET of an FPX: INX, INV, OVF, QSAT (R441). -/
def Flags.det (f : Flags) : BitVec 32 := f.toWord.setWidth 32

/-- A result takes effect: its flags and consumptions, and its value unless an enabled flag suppresses it (R36, R37,
R93, R451). -/
def State.applyResult (s : State) (c : CtxId) (r : Result) : State :=
  let x := s.ctx c
  let x1 : Ctx :=
    { x with
      results := if r.noCiv then x.results else keptFor r x.results,
      ctl := { x.ctl with
        fps := if r.noFps then x.ctl.fps else x.ctl.fps ||| r.flags.toWord,
        civ := if r.noCiv then x.ctl.civ else r.civ x.ctl.civ } }
  match r.fpx with
  | some f =>
    s.setCtx c { (x1.strideOnly r) with
      btraps := addBTrap ⟨x1.level, .fpx, r.pc, 1#8 <<< r.pos.toNat, f.det, r.issued⟩ x1.btraps }
  | none =>
    let s1 := s.setCtx c ((({ x1 with results := overtaken r x1.results } : Ctx).writeDest r).markMade r)
    if r.dest = .wait then s1.endWait c (toWord r.val) else s1

/-- The results due at the context's time and arrived take effect in order (R93, R94). -/
def State.applyDue (s : State) (c : CtxId) : State :=
  let x := s.ctx c
  let due := x.results.filter (fun r => r.arrived && decide (r.due.toNat ≤ x.ctm.toNat))
  let rest := x.results.filter (fun r => !(r.arrived && decide (r.due.toNat ≤ x.ctm.toNat)))
  (sortResults due).foldl (fun s r => s.applyResult c r) (s.setCtx c { x with results := rest })

/-- The lanes that a produced result writes: none when an enabled flag suppresses it (R37, R298). -/
def Result.written (r : Result) : Word := if r.fpx.isSome then 0 else r.wrote

/-- A need met by a value, in the captured operands of a slip entry of a region with an ESC (R95, R96, R121). -/
def RegView.meet (esc : BitVec 8) (v : RegView) (n : Need) (r : Result) : RegView :=
  let m := n.mask &&& r.written
  match n.dest with
  | .s d => { v with s := v.s.set d.toNat ((if m = 0 then v.s[d.toNat]'(d.isLt) else toWord r.val) + n.stride) d.isLt }
  | .v d => { v with v := v.v.set d.toNat (mergeLanes m (v.v[d.toNat]'(d.isLt)) r.val) d.isLt }
  | .p d => if m = 0 then v else { v with p := v.p.set d.toNat (toWord r.val) d.isLt }
  | .ctl .fps => { v with ctl := v.ctl ||| r.flags.toWord }
  | .ctl .civ => { v with ctl := r.civ v.ctl }
  | .ctl _ => { v with ctl := toWord r.val }
  | .wait => { v with ctl := wstAfter esc v.ctl (toWord r.val) }
  | .none => v

/-- An older pending result no longer counts in the lanes that a value has overtaken (R93, R95). -/
def Need.yield (n : Need) (met : List Need) (r : Result) : Need :=
  match n.dest with
  | .s _ | .v _ | .p _ =>
    if met.any (fun m => m.dest == n.dest && m.older.contains n.rid) then { n with mask := n.mask &&& ~~~ r.written } else n
  | _ => n

/-- The storage lies in a PM frame that is out of service: accesses to it wait (R425). -/
def Touch.away (t : Touch) : Bool := decide (2 ^ 57 ≤ t.key)

/-- The entry is in the wait of a reader (R118). -/
def SlipEntry.reading (e : SlipEntry) : Bool :=
  match e.wait with
  | some w => w.reader
  | none => false

/-- The wait of a reader ends when the last value that it waits for is there; it writes no WST
(notes/assumptions/17.md). -/
def SlipEntry.readEnd (e : SlipEntry) : SlipEntry :=
  if e.need = [] ∧ e.touch.any (·.away) = false ∧ e.reading then
    { e with wait := none, expired := false }
  else e

/-- A limit that began at a DTC has passed (R118). -/
def Wait.past (w : Wait) (now : Word) : Bool := decide (w.limit.toNat ≤ (now - w.t0).toNat)

/-- A value delivered to one slip entry at a DTC: one whose wait has reached its limit takes nothing more (R96, R118). -/
def SlipEntry.meet (esc : BitVec 8) (now : Word) (e : SlipEntry) (r : Result) : SlipEntry :=
  let mine := e.need.filter (fun n => n.rid == r.rid)
  if mine = [] then e
  else if e.expired || e.wait.any (fun w => w.past now) then { e with expired := true }
  else
    SlipEntry.readEnd { e with
      view := mine.foldl (fun v n => v.meet esc n r) e.view,
      need := ((e.need.filter (fun n => n.rid != r.rid)).map (fun n => n.yield mine r)).filter (fun n => n.mask != 0) }

/-- A produced value stored in a result. -/
def Result.fill (r y : Result) : Result :=
  { r with
    val := y.val, flags := y.flags, fpx := y.fpx, preg := y.preg, peng := y.peng, held := false,
    mask := r.mask &&& y.mask, wrote := y.mask }

/-- The value of result rid has arrived: marked, delivered to waiting entries, and, when it is due, put into effect
(R95, R96). In a frozen set it is marked and delivered only; the limits there are remaining ones, of which no time passes
(R100, R118). -/
def State.arrive (s : State) (c : CtxId) (rid : Nat) : State :=
  let x := s.ctx c
  let mark (l : List Result) := l.map (fun r => if r.rid = rid then { r with arrived := true, held := false } else r)
  let meet (now : Word) (l : List SlipEntry) (rs : List Result) :=
    match rs.find? (fun r => r.rid == rid) with
    | some r => l.map (fun e => e.meet (s.escOf c) now r)
    | none => l
  (s.setCtx c { x with
    results := mark x.results, slip := meet (s.dtc c) x.slip x.results,
    frozen := x.frozen.map (fun f => { f with results := mark f.results, slip := meet 0 f.slip f.results }) }).applyDue c

/-! ## Needs: pending registers (R95, R513) -/

/-- A register operand of an instruction. -/
inductive Src
  | s (r : SReg) | v (r : VReg) | p (r : PReg) | ctl (c : CReg)
deriving DecidableEq, Repr

/-- A result that a reader of a register waits for (R36, R95, R270, R451). -/
def Src.waitsFor (q : Src) (r : Result) : Bool :=
  match q with
  | .s d => decide (d ≠ 0) && decide (r.dest = .s d)
  | .v d => decide (r.dest = .v d)
  | .p d => decide (d ≠ 0) && decide (r.dest = .p d)
  | .ctl .wst => decide (r.dest = .ctl .wst) || decide (r.dest = .wait)
  | .ctl .fps => !r.noFps && (r.mayFlag || decide (r.dest = .ctl .fps))
  | .ctl .civ => !r.noCiv
  | .ctl c => decide (r.dest = .ctl c)

/-- The unarrived results, due at time t, that a reader of a register waits for. One that comes after others of the same
register overtakes them in the lanes that it turns out to write (R93, R95). -/
def Ctx.needs (x : Ctx) (t : Word) (q : Src) : List Need :=
  let l := x.results.filter (fun r => !r.arrived && decide (r.due.toNat ≤ t.toNat) && q.waitsFor r)
  l.map (fun r =>
    let older := (l.filter (fun y => y.before r)).map (·.rid)
    match q with
    | .s d => ⟨r.rid, .s d, r.stride, BitVec.allOnes 64, older⟩
    | .p d => ⟨r.rid, .p d, 0, BitVec.allOnes 64, older⟩
    | .v d => ⟨r.rid, .v d, 0, r.mask, older⟩
    | .ctl c => ⟨r.rid, if r.dest = .wait then .wait else .ctl c, 0, BitVec.allOnes 64, older⟩)

/-- The needs of a list of operands at the environment's time. -/
def State.needs (s : State) (l : List Src) : List Need := l.flatMap (fun q => s.cx.needs s.env.ctm q)

/-! ## Operands of the instruction in the environment -/

/-- The captured operands, when the instruction leaves a slip buffer. -/
def State.view? (s : State) : Option RegView := s.env.slipped.map (·.view)

/-- A scalar operand (R93, R96). -/
def State.rs (s : State) (r : SReg) : Word :=
  match s.view? with
  | some v => if r = 0 then 0 else v.s[r.toNat]'(r.isLt)
  | none => s.cx.rs r
/-- A vector operand. -/
def State.rv (s : State) (r : VReg) : VecWord :=
  match s.view? with
  | some v => v.v[r.toNat]'(r.isLt)
  | none => s.cx.rv r
/-- A predicate operand. -/
def State.rp (s : State) (r : PReg) : Word :=
  match s.view? with
  | some v => if r = 0 then BitVec.allOnes 64 else v.p[r.toNat]'(r.isLt)
  | none => s.cx.rp r
/-- FPC as visible to the instruction's bundle (R33). -/
def State.fpc (s : State) : Word :=
  match s.view? with
  | some v => v.fpc
  | none => s.cx.ctl.fpc
/-- The rounding mode in force (R33). -/
def State.rmode (s : State) : RMode := effMode s.env.pfx s.fpc
/-- The broadcast port of the bundle (R217). -/
def State.port (s : State) : Word := s.env.port.getD 0
/-- A scalar operand that may be the port. -/
def State.rso (s : State) : SOpd → Word
  | .reg r => s.rs r
  | .port => s.port
/-- A vector operand that may be the port, splatted (R217, R298). -/
def State.rvo (s : State) : VOpd → VecWord
  | .reg r => s.rv r
  | .port => splat (s.port.setWidth 32)
/-- The register that an operand reads. -/
def SOpd.src : SOpd → List Src
  | .reg r => [.s r]
  | .port => []
/-- The vector register that an operand reads. -/
def VOpd.src : VOpd → List Src
  | .reg r => [.v r]
  | .port => []

/-! ## Delivering results -/

/-- A result as the environment issues it at a latency, with a number (R93). -/
def Result.issue (r : Result) (e : Env) (lat rid : Nat) : Result :=
  { r with
    rid := rid, issued := e.ctm, due := e.ctm + BitVec.ofNat 64 lat, pos := e.pos, pc := e.pc, dup := e.pfx.dup,
    op := e.op, wrote := r.mask }

/-- A reserved result has not been produced yet. -/
def Ctx.holds (x : Ctx) (rid : Nat) : Bool := x.results.any (fun r => r.rid == rid && r.held)

/-- A result of the instruction in the environment with every choice open: a new one, or the one reserved when the
instruction entered a slip buffer, whose value has then arrived or is on its way (R93, R95, R96). -/
def State.deliverR (s : State) (lat : Nat) (r : Result) : State :=
  match s.env.slipped with
  | some e =>
    match e.rids.find? (fun x => x.1 == r.dest && s.cx.holds x.2) with
    | some (_, rid) =>
      let s1 := s.mapCx (fun x =>
        { x with results := x.results.map (fun y => if y.rid = rid then y.fill r else y) })
      if r.arrived then s1.arrive s.env.cid rid else s1
    | none => s
  | none => s.mapCx (fun x => { x with results := x.results ++ [r.issue s.env lat x.nextRid], nextRid := x.nextRid + 1 })

/-- A value for a destination at a latency (R93). -/
def State.deliver (s : State) (lat : Nat) (d : Dest) (val : VecWord) : State :=
  s.deliverR lat { Result.base with dest := d, val := val }
/-- A scalar result. -/
def State.deliverS (s : State) (lat : Nat) (d : SReg) (w : Word) : State := s.deliver lat (.s d) (ofWord w)

/-- The trap of a result whose raised flags meet an enable of FPC, for the slots of R37. -/
def State.fpxOf (s : State) (fl : Flags) : Option Flags :=
  if (fl.and (fpcEnables s.fpc)).any then some fl else none

/-- A floating-point result with its flags; an enabled flag suppresses the write (R36, R37). -/
def State.deliverF (s : State) (lat : Nat) (d : Dest) (val : VecWord) (mask : Word) (fl : Flags) : State :=
  s.deliverR lat { Result.base with dest := d, val := val, mask := mask, flags := fl, fpx := s.fpxOf fl, mayFlag := true }

/-- Poison consumed now by the instruction in the environment: inside a containment region the bundle unwinds, outside
CIV counts it at the due time (R252, R451). -/
def State.consume (s : State) (poison : Bool) : State × Bool :=
  if s.cx.cregs = [] then (s, poison)
  else if poison then (s.mapCx (fun x => { x with unwind := some (x.unwind.getD s.env.pc) }), false)
  else (s, false)

/-- A loaded value: late unless it is static, its poison consumed into a register (R95, R272, R451). -/
def State.deliverLoad (s : State) (lat : Nat) (d : Dest) (val : VecWord) (static poison : Bool) : State :=
  let p := s.consume poison
  p.1.deliverR lat { Result.base with dest := d, val := val, arrived := static, preg := p.2 }

/-! ## Issue: gating, traps, slip (R96, R97, R513) -/

/-- A precise trap found by a check at issue: cause, detail and failing address (R441, R444). -/
structure IssueTrap where
  cause : Cause
  det : BitVec 32
  far : Word
deriving DecidableEq, Repr

/-- A trap as a handler entry takes it (R443, R447). -/
structure Trap where
  cause : Cause
  det : BitVec 32
  tad : Word
  sfm : BitVec 8
  /-- The cause of each marked slot, as SLT holds them from bit 16 on. -/
  slots : Word
  far : Word
deriving DecidableEq, Repr

/-- The code of a cause (R441). -/
def Cause.code : Cause → BitVec 6
  | .ill => 0x01 | .orph => 0x02 | .wide => 0x03 | .dslot => 0x04 | .bcst => 0x05 | .fend => 0x06 | .unit => 0x07
  | .priv => 0x08 | .align => 0x10 | .pflt => 0x11 | .accv => 0x12 | .wattr => 0x13 | .lwin => 0x14 | .accb => 0x18
  | .pmiss => 0x19 | .detov => 0x1A | .detout => 0x1B | .cmpm => 0x1C | .pois => 0x1D | .capc => 0x1E | .divg => 0x1F
  | .swt => 0x20 | .fpx => 0x21 | .user => 0x22 | .loope => 0x23 | .crege => 0x24 | .rule => 0x25 | .symx => 0x26

/-- The lowest position marked in a mask; 0 when none is. -/
def lowestPos (m : BitVec 8) : BitVec 3 :=
  BitVec.ofNat 3 (((List.range 8).find? (fun k => m.getLsbD k)).getD 0)

/-- TCS of a trap (R443). -/
def Trap.tcs (t : Trap) : Word :=
  (t.det ++ 0#5 ++ lowestPos t.sfm ++ 0#2 ++ t.cause.code : BitVec 48).setWidth 64

/-- The causes of the marked slots in their places of SLT, all the same (R447). -/
def slotCauses (m : BitVec 8) (c : Cause) : Word :=
  (List.range 8).foldl
    (fun (w : Word) k => if m.getLsbD k then w ||| ((c.code.setWidth 64 : Word) <<< (16 + 6 * k)) else w) 0

/-- The contexts of a coach in the order of their positions (R101); one context without a task or alone. -/
def insertByPos (s : State) (c : CtxId) : List CtxId → List CtxId
  | [] => [c]
  | d :: l =>
    if ((s.ctx c).ctl.cpos.setWidth 6).toNat < ((s.ctx d).ctl.cpos.setWidth 6).toNat then c :: d :: l
    else d :: insertByPos s c l
/-- CPOS without its flag: a member's position in its coach (R101, R122). -/
def Ctx.coachPos (x : Ctx) : Word := x.ctl.cpos &&& 0x3F#64
/-- The members of a context's coach that are in service: their lead's linear index is the same (R101). -/
def State.members (s : State) (c : CtxId) : List CtxId :=
  match (s.ctx c).task with
  | none => [c]
  | some t =>
    if t.size ≤ 1 then [c]
    else
      ((List.range 2048).map (BitVec.ofNat 11)).filter (fun d =>
        match (s.ctx d).task with
        | some u => u.launch == t.launch && u.lidx - (s.ctx d).coachPos == t.lidx - (s.ctx c).coachPos
        | none => false) |>.foldr (insertByPos s) []

/-- The context, with the rest of its coach, stops after a fault of handler entry or return, and an HFLT record is
posted (R449): the cause being entered, the fault's own cause, the kind and TAD. -/
def State.hflt (s : State) (c : CtxId) (entered : BitVec 6) (own : BitVec 6) (kind : BitVec 2) (tad : Word) : State :=
  let s1 := (s.members c).foldl (fun s d => s.mapCtx d (fun x => { x with run := .hflt })) s
  match s.ctxRgn c with
  | some r =>
    let det : Word := ((tad.setWidth 40 : BitVec 40) ++ 0#6 ++ kind ++ 0#2 ++ own ++ 0#2 ++ entered : BitVec 64)
    s1.postEvent r 2 c.num.toNat c.core.toNat 1 det
  | none => s1

/-- The remaining limit of a wait at a DTC (R100, R118). -/
def Wait.freeze (w : Wait) (now : Word) : Wait :=
  let gone := (now - w.t0).toNat
  { w with t0 := 0, limit := BitVec.ofNat 64 (w.limit.toNat - gone) }

/-- Held results and slip entries as a handler entry or a snapshot keeps them: due times and limits relative (R100). -/
def Ctx.freezeTime (x : Ctx) (now : Word) : List Result × List SlipEntry :=
  (x.results.map (fun r => { r with due := r.due - x.ctm }),
   x.slip.map (fun e => { e with wait := e.wait.map (fun w => w.freeze now) }))

/-- Frozen results and entries put back at a context time and DTC (R100). -/
def thawTime (ctm now : Word) (rs : List Result) (es : List SlipEntry) : List Result × List SlipEntry :=
  (rs.map (fun r => { r with due := r.due + ctm }),
   es.map (fun e => { e with wait := e.wait.map (fun w => { w with t0 := now }) }))

/-- A due time that does not come while a handler runs (R99, R100). -/
def neverDue : Word := BitVec.allOnes 64

/-- The operations in flight on an accumulator as a handler entry keeps them: the distances of their due times (R100). -/
def Acc.flights (a : Acc) (ctm : Word) : List (BitVec 16 × Word) :=
  (a.flight.filter (fun p => p.2 != neverDue && decide (ctm.toNat < p.2.toNat))).map (fun p => (p.1, p.2 - ctm))

/-- The operations of the interrupted code stay in flight on an accumulator while its handler runs (R99, R100). -/
def Acc.hold (a : Acc) (ctm : Word) : Acc :=
  { a with flight := a.flight.map (fun p => if ctm.toNat < p.2.toNat then (p.1, neverDue) else p) }

/-- The operations that a handler entry kept fall due at their distances from a CTM (R100). -/
def Acc.thaw (a : Acc) (ctm : Word) (l : List (BitVec 16 × Word)) : Acc :=
  { a with flight := a.flight.map (fun p =>
      match l.find? (fun q => q.1 == p.1) with
      | some q => if p.2 = neverDue then (p.1, q.2 + ctm) else p
      | none => p) }

/-- The distance at which a bank becomes ready for the context that holds the banks; 0 for a ready one (R100, R320). -/
def State.bankDistance (s : State) (c : CtxId) (b : Bank) : Word :=
  if (s.core c.core).holder = some c.num ∧ (s.ctx c).ctm.toNat < b.ready.toNat ∧ b.ready ≠ neverDue then b.ready - (s.ctx c).ctm
  else 0

/-- The banks that a holder's wld has still to fill are not ready while its handler runs (R100, R320). -/
def State.holdBanks (s : State) (c : CtxId) : State :=
  s.mapCore c.core (fun k => { k with bank := k.bank.map (fun b => if s.bankDistance c b = 0 then b else { b with ready := neverDue }) })

/-- Those banks become ready at their distances from a CTM (R100, R320). -/
def State.thawBanks (s : State) (c : CtxId) (ctm : Word) (l : Vector Word 2) : State :=
  s.mapCore c.core (fun k => { k with bank := (k.bank.zip l).map (fun p =>
    if p.2 ≠ 0 ∧ p.1.ready = neverDue ∧ k.holder = some c.num then { p.1 with ready := p.2 + ctm } else p.1) })

/-- The 128 bytes of a trap frame (R447). -/
def frameBytes (x : Ctx) (t : Trap) (lvl : BitVec 3) : List Byte :=
  let dst : Word := (x.flow.dst &&& ~~~ 0xFF#64) ||| x.flow.dsl.setWidth 64
  leBytes 8 x.flow.pc.toNat ++ leBytes 8 (if x.flow.dsl = 0 then 0 else dst.toNat) ++ leBytes 8 t.tcs.toNat ++
  leBytes 8 t.tad.toNat ++ leBytes 8 (t.slots ||| t.sfm.setWidth 64).toNat ++ leBytes 8 t.far.toNat ++
  leBytes 8 x.ctm.toNat ++ leBytes 8 x.shadow.tcs.toNat ++ leBytes 8 x.shadow.tad.toNat ++
  leBytes 8 x.shadow.sfm.toNat ++
  leBytes 1 (lvl.toNat + if x.level = 0 then 0 else 8) ++
  leBytes 1 (if x.flow.dsl = 0 then 0 else (x.flow.dst.setWidth 8).toNat) ++ List.replicate 46 0

/-- TAKING A TRAP: handler entry at a boundary (R448). The return point is the bundle that issues next, which for a
bundle without effect is that bundle itself. -/
def State.enterHandler (s : State) (c : CtxId) (t : Trap) : State :=
  let x0 := s.ctx c
  let regs : TrapRegs := ⟨t.tcs, t.tad, t.sfm.setWidth 64⟩
  let x := { x0 with trap := regs }
  let s1 := s.setCtx c x
  let a := x.s[62] - 128
  if a.toNat > 0xFFF80 then s1.hflt c t.cause.code Cause.lwin.code 1 t.tad
  else if a.toNat % 128 ≠ 0 then s1.hflt c t.cause.code Cause.align.code 1 t.tad
  else if x.level = 4 then s1.hflt c t.cause.code 0 2 t.tad
  else
    let fr := x.freezeTime (s.dtc c)
    let s2 := s1.putBytes (pmKey c.core a.toNat) (frameBytes x t (x.level + 1))
    let vector := (x.ctl.tvb &&& ~~~ 0xFF#64) + BitVec.ofNat 64 (64 * t.cause.code.toNat)
    ((s2.trace c 3 x.ctm vector t.cause.code.toNat).holdBanks c).setCtx c { x with
      shadow := regs,
      s := x.s.set 62 a,
      level := x.level + 1,
      acc := x.acc.map (fun y => y.hold x.ctm),
      frozen := ⟨fr.1, fr.2, x.loops, x.flow.breaking, x.flow.halting, x.flow.shadowSlots,
        x.flow.waiting.map (fun w =>
          { w with t0 := 0, limit := BitVec.ofNat 64 (w.limit.toNat - (s.dtc c - w.t0).toNat) }),
        if x.flow.pastEnd then some x.flow.pc else none, x.acc.map (fun y => y.flights x.ctm),
        (s.core c.core).bank.map (s.bankDistance c)⟩ :: x.frozen,
      results := [], slip := [], loops := Vector.replicate 6 Loop.idle,
      flow := { Flow.reset with
        pc := vector,
        entering := some t.cause } }

/-- Nothing frozen. -/
def Frozen.empty : Frozen :=
  ⟨[], [], Vector.replicate 6 Loop.idle, none, false, 0, none, none, Vector.replicate 4 [], Vector.replicate 2 0⟩

/-- RETURNING FROM A TRAP: what tret does after its check (R450). The entries that it replays were issued before those of
the handler, so they come first in their slots (R152; notes/assumptions/45.md). -/
def State.returnHandler (s : State) (c : CtxId) : State :=
  let x := s.ctx c
  let a := x.s[62]
  let tad := x.trap.tad
  let cause : BitVec 6 := x.trap.tcs.setWidth 6
  if a.toNat > 0xFFF80 then s.hflt c cause Cause.lwin.code 3 tad
  else if a.toNat % 128 ≠ 0 then s.hflt c cause Cause.align.code 3 tad
  else
    let k := pmKey c.core a.toNat
    let w (off : Nat) : Word := BitVec.ofNat 64 (s.natAt (k + off) 8)
    let dst := w 0x08
    let dsl : BitVec 2 := dst.setWidth 2
    let target := (dst &&& ~~~ 0xFF#64) ||| BitVec.ofNat 64 (s.natAt (k + 0x51) 1)
    let f := (x.frozen.head?).getD Frozen.empty
    let th := thawTime (x.ctm + 1) (s.dtc c) f.results f.slip
    let psh : TrapRegs := ⟨w 0x38 &&& 0xFFFFFFFF073F#64, w 0x40, w 0x48 &&& 0xFF#64⟩
    ((s.trace c 4 (x.ctm + 1) (w 0x00) 0).thawBanks c (x.ctm + 1) f.ready).setCtx c { x with
      trap := psh,
      shadow := psh,
      s := x.s.set 62 (a + 128),
      level := x.level - 1,
      acc := (x.acc.zip f.flights).map (fun p => p.1.thaw (x.ctm + 1) p.2),
      frozen := x.frozen.tail,
      loops := f.loops,
      results := x.results ++ th.1,
      slip := th.2 ++ x.slip,
      flow := { Flow.reset with
        pc := w 0x00, pastEnd := f.pastEnd == some (w 0x00), dsl := dsl, dst := target, shadowSlots := f.shadowSlots,
        breaking := if dsl = 0 then none else f.breaking,
        halting := decide (dsl ≠ 0) && f.halting,
        waiting := f.waiting.map (fun w => { w with t0 := s.dtc c }) } }

/-- A check of the instruction in the environment has failed: the trap is taken with this slot alone, and recorded for
the bundle (R220, R444). -/
def State.raise (s : State) (mask : BitVec 8) (t : IssueTrap) : State :=
  let s1 := s.enterHandler s.env.cid ⟨t.cause, t.det, s.env.pc, mask, slotCauses mask t.cause, t.far⟩
  { s1 with env := { s1.env with raised := some (t.cause, t.det, t.far, mask) } }

/-- The bundle does not issue now, and what holds it (R97, R513). -/
def State.block (s : State) (h : Holds) : State := { s with env := { s.env with block := true, holds := h } }
/-- Pending values hold the bundle (R513). -/
def State.blockFor (s : State) (l : List Need) : State := s.block { Holds.none with gate := l.map (·.rid) }
/-- A full slip buffer holds the bundle (R97). -/
def State.blockFull (s : State) : State := s.block { Holds.none with full := some s.env.pos }
/-- Entries of slip buffers hold the bundle: their work comes first. -/
def State.blockBehind (s : State) (l : List SlipEntry) : State :=
  s.block { Holds.none with behind := l.map (fun e => (e.ctm, e.slot)) }
/-- A peer frame that is out of service holds the bundle (R425). -/
def State.blockAway (s : State) (va : Word) : State := s.block { Holds.none with away := some va }

/-- The operands that an instruction captures when it enters a slip buffer (R96). -/
def Ctx.capture (x : Ctx) (ctl : Word) : RegView := ⟨x.s, x.v, x.p, x.ctl.fpc, ctl⟩

/-- The entries of a slot's slip buffer, oldest first. -/
def Ctx.slotSlip (x : Ctx) (p : Pos) : List SlipEntry := x.slip.filter (fun e => e.slot == p)

/-- Instructions with a place in the total order: those that access storage, fork an engine thread, or observe the end of
one; in the M and X slots all but the prefetch hint and the queries of the exchange (R151 to R153, R160, R161). -/
def ordered : Instr → Bool
  | .pref .. | .xqry .. | .xcanc .. => false
  | .mmas .. | .wld .. | .ast .. => true
  | .rlx _ _ _ _ ut _ _ => ut
  | i => i.cls == some .m || i.cls == some .x

/-- An instruction that sends an entry (R353). -/
def isSend : Instr → Bool
  | .send .. | .sends .. => true
  | _ => false

/-- An instruction that pops a receive queue: it observes sends, and accesses nothing itself (R161, R355). -/
def isPop : Instr → Bool
  | .recv .. | .recva .. | .recvm .. | .recvs .. => true
  | _ => false

/-- An instruction has to come after older ones in the total order: its own accesses, or those of the thread that it forks, follow
them (R153, R160). A sleep does so through its ring operand's test (R151, R248); a pop accesses nothing. -/
def State.follows (s : State) (i : Instr) : Bool :=
  match i with
  | .sleep _ a _ => (s.rs a).getLsbD 63
  | i => ordered i && !isPop i

/-- Younger instructions have to come after a waiting one in the total order (R153, R160). A send that waits has forked nothing
yet, and only a fence that names SEND covers it (R171, R350). The other slots of a sleep's bundle act at issue (R248). -/
def SlipEntry.precedes (e : SlipEntry) (i : Instr) : Bool :=
  if isSend e.ins.instr then (match i with | .fence _ _ m => m.getLsbD 3 | _ => false) else ordered e.ins.instr

/-- An entry stands before the instruction of the environment in program order (R152). -/
def SlipEntry.before (e : SlipEntry) (v : Env) : Bool :=
  decide (e.ctm.toNat < v.ctm.toNat) || (decide (e.ctm = v.ctm) && decide (e.slot.toNat < v.pos.toNat))

/-- The older instructions that wait in other slots and come before the instruction of the environment in the total order: it
waits behind them, and so keeps its place in program order, with the fork and join edges that go with it (R152, R153, R160).
The entries that a handler has frozen wait for its tret and do not count (R100; notes/assumptions/45.md). -/
def State.ahead (s : State) (i : Instr) : List SlipEntry :=
  if s.follows i then s.cx.slip.filter (fun e => e.slot != s.env.pos && e.before s.env && e.precedes i) else []

/-- Such an older instruction still waits (R152, R153, R160). -/
def State.conflict (s : State) (i : Instr) : Bool := !(s.ahead i).isEmpty

/-! ## Suspicion scores (R468 to R471) -/

/-- The place of a unit class in the brake van's tables (R458). -/
def classNo : UnitClass → Fin 3
  | .core => 0 | .link => 1 | .channel => 2

/-- A unit's score. -/
def Van.score (v : Van) (cls : UnitClass) (unit : Nat) : BitVec 10 := ((v.scores[classNo cls]).toList[unit]?).getD 0

/-- A unit's score replaced. -/
def Van.setScore (v : Van) (cls : UnitClass) (unit : Nat) (n : BitVec 10) : Van :=
  if h : unit < 512 then
    { v with scores := v.scores.set (classNo cls).val ((v.scores[classNo cls]).set unit n h) (classNo cls).isLt }
  else v

/-- One event more in the HIST counters of a unit, for the first five kinds of R469 (R467). -/
def Van.count (v : Van) (cls : UnitClass) (unit ev : Nat) : Van :=
  if ev ≥ 5 then v
  else
    match v.hist.find? (fun h => h.1 == cls && h.2.1 == unit && h.2.2.1 == ev) with
    | some h =>
      { v with hist := (cls, unit, ev, if h.2.2.2 = 0xFFFF then 0xFFFF else h.2.2.2 + 1) ::
          v.hist.filter (fun h => !(h.1 == cls && h.2.1 == unit && h.2.2.1 == ev)) }
    | none => { v with hist := (cls, unit, ev, 1) :: v.hist }

/-- The number of the whole hour of GCC (R470). -/
def hourOf (gcc : Word) : Nat := gcc.toNat / 3600000000000

/-- Every score is halved once for each whole hour of GCC that has passed since the last halving (R470). -/
def Van.halve (v : Van) (gcc : Word) : Van :=
  { v with
    lastHour := max v.lastHour (hourOf gcc),
    scores := v.scores.map (fun (c : Vector (BitVec 10) 512) => c.map (fun (x : BitVec 10) => x >>> (hourOf gcc - v.lastHour))) }

/-- An event of R469 raises the score of a unit, after the halvings that are due before it; one that crosses 512 asks for a forced
lease (R470, R471). -/
def State.raiseScore (s : State) (cls : UnitClass) (unit inc ev : Nat) : State :=
  let v := s.van.halve s.gcc
  let old := (v.score cls unit).toNat
  let new := min 1023 (old + inc)
  let v1 := (v.setScore cls unit (BitVec.ofNat 10 new)).count cls unit ev
  let pending := (v.forced[classNo cls]).contains unit ||
    (match v.running[classNo cls] with
     | some l => l.forced && l.unit == unit
     | none => false)
  let v2 :=
    if old < 512 ∧ 512 ≤ new ∧ pending = false then
      { v1 with forced := v1.forced.set (classNo cls).val (v1.forced[classNo cls] ++ [unit]) (classNo cls).isLt }
    else v1
  { s with van := v2 }

/-! ## Parity errors (R451, R477) -/

/-- The accumulators that an instruction of the T slot reads (R316). -/
def accsRead : Instr → List AReg
  | .mma _ ac _ _ _ | .mmaE _ ac _ _ | .mmaD _ ac _ _ | .mmas ac .. | .adrn ac .. | .adrnC ac .. | .ast ac _ => [ac]
  | _ => []

/-- An instruction reads the weight banks (R316). -/
def readsBanks : Instr → Bool
  | .mma .. | .mmaE .. | .mmaD .. | .mmas .. => true
  | _ => false

/-- An instruction of the tile engine: what it consumes reaches an accumulator or an engine (R451). -/
def isTile (i : Instr) : Bool := readsBanks i

/-- The handle of the ring operand of an instruction (R133). -/
def handleOf : Instr → Option HReg
  | .ldRing _ _ r | .stRing _ _ r | .vldRing _ _ r | .vstRing _ _ r => some r.h
  | .copy _ _ _ _ _ _ _ _ _ h re _ _ _ => if re then some h else none
  | .cond _ _ _ _ _ h re => if re then some h else none
  | .mmas _ _ _ _ _ _ _ _ _ rg h _ => if rg then some h else none
  | _ => none

/-- The register of a source, as an array with an error names it. -/
def Src.at (q : Src) (c : CtxId) : Option ErrorAt :=
  match q with
  | .s r => some (.s c r)
  | .v r => some (.v c r)
  | .p r => some (.p c r)
  | .ctl _ => none

/-- An array with an error is among those that the instruction in the environment reads (R451, R477). -/
def State.readsArray (s : State) (i : Instr) (l : List Src) (e : ErrorAt) : Bool :=
  match e with
  | .acc c a => c == s.env.cid && (accsRead i).contains a
  | .bank k => k == s.myCore && readsBanks i
  | .ring k n => k == s.myCore && ((handleOf i).bind s.cx.rh) == some n
  | _ => (l.filterMap (fun q => q.at s.env.cid)).contains e

/-- The parity errors that the instruction meets among what it reads are found, scored, and consumed like poison, at its own
latency (R451, R469, R477). -/
def State.parityRead (s : State) (i : Instr) (l : List Src) (lat : Nat) : State :=
  let hit := s.parity.filter (s.readsArray i l)
  if hit = [] then s
  else
    let t := hit.foldl (fun u _ => u.raiseScore .core u.myCore.toNat 8 1)
      { s with parity := s.parity.filter (fun e => !s.readsArray i l e) }
    let p := t.consume true
    p.1.deliverR lat { Result.base with preg := p.2 && !isTile i, peng := p.2 && isTile i }

/-- What an instruction reads and writes: the operands that gate its bundle, the others, its results with their
latencies, and whether it may contribute flags (R93, R513). -/
structure Shape where
  instr : Instr
  gates : List Src
  data : List Src
  dests : List (Dest × Nat)
  mayFlag : Bool
  ctl : Word
deriving DecidableEq, Repr

/-- Results reserved for an instruction that waits (R95, R96). One without a destination stands for the flags of the copies
that the instruction joins (R36). -/
def Shape.reserve (sh : Shape) (e : Env) (rid : Nat) : List Result :=
  (sh.dests.zip (List.range sh.dests.length)).map (fun p =>
    { Result.base with
      rid := rid + p.2, issued := e.ctm, due := e.ctm + BitVec.ofNat 64 p.1.2, pos := e.pos, pc := e.pc,
      dest := p.1.1, held := true, mayFlag := sh.mayFlag || decide (p.1.1 = .none), arrived := false, dup := e.pfx.dup,
      op := e.op })

/-- The instruction enters its slot's slip buffer; when the buffer is full the context blocks instead (R96, R97). -/
def State.slipIn (s : State) (sh : Shape) (need : List Need) (touch : List Touch) (wait : Option Wait) : State :=
  let x := s.cx
  if (x.slotSlip s.env.pos).length ≥ 8 then s.blockFull
  else
    let e : SlipEntry :=
      { slot := s.env.pos, pc := s.env.pc, ctm := s.env.ctm, ins := ⟨s.env.pos, some s.env.pfx, sh.instr⟩,
        port := s.env.port, view := x.capture sh.ctl, need := need,
        rids := (sh.dests.zip (List.range sh.dests.length)).map (fun p => (p.1.1, x.nextRid + p.2)),
        touch := touch, wait := wait, expired := false }
    s.setCtx s.env.cid { x with
      slip := x.slip ++ [e], results := x.results ++ sh.reserve s.env x.nextRid,
      nextRid := x.nextRid + sh.dests.length }

/-- The oldest entry of a slot leaves its buffer. -/
def Ctx.dropSlip (x : Ctx) (p : Pos) : Ctx :=
  { x with slip := x.slip.eraseP (fun e => e.slot == p) }

/-- The ceiling of every wait limit: the region's DLWMAX (R118, R430). -/
def State.dlwMax (s : State) (c : CtxId) : Word :=
  match s.ctxRgn c with
  | some r => r.dlwmax
  | none => BitVec.ofNat 64 (2 ^ 40 - 1)

/-- A limit clamped to DLWMAX (R118). -/
def State.clampLimit (s : State) (c : CtxId) (l : Word) : Word :=
  if (s.dlwMax c).toNat < l.toNat then s.dlwMax c else l

/-- A wait of the issuing context has reached its limit on DTC (R116, R118). -/
def State.pastLimit (s : State) (w : Wait) : Bool := w.past (s.dtc s.env.cid)

/-- The entry in the environment has reached its limit, marked so or seen now (R116, R118). -/
def State.expired (s : State) : Bool :=
  match s.env.slipped with
  | some e => e.expired || e.wait.any s.pastLimit
  | none => false

/-- An implicit wait expires: SWT at the next boundary, WST.ST = TIMEOUT, the instruction and its results discarded
(R120). Readers in other slots that wait for a discarded result wait on, under limits of their own
(notes/assumptions/17.md). -/
def State.expireImplicit (s : State) (i : Instr) : State :=
  let gone := (s.env.slipped.map (fun e => e.rids.map (·.2))).getD []
  (s.mapCx (fun x =>
    { x with
      results := x.results.filter (fun r => !gone.contains r.rid),
      btraps := addBTrap ⟨x.level, .swt, s.env.pc, slotMask i s.env.pos.toNat, s.env.pos.setWidth 32, s.env.ctm⟩ x.btraps })
    ).endWait s.env.cid (wstBits .timeout 0 s.env.pos)

/-- The wait of a reader whose operand is pending, begun now under DLW (R118). -/
def State.readerWait (s : State) : Wait :=
  ⟨s.dtc s.env.cid, s.clampLimit s.env.cid s.cx.ctl.dlw, none, true⟩

/-- The wait of an entry that is held by storage out of service: its reader's wait, or one begun now (R95, R425). -/
def State.awayWait (s : State) (e : SlipEntry) : Option Wait := some (e.wait.getD s.readerWait)

/-- The entry is held by storage out of service, and is not in an explicit wait that its own limit ends (R118, R425). -/
def SlipEntry.heldAway (e : SlipEntry) : Bool :=
  e.touch.any (·.away) && (match e.wait with | some w => w.reader | none => true)

/-- An entry goes back to the head of its slot's buffer. -/
def State.putBack (s : State) (e : SlipEntry) : State := s.mapCx (fun x => { x with slip := e :: x.slip })

/-- A result that comes to nothing: its register keeps its value, and its readers go on with it. -/
def State.dropRid (s : State) (rid : Nat) : State :=
  s.mapCx (fun x =>
    { x with
      results := x.results.filter (fun r => r.rid != rid),
      slip := x.slip.map (fun e => SlipEntry.readEnd { e with need := e.need.filter (fun n => n.rid != rid) }) })

/-- An entry that has ended without a join of copies contributes no flags for one (R36). -/
def State.endJoin (s : State) (e : SlipEntry) : State :=
  if s.cx.slip.any (fun y => y.slot == e.slot && y.ctm == e.ctm) then s
  else
    match e.rids.find? (fun p => p.1 == .none && s.cx.holds p.2) with
    | some (_, rid) => s.dropRid rid
    | none => s

/-- An instruction leaves its slip buffer: while an operand is still pending it stays, or ends when its limit has passed;
it stays behind older work of other slots that has its place before it; else it executes. The end of a reader's wait
writes no WST (R96, R118 to R120, R152). -/
def State.resume (s : State) (e : SlipEntry) (k : State → State) : State :=
  let s1 := s.mapCx (fun x => x.dropSlip e.slot)
  if e.need ≠ [] ∨ e.heldAway then
    if s.expired then s1.expireImplicit e.ins.instr
    else s1.putBack { e with wait := if e.heldAway then s.awayWait e else e.wait, expired := false }
  else if s.conflict e.ins.instr then s1.putBack e.readEnd
  else (k { s1 with env := { s1.env with slipped := some e.readEnd } }).endJoin e

/-- ISSUE OF AN INSTRUCTION: pending gating operands hold the bundle; a failing check raises its trap; a pending data
operand, an earlier instruction of the slot, or older work of another slot with its place before this one sends it to the
slip buffer; otherwise it executes. A reader whose limit is 0 expires at once. An instruction that leaves the slip buffer
has passed its checks and executes on its captured operands and the storage checked at issue (R96, R118, R152, R513). -/
def State.operate (s : State) (sh : Shape) (chk : Except IssueTrap (List Touch)) (k : List Touch → State → State) :
    State :=
  match s.env.slipped with
  | some e => s.resume e (k e.touch)
  | none =>
    if s.needs sh.gates ≠ [] then s.blockFor (s.needs sh.gates)
    else
      match chk with
      | .error t => s.raise (slotMask sh.instr s.env.pos.toNat) t
      | .ok touch =>
        let need := s.needs sh.data
        let t := s.parityRead sh.instr (sh.gates ++ sh.data) ((sh.dests.head?.map (·.2)).getD 1)
        if need = [] ∧ (s.cx.slotSlip s.env.pos) = [] ∧ s.conflict sh.instr = false then k touch t
        else if need ≠ [] ∧ s.pastLimit s.readerWait then t.expireImplicit sh.instr
        else t.slipIn sh need touch (if need = [] then none else some (s.readerWait))

/-- An instruction whose operands are all gating has them at issue, so it takes effect then. Behind an older instruction of
its slot it still holds a place in the slip buffer, and nothing is left to do when it leaves it (R93, R96, R513). -/
def State.operateNow (s : State) (sh : Shape) (chk : Except IssueTrap (List Touch)) (k : State → State) : State :=
  match s.env.slipped with
  | some e => s.mapCx (fun x => x.dropSlip e.slot)
  | none =>
    if s.needs sh.gates ≠ [] then s.blockFor (s.needs sh.gates)
    else
      match chk with
      | .error t => s.raise (slotMask sh.instr s.env.pos.toNat) t
      | .ok _ =>
        let t := s.parityRead sh.instr sh.gates ((sh.dests.head?.map (·.2)).getD 1)
        if s.cx.slotSlip s.env.pos = [] then k t
        else if (s.cx.slotSlip s.env.pos).length ≥ 8 then s.blockFull
        else k (t.slipIn { sh with dests := [] } [] [] none)

/-- An instruction whose bundle waits unissued until another unit has answered its checks (R339): its operands are there, and the
older work whose storage the answer reads is done; then the answer decides, and it acts (R152; notes/assumptions/52.md). -/
def State.issueOrBlock (s : State) (i : Instr) (gates : List Src) (chk : Except IssueTrap (State → State)) : State :=
  if s.needs gates ≠ [] then s.blockFor (s.needs gates)
  else if s.cx.slotSlip s.env.pos ≠ [] ∨ s.conflict i then s.blockBehind (s.cx.slotSlip s.env.pos ++ s.ahead i)
  else
    match chk with
    | .error t => s.raise (slotMask i s.env.pos.toNat) t
    | .ok k => k (s.parityRead i gates 1)

/-- An instruction without checks at issue (R96). -/
def State.compute (s : State) (i : Instr) (gates data : List Src) (dests : List (Dest × Nat)) (mayFlag : Bool)
    (k : State → State) : State :=
  s.operate ⟨i, gates, data, dests, mayFlag, 0⟩ (.ok []) (fun _ => k)

/-! ## Waits inside a slip buffer (R118 to R120, R270) -/

/-- The wait of the entry in the environment, begun now when it has not begun (R118). -/
def State.beginWait (s : State) (limit : Word) (q : Option (BitVec 32)) : Wait :=
  match s.env.slipped with
  | some e => (e.wait).getD ⟨s.dtc s.env.cid, s.clampLimit s.env.cid limit, q, false⟩
  | none => ⟨s.dtc s.env.cid, s.clampLimit s.env.cid limit, q, false⟩

/-- The condition of the wait does not hold: the instruction waits, in its slip buffer, as the oldest of its slot. -/
def State.stall (s : State) (sh : Shape) (touch : List Touch) (w : Wait) : State :=
  match s.env.slipped with
  | some e => s.putBack { e with wait := some w, expired := false }
  | none => s.slipIn sh [] touch (some w)

/-- An implicit wait: the action when its condition holds within the limit, with WST OK if it had to wait; else it waits
under DLW, or expires when its limit has passed, a limit of 0 at once (R116, R118, R120). -/
def State.implicitWait (s : State) (sh : Shape) (touch : List Touch) (cond : Bool) (k : State → State) : State :=
  let w := s.beginWait s.cx.ctl.dlw none
  if cond && !touch.any (·.away) && !s.expired then
    match s.env.slipped with
    | some e => if e.wait.isSome then (k s).endWait s.env.cid (wstBits .ok 0 e.slot) else k s
    | none => k s
  else if s.expired || s.pastLimit w then s.expireImplicit sh.instr
  else s.stall sh touch w

/-- A control register as the instruction reads it: captured when it leaves a slip buffer (R95, R96). -/
def State.ctlRead (s : State) (cr : CReg) : Word :=
  match s.view? with
  | some v => v.ctl
  | none => s.ctlValue cr

/-- An explicit wait: one of two endings, or it goes on waiting under its own limit; a limit of 0 ends it at its first
test (R116, R118, R270). -/
def State.explicitWait (s : State) (sh : Shape) (touch : List Touch) (limit : Word) (q : Option (BitVec 32))
    (cond : Bool) (ok timeout : State → State) : State :=
  let w := s.beginWait limit q
  if cond && !touch.any (·.away) && !s.expired then ok s
  else if s.expired || s.pastLimit w then timeout s
  else s.stall sh touch w

/-- A result that a wait leaves unwritten at its end: its register keeps its value, and its readers go on with it
(R276). -/
def State.dropDest (s : State) (d : Dest) : State :=
  match s.env.slipped.bind (fun e => e.rids.find? (fun p => p.1 == d)) with
  | none => s
  | some (_, rid) => s.dropRid rid

/-- The end of an M-slot wait: WST, due with the instruction's results (R119, R270). -/
def State.finishWait (s : State) (st : WaitSt) (cls : BitVec 8) : State :=
  s.deliver 6 .wait (ofWord (wstBits st cls s.env.pos))

/-- The end of an M-slot wait that names a status register (R119, R270). -/
def State.finishStatus (s : State) (d : SReg) (st : WaitSt) (cls : BitVec 8) : State :=
  (s.deliverS 6 d (BitVec.ofNat 64 st.code)).finishWait st cls

/-- The phase whose ranges the context's next access meets: none once a phend waits in the M slip buffer (R295). -/
def Ctx.phaseNow (x : Ctx) : Option Nat :=
  if x.slip.any (fun e => e.ins.instr == .phend) then none else x.phase

/-- The number of the result that the instruction in the environment delivers for a destination next. -/
def State.ridOf (s : State) (d : Dest) : Nat :=
  match s.env.slipped with
  | some e => ((e.rids.find? (fun p => p.1 == d)).map (·.2)).getD 0
  | none => s.cx.nextRid

/-! ## Time -/

/-- Some result of the context other than those in slip buffers is still in the air: its value has not arrived. -/
def Ctx.inFlight (x : Ctx) : Bool := x.results.any (fun r => !r.arrived)

/-- Everything an engine marks by number gets the next number. -/
def State.fresh (s : State) : Nat × State := (s.nextId, { s with nextId := s.nextId + 1 })

end Sys2Proof.Machine
end

