-- ==== Sys2Proof/Machine/Operands.lean ====
section
/-!
DEFINITION. Operand forms of the M, T and X slots: effective addresses and the checks at issue in the order of R269
(spec/10), windows (spec/05 R123, R124), ring operands (R131 to R136), and the ranges of an open phase (R176).
-/
namespace Sys2Proof.Machine

/-! ## Windows (R123, R124) -/

/-- Where the frame of a core's PM lies for a launch (R425); none while it is out of service. -/
def State.frameOf (s : State) (launch : Option Nat) (c : CoreId) : Option CoreId :=
  match launch with
  | none => some c
  | some l =>
    match s.frames.find? (fun f => f.1 == c && f.2.1.contains l) with
    | some (_, _, loc) => loc
    | none => some c

/-- The core of a core's cluster with a number (R123). -/
def clusterCore (me : CoreId) (n : Nat) : CoreId := (me.cluster ++ BitVec.ofNat 6 n : BitVec 9)

/-- The key of a window address of a core, when it lies in the window of the space with the n bytes from it (R124). -/
def State.windowKeyOf (s : State) (me : CoreId) (launch : Option Nat) (sp : Space) (a : Word) (n : Nat) : Option Nat :=
  let v := a.toNat
  match sp with
  | .pm => if v < 0x100000 ∧ v + n ≤ 0x100000 then some (pmKey me v) else none
  | .peer =>
    let o := v - 0x10000000
    if 0x10000000 ≤ v ∧ v < 0x14000000 ∧ o % 0x100000 + n ≤ 0x100000 then
      let c := clusterCore me (o / 0x100000)
      if c = me then some (pmKey c (o % 0x100000)) else some (pmKey ((s.frameOf launch c).getD c) (o % 0x100000))
    else none
  | .hall =>
    if 0x20000000 ≤ v ∧ v < 0x22000000 ∧ v + n ≤ 0x22000000 then some (hallKey me.cluster (v - 0x20000000)) else none
  | .glob => none

/-- A peer access meets a frame that is out of service, so it waits (R425). -/
def State.frameOutOf (s : State) (me : CoreId) (launch : Option Nat) (sp : Space) (a : Word) : Bool :=
  match sp with
  | .peer =>
    let v := a.toNat
    decide (0x10000000 ≤ v) && decide (v < 0x14000000) &&
      (s.frameOf launch (clusterCore me ((v - 0x10000000) / 0x100000))).isNone
  | _ => false

/-- The core whose PM holds a key. -/
def pmCore (key : Nat) : CoreId := BitVec.ofNat 9 ((key - 2 ^ 53) / 2 ^ 20)

/-- A region reaches the PM of a core: no other region has it (R425). -/
def State.reachesPm (s : State) (region : Option Nat) (c : CoreId) : Bool :=
  match (s.core c).region with
  | none => true
  | some r => region == some r

/-- The region of the issuing context's task, if it has one. -/
def State.taskRegion (s : State) : Option Nat := s.cx.task.map (·.region)
/-- The launch of the issuing context's task, if it has one. -/
def State.taskLaunch (s : State) : Option Nat := s.cx.task.map (·.launch)
/-- The key of a window address of the issuing context. -/
def State.windowKey (s : State) (sp : Space) (a : Word) (n : Nat) : Option Nat :=
  s.windowKeyOf s.myCore s.taskLaunch sp a n
/-- A peer access of the issuing context meets a frame that is out of service. -/
def State.frameOut (s : State) (sp : Space) (a : Word) : Bool := s.frameOutOf s.myCore s.taskLaunch sp a

/-- The task in the environment as the owner of what it forks (R160); without a task, zeros. -/
def State.owner (s : State) : Owner :=
  match s.cx.task with
  | some t => ⟨s.env.cid, t.serial, t.launch, t.lidx, t.region, t.part, s.cx.phase, s.env.ctm⟩
  | none => ⟨s.env.cid, 0, 0, 0, 0, 0, none, s.env.ctm⟩

/-- The context runs the task with a serial number. -/
def Ctx.runs (x : Ctx) (serial : Nat) : Bool :=
  match x.task with
  | some t => t.serial == serial
  | none => false

/-- The contexts of a thread's core and region are out of service, their PM with them (R423, R425). -/
def State.isOut (s : State) (o : Owner) : Bool :=
  s.groups.any (fun g => g.region == o.region && g.core == o.cid.core) && !(s.ctx o.cid).runs o.serial

/-- The pieces that an engine thread reaches in a space; none when a translation or a table stops it, or a frame is out
of service (R125, R425, R438). -/
def State.enginePieces (s : State) (o : Owner) (cls : BitVec 4) (a : Access) (sp : Space) (va : Word) (n : Nat) :
    Option (List Piece) :=
  match sp with
  | .glob => s.piecesFor (some o.cid.core) o.part cls a va n
  | _ =>
    if s.isOut o || s.frameOutOf o.cid.core (some o.launch) sp va then none
    else if n = 0 then some []
    else (s.windowKeyOf o.cid.core (some o.launch) sp va n).map (fun k => [⟨k, n⟩])

/-! ## Phase ranges (R176) -/

/-- A granule lies in one of the ranges of an engine class. -/
def inRanges (l : List (Nat × Range)) (cls g : Nat) : Bool :=
  l.any (fun p => p.1 == cls && decide (p.2.lo ≤ g) && decide (g ≤ p.2.hi))

/-- The open phase of the context allows a touch by an engine class (R176); without one everything is allowed. -/
def State.phaseAllows (s : State) (cls : Nat) (t : Touch) : Bool :=
  match s.cx.phaseNow with
  | none => true
  | some id =>
    match s.phases.find? (fun p => p.id == id) with
    | none => true
    | some p =>
      if !isLocalKey t.key ∨ t.len = 0 then true
      else (List.range ((t.key + t.len - 1) / 8 - t.key / 8 + 1)).all (fun i =>
        inRanges (if t.write then p.wr else p.rd) cls (8 * (t.key / 8 + i)))

/-! ## The checks of one access (R269) -/

/-- What an access writes or only reads. -/
def Access.writes : Access → Bool
  | .write | .atomic | .sync => true
  | .read | .fetch => false
/-- What an access reads. -/
def Access.reads : Access → Bool
  | .read | .atomic | .sync => true
  | .write | .fetch => false

/-- The touches of pieces by an access. -/
def touches (a : Access) (ps : List Piece) : List Touch := ps.map (fun p => ⟨a.writes, p.key, p.len⟩)

/-- The attributes of translated runs are all the same (R130). -/
def sameAttr : List Run2 → Bool
  | [] => true
  | r :: l => l.all (fun q => q.attr == r.attr)

/-- The access-table check of a window access: the hall's table, the landing's for an atomic, and for a peer's PM the table
of the cluster under a key that R486 leaves open; the PM of a core that another region has is denied like it, since no region
reads another's (R125, R425, R486; notes/assumptions/47.md). -/
def State.windowPermits (s : State) (sp : Space) (cls : BitVec 4) (a : Access) (va : Word) (key n : Nat) : Bool :=
  let m := masterOf (s.ctxPart s.env.cid) cls
  (sp != .peer || s.reachesPm s.taskRegion (pmCore key)) &&
  match a with
  | .atomic | .sync => s.permits (.landing (Config.homeLanding (key / 256))) m a va.toNat (va.toNat + n - 1)
  | _ =>
    match sp with
    | .hall => s.permits (.hall s.myCore.cluster) m a (va.toNat - 0x20000000) (va.toNat - 0x20000000 + n - 1)
    | .peer => s.permits (.hall s.myCore.cluster) m a (Config.peerKey key).toNat ((Config.peerKey key).toNat + n - 1)
    | _ => true

/-- Both directions of a touch are allowed by the open phase; barrier and event objects are not checked (R176). -/
def State.phaseOk (s : State) (cls : Nat) (a : Access) (p : Piece) : Bool :=
  a == .sync || (!a.reads || s.phaseAllows cls ⟨false, p.key, p.len⟩) && (!a.writes || s.phaseAllows cls ⟨true, p.key, p.len⟩)

/-- Checks 2 to 6 of R269 on n bytes from an address: the window or canonical form, the alignment, the translation of
every page, the access table, and the open phase for an engine class. The answer is the storage touched. -/
def State.checkAccess (s : State) (sp : Space) (a : Access) (master : BitVec 4) (cls : Nat) (va : Word) (n align : Nat) :
    Except IssueTrap (List Touch) :=
  match sp with
  | .glob =>
    if !canonical va then .error ⟨.pflt, 4, va⟩
    else if va.toNat % align ≠ 0 then .error ⟨.align, 0, va⟩
    else
      match s.translateAll (some s.myCore) (s.ctxPart s.env.cid) a va n with
      | .error f => .error ⟨.pflt, f.det, f.va⟩
      | .ok rs =>
        if !sameAttr rs then .error ⟨.wattr, 0, va⟩
        else if !(rs.all (s.permitsRun (masterOf (s.ctxPart s.env.cid) master) a)) then .error ⟨.accv, 0, va⟩
        else .ok (touches a (rs.map (·.piece)))
  | _ =>
    match s.windowKey sp va n with
    | none => .error ⟨.lwin, 0, va⟩
    | some key =>
      if va.toNat % align ≠ 0 then .error ⟨.align, 0, va⟩
      else if !(s.windowPermits sp master a va key n) then .error ⟨.accv, 0, va⟩
      else if !(s.phaseOk cls a ⟨key, n⟩) then .error ⟨.detout, 0, va⟩
      else .ok [⟨a.writes, key, n⟩]

/-- The checks of several elements: the first failing one decides (R274). -/
def State.checkLanes (s : State) (sp : Space) (a : Access) (cls : Nat) (n : Nat) :
    List Word → Except IssueTrap (List Touch)
  | [] => .ok []
  | va :: l =>
    match s.checkAccess sp a 0 cls va n n with
    | .error t => .error t
    | .ok x =>
      match s.checkLanes sp a cls n l with
      | .error t => .error t
      | .ok y => .ok (x ++ y)

/-- The key of an object that lies in one piece of storage. -/
def keyOf : List Touch → Nat
  | t :: _ => t.key
  | [] => 0

/-- The pieces of touches. -/
def piecesOf (l : List Touch) : List Piece := l.map (fun t => ⟨t.key, t.len⟩)

/-- EA of an MS word: base plus a signed count of elements (R269). -/
def State.eaMS (s : State) (ba : SOpd) (off : BitVec 4) (size : Nat) : Word :=
  s.rso ba + (off.signExtend 64) * BitVec.ofNat 64 size
/-- EA of an MV word: base plus a signed count of 256 bytes (R269). -/
def State.eaMV (s : State) (ba : SOpd) (off : BitVec 5) : Word := s.rso ba + (off.signExtend 64) * 256

/-- Every lane of the access lies in the issuing context's own PM, named as .pm (R272, R274). -/
def isStatic (sp : Space) : Bool := sp == .pm

/-! ## Ring operands (R131 to R136) -/

/-- NSL of an entry (R131). -/
def Ring.nsl (r : Ring) : Nat := r.nslm.toNat + 1
/-- The slot size of an entry. -/
def Ring.slotSize (r : Ring) : Nat := 2 ^ r.sszl.toNat
/-- The key of the first byte of the ring's slots on a core. -/
def Ring.baseKey (r : Ring) (c : CoreId) : Nat :=
  if r.hall then hallKey c.cluster (r.base.toNat - 0x20000000) else pmKey c r.base.toNat
/-- The key of a slot, counted modulo NSL (R135). -/
def Ring.slotKey (r : Ring) (c : CoreId) (i : Nat) : Nat := r.baseKey c + (i % r.nsl) * r.slotSize

/-- A ring-table entry of a core. -/
def State.ringAt (s : State) (c : CoreId) (e : BitVec 6) : Ring := (s.core c).rings[e.toNat]'(e.isLt)
/-- A ring-table entry changed. -/
def State.mapRing (s : State) (c : CoreId) (e : BitVec 6) (f : Ring → Ring) : State :=
  s.mapCore c (fun k => { k with rings := k.rings.set e.toNat (f (s.ringAt c e)) e.isLt })

/-- The valid entry bound to a handle, and its number (R133). -/
def State.ringOf (s : State) (h : HReg) : Option (BitVec 6 × Ring) :=
  match s.cx.rh h with
  | none => none
  | some e => if (s.ringAt s.myCore e).valid then some (e, s.ringAt s.myCore e) else none

/-- A ring operand is satisfied (R133). -/
def Ring.satisfied (r : Ring) (producer : Bool) (n : Nat) : Bool :=
  if producer then decide (n ≤ r.free.toNat) else decide (n ≤ r.fill.toNat)

/-- The whole slot array of a ring as a touch (R135). -/
def Ring.arrayTouch (r : Ring) (c : CoreId) (write : Bool) : Touch := ⟨write, r.baseKey c, r.nsl * r.slotSize⟩

/-- The entry of a core's ring table as a location of the total order (R150, R169). -/
def ringTouch (c : CoreId) (e : BitVec 6) (write : Bool) : Touch := ⟨write, 2 ^ 55 + 64 * c.toNat + e.toNat, 1⟩

/-- The checks of a ring operand (R133, R135, R136, R269): bound and valid, n within NSL, the extent within the slots
named, the class allowed, the whole array within the access table and the open phase. -/
def State.checkRing (s : State) (h : HReg) (n extent : Nat) (cls : Nat) (a : Access) (master : BitVec 4) :
    Except IssueTrap (List Touch) :=
  match s.ringOf h with
  | none => .error ⟨.ill, 0, 0⟩
  | some (e, r) =>
    if n > r.nsl ∨ extent > (max n 1) * r.slotSize then .error ⟨.ill, 0, 0⟩
    else if !(r.cls.getLsbD cls) then .error ⟨.accv, 0, 0⟩
    else
      let t := r.arrayTouch s.myCore a.writes
      if r.hall ∧ !(s.windowPermits .hall master a (r.base.setWidth 64) t.key t.len) then
        .error ⟨.accv, 0, r.base.setWidth 64⟩
      else if !(s.phaseOk cls a ⟨t.key, t.len⟩) then .error ⟨.detout, 0, r.base.setWidth 64⟩
      else .ok [t, ringTouch s.myCore e false]

/-- A touch of a ring-table entry (R150). -/
def Touch.isRing (t : Touch) : Bool := decide (2 ^ 55 ≤ t.key) && decide (t.key < 2 ^ 56)

/-- The ring-table entry among touches. -/
def entryIn (l : List Touch) : Option (BitVec 6) := (l.find? (·.isRing)).map (fun t => BitVec.ofNat 6 t.key)

/-- The entry that the ring operand of the environment names: for one that has left a slip buffer, the entry checked at
issue, whatever its VALID and the handle have become since (R96, R133, R135). -/
def State.ringNamed (s : State) (h : HReg) : Option (BitVec 6 × Ring) :=
  match s.env.slipped with
  | some e => (entryIn e.touch).map (fun n => (n, s.ringAt s.myCore n))
  | none => s.ringOf h

/-- The operand is satisfied now; an unbound handle is not. -/
def State.ringReady (s : State) (h : HReg) (producer : Bool) (n : Nat) : Bool :=
  match s.ringNamed h with
  | some (_, r) => r.satisfied producer n
  | none => decide (n = 0)

/-- The key of slot i of a satisfied operand (R135). -/
def State.ringSlotKey (s : State) (h : HReg) (producer : Bool) (i : Nat) : Nat :=
  match s.ringNamed h with
  | some (_, r) => r.slotKey s.myCore ((if producer then r.wptr.toNat else r.rptr.toNat) + i)
  | none => 0

/-- The size of a slot of a satisfied operand. -/
def State.ringSlotSize (s : State) (h : HReg) : Nat := ((s.ringNamed h).map (fun p => p.2.slotSize)).getD 1

/-- Pieces cut from whole slots: slot after slot, the last as far as the bytes go (R135). -/
def slotPieces (key : Nat → Nat) (size : Nat) : Nat → Nat → Nat → List Piece
  | 0, _, _ => []
  | fuel + 1, i, n => if n = 0 then [] else ⟨key i, min n size⟩ :: slotPieces key size fuel (i + 1) (n - min n size)

/-- The storage of an access of n bytes over the slots that its operand names: slot NSL − 1 is followed by slot 0 (R135). -/
def State.ringPieces (s : State) (h : HReg) (producer : Bool) (n : Nat) : List Piece :=
  slotPieces (s.ringSlotKey h producer) (s.ringSlotSize h) n 0 n

/-- advp of an entry, clamped with ERR (R134). -/
def Ring.advp (r : Ring) (n : Nat) : Ring :=
  let m := min n r.free.toNat
  { r with
    wptr := BitVec.ofNat 12 ((r.wptr.toNat + m) % r.nsl), free := r.free - BitVec.ofNat 13 m,
    fill := r.fill + BitVec.ofNat 13 m, err := r.err || decide (m < n) }
/-- advc of an entry, clamped with ERR (R134). -/
def Ring.advc (r : Ring) (n : Nat) : Ring :=
  let m := min n r.fill.toNat
  { r with
    rptr := BitVec.ofNat 12 ((r.rptr.toNat + m) % r.nsl), fill := r.fill - BitVec.ofNat 13 m,
    free := r.free + BitVec.ofNat 13 m, err := r.err || decide (m < n) }
/-- The reservation of a copy's slots at acceptance (R134). -/
def Ring.reserve (r : Ring) (n : Nat) : Ring :=
  let m := min n r.free.toNat
  { r with
    wptr := BitVec.ofNat 12 ((r.wptr.toNat + m) % r.nsl), free := r.free - BitVec.ofNat 13 m,
    pend := r.pend + BitVec.ofNat 13 m, err := r.err || decide (m < n) }
/-- A retired definer's entry ends once none of its slots is reserved (R90, R142). -/
def Ring.settle (r : Ring) : Ring := if r.retiring ∧ r.pend = 0 then { r with valid := false, retiring := false } else r
/-- The publication of a copy's slots (R134). -/
def Ring.publish (r : Ring) (n : Nat) : Ring :=
  let m := min n r.pend.toNat
  Ring.settle { r with pend := r.pend - BitVec.ofNat 13 m, fill := r.fill + BitVec.ofNat 13 m, err := r.err || decide (m < n) }
/-- The return of a failed copy's slots (R134). -/
def Ring.giveBack (r : Ring) (n : Nat) : Ring :=
  let m := min n r.pend.toNat
  Ring.settle { r with pend := r.pend - BitVec.ofNat 13 m, free := r.free + BitVec.ofNat 13 m, err := r.err || decide (m < n) }

/-- Word 0 of an entry as rqry returns it (R131). -/
def Ring.word0 (r : Ring) : Word :=
  (0#5 ++ r.cls ++ r.nslm ++ BitVec.ofBool r.err ++ BitVec.ofBool r.valid ++ r.sszl ++ BitVec.ofBool r.hall ++ r.base
    : BitVec 64)
/-- Word 1 of an entry (R131). -/
def Ring.word1 (r : Ring) : Word := (0#1 ++ r.wptr ++ r.rptr ++ r.pend ++ r.free ++ r.fill : BitVec 64)

/-! ## Joins of copies by their issuer (R36, R141, R161) -/

/-- Flags that fall due at a latency without a value of their own: for an instruction that slipped, in the result that it
reserved for them (R36). -/
def State.addFlags (s : State) (lat : Nat) (fl : Flags) : State :=
  if s.env.slipped.isSome || fl.any then s.deliverR lat { Result.base with flags := fl } else s

/-- The issuing context observes the completion of its copies that meet a test: each contributes its flags once (R36). -/
def State.joinCopies (s : State) (lat : Nat) (test : Copy → Bool) : State :=
  match s.cx.task with
  | none => s
  | some t =>
    let mine (k : Copy) : Bool :=
      k.cid == s.env.cid && k.serial == t.serial && k.st == .ok && !k.joined && test k
    let fl := Flags.union ((s.copies.filter mine).map (·.flags))
    ({ s with copies := s.copies.map (fun k => if mine k then { k with joined := true } else k) } : State).addFlags lat fl

/-- A satisfied ring operand, or rqry, observes the copies published into the ring (R141). A producer operand of ld, st, vld or vst
joins them as a consumer operand does; those of copy and cond, which test FREE alone, join none (DESIGN CHOICE,
notes/assumptions/55.md). -/
def State.joinRing (s : State) (lat : Nat) (h : HReg) : State :=
  match s.ringNamed h with
  | some (e, _) => s.joinCopies lat (fun k => k.cmd.ring == some e && k.published)
  | none => s

/-! ## Extensions of loaded elements (R272, R273) -/

/-- Bytes cut into little-endian elements. -/
def elements : Nat → Nat → List Byte → List Nat
  | 0, _, _ => []
  | k + 1, e, bs => leNat (bs.take e) :: elements k e (bs.drop e)

/-- 64 elements as a vector register (R273). -/
def lanesOfBytes (ty : Fmt) (bs : List Byte) : VecWord := ofLanes ((elements 64 ty.bytes bs).map (extLane ty))
/-- The 64 elements that a vector register stores (R273). -/
def bytesOfLanes (ty : Fmt) (v : VecWord) : List Byte := (lanes v).flatMap (fun x => leBytes ty.bytes x.toNat)

/-- The format of an access: TY, or FMT under a prefix with FE (R215, R271). -/
def State.accessFmt (s : State) (ty : Fmt) : Fmt := if s.env.pfx.fe then (Fmt.ofCode s.env.pfx.fmt).getD ty else ty

/-- The addresses of the lanes that gath and scat access, and which are active (R274). -/
def indexedAddr (base : Word) (e : Nat) (idx : Lane) : Word := base + idx.signExtend 64 * BitVec.ofNat 64 e

end Sys2Proof.Machine
end

