-- ==== Sys2Proof/Machine/Storage.lean ====
section
/-!
DEFINITION. Errors of storage (spec/05 R148; spec/18 R454; spec/19 R469, R477): the units of the package that they are
attributed to, the records that name them, and what a read that meets one does.
-/
namespace Sys2Proof.Machine

/-- All contexts of the package. -/
def allCtxs : List CtxId := (List.range 2048).map (BitVec.ofNat 11)

/-- The link ports of a part (R1). -/
def portCount (p : PartNo) : Nat :=
  match p with
  | .e => 12 | .s => 6

/-- The units of a class that a part has: cores, link ports, and the 32 memory channels of each populated stack (R1, R12,
R458, R466). -/
def unitsOf (p : PartNo) : UnitClass → List Nat
  | .core => List.range 512
  | .link => List.range (portCount p)
  | .channel => (stacksOf p).flatMap (fun k => (List.range 32).map (fun i => 32 * k.toNat + i))

/-- An error record of EQ (R454). -/
def errorRecord (kind fl core ctx : Nat) (pa va rcb gcc det : Word) : List Byte :=
  leBytes 1 kind ++ leBytes 1 fl ++ leBytes 2 core ++ leBytes 1 ctx ++ leBytes 3 0 ++ leBytes 8 pa.toNat ++ leBytes 8 va.toNat ++
  leBytes 8 rcb.toNat ++ leBytes 8 gcc.toNat ++ leBytes 8 det.toNat ++ leBytes 16 0

/-- Master class 0 of a partition with a task in service may write a physical block: the partition whose storage it is, by the
access tables that bound it (R484, R486; notes/assumptions/35.md). -/
def State.ownerOf (s : State) (pa : Nat) : Option (BitVec 4) :=
  ((List.range 16).map (BitVec.ofNat 4)).find? (fun p =>
    (s.partOf p).registered && allCtxs.any (fun c =>
      match (s.ctx c).task with | some t => t.part == p | none => false) &&
    s.permits (.cellar (Config.homeSlice (pa / 256))) (masterOf p 0) .write pa pa)

/-- The memory channel of a block of physical memory: one of the 32 of its stack, by its line (R12, R469). -/
def State.channelAt (s : State) (pa : Nat) : Nat := 32 * (s.stackOf (pa / 256)).toNat + pa / 256 % 32

/-- An error raises the score of its unit: the core of a PM word, the channel of an HBM4E word; errors of halls belong to no
leasable unit (R469). -/
def State.scoreError (s : State) (key : Nat) : State :=
  if 2 ^ 53 ≤ key ∧ key < 2 ^ 54 then s.raiseScore .core ((key - 2 ^ 53) / 2 ^ 20) 1 0
  else if 2 ^ 54 ≤ key then { s with mgmt := { s.mgmt with otherErrors := s.mgmt.otherErrors + 1 } }
  else s.raiseScore .channel (s.channelAt key) 1 0

/-- The partition that a record about a word of PM or hall goes to: that of a context of its core or cluster. -/
def State.localOwner (s : State) (key : Nat) : Option CtxId :=
  allCtxs.find? (fun c =>
    (s.ctx c).task.isSome &&
    (if key < 2 ^ 54 then decide (c.core.toNat = (key - 2 ^ 53) / 2 ^ 20)
     else decide (c.core.cluster.toNat = (key - 2 ^ 54) / 2 ^ 25)))

/-- The one that a read is made for, as an error record names it: context, if there is one, partition, region, linear index and
address (R454). -/
structure Reader where
  cid : Option CtxId
  part : BitVec 4
  rcb : Word
  lidx : Word
  va : Word
deriving DecidableEq, Repr

/-- The task of a context as the reader at an address (R454). -/
def State.readerAt (s : State) (c : CtxId) (va : Word) : Reader :=
  ⟨some c, s.ctxPart c, ((s.ctxRgn c).map (·.rcb)).getD 0, ((s.ctx c).task.map (·.lidx)).getD (BitVec.allOnes 64), va⟩

/-- The forker of an engine thread as the reader at an address (R160, R454). -/
def State.ownerAt (s : State) (o : Owner) (va : Word) : Reader :=
  ⟨some o.cid, o.part, ((s.rgnOf o.region).map (·.rcb)).getD 0, o.lidx, va⟩

/-- The window address of a key of PM or hall (R123). -/
def windowVa (key : Nat) : Nat := if key < 2 ^ 54 then (key - 2 ^ 53) % 2 ^ 20 else 0x20000000 + (key - 2 ^ 54) % 2 ^ 25

/-- The window address of the first byte of pieces of PM or hall. -/
def piecesVa (ps : List Piece) : Word := BitVec.ofNat 64 (windowVa ((ps.head?.map (·.key)).getD 0))

/-- The record of an uncorrectable error: UNCOR for a word of PM or hall, POISR for a block; it names the reader that met it,
or the owner of the storage when patrol scrubbing did (R148, R454, R478). -/
def State.recordError (s : State) (key : Nat) (who : Option Reader) : State :=
  let loc := isLocalKey key
  match who with
  | some r =>
    s.post r.part (s.partOf r.part).eq
      (errorRecord (if loc then 3 else 2) 2 ((r.cid.map (·.core.toNat)).getD 0xFFFF)
        ((r.cid.map (·.num.toNat)).getD 0xFF) (if loc then 0 else BitVec.ofNat 64 (poisonBase key)) r.va
        r.rcb s.gcc r.lidx)
  | none =>
    if loc then
      match s.localOwner key with
      | none => s
      | some c =>
        let p := s.ctxPart c
        let rcb := ((s.ctxRgn c).map (·.rcb)).getD 0
        let win := windowVa key
        s.post p (s.partOf p).eq
          (errorRecord 3 2 (if key < 2 ^ 54 then c.core.toNat else 0xFFFF) 0xFF 0 (BitVec.ofNat 64 (win - win % 8)) rcb s.gcc
            (BitVec.allOnes 64))
    else
      match s.ownerOf key with
      | none => s
      | some p =>
        s.post p (s.partOf p).eq
          (errorRecord 2 0 0xFFFF 0xFF (BitVec.ofNat 64 (poisonBase key)) 0 0 s.gcc (BitVec.allOnes 64))

/-- An error of a unit of storage has been found: a correctable one is written back and scored; an uncorrectable one poisons
the word or block, with its record (R148, R454, R477). Host memory and keys of no store have no such errors. -/
def State.foundError (s : State) (key : Nat) (correctable : Bool) (who : Option Reader) : State :=
  if isHostKey key ∨ 2 ^ 55 ≤ key then s
  else if correctable then s.scoreError key
  else ({ s with poison := keyAdd s.poison (poisonBase key) } : State).recordError key who

/-- A unit of storage is one of those that pieces touch. -/
def unitTouched (ps : List Piece) (unit : Nat) : Bool :=
  ps.any (fun p => decide (p.key < unit + poisonUnit unit) && decide (unit < p.key + p.len))

/-- The errors of the units that a read of pieces touches, found one after another (R148). -/
def State.errorsFound (s : State) (r : Reader) (ps : List Piece) : State :=
  (s.damaged.filter (fun d => unitTouched ps d.1)).foldl (fun u d => u.foundError d.1 d.2 (some r))
    { s with damaged := s.damaged.filter (fun d => !unitTouched ps d.1) }

/-- A read of pieces finds their errors: storage, poison, records, scores and counts change, and nothing else (R148). -/
def State.readErrors (s : State) (r : Reader) (ps : List Piece) : State :=
  let t := s.errorsFound r ps
  { s with mem := t.mem, poison := t.poison, damaged := t.damaged, van := t.van, mgmt := t.mgmt, held := t.held }

/-! ## Translations that enter the caches (R436) -/

/-- A walk for a core: the errors of the table entries that it reads are found, and a translation enters the core's caches
(R148, R436). -/
def State.noteTlb (s : State) (core : CoreId) (r : Reader) : State :=
  match s.cached (some core) r.part r.va with
  | some _ => s
  | none =>
    let t := s.readErrors r ((s.walkKeys r.va 4 (s.partOf r.part).root.toNat 0).map (fun k => ⟨k, 8⟩))
    match s.leafOf (some core) r.part r.va with
    | .ok (e, bits) =>
      let base : BitVec 56 := (r.va.setWidth 56 >>> bits) <<< bits
      { t with tlb := (cachesOf (some core)).foldl (fun l h => enterTlb ⟨h, r.part, base, bits, e⟩ l) t.tlb }
    | .error _ => t

/-- Where a range of n bytes begins in each of the 64 KiB pages that it reaches. -/
def pageStarts (va : Word) (n : Nat) : List Word :=
  (va :: (List.range (n / 65536 + 1)).map (fun i => (va &&& ~~~ 0xFFFF#64) + BitVec.ofNat 64 (65536 * (i + 1)))).filter
    (fun w => decide ((w - va).toNat < n))

/-- The translations of a range that a reader for a core uses enter the caches (R130, R436). -/
def State.noteRange (s : State) (core : CoreId) (r : Reader) (n : Nat) : State :=
  (pageStarts r.va n).foldl (fun u va => u.noteTlb core { r with va := va }) s

/-- The translations that an access of the instruction in the environment uses enter the caches (R436). -/
def State.noteAccess (s : State) (sp : Space) (va : Word) (n : Nat) : State :=
  match sp with
  | .glob => s.noteRange s.myCore (s.readerAt s.env.cid va) n
  | _ => s

/-- The same at issue, when every page of the access is translated: before, t is the state in which the bundle issues, and an
instruction that leaves a slip buffer has been translated already (R96, R436). -/
def State.noteIssue (t : State) (before : State) (sp : Space) (va : Word) (n : Nat) : State :=
  if before.env.slipped.isSome ∨ t.env.block ∨ t.env.raised.isSome then t else t.noteAccess sp va n

/-! ## Wide accesses (R154) -/

/-- One lane of a wide read is read again: its element as it is now, with its errors and its poison (R148, R149, R154). -/
def State.readLane (s : State) (l : Late) (p : Nat × Nat) : State :=
  match (s.ctx l.cid).results.find? (fun r => r.rid == l.rid) with
  | none => s
  | some r =>
    let n := l.fmt.bytes
    let t := s.readErrors (s.readerAt l.cid l.va) [⟨p.2, n⟩]
    let bad := t.poisoned p.2 n
    t.mapCtx l.cid (fun x =>
      { x with
        results := x.results.map (fun y =>
          if y.rid = l.rid then
            { y with val := setLane y.val p.1 (extLane l.fmt (t.natAt p.2 n)), preg := y.preg || (bad && x.cregs.isEmpty) }
          else y),
        unwind := if bad ∧ x.cregs ≠ [] then some (x.unwind.getD r.pc) else x.unwind })

/-- The units of a wide access that were still to come are performed: bytes written, and the lanes of a result read again
(R148, R149, R154). -/
def State.perform (s : State) (l : Late) : State :=
  l.lanes.foldl (fun u p => u.readLane l p) (s.putCells (l.writes.map (fun w => (w.1, (w.2, false)))))

/-- A wide read of elements into the lanes of a result: the units of a size in bytes that a free choice picks are read again
later (R154, R274). -/
def State.readWide (s : State) (rid size : Nat) (va : Word) (f : Fmt) (l : List (Nat × Nat)) : State :=
  { s with
    free := s.free + 1,
    late := s.late ++ [⟨s.env.cid, size, va, [], rid, f, l.filter (fun p => Config.granuleLate s.free (p.2 / size))⟩] }

/-- All that a context's last wide access still has to perform is performed now: before its next access (R154, R160). -/
def State.settle (s : State) (c : CtxId) : State :=
  (s.late.filter (fun l => l.cid == c)).foldl State.perform { s with late := s.late.filter (fun l => l.cid != c) }

/-- Some of the units of a wide access are performed, the others are still to come (R154). -/
def State.performSome (s : State) (n : Nat) : State :=
  match s.late[n]? with
  | none => s
  | some l =>
    let later (k : Nat) : Bool := Config.granuleLate s.free (s.groupOf (l.writes.map (·.1)) l.size k)
    ({ s with
      free := s.free + 1,
      late := s.late.set n { l with
        writes := l.writes.filter (fun w => later w.1), lanes := l.lanes.filter (fun p => later p.2) } } : State).perform
      { l with writes := l.writes.filter (fun w => !later w.1), lanes := l.lanes.filter (fun p => !later p.2) }

/-! ## Engine threads that read and write over time (R9, R86, R160) -/

/-- The bytes of pieces as a thread has them: those that it read ahead, the others as they are now, each with its mark of poison
(R149, R160). -/
def State.carriedFrom (s : State) (ahead : List (Nat × Carried)) (ps : List Piece) : List Carried :=
  (pieceKeys ps).map (fun k =>
    match ahead.find? (fun c => c.1 == k) with
    | some c => c.2
    | none => (memRead s.mem k, s.poison.contains (poisonBase k)))

/-- The bytes of pieces with their poison, byte by byte. -/
def State.carriedBytes (s : State) (ps : List Piece) : List Carried := s.carriedFrom [] ps

/-- A thread reads ahead the granules of its sources that a free choice picks among those that it has not read (R160). -/
def State.readAhead (s : State) (ahead : List (Nat × Carried)) (ps : List Piece) : List (Nat × Carried) :=
  ahead ++ (((pieceKeys ps).zip (s.carriedBytes ps)).filter (fun c =>
    !ahead.any (fun a => a.1 == c.1) && !Config.granuleLate s.free (c.1 / 8)))

/-- What a thread writes of its destination now: of the granules that it has not written, those that a free choice picks; none
where it can write nothing (R9, R160). -/
def State.openCells (s : State) (done : List Nat) (ps : List Piece) (op : List (Option Carried)) : List (Nat × Carried) :=
  let keys := pieceKeys ps
  ((keys.zip op).filterMap (fun p => p.2.map (fun c => (p.1, c)))).filter (fun c =>
    !done.contains (c.1 / 8) && !Config.granuleKept s.free (s.groupOf keys 8 c.1))

/-- What a thread has still to write of its destination. -/
def restCells (done : List Nat) (ps : List Piece) (l : List Carried) : List (Nat × Carried) :=
  ((pieceKeys ps).zip l).filter (fun c => !done.contains (c.1 / 8))

/-- The granules of a list of cells. -/
def granulesOf (l : List (Nat × Carried)) : List Nat := (l.map (fun c => c.1 / 8)).dedup

/-- No unit that pieces touch holds an error that no read has met (R148). -/
def State.undamaged (s : State) (ps : List Piece) : Prop := ∀ d ∈ s.damaged, unitTouched ps d.1 = false

end Sys2Proof.Machine
end

