-- ==== Sys2Proof/Machine/Issue.lean ====
section
/-!
DEFINITION. Instruction supply and issue: segments (spec/04 R110 to R114), the decode checks that look at state
(spec/08 R219), boundary traps (spec/18 R445), the loop sequencer's iteration end (R107, R109), delay slots (R104) and
the end of a bundle (R92, R93). Step.lean calls these with exec as an argument.
-/
namespace Sys2Proof.Machine

/-! ## Segments (R110 to R113) -/

/-- One step of CRC-32C for one byte, 8 bits with fuel. -/
def crc32cBits : Nat → BitVec 32 → BitVec 32
  | 0, c => c
  | n + 1, c => crc32cBits n (if c.getLsbD 0 then (c >>> 1) ^^^ 0x82F63B78#32 else c >>> 1)
/-- CRC-32C of bytes (R110; notes/assumptions/14.md). -/
def crc32c (bs : List Byte) : BitVec 32 :=
  ~~~ (bs.foldl (fun c b => crc32cBits 8 (c ^^^ b.setWidth 32)) (BitVec.allOnes 32))

/-- Bytes of code at a virtual address, with their poison, or the fault of fetching them (R113, R434). A fetch that an access
table denies raises ACCV where execution reaches the segment: the manual checks fetches (R484) and names no outcome for one
(DESIGN CHOICE, notes/assumptions/55.md). -/
def State.fetchBytes (s : State) (core : CoreId) (part : BitVec 4) (va : Word) (n : Nat) :
    Except (Cause × BitVec 32 × Word) (List Byte × Bool) :=
  match s.translateAll (some core) part .fetch va n with
  | .error f => .error (.pflt, f.det, f.va)
  | .ok rs =>
    if rs.all (s.permitsRun (masterOf part 0) .fetch) then
      .ok (s.piecesBytes (rs.map (·.piece)), s.piecesPoisoned (rs.map (·.piece)))
    else .error (.accv, 0, va)

/-- A stored bundle expanded from its mask and words (R111). -/
def expandWords (mask : Byte) : Nat → List Byte → Bundle
  | 0, _ => 0
  | n + 1, bs =>
    let k := 7 - n
    if mask.getLsbD k then
      ((BitVec.ofNat 32 (leNat (bs.take 4))).setWidth 256 <<< (32 * k)) ||| expandWords mask n (bs.drop 4)
    else expandWords mask n bs

/-- The set bits of a mask byte. -/
def popMask (m : Byte) : Nat := ((List.range 8).filter (fun k => m.getLsbD k)).length

/-- The body of a segment laid out from its mask bytes: bundles, raw bytes, poison (R111, R113). -/
def State.fetchBody (s : State) (core : CoreId) (part : BitVec 4) : Nat → Word → Except (Cause × BitVec 32 × Word) (List Bundle × List Byte × Bool)
  | 0, _ => .ok ([], [], false)
  | n + 1, va =>
    match s.fetchBytes core part va 1 with
    | .error e => .error e
    | .ok (mb, p) =>
      let m : Byte := mb.headD 0
      let len := 4 * popMask m
      match s.fetchBytes core part (va + 1) len with
      | .error e => .error e
      | .ok (bs, q) =>
        match s.fetchBody core part n (va + BitVec.ofNat 64 (1 + len)) with
        | .error e => .error e
        | .ok (l, raw, r) => .ok (expandWords m 8 bs :: l, mb ++ bs ++ raw, p || q || r)

/-- A segment's virtual address. -/
def segAddr (seg : BitVec 56) : Word := (seg ++ 0#8 : BitVec 64)

/-- A segment expanded, or with the fault found while expanding it (R110 to R113). -/
def State.expandSegment (s : State) (core : CoreId) (part : BitVec 4) (seg : BitVec 56) : Segment :=
  let bad (c : Cause) (d : BitVec 32) (a : Word) : Segment := ⟨seg, 0, 0, [], some (c, d, a)⟩
  if !canonical (segAddr seg) then bad .pflt 4 (segAddr seg)
  else
    match s.fetchBytes core part (segAddr seg) 16 with
    | .error (c, d, a) => bad c d a
    | .ok (h, hp) =>
      let next : Word := BitVec.ofNat 64 (leNat (h.take 8))
      let nb := leNat ((h.drop 8).take 2)
      let res := leNat ((h.drop 10).take 2)
      let crc : BitVec 32 := BitVec.ofNat 32 (leNat (h.drop 12))
      if nb = 0 ∨ nb > 256 ∨ res ≠ 0 ∨ next.setWidth 8 ≠ (0 : BitVec 8) then bad .ill 0 0
      else
        match s.fetchBody core part nb (segAddr seg + 16) with
        | .error (c, d, a) => bad c d a
        | .ok (l, raw, bp) =>
          if hp || bp then bad .pois 1 0
          else if crc32c (h.take 12 ++ raw) ≠ crc then bad .pois 0 0
          else ⟨seg, nb, next, l, none⟩

/-- The storage that the expansion of a segment reads, as far as it translates (R111, R113). -/
def State.segmentPieces (s : State) (core : CoreId) (part : BitVec 4) (seg : BitVec 56) : List Piece :=
  let at' (va : Word) (n : Nat) : List Piece :=
    match s.translateAll (some core) part .fetch va n with
    | .ok rs => rs.map (·.piece)
    | .error _ => []
  match s.fetchBytes core part (segAddr seg) 16 with
  | .error _ => []
  | .ok (h, _) =>
    match s.fetchBody core part (min 256 (leNat ((h.drop 8).take 2))) (segAddr seg + 16) with
    | .ok (_, raw, _) => at' (segAddr seg) (16 + raw.length)
    | .error _ => at' (segAddr seg) 16

/-- The segment and index of a bundle address (R112). -/
def bundleSeg (pc : Word) : BitVec 56 := pc.extractLsb' 8 56
/-- The index of a bundle address. -/
def bundleIdx (pc : Word) : Nat := (pc.setWidth 8 : BitVec 8).toNat

/-- A segment in the loop buffer of a context. -/
def Ctx.loaded (x : Ctx) (seg : BitVec 56) : Option Segment := x.lbuf.find? (fun g => g.seg == seg)

/-- NB and NEXT of a segment, from the loop buffer or by expanding it; none when it cannot be expanded. -/
def State.segHead (s : State) (c : CtxId) (seg : BitVec 56) : Option (Nat × Word) :=
  let g := ((s.ctx c).loaded seg).getD (s.expandSegment c.core (s.ctxPart c) seg)
  match g.fault with
  | some _ => none
  | none => some (g.nb, g.next)

/-- The fall-through successor of a bundle, and whether it lies past the end of the chain (R112, R114). The address past the end
is the next number, which after index 255 is that of the next 256 bytes (DESIGN CHOICE, notes/assumptions/55.md). -/
def State.succ (s : State) (c : CtxId) (pc : Word) : Word × Bool :=
  match s.segHead c (bundleSeg pc) with
  | none => (pc + 1, true)
  | some (nb, next) =>
    if bundleIdx pc + 1 < nb then (pc + 1, false)
    else if next = 0 then (pc + 1, true) else (next, false)

/-- The spans of the n bundles from an address on in fall-through order, with fuel for the segments; how many could not be
located, and where they begin: at a segment that cannot be expanded now, or, with the mark set, past the end of the chain
(R105, R113, R114). -/
def State.spansFrom (s : State) (c : CtxId) : Nat → Word → Nat → List Span × Nat × Word × Bool
  | 0, pc, n => ([], n, pc, false)
  | fuel + 1, pc, n =>
    match s.segHead c (bundleSeg pc) with
    | none => ([], n, pc, false)
    | some (nb, next) =>
      let i := bundleIdx pc
      if i ≥ nb then ([], n, pc, true)
      else if i + n ≤ nb then ([⟨bundleSeg pc, i, i + n - 1⟩], 0, pc, false)
      else if next = 0 then ([⟨bundleSeg pc, i, nb - 1⟩], n - (nb - i), segAddr (bundleSeg pc) + BitVec.ofNat 64 nb, true)
      else
        let r := s.spansFrom c fuel next (n - (nb - i))
        (⟨bundleSeg pc, i, nb - 1⟩ :: r.1, r.2)

/-- The last bundle of a run of spans. -/
def lastOf (l : List Span) : Word :=
  match l.getLast? with
  | some p => segAddr p.seg + BitVec.ofNat 64 p.hi
  | none => 0

/-- The part of a level's body that is still to be located is looked for again, unless it lies past the end of the chain (R105,
R113, R114). -/
def State.locate (s : State) (c : CtxId) (l : Loop) : Loop :=
  if l.active = false ∨ l.rest = 0 ∨ l.afterEnd then l
  else
    let r := s.spansFrom c (l.rest + 1) l.onward l.rest
    let body := l.body ++ r.1
    let nx := s.succ c (lastOf body)
    { l with
      body := body, rest := r.2.1, onward := r.2.2.1, last := lastOf body, after := nx.1,
      afterEnd := if r.2.1 = 0 then nx.2 else r.2.2.2 }

/-- A bundle address lies in a run of spans. -/
def inSpans (l : List Span) (pc : Word) : Bool :=
  l.any (fun p => p.seg == bundleSeg pc && decide (p.lo ≤ bundleIdx pc) && decide (bundleIdx pc ≤ p.hi))

/-- A bundle address lies in the body of a level, or in the part of it that is still to be located. -/
def Loop.holds (l : Loop) (pc : Word) : Bool :=
  inSpans l.body pc ||
  (l.rest != 0 && !l.afterEnd && bundleSeg pc == bundleSeg l.onward && decide (bundleIdx l.onward ≤ bundleIdx pc) &&
    decide (bundleIdx pc < bundleIdx l.onward + l.rest))

/-- A bundle is the last one of a level's body. -/
def Loop.endsAt (l : Loop) (pc : Word) : Bool := l.active && l.rest == 0 && l.last == pc

/-- The bundles of spans from an address on. -/
def spansLeft : List Span → Word → Nat
  | [], _ => 0
  | p :: l, pc =>
    if p.seg == bundleSeg pc && decide (p.lo ≤ bundleIdx pc) && decide (bundleIdx pc ≤ p.hi) then
      p.hi - bundleIdx pc + 1 + (l.map (fun q => q.hi - q.lo + 1)).sum
    else spansLeft l pc

/-- The bundles of a level's body from an address on (R105). -/
def Loop.left (l : Loop) (pc : Word) : Nat :=
  if inSpans l.body pc then spansLeft l.body pc + l.rest else if l.holds pc then l.rest - (bundleIdx pc - bundleIdx l.onward) else 0

/-- The active loop levels, innermost first (R105). -/
def Ctx.activeLevels (x : Ctx) : List Nat := (List.range 6).filter (fun n => (x.loops.toList[n]?.getD Loop.idle).active)
/-- The innermost active level. -/
def Ctx.innermost (x : Ctx) : Option Loop := (x.activeLevels.head?).map (fun n => x.loops.toList[n]?.getD Loop.idle)

/-! ## The checks of R219 against state -/

/-- A decode trap: cause and marked positions (R219, R220). -/
abbrev DecodeTrap := Cause × BitVec 8

/-- The units that VG5-S lacks (R2, R19). -/
def needsEnclosure : Instr → Bool
  | .rlxb .. | .rlx .. | .mmaE .. | .mmaD .. | .adrnC .. | .symNew .. | .symSig .. | .symQry .. | .symRel .. | .cond ..
  | .condQry .. => true
  | .mmas _ _ _ _ _ _ _ mode .. => mode != .plain
  | _ => false

/-- The C instruction of a bundle, read from its words alone; none where they decode to none. So a word of a branch's major with
reserved bits set is no branch for check 2 of R219 and fails check 4, while one that decodes is, whatever its level
(DESIGN CHOICE, notes/assumptions/55.md). -/
def cInstr (b : Bundle) : Option Instr :=
  if selOf (b.word 0) = 0 then decodeWords .c [b.word 0] else decodeWords .c [b.word 0, b.word 1]

/-- A bundle stands in a delay slot of a taken or untaken branch (R104). -/
def Ctx.inDelay (x : Ctx) : Bool := x.flow.dsl != 0 || x.flow.shadowSlots != 0

/-- Instructions that need handler privilege (R235, R247, R405). -/
def privileged : Instr → Bool
  | .mtc .tcs _ | .mtc .tad _ | .mtc .sfm _ | .mtc .tvb _ => true
  | _ => false

/-- The positions of the instructions that meet a test. -/
def marksOf (l : List SlotInstr) (t : Instr → Bool) : BitVec 8 :=
  l.foldl (fun m i => if t i.instr then m ||| slotMask i.instr i.pos.toNat else m) 0

/-- The cause of a refusal by the words alone. -/
def rejectCause : Reject → Cause
  | .wide => .wide | .orph => .orph | .bcst => .bcst | .ill => .ill

/-- The six checks of R219 in order for a context. DSLOT marks position 0, as the table of R219 says, for the wide jmpl too, whose
lending position R210 would add (DESIGN CHOICE, notes/assumptions/55.md). -/
def State.decodeChecked (s : State) (c : CtxId) (b : Bundle) : Except DecodeTrap (List SlotInstr) :=
  let x := s.ctx c
  match structureCheck b with
  | some (r, m) => .error (rejectCause r, m)
  | none =>
    if x.inDelay && (match cInstr b with | some i => i.isBranch | none => false) then .error (.dslot, 1)
    else
      match decodeBundle b with
      | .error (r, m) => .error (rejectCause r, m)
      | .ok l =>
        let absent := if s.part = .s then marksOf l needsEnclosure else 0
        if absent ≠ 0 then .error (.unit, absent)
        else
          let priv := marksOf l (fun i =>
            match i with
            | .tret => decide (x.level = 0)
            | i => privileged i && !s.handlerRights c)
          if priv ≠ 0 then .error (.priv, priv) else .ok l

/-! ## Boundary traps (R445) -/

/-- The pending boundary traps of the context's handler level with a cause. -/
def Ctx.pendingTrap (x : Ctx) (cause : Cause) : Option BTrap :=
  x.btraps.find? (fun t => t.cause == cause && t.level == x.level)

/-- A copy of a context's task whose promise has passed without completion, and without PMISS in this run (R139). -/
def State.missed (s : State) (c : CtxId) (k : Copy) : Bool :=
  match (s.ctx c).task with
  | none => false
  | some t =>
    k.cid == c && k.serial == t.serial && !k.pms && k.st != .ok && k.st != .cancelled &&
      decide (k.promise.toNat ≤ s.gcc.toNat)

/-- At a boundary, the missed promises of a context become pending PMISS traps of its handler level (R139, R445). -/
def State.noteMissed (s : State) (c : CtxId) : State :=
  match s.copies.filter (s.missed c) with
  | [] => s
  | l =>
    ({ s with copies := s.copies.map (fun k => if s.missed c k then { k with pms := true } else k) } : State).mapCtx c
      (fun x => { x with
        btraps := x.btraps ++ l.map (fun k => ⟨x.level, .pmiss, x.flow.pc, 0, k.num.setWidth 32, x.ctm⟩) })

/-- A member of a coach enters its handler because another member trapped: the cause of that member, SFM 0 (R102). -/
def State.enterWith (s : State) (d : CtxId) (cause : Cause) (tad : Word) : State :=
  s.enterHandler d ⟨cause, 0, tad, 0, 0, 0⟩

/-- The pending trap of a member taken by that member (R445, R448). -/
def State.enterPending (s : State) (d : CtxId) (t : BTrap) : State :=
  (s.mapCtx d (fun x => { x with btraps := x.btraps.erase t })).enterHandler d
    ⟨t.cause, t.det, t.tad, t.sfm, slotCauses t.sfm t.cause, 0⟩

/-- A pending boundary trap is taken in a context, and with it in every member of its coach (R102, R445, R448). -/
def State.takeBTrap (s : State) (c : CtxId) (t : BTrap) : State :=
  (s.members c).foldl (fun u d =>
    if d = c then u.enterPending d t
    else
      match (s.ctx d).pendingTrap t.cause with
      | some v => u.enterPending d v
      | none => u.enterWith d t.cause t.tad) s

/-- The boundary trap of a cause taken, if one is pending. -/
def State.takePending (s : State) (c : CtxId) (cause : Cause) : State :=
  match (s.ctx c).pendingTrap cause with
  | some t => s.takeBTrap c t
  | none => s

/-- A pending CAPC whose number the context has acknowledged is discarded (R475). -/
def Ctx.dropCapc (x : Ctx) : Ctx :=
  if decide ((x.ctl.capn.setWidth 32 : BitVec 32).toNat ≤ x.ack.toNat) then
    { x with btraps := x.btraps.filter (fun t => t.cause != .capc) }
  else x

/-- What stands at the boundary before the next bundle of a context, in the order of R445. -/
inductive Boundary
  | unwind | trap (c : Cause) | clear
deriving DecidableEq, Repr

/-- The boundary trap taken next (R445). -/
def State.boundary (s : State) (c : CtxId) : Boundary :=
  let x := s.ctx c
  if x.unwind.isSome then .unwind
  else if (x.pendingTrap .swt).isSome then .trap .swt
  else if (x.pendingTrap .fpx).isSome then .trap .fpx
  else if (x.pendingTrap .cmpm).isSome then .trap .cmpm
  else if (x.pendingTrap .user).isSome then .trap .user
  else if (x.pendingTrap .pmiss).isSome then .trap .pmiss
  else if (x.dropCapc.pendingTrap .capc).isSome then .trap .capc
  else .clear

/-! ## The loop sequencer (R107, R109) -/

/-- One stride added to its target: to the register, or to the value still on its way (R107). -/
def Ctx.addStride (x : Ctx) (t : SReg) (step : Word) : Ctx :=
  let l := x.results.filter (fun r => !r.arrived && decide (r.due.toNat ≤ x.ctm.toNat) && r.dest == .s t)
  match (sortResults l).getLast? with
  | some last =>
    { x with results := x.results.map (fun r => if r.rid = last.rid then { r with stride := r.stride + step } else r) }
  | none => x.ws t (x.rs t + step)

/-- The end of an iteration at the levels whose last bundle is `pc`, from level n on (fuel): strides, LC, and where
the context goes on (R106, R107, R243). -/
def Ctx.iterationEnd (x : Ctx) (pc : Word) : Nat → Nat → Ctx
  | 0, _ => x
  | fuel + 1, n =>
    let l := x.loops.toList[n]?.getD Loop.idle
    if !l.active then x.iterationEnd pc fuel (n + 1)
    else if !l.endsAt pc then x
    else
      let x1 := l.strides.foldl (fun (y : Ctx) p => y.addStride p.1 p.2) x
      if l.lc.toNat > 1 then
        let x2 := x1.mapLoop n (fun k => { k with lc := k.lc - 1, first := false })
        { x2 with flow := { x2.flow with pc := l.start, pastEnd := false } }
      else (x1.mapLoop n (fun _ => Loop.idle)).iterationEnd pc fuel (n + 1)

/-- The levels 0 to n end with LC 0 (R109). -/
def Ctx.endLevels (x : Ctx) (n : Nat) : Ctx :=
  (List.range (n + 1)).foldl (fun (y : Ctx) k => y.mapLoop k (fun _ => Loop.idle)) x

/-! ## The end of a bundle -/

/-- Whether the flow of a context before a bundle had pending delay slots. -/
def Flow.pending (f : Flow) : Bool := f.dsl != 0

/-- The levels up to the one that lbrk breaks end, and the context goes on after its body. Where that body ends with the
body around it, the iteration of the body around it ends there too (R106, R109; notes/assumptions/48.md). -/
def Ctx.breakLevels (x : Ctx) (lv : BitVec 3) : Ctx :=
  let l := x.level? lv
  let y := x.endLevels lv.toNat
  if l.rest = 0 then
    ({ y with flow := { y.flow with pc := l.after, pastEnd := l.afterEnd } } : Ctx).iterationEnd l.last 6 0
  else y

/-- A bundle has issued: CTM counts it, the results due take effect, and the context goes on to the next bundle: a
delay slot, a branch's target, the start of a loop's body, the bundle after a skipped body, or the successor (R92, R93,
R104, R106, R107, R109, R90). A taken branch that stands in the last bundle of a body ends no iteration
(notes/assumptions/48.md). After the second delay slot of halt the context has no boundary left before which a bundle is checked,
so boundary traps that are due or pending then are never taken (DESIGN CHOICE, notes/assumptions/55.md). `before` is the flow
before the bundle. -/
def State.commitCtx (s : State) (c : CtxId) (before : Flow) : State :=
  let s0 := (s.mapCtx c (fun x =>
    { x with ctm := x.ctm + 1,
             flow := { x.flow with entering := none, waiting := none, expired := false, holds := Holds.none } })).applyDue c
  if s.env.redirect then s0
  else
    let s1 := s0.mapCtx c (fun x => { x with loops := x.loops.map (s0.locate c) })
    let x := s1.ctx c
    let nx : Word × Bool := match s.env.skip with | some k => (k.1, k.2.1) | none => s1.succ c before.pc
    let ended : Option Word := match s.env.skip with | some k => k.2.2 | none => some before.pc
    let sh : BitVec 2 := if before.shadowSlots = 0 then x.flow.shadowSlots else before.shadowSlots - 1
    let f0 : Flow := { x.flow with pc := nx.1, pastEnd := nx.2, shadowSlots := sh }
    if before.dsl = 0 then
      if f0.dsl ≠ 0 then s1.setCtx c { x with flow := f0 }
      else
        match ended with
        | some pc => s1.setCtx c (({ x with flow := f0 } : Ctx).iterationEnd pc 6 0)
        | none => s1.setCtx c { x with flow := f0 }
    else if before.dsl = 1 then
      if before.halting then
        s1.setCtx c { x with run := .draining, flow := { f0 with dsl := 0, halting := false } }
      else
        let f1 : Flow := { f0 with dsl := 0, pc := before.dst, pastEnd := false, breaking := none }
        match before.breaking with
        | some lv => s1.setCtx c (({ x with flow := f1 } : Ctx).breakLevels lv)
        | none => s1.setCtx c { x with flow := f1 }
    else s1.setCtx c { x with flow := { f0 with dsl := before.dsl - 1 } }

/-! ## Issuing a bundle -/

/-- What the slots of a bundle have done: the state, the traps raised by slot, and whether the bundle must wait. -/
structure Issued where
  st : State
  raised : List (Pos × Cause × BitVec 32 × Word × BitVec 8)
  held : Bool
deriving DecidableEq, Repr

/-- The environment in which a slot of a bundle executes. -/
def slotEnv (e : Env) (i : SlotInstr) : Env :=
  { e with pos := i.pos, pfx := i.mods, op := i.instr.ctorIdx, raised := none, block := false, holds := Holds.none }

/-- The slots gated off, with every reader of the port when its bcast is gated off (R218). -/
def gatedOff (off readers : BitVec 8) (bc : Option Pos) : BitVec 8 :=
  match bc with
  | some p => if off.getLsbD p.toNat then off ||| readers else off
  | none => off

/-- The state in which a slot of a bundle executes: what its thread's last wide access still has to perform is performed
before an instruction with a place in the total order (R154). -/
def State.forSlot (s : State) (i : SlotInstr) : State :=
  let t := if ordered i.instr then s.settle s.env.cid else s
  { t with env := slotEnv t.env i }

/-- The slots of a bundle in position order. A slot that is gated off does nothing; one that raises a trap leaves the
state as it was for the slots after it, whose checks still run; its decision of control stays (R103, R108, R220, R444). -/
def runSlots (exec : Instr → State → Host.Outcome State Fault Refusal) (readers : BitVec 8) (bc : Option Pos) :
    List SlotInstr → Issued → Host.Outcome Issued Fault Refusal
  | [], a => .next a
  | i :: l, a =>
    if (gatedOff a.st.env.off readers bc).getLsbD i.pos.toNat then runSlots exec readers bc l a
    else
      match exec i.instr (a.st.forSlot i) with
      | .next t =>
        if t.env.block then .next ⟨t, a.raised, true⟩
        else
          match t.env.raised with
          | some (c, d, f, m) =>
            runSlots exec readers bc l
              ⟨{ a.st with env := { a.st.env with outcome := t.env.outcome } }, a.raised ++ [(i.pos, c, d, f, m)], a.held⟩
          | none => runSlots exec readers bc l ⟨t, a.raised, a.held⟩
      | .fault f => .fault f
      | .refused r => .refused r

/-- The slots in the order in which they act: by position, but a tret last, so that the others read what the bundle sees at
its issue (R93, R236, R450). -/
def actingOrder (l : List SlotInstr) : List SlotInstr :=
  l.filter (fun i => i.instr != .tret) ++ l.filter (fun i => i.instr == .tret)

/-- The register that a bundle's bcast places on the port (R217, R267). -/
def bcastReg (l : List SlotInstr) : Option (Pos × SReg) :=
  l.findSome? (fun i => match i.instr with | .bcast a => some (i.pos, a) | _ => none)

/-- The environment of a bundle of a context. -/
def State.bundleEnv (s : State) (c : CtxId) (l : List SlotInstr) : Env :=
  { Env.reset with
    cid := c, pc := (s.ctx c).flow.pc, ctm := (s.ctx c).ctm, port := (bcastReg l).map (fun p => (s.ctx c).rs p.2) }

/-- The trap of a bundle with failing slots: CAUSE, DET and FAR of the lowest marked position, SFM of all (R444). -/
def mergedTrap (pc : Word) (l : List (Pos × Cause × BitVec 32 × Word × BitVec 8)) : Option Trap :=
  match l with
  | [] => none
  | (_, c, d, f, _) :: _ =>
    some ⟨c, d, pc, l.foldl (fun m r => m ||| r.2.2.2.2) 0, l.foldl (fun w r => w ||| slotCauses r.2.2.2.2 r.2.1) 0, f⟩

/-! ## Issue in a coach, and the turn of a core (R98, R102, R103) -/

/-- What the members of a coach have done with a bundle so far: the traps and decisions in member order, whether one of
them holds the bundle, and what holds it. -/
structure Ran where
  st : State
  traps : List (CtxId × List (Pos × Cause × BitVec 32 × Word × BitVec 8))
  outcomes : List Word
  held : Bool
  waits : List (CtxId × Option Hold × Holds)

/-- A bundle issued by the members of a coach in order, each committed at its end (R92, R102). -/
def runMembers (exec : Instr → State → Host.Outcome State Fault Refusal) (l : List SlotInstr) (readers : BitVec 8) :
    List CtxId → Ran → Host.Outcome Ran Fault Refusal
  | [], a => .next a
  | c :: cs, a =>
    let before := (a.st.ctx c).flow
    match runSlots exec readers ((bcastReg l).map (·.1)) (actingOrder l)
        ⟨{ a.st with env := a.st.bundleEnv c l }, [], false⟩ with
    | .next r =>
      runMembers exec l readers cs
        ⟨r.st.commitCtx c before, a.traps ++ [(c, r.raised)], a.outcomes ++ [r.st.env.outcome], a.held || r.held,
         a.waits ++ [(c, (r.st.ctx c).flow.waiting, r.st.env.holds)]⟩
    | .fault f => .fault f
    | .refused r => .refused r

/-- All decisions of a list are the same. -/
def sameWords : List Word → Bool
  | [] => true
  | w :: l => l.all (fun v => v == w)

/-- The traps of a bundle taken by every member: its own, or the cause of the lowest-positioned faulting member (R102,
R444). -/
def State.trapMembers (s : State) (l : List (CtxId × List (Pos × Cause × BitVec 32 × Word × BitVec 8))) : State :=
  match l.findSome? (fun p => mergedTrap (s.ctx p.1).flow.pc p.2) with
  | none => s
  | some first =>
    l.foldl (fun u p =>
      match mergedTrap (s.ctx p.1).flow.pc p.2 with
      | some t => u.enterHandler p.1 t
      | none => u.enterWith p.1 first.cause (s.ctx p.1).flow.pc) s

/-- The contexts of a core. -/
def coreCtxs (k : CoreId) : List CtxId := [CtxId.of k 0, CtxId.of k 1, CtxId.of k 2, CtxId.of k 3]

/-- The lead of a context's coach (R101). -/
def State.leadOf (s : State) (c : CtxId) : CtxId :=
  match (s.ctx c).task with
  | some t => t.lead
  | none => c

/-- Every member of a context's coach is in service (R101, R102). -/
def State.coachWhole (s : State) (c : CtxId) : Bool :=
  match (s.ctx c).task with
  | some t => decide (t.size ≤ 1) || decide ((s.members c).length = t.size)
  | none => true

/-- What holds the context's next bundle still holds it: a pending value, a full slip buffer, older work in slip buffers, a waitf
whose flags are not set and whose limit has not passed, or an instruction of its C slot that waits (R97, R115, R236, R513). -/
def Ctx.blocked (x : Ctx) : Bool :=
  !(x.slotSlip 0).isEmpty ||
  x.flow.holds.gate.any (fun n => x.results.any (fun r => r.rid == n && !r.arrived)) ||
  x.flow.holds.full.any (fun p => decide (8 ≤ (x.slotSlip p).length)) ||
  x.flow.holds.behind.any (fun b => x.slip.any (fun e => e.ctm == b.1 && e.slot == b.2)) ||
  (match x.flow.waiting with
   | some w => !x.flow.expired && (x.ctl.wfl.setWidth 8 &&& w.flags) != w.flags
   | none => false)

/-- The context's next bundle waits for a peer frame that is out of service (R425). -/
def State.awaitsFrame (s : State) (c : CtxId) : Bool :=
  (s.ctx c).flow.holds.away.any (fun va => s.frameOutOf c.core ((s.ctx c).task.map (·.launch)) .peer va)

/-- A context that a core may switch to: the lead of its coach, whose members run and are not blocked (R97, R98, R102). -/
def State.ready (s : State) (c : CtxId) : Bool :=
  ((s.ctx c).run == .running) && s.leadOf c == c && s.coachWhole c &&
    (s.members c).all (fun d => !(s.ctx d).blocked && !s.awaitsFrame d)

/-- Another context of the core is ready (R98). -/
def State.otherReady (s : State) (c : CtxId) : Bool := (coreCtxs c.core).any (fun d => d != c && s.ready d)

/-- The contexts of a core that have become ready since its last turn are marked so, all at one time, and those that no longer
are lose the mark (R98). -/
def State.stampReady (s : State) (k : CoreId) : State :=
  (coreCtxs k).foldl (fun u d =>
    u.mapCtx d (fun x => { x with readySince := if s.ready d then some (x.readySince.getD s.nextId) else none }))
    { s with nextId := s.nextId + 1 }

/-- The members of a coach at one bundle: it waits when a member holds it, diverging decisions raise DIVG in every
member, traps are taken in every member, else it has issued (R97, R102, R103, R220). The bundles that a context issues in a
row count while another context of its core is ready (R98). -/
def issueBundle (exec : Instr → State → Host.Outcome State Fault Refusal) (c : CtxId) (b : Bundle) (l : List SlotInstr)
    (s : State) : Host.Outcome State Fault Refusal :=
  let ms := s.members c
  match runMembers exec l (portReaders b) ms ⟨s, [], [], false, []⟩ with
  | .fault f => .fault f
  | .refused r => .refused r
  | .next a =>
    if a.held then
      exec (.contextSwitch c.core)
        (a.waits.foldl (fun u p => u.mapCtx p.1 (fun x =>
          { x with flow := { x.flow with waiting := p.2.1, holds := p.2.2 } })) s)
    else if !sameWords a.outcomes then
      .next (ms.foldl (fun u d => u.enterHandler d ⟨.divg, 0, (s.ctx d).flow.pc, 1, slotCauses 1 .divg, 0⟩) s)
    else if a.traps.any (fun p => !p.2.isEmpty) then .next (s.trapMembers a.traps)
    else .next ({ a.st with env := Env.reset }.mapCore c.core (fun k =>
      { k with burst := if s.otherReady c then k.burst + 1 else 0 }))

/-- The member of a coach whose boundary trap comes first in the order of R445, lower positions first. -/
def State.coachBoundary (s : State) (c : CtxId) : Option (CtxId × Boundary) :=
  let l := (s.members c).map (fun d => (d, s.boundary d))
  [Boundary.unwind, .trap .swt, .trap .fpx, .trap .cmpm, .trap .user, .trap .pmiss, .trap .capc].findSome?
    (fun b => l.find? (fun p => p.2 == b))

/-- The next bundle of a context: fetched, checked and issued, or the event that stands in its place (R97, R113, R219). -/
def nextBundle (exec : Instr → State → Host.Outcome State Fault Refusal) (c : CtxId) (s : State) :
    Host.Outcome State Fault Refusal :=
  let x := s.ctx c
  if x.flow.pastEnd then exec (.fetchFault c) s
  else
    match x.loaded (bundleSeg x.flow.pc) with
    | none => exec (.segmentExpansion c (bundleSeg x.flow.pc)) s
    | some g =>
      match g.fault, g.bundles[bundleIdx x.flow.pc]? with
      | none, some b =>
        match s.decodeChecked c b with
        | .error _ => exec (.bundleDecodeFailure c) s
        | .ok l => issueBundle exec c b l s
      | _, _ => exec (.fetchFault c) s

/-- The turn of a core: a boundary trap of its context, or the context's next bundle, or another context (R98, R445). What
the context's last wide access still has to perform is performed first (R154). -/
def coreTurn (exec : Instr → State → Host.Outcome State Fault Refusal) (k : CoreId) (s0 : State) :
    Host.Outcome State Fault Refusal :=
  let s := s0.stampReady k
  let c := CtxId.of k (s.core k).cur
  if (s.ctx c).run ≠ .running ∨ s.leadOf c ≠ c ∨ s.coachWhole c = false then exec (.contextSwitch k) s
  else
    let s := (s.members c).foldl (fun u d => (u.settle d).noteMissed d) s
    match s.coachBoundary c with
    | some (d, .unwind) => exec (.containmentUnwinding d) s
    | some (d, .trap .swt) => exec (.swt d) s
    | some (d, .trap .fpx) => exec (.fpx d) s
    | some (d, .trap .pmiss) => exec (.pmiss d) s
    | some (d, .trap .capc) => exec (.capc d) s
    | some (d, .trap cause) => .next (s.takePending d cause)
    | _ =>
      if (s.members c).any (fun d => !((s.ctx d).slotSlip 0).isEmpty) then exec (.contextSwitch k) s
      else if (s.core k).burst ≥ 1024 ∧ s.otherReady c then exec (.contextSwitch k) s
      else nextBundle exec c s

/-- The environment of a slip-buffer entry that runs: what its bundle had when it was issued (R96). -/
def SlipEntry.env (e : SlipEntry) (c : CtxId) : Env :=
  { Env.reset with
    cid := c, pos := e.slot, pc := e.pc, ctm := e.ctm, pfx := e.ins.mods, op := e.ins.instr.ctorIdx, port := e.port,
    slipped := some e }

/-- The errors of storage after one that time may bring (R148); a unit that holds one keeps it. -/
def State.upset (s : State) : List (Nat × Bool) :=
  match Config.upset s.free with
  | some d => if s.damaged.any (fun x => x.1 == poisonBase d.1) then s.damaged else (poisonBase d.1, d.2) :: s.damaged
  | none => s.damaged

/-- Time passes before a step (R5, R23), storage may take an error (R148), records that wait for room in their queues are
written as far as it has come, lease records among them (R431, R465), and no instruction is in the environment. -/
def State.tick (s : State) : State :=
  let t : State :=
    { s with
      gcc := s.gcc + BitVec.ofNat 64 (Config.elapsed s.free), free := s.free + 1, damaged := s.upset, env := Env.reset }
  (t.flushHeld t.held.length).flushLog 256

/-- One step: the slip-buffer entry that stands ready, else the next step of another agent, else the turn of a core. -/
def stepWith (exec : Instr → State → Host.Outcome State Fault Refusal) (s0 : State) :
    Host.Outcome State Fault Refusal :=
  let s := s0.tick
  match s.stage with
  | some (c, e) => exec e.ins.instr { (s.settle c) with stage := none, env := e.env c }
  | none =>
    match s.agenda with
    | i :: l => exec i { s with agenda := l }
    | [] => coreTurn exec s.turn { s with turn := s.turn + 1 }

/-! ## Placing one instruction (withFetchWord) -/

/-- The position at which a slot class issues the instruction of a table row. -/
def classPos : SlotClass → Nat
  | .c => 0 | .s => 1 | .m => 3 | .v => 4 | .t => 6 | .x => 7

/-- A bundle that holds the instruction of a table row alone, at the slot of its class. -/
def tableBundle (nbits w : Nat) : Bundle :=
  let ws := tableWords nbits w
  placeWords (match tableClassOf ws with | some (k, _) => classPos k | none => 0) ws

/-- A context about to issue one bundle from its loop buffer, with nothing pending at its boundary. -/
def Ctx.placed (x : Ctx) (b : Bundle) : Ctx :=
  { x with
    run := .running,
    task := some { (x.task.getD ⟨0, 0, 0, 0, 0, 1, 0, 0, 0, 0, false⟩) with lead := 0, size := 1 },
    flow := Flow.reset, lbuf := [⟨0, 1, 0, [b], none⟩], btraps := [], unwind := none, slip := [] }

end Sys2Proof.Machine
end

