-- ==== Sys2Proof/Machine/Numbers.lean ====
section
/-!
DEFINITION. Number formats and arithmetic (spec/02): exact values, their decoding from the formats of R24, the single
rounding of R33 and R34, exact sums, products, quotients and roots, the conversions of R39 to R41, the integer
arithmetic of R29, and the error constant Gamma (R38).
-/
namespace Sys2Proof.Machine

/-- An exact value: NaN, an infinity, or (-1)^neg * mag * 2^exp. -/
inductive Num
  | nan
  | inf (neg : Bool)
  | fin (neg : Bool) (mag : Nat) (exp : Int)
deriving DecidableEq, Repr

/-! ## The floating formats (R25, R26) -/

/-- The parameters of a floating format: fraction bits, bias, exponent bits, and whether it has infinities. -/
structure FpForm where
  frac : Nat
  bias : Nat
  expBits : Nat
  hasInf : Bool
deriving DecidableEq, Repr

/-- FP32 (R25). -/
def fp32Form : FpForm := ⟨23, 127, 8, true⟩
/-- BF16 (R25). -/
def bf16Form : FpForm := ⟨7, 127, 8, true⟩
/-- E4M3 (R25, R26). -/
def e4m3Form : FpForm := ⟨3, 7, 4, false⟩

/-- The exponent of the smallest subnormal (R25). -/
def FpForm.qmin (f : FpForm) : Int := 1 - (f.bias : Int) - (f.frac : Int)
/-- The place of the sign bit. -/
def FpForm.signBit (f : FpForm) : Nat := f.frac + f.expBits
/-- The bits of +∞, or of the canonical NaN of E4M3, which stands for it (R34). -/
def FpForm.infBits (f : FpForm) : Nat :=
  if f.hasInf then (2 ^ f.expBits - 1) * 2 ^ f.frac else 2 ^ f.signBit - 1
/-- The bits of the largest finite value (R25). -/
def FpForm.maxBits (f : FpForm) : Nat := f.infBits - 1
/-- The canonical NaN (R25). -/
def FpForm.nanBits (f : FpForm) : Nat :=
  if f.hasInf then f.infBits + 2 ^ (f.frac - 1) else f.infBits

/-- The bits of a magnitude with a sign. -/
def FpForm.withSign (f : FpForm) (neg : Bool) (bits : Nat) : Nat := if neg then bits + 2 ^ f.signBit else bits

/-- The value of an encoding (R25, R26). -/
def FpForm.decode (f : FpForm) (w : Nat) : Num :=
  let neg := w.testBit f.signBit
  let e := w / 2 ^ f.frac % 2 ^ f.expBits
  let m := w % 2 ^ f.frac
  let magBits := w % 2 ^ f.signBit
  if magBits > f.infBits ∨ (¬ f.hasInf ∧ magBits = f.infBits) then .nan
  else if magBits = f.infBits then .inf neg
  else if e = 0 then .fin neg m f.qmin
  else .fin neg (m + 2 ^ f.frac) (f.qmin + ((e : Int) - 1))

/-! ## The one rounding (R33, R34) -/

/-- Whether a magnitude with remainder r of divisor d above the candidate m rounds up. -/
def roundsUp (rm : RMode) (neg : Bool) (m r d : Nat) : Bool :=
  match rm with
  | .rne => decide (2 * r > d) || (decide (2 * r = d) && decide (m % 2 = 1))
  | .rna => decide (2 * r ≥ d)
  | .rz => false
  | .ru => decide (r > 0) && !neg
  | .rd => decide (r > 0) && neg

/-- The bits of an overflow (R34). -/
def FpForm.overflowBits (f : FpForm) (rm : RMode) (sat neg : Bool) : Nat :=
  if sat then f.withSign neg f.maxBits
  else
    let toMax := match rm with
      | .rne | .rna => false
      | .rz => true
      | .ru => neg
      | .rd => !neg
    if toMax then f.withSign neg f.maxBits
    else if f.hasInf then f.withSign neg f.infBits else f.nanBits

/-- num / den · 2^(-k), as a fraction of naturals. -/
def scaleFrac (num den : Nat) (k : Int) : Nat × Nat :=
  if k ≥ 0 then (num, den * 2 ^ k.toNat) else (num * 2 ^ (-k).toNat, den)

/-- The exponent of the leading bit of num / den > 0. -/
def leadExp (num den : Nat) : Int :=
  let k : Int := (Nat.log2 num : Int) - (Nat.log2 den : Int)
  let f := scaleFrac num den k
  if f.1 < f.2 then k - 1 else k

/-- The exact value (-1)^neg · num / den · 2^exp rounded to a format, with its flags (R33, R34). -/
def FpForm.roundFrac (f : FpForm) (rm : RMode) (sat neg : Bool) (num den : Nat) (exp : Int) : Nat × Flags :=
  if num = 0 then (f.withSign neg 0, Flags.none)
  else
    let top := leadExp num den + exp
    let q := max f.qmin (top - (f.frac : Int))
    let fr := scaleFrac num den (q - exp)
    let m := fr.1 / fr.2
    let r := fr.1 % fr.2
    let m' := if roundsUp rm neg m r fr.2 then m + 1 else m
    let bits := (q - f.qmin).toNat * 2 ^ f.frac + m'
    if bits > f.maxBits then (f.overflowBits rm sat neg, Flags.overflow)
    else (f.withSign neg bits, Flags.inxIf (decide (r ≠ 0)))

/-- An exact value rounded to a format (R27, R33, R34); SAT clamps an infinity as well (R34). -/
def FpForm.round (f : FpForm) (rm : RMode) (sat : Bool) : Num → Nat × Flags
  | .nan => (f.nanBits, Flags.none)
  | .inf neg =>
    if sat then (f.withSign neg f.maxBits, if f.hasInf then Flags.none else Flags.overflow)
    else if f.hasInf then (f.withSign neg f.infBits, Flags.none)
    else (f.nanBits, Flags.invalid)
  | .fin neg m e => f.roundFrac rm sat neg m 1 e

/-! ## Exact operations (R27, R28) -/

/-- The sign of a value. -/
def Num.neg? : Num → Bool
  | .nan => false
  | .inf s => s
  | .fin s _ _ => s

/-- Negation. -/
def Num.negate : Num → Num
  | .nan => .nan
  | .inf s => .inf (!s)
  | .fin s m e => .fin (!s) m e

/-- Magnitude. -/
def Num.abs : Num → Num
  | .nan => .nan
  | .inf _ => .inf false
  | .fin _ m e => .fin false m e

/-- A value that is neither NaN nor an infinity. -/
def Num.isFin : Num → Bool
  | .fin .. => true
  | _ => false

/-- A NaN. -/
def Num.isNan : Num → Bool
  | .nan => true
  | _ => false

/-- The value +0. -/
def Num.zero : Num := .fin false 0 0

/-- A natural number times a power of two, as a value. -/
def Num.ofNat (n : Nat) : Num := .fin false n 0
/-- An integer as a value; 0 is +0. -/
def Num.ofInt (i : Int) : Num := .fin (decide (i < 0)) i.natAbs 0

/-- The signed significand of a finite value at exponent e, not above its own. -/
def alignTo (neg : Bool) (m : Nat) (e lo : Int) : Int :=
  let v : Int := (m * 2 ^ (e - lo).toNat : Nat)
  if neg then -v else v

/-- The exact sum, and whether it is an invalid operation; `rd` gives the sign of an exact zero (R27, R28). -/
def Num.add (rd : Bool) : Num → Num → Num × Bool
  | .nan, _ => (.nan, false)
  | _, .nan => (.nan, false)
  | .inf s, .inf t => if s = t then (.inf s, false) else (.nan, true)
  | .inf s, _ => (.inf s, false)
  | _, .inf t => (.inf t, false)
  | .fin s m e, .fin t n g =>
    let lo := min e g
    let v := alignTo s m e lo + alignTo t n g lo
    if v = 0 then (.fin (if s = t then s else rd) 0 0, false)
    else (.fin (decide (v < 0)) v.natAbs lo, false)

/-- The exact product, and whether it is an invalid operation (R27). -/
def Num.mul : Num → Num → Num × Bool
  | .nan, _ => (.nan, false)
  | _, .nan => (.nan, false)
  | .inf s, .inf t => (.inf (s != t), false)
  | .inf s, .fin t n _ => if n = 0 then (.nan, true) else (.inf (s != t), false)
  | .fin s m _, .inf t => if m = 0 then (.nan, true) else (.inf (s != t), false)
  | .fin s m e, .fin t n g => (.fin (s != t) (m * n) (e + g), false)

/-- The order of two values that are not NaN: x < y, with -0 = +0 (R28). -/
def Num.lt : Num → Num → Bool
  | .nan, _ => false
  | _, .nan => false
  | .inf s, .inf t => s && !t
  | .inf s, _ => s
  | _, .inf t => !t
  | .fin s m e, .fin t n g =>
    let lo := min e g
    decide (alignTo s m e lo < alignTo t n g lo)

/-- Equality of two values that are not NaN, with -0 = +0 (R28). -/
def Num.eqv : Num → Num → Bool
  | .nan, _ => false
  | _, .nan => false
  | .inf s, .inf t => s == t
  | .inf _, _ => false
  | _, .inf _ => false
  | .fin s m e, .fin t n g =>
    let lo := min e g
    decide (alignTo s m e lo = alignTo t n g lo)

/-- x ≤ y of two values that are not NaN. -/
def Num.le (a b : Num) : Bool := a.lt b || a.eqv b

/-! ## FP32 words -/

/-- The value of an FP32 word. -/
def f32 (w : Lane) : Num := fp32Form.decode w.toNat
/-- The canonical NaN of FP32 (R25). -/
def f32NaN : Lane := 0x7FC00000#32
/-- An FP32 word of rounded bits. -/
def toLane (x : Nat × Flags) : Lane × Flags := (BitVec.ofNat 32 x.1, x.2)
/-- The invalid flag if so. -/
def Flags.invIf (b : Bool) : Flags := ⟨false, b, false, false⟩

/-- RoundF32 of R38, with SAT and flags. -/
def roundF32 (rm : RMode) (sat : Bool) (x : Num) : Lane × Flags := toLane (fp32Form.round rm sat x)

/-- An exact operation's result rounded, its invalid flag added (R27). -/
def roundOp (rm : RMode) (sat : Bool) (x : Num × Bool) : Lane × Flags :=
  let r := roundF32 rm sat x.1
  (r.1, r.2.or (Flags.invIf x.2))

/-- x + y in FP32. -/
def fadd32 (rm : RMode) (sat : Bool) (a b : Lane) : Lane × Flags :=
  roundOp rm sat ((f32 a).add (rm == .rd) (f32 b))
/-- x - y in FP32, the sum x + (-y) (R28). -/
def fsub32 (rm : RMode) (sat : Bool) (a b : Lane) : Lane × Flags :=
  roundOp rm sat ((f32 a).add (rm == .rd) (f32 b).negate)
/-- x · y in FP32. -/
def fmul32 (rm : RMode) (sat : Bool) (a b : Lane) : Lane × Flags := roundOp rm sat ((f32 a).mul (f32 b))
/-- x · y + z with one rounding (R263, R301). -/
def ffma32 (rm : RMode) (sat : Bool) (a b c : Lane) : Lane × Flags :=
  let p := (f32 a).mul (f32 b)
  let t := p.1.add (rm == .rd) (f32 c)
  roundOp rm sat (t.1, p.2 && !(f32 c).isNan || t.2)
/-- z - x · y with one rounding (R301). -/
def ffms32 (rm : RMode) (sat : Bool) (a b c : Lane) : Lane × Flags :=
  let p := (f32 a).mul (f32 b)
  let t := (f32 c).add (rm == .rd) p.1.negate
  roundOp rm sat (t.1, p.2 && !(f32 c).isNan || t.2)

/-- x / y in FP32 (R27, R264): a finite non-zero value over zero is an exact infinity. -/
def fdiv32 (rm : RMode) (sat : Bool) (a b : Lane) : Lane × Flags :=
  match f32 a, f32 b with
  | .nan, _ | _, .nan => (f32NaN, Flags.none)
  | .inf _, .inf _ => (f32NaN, Flags.invalid)
  | .inf s, y => roundF32 rm sat (.inf (s != y.neg?))
  | .fin s _ _, .inf t => roundF32 rm sat (.fin (s != t) 0 0)
  | .fin s m e, .fin t n g =>
    if n = 0 then
      if m = 0 then (f32NaN, Flags.invalid) else roundF32 rm sat (.inf (s != t))
    else toLane (fp32Form.roundFrac rm sat (s != t) m n (e - g))

/-- Integer square root of n, from bit k down: the largest r with r·r ≤ n built bit by bit. -/
def isqrtFrom (n : Nat) : Nat → Nat → Nat
  | 0, r => r
  | k + 1, r =>
    let c := r + 2 ^ k
    if c * c ≤ n then isqrtFrom n k c else isqrtFrom n k r

/-- The integer square root. -/
def isqrt (n : Nat) : Nat := isqrtFrom n (Nat.log2 n / 2 + 1) 0

/-- The square root of num/den · 2^(2·h), with p more bits, exact or with a sticky half: a fraction over 2 with its
exponent. -/
def sqrtFrac (num den : Nat) (h : Int) (p : Nat) : Nat × Int :=
  let n := num * 2 ^ (2 * p) / den
  let r := isqrt n
  let exact := decide (r * r = n) && decide (num * 2 ^ (2 * p) % den = 0)
  (if exact then 2 * r else 2 * r + 1, h - (p : Int) - 1)

/-- √x in FP32 (R27, R264). -/
def fsqrt32 (rm : RMode) (sat : Bool) (a : Lane) : Lane × Flags :=
  match f32 a with
  | .nan => (f32NaN, Flags.none)
  | .inf true => (f32NaN, Flags.invalid)
  | .inf false => roundF32 rm sat (.inf false)
  | .fin s m e =>
    if m = 0 then roundF32 rm sat (.fin s 0 0)
    else if s then (f32NaN, Flags.invalid)
    else
      let odd := e % 2 ≠ 0
      let r := sqrtFrac (if odd then 2 * m else m) 1 ((if odd then e - 1 else e) / 2) 32
      toLane (fp32Form.roundFrac rm sat false r.1 1 r.2)

/-- The lesser of two FP32 words, -0 below +0, NaN if either is NaN (R28). -/
def fmin32 (a b : Lane) : Lane :=
  let x := f32 a
  let y := f32 b
  if x.isNan || y.isNan then f32NaN
  else if x.lt y then a else if y.lt x then b else if x.neg? then a else b
/-- The greater of two FP32 words (R28). -/
def fmax32 (a b : Lane) : Lane :=
  let x := f32 a
  let y := f32 b
  if x.isNan || y.isNan then f32NaN
  else if x.lt y then b else if y.lt x then a else if x.neg? then b else a

/-- The comparisons of R28, R263 and R303 on lane words. -/
def cmpEval (op : CmpOp) (a b : Lane) : Bool :=
  match op with
  | .eq => (f32 a).eqv (f32 b)
  | .ne => !(f32 a).eqv (f32 b)
  | .lt => (f32 a).lt (f32 b)
  | .le => (f32 a).le (f32 b)
  | .un => (f32 a).isNan || (f32 b).isNan
  | .ieq => a == b
  | .ine => a != b
  | .ilt => a.slt b
  | .ile => a.sle b
  | .ult => a.ult b
  | .ule => a.ule b

/-- |x| of an FP32 word, NaN canonical (R301). -/
def fabs32 (a : Lane) : Lane := if (f32 a).isNan then f32NaN else a &&& 0x7FFFFFFF#32
/-- -x of an FP32 word, NaN canonical (R301). -/
def fneg32 (a : Lane) : Lane := if (f32 a).isNan then f32NaN else a ^^^ 0x80000000#32

/-- The sum of two FP32 words under one mode, without flags. -/
def addW (rm : RMode) (a b : Lane) : Lane := (fadd32 rm false a b).1
/-- The product of two FP32 words under one mode, without flags. -/
def mulW (rm : RMode) (a b : Lane) : Lane := (fmul32 rm false a b).1

/-! ## Conversions (R39 to R41) -/

/-- The floating format of a code, if it is one. -/
def fmtForm : Fmt → Option FpForm
  | .fp32 => some fp32Form
  | .bf16 => some bf16Form
  | .e4m3 => some e4m3Form
  | _ => none

/-- The signed integer formats (R29). -/
def fmtSigned : Fmt → Bool
  | .i8 | .i16 | .i32 | .i64 => true
  | _ => false

/-- The integer that a format's low bits stand for (R29). -/
def fmtInt (f : Fmt) (w : Word) : Int :=
  let n := w.toNat % 2 ^ (8 * f.bytes)
  if fmtSigned f && n.testBit (8 * f.bytes - 1) then (n : Int) - 2 ^ (8 * f.bytes) else n

/-- The least and greatest values of an integer format (R29). -/
def fmtRange (f : Fmt) : Int × Int :=
  if fmtSigned f then (-(2 ^ (8 * f.bytes - 1)), 2 ^ (8 * f.bytes - 1) - 1) else (0, 2 ^ (8 * f.bytes) - 1)

/-- An integer clamped to a format's range. -/
def fmtClamp (f : Fmt) (i : Int) : Int := max (fmtRange f).1 (min (fmtRange f).2 i)

/-- An integer's low bits in a format, extended to 64 bits as the format is signed or not. -/
def fmtOfInt (f : Fmt) (i : Int) : Word :=
  let n := (i % 2 ^ (8 * f.bytes)).toNat
  BitVec.ofInt 64 (fmtInt f (BitVec.ofNat 64 n))

/-- A finite value rounded to an integer, and whether that lost anything (R40). -/
def roundInt (rm : RMode) (neg : Bool) (m : Nat) (e : Int) : Int × Bool :=
  if e ≥ 0 then
    let v : Int := (m * 2 ^ e.toNat : Nat)
    (if neg then -v else v, false)
  else
    let d := 2 ^ (-e).toNat
    let q := m / d
    let r := m % d
    let q' : Int := ((if roundsUp rm neg q r d then q + 1 else q : Nat) : Int)
    (if neg then -q' else q', decide (r ≠ 0))

/-- Floating to integer (R40). -/
def toIntFmt (f : Fmt) (rm : RMode) : Num → Word × Flags
  | .nan => (0, Flags.invalid)
  | .inf s => (fmtOfInt f (if s then (fmtRange f).1 else (fmtRange f).2), Flags.invalid)
  | .fin s m e =>
    let r := roundInt rm s m e
    if r.1 < (fmtRange f).1 ∨ (fmtRange f).2 < r.1 then (fmtOfInt f (fmtClamp f r.1), Flags.invalid)
    else (fmtOfInt f r.1, Flags.inxIf r.2)

/-- The value is an infinity. -/
def Num.isInf : Num → Bool
  | .inf _ => true
  | _ => false

/-- A conversion between two formats other than DPW8 (R39, R40, R41): an infinity clamped by SAT differs from its source,
so that it is inexact (R39), and SAT clamps an integer only on its way to a narrower or equally wide format (R41). The low bits of the word go in, the
result comes in the low bits, a signed integer result sign-extended, every other zero-extended. -/
def convert (src dst : Fmt) (rm : RMode) (sat : Bool) (w : Word) : Word × Flags :=
  match fmtForm src, fmtForm dst with
  | some a, some b =>
    let x := a.decode (w.toNat % 2 ^ (8 * src.bytes))
    let r := b.round rm sat x
    (BitVec.ofNat 64 r.1, r.2.or (Flags.inxIf (sat && x.isInf)))
  | none, some b =>
    let r := b.round rm sat (Num.ofInt (fmtInt src w))
    (BitVec.ofNat 64 r.1, r.2)
  | some a, none => toIntFmt dst rm (a.decode (w.toNat % 2 ^ (8 * src.bytes)))
  | none, none =>
    let i := fmtInt src w
    (fmtOfInt dst (if sat && decide (dst.bytes ≤ src.bytes) then fmtClamp dst i else i), Flags.none)

/-! ## Integers under SAT (R29) -/

/-- A signed result of a 64-bit operation, wrapped or clamped (R29, R257). -/
def sat64 (sat : Bool) (i : Int) : Word :=
  if sat then BitVec.ofInt 64 (fmtClamp .i64 i) else BitVec.ofInt 64 i
/-- A signed result of a 32-bit lane operation, wrapped or clamped (R29, R307). -/
def sat32 (sat : Bool) (i : Int) : Lane :=
  if sat then BitVec.ofInt 32 (fmtClamp .i32 i) else BitVec.ofInt 32 i

/-! ## The summation tree (R43, R46) -/

/-- One level of a pairwise tree. -/
def pairUp {α : Type} (op : α → α → α) : List α → List α
  | a :: b :: l => op a b :: pairUp op l
  | l => l

/-- The fixed pairwise tree over 64 leaves, six levels (R43); `d` stands for an empty list. -/
def tree64 {α : Type} (op : α → α → α) (d : α) (l : List α) : α :=
  ((pairUp op (pairUp op (pairUp op (pairUp op (pairUp op (pairUp op l)))))).head?).getD d

/-- One node of a rounding tree: the sum rounded to FP32, with the flags of both sides and its own. -/
def addNode (rm : RMode) (a b : Num × Flags) : Num × Flags :=
  let r := roundOp rm false (a.1.add (rm == .rd) b.1)
  (f32 r.1, (a.2.or b.2).or r.2)

/-- The rounded sum of 64 exact values in the order of R43, with flags. -/
def treeSum (rm : RMode) (l : List (Num × Flags)) : Num × Flags := tree64 (addNode rm) (Num.zero, Flags.none) l

/-! ## Error constants and depth (R38, R44) -/

/-- Gamma(d) of R38: RU(d·u / (1 - d·u)) with u = 2^-24. -/
def gamma (d : Nat) : Lane :=
  if d < 2 ^ 24 then (toLane (fp32Form.roundFrac .ru false false d (2 ^ 24 - d) 0)).1 else 0x7F800000#32

/-- Whether an FP32 word is finite. -/
def isFinite32 (a : Lane) : Bool := (f32 a).isFin

end Sys2Proof.Machine
end

