-- ==== Sys2Proof/Machine/Landing.lean ====
section
/-!
DEFINITION. What the landings do (spec/06 R157 to R177, spec/10 R285 to R291): read-modify-writes, barrier objects and
their phases, event objects, buffered reductions, and the sampling of conflicting global writes.
-/
namespace Sys2Proof.Machine

/-! ## Read-modify-write (R285) -/

/-- A w-byte operand read as a signed number. -/
def signedOf (w n : Nat) : Int := if n.testBit (8 * w - 1) then (n : Int) - 2 ^ (8 * w) else n

/-- new of R285 for w-byte operands, with the flags of fadd. -/
def atomApply (op : AtomOp) (w : Nat) (rm : RMode) (old v e : Nat) : Nat × Flags :=
  match op with
  | .add => ((old + v) % 2 ^ (8 * w), Flags.none)
  | .fadd =>
    let r := fadd32 rm false (BitVec.ofNat 32 old) (BitVec.ofNat 32 v)
    (r.1.toNat, r.2)
  | .min => (if signedOf w v < signedOf w old then v else old, Flags.none)
  | .max => (if signedOf w old < signedOf w v then v else old, Flags.none)
  | .minw => (if v < old then v else old, Flags.none)
  | .maxw => (if old < v then v else old, Flags.none)
  | .and => (old &&& v, Flags.none)
  | .or => (old ||| v, Flags.none)
  | .xor => (old ^^^ v, Flags.none)
  | .exch => (v, Flags.none)
  | .cas => (if old = e then v else old, Flags.none)

/-! ## Waits on an object (R276, R290) -/

/-- A wait that changes nothing of its object when it ends: it sees each state that another one would take away (R163). -/
def leavesObject : Instr → Bool
  | .ldf .. | .evwait .. | .barwait .. => true
  | _ => false

/-- The waits on the objects that pieces touch are tested again, in the steps that come next: first those that leave them as they
are (R163, R276, R290). -/
def State.wakeOn (s : State) (ps : List Piece) : State :=
  let on (e : SlipEntry) : Bool :=
    (match e.wait with | some w => !w.reader | none => false) &&
    e.touch.any (fun t => ps.any (fun p => decide (p.key < t.key + t.len) && decide (t.key < p.key + p.len)))
  let l := (s.ctxs.toList.zip (List.range 2048)).flatMap (fun p => (p.1.slip.filter on).map (fun e => (p.2, e)))
  let release (l : List (Nat × SlipEntry)) : List Instr := l.map (fun e => Instr.slipBufferRelease (BitVec.ofNat 11 e.1) e.2.slot)
  { s with agenda :=
      release (l.filter (fun e => leavesObject e.2.ins.instr)) ++ release (l.filter (fun e => !leavesObject e.2.ins.instr)) ++ s.agenda }

/-- The waits on an object that lies at a key are tested again (R163, R276, R290). -/
def State.wake (s : State) (key : Nat) : State := s.wakeOn [⟨key, 8⟩]

/-- Waits on the word at a key are due to be tested, and the instruction in the environment issues now: it does not change the tag
before them (R163, R276). -/
def State.testsDue (s : State) (key : Nat) : Bool :=
  s.env.slipped.isNone && s.agenda.any (fun i =>
    match i with
    | .slipBufferRelease c p =>
      (match (s.ctx c).slotSlip p with
       | e :: _ => e.touch.any (fun t => t.key == key - key % 8)
       | [] => false)
    | _ => false)

/-- The tag of a word becomes full or empty, and the waits on it are tested again (R127, R276). -/
def State.changeTag (s : State) (key : Nat) (full : Bool) : State := (s.setTag key full).wake (key - key % 8)

/-! ## Conflict sampling (R177) -/

/-- What the machine changes in a task's context: in the context that runs the task, or in its image while the task is out of
service (R90, R426). -/
def State.mapTask (s : State) (c : CtxId) (serial : Nat) (f : Ctx → Ctx) : State :=
  let s1 := if (s.ctx c).runs serial then s.mapCtx c f else s
  { s1 with groups := s1.groups.map (fun g =>
      { g with images := g.images.map (fun i => if i.2.runs serial then (i.1, f i.2) else i) }) }

/-- A control register changed by the machine, in the context and in what its waiting readers have of it: an mfc that has not
executed sees the change (R177, R382). -/
def Ctx.change (x : Ctx) (cr : CReg) (f : Word → Word) (g : Ctx → Ctx) : Ctx :=
  let tell (l : List SlipEntry) : List SlipEntry := l.map (fun e =>
    match e.ins.instr with
    | .mfc _ r => if r = cr then { e with view := { e.view with ctl := f e.view.ctl } } else e
    | _ => e)
  { g x with slip := tell x.slip, frozen := x.frozen.map (fun z => { z with slip := tell z.slip }) }

/-- A task's DCF is set; going from 0 to 1 it records the granule's address in DCA (R177, R178). -/
def State.setDcf (s : State) (c : CtxId) (serial : Nat) (va : Word) : State :=
  let a := sext56 (va &&& ~~~ 7#64)
  s.mapTask c serial (fun x =>
    if x.ctl.dcf ≠ 0 then x
    else
      (x.change .dca (fun _ => a) (fun y => { y with ctl := { y.ctl with dca := a } })).change .dcf (fun _ => 1)
        (fun y => { y with ctl := { y.ctl with dcf := 1 } }))

/-- One plain write of a global granule sampled for a barrier. -/
def State.sampleGranule (s : State) (w : PhaseWrite) : State :=
  let same := s.writes.filter (fun o => o.barrier == w.barrier && o.granule == w.granule)
  let others := same.filter (fun o => o.serial != w.serial)
  let s1 : State := if same.any (fun o => o.serial == w.serial) then s else { s with writes := w :: s.writes }
  if others = [] then s1
  else (w :: others).foldl (fun u o => u.setDcf o.cid o.serial o.va) s1

/-- The writer and barrier for which a phase samples writes (R177). -/
def State.sampler (s : State) (phase : Option Nat) : Option Phase :=
  phase.bind (fun id => s.phases.find? (fun p => p.id == id))

/-- The granules of a run that is global storage, with their virtual addresses. -/
def globalGranules (va : Word) (t : Touch) : List (Nat × Word) :=
  if isLocalKey t.key ∨ t.len = 0 then []
  else
    let base := t.key - t.key % 8
    (List.range ((t.key + t.len - 1) / 8 - t.key / 8 + 1)).map
      (fun i => ((base + 8 * i) / 8, va - BitVec.ofNat 64 (t.key % 8) + BitVec.ofNat 64 (8 * i)))

/-- Writes of a thread under a phase are sampled; runs with their virtual addresses (R177). -/
def State.sampleWrites (s : State) (phase : Option Nat) (l : List (Word × Touch)) : State :=
  match s.sampler phase with
  | none => s
  | some p =>
    (l.flatMap (fun r => globalGranules r.1 r.2)).foldl
      (fun u g => u.sampleGranule ⟨p.barrier, g.1, p.serial, p.cid, g.2⟩) s

/-- The granules that a thread has written of runs with their virtual addresses, sampled under a phase (R177). -/
def State.sampleCells (s : State) (phase : Option Nat) (l : List (Word × Touch)) (gs : List Nat) : State :=
  match s.sampler phase with
  | none => s
  | some p =>
    ((l.flatMap (fun r => globalGranules r.1 r.2)).filter (fun g => gs.contains g.1)).foldl
      (fun u g => u.sampleGranule ⟨p.barrier, g.1, p.serial, p.cid, g.2⟩) s

/-- The runs of one range with the virtual address of each. -/
def withVa : Word → List Touch → List (Word × Touch)
  | _, [] => []
  | va, t :: l => (va, t) :: withVa (va + BitVec.ofNat 64 t.len) l

/-! ## Reductions (R158, R159, R173) -/

/-- A reduction's read-modify-write of its target, with the errors that its read finds; waits on what lies there are tested again
(R148, R290). -/
def State.reduce (s0 : State) (r : Red) : State :=
  let w := if r.wide then 8 else 4
  let s := s0.readErrors (s0.ownerAt r.toOwner r.va) [⟨r.loc, w⟩]
  let old := s.natAt r.loc w
  (s.putNat r.loc w (atomApply r.op w (RMode.ofCode r.rm) old (r.val.toNat % 2 ^ (8 * w)) 0).1).wakeOn [⟨r.loc, w⟩]

/-- The launch of a reduction's issuer. -/
def State.launchOf (s : State) (id : Nat) : Option Launch := s.launches.find? (fun l => l.id == id)

/-- A field of a launch record: n bytes from an offset (R413). -/
def Launch.field (l : Launch) (off n : Nat) : Nat := l.record.toNat / 2 ^ (8 * off) % 2 ^ (8 * n)

/-- The key by which a landing orders buffered reductions (R173). -/
def State.redKey (s : State) (r : Red) : List Nat :=
  match s.launchOf r.launch with
  | some l => [l.field 0x50 8, l.part.toNat, l.q.toNat, l.index.toNat, r.lidx.toNat, r.seq]
  | none => [0, 0, 0, 0, r.lidx.toNat, r.seq]

/-- Lexicographic order of keys of equal length. -/
def keyLe : List Nat → List Nat → Bool
  | [], _ => true
  | _, [] => false
  | a :: l, b :: m => if a = b then keyLe l m else decide (a < b)

/-- Insertion into a list of reductions sorted by key. -/
def State.insertRed (s : State) (r : Red) : List Red → List Red
  | [] => [r]
  | x :: l => if keyLe (s.redKey r) (s.redKey x) then r :: x :: l else x :: s.insertRed r l

/-- Where a reduction's target lies now; none when a translation or a table stops it (R438, R440). -/
def State.redTarget (s : State) (r : Red) : Option Nat :=
  match s.enginePieces r.toOwner 0 .atomic r.sp r.va (if r.wide then 8 else 4) with
  | some (p :: _) => some p.key
  | _ => none

/-- A reduction is buffered for a phase of a barrier (R173). -/
def Red.inPhase (r : Red) (barrier : Nat) (ph : BitVec 32) : Bool :=
  r.exact && r.barrier == barrier && r.st == .buffered && r.bphase == some ph

/-- Every reduction of a phase stands buffered at its landing, and none meets a late fault or awaits its resolution (R381,
R440). One that its landing had not accepted when its task retired holds the phase (notes/assumptions/49.md). -/
def State.phaseClear (s : State) (barrier : Nat) (ph : BitVec 32) : Bool :=
  s.reds.all (fun r =>
    !(r.exact && r.barrier == barrier && r.bphase == some ph) || (r.st == .buffered && (s.redTarget r).isSome))

/-- The buffered reductions of a barrier's phase applied in the order of R173, each to its target as translated now
(R440). -/
def State.applyBuffered (s : State) (barrier : Nat) (ph : BitVec 32) : State :=
  let l := (s.reds.filter (fun r => r.inPhase barrier ph)).foldr s.insertRed []
  l.foldl (fun u r => u.reduce { r with loc := (s.redTarget r).getD r.loc })
    { s with reds := s.reds.filter (fun r => !r.inPhase barrier ph) }

/-! ## Barrier objects (R287, R288) -/

/-- A barrier object (R287). -/
structure Barrier where
  tgt : BitVec 32
  arr : BitVec 32
  pby : BitVec 28
  res : BitVec 4
  ph : BitVec 32
deriving DecidableEq, Repr

/-- The barrier object at a key. -/
def State.barrierAt (s : State) (k : Nat) : Barrier :=
  let lo : Word := BitVec.ofNat 64 (s.natAt k 8)
  let hi : Word := BitVec.ofNat 64 (s.natAt (k + 8) 8)
  ⟨lo.extractLsb' 0 32, lo.extractLsb' 32 32, hi.extractLsb' 0 28, hi.extractLsb' 28 4, hi.extractLsb' 32 32⟩

/-- A barrier object written. -/
def State.putBarrier (s : State) (k : Nat) (b : Barrier) : State :=
  (s.putNat k 8 (b.arr ++ b.tgt : BitVec 64).toNat).putNat (k + 8) 8 (b.ph ++ b.res ++ b.pby : BitVec 64).toNat

/-- A malformed object: a reserved field set, or TGT 0 (R287). -/
def Barrier.malformed (b : Barrier) : Bool := b.res != 0 || b.tgt == 0

/-- Phase q counts as done (R287). -/
def Barrier.done (b : Barrier) (q : BitVec 32) : Bool :=
  let d := (b.ph - q).toNat
  decide (1 ≤ d) && decide (d < 2 ^ 31)

/-- Every engine thread forked under a phase has ended (R171, R295). -/
def State.phaseEnded (s : State) (id : Nat) : Bool :=
  let u (o : Owner) : Bool := o.phase == some id
  !(s.copies.any (fun k => u k.toOwner && k.st == .run)) &&
  !(s.reds.any (fun r => u r.toOwner && !(r.exact && r.st == .buffered))) &&
  !(s.sends.any (fun k => u k.toOwner)) && !(s.sigs.any (fun k => u k.toOwner)) && !(s.rels.any (fun k => u k.toOwner)) &&
  !(s.conds.any (fun k => u k.toOwner && k.st == .run)) && !(s.posts.any (fun k => u k.toOwner && k.st == .run))

/-- The closed phases of a barrier whose threads have ended give up their ranges: the completion of a barrier phase joins their
bookkeeping (R161, R295). -/
def State.endPhases (s : State) (barrier : Nat) : State :=
  { s with phases := s.phases.filter (fun p => p.isOpen || p.barrier != barrier || !s.phaseEnded p.id) }

/-- The phases that are complete end, with fuel for each, unless a late fault of a buffered reduction holds one (R440):
their buffered reductions are applied, PH and ARR move on, the sampling of conflicts begins anew and closed exact-mode phases
end (R161, R177, R288). -/
def State.completePhases (s : State) (k : Nat) : Nat → State
  | 0 => s
  | n + 1 =>
    let b := s.barrierAt k
    if b.tgt ≠ 0 ∧ b.tgt.toNat ≤ b.arr.toNat ∧ b.pby = 0 ∧ s.phaseClear k b.ph then
      let s1 := s.applyBuffered k b.ph
      let s2 : State := ({ s1 with writes := s1.writes.filter (fun w => w.barrier != k) } : State).endPhases k
      let b2 := s2.barrierAt k
      ((s2.putBarrier k { b2 with ph := b.ph + 1, arr := b.arr - b.tgt }).wake k).completePhases k n
    else s

/-- The procedure of R288 run after a change of the object. -/
def State.settleBarrier (s : State) (k : Nat) : State :=
  let b := s.barrierAt k
  s.completePhases k (if b.tgt = 0 then 0 else b.arr.toNat / b.tgt.toNat + 1)

/-- Every reduction that a context's task has issued has been accepted by its landing, as far as an arrival at a barrier
covers it: those of the open phase, and those of earlier phases of the same barrier (R173, R381). -/
def State.redsAccepted (s : State) (c : CtxId) (k : Nat) : Bool :=
  s.reds.all (fun r => !(r.exact && (s.ctx c).runs r.serial && r.bphase.isNone && r.st != .buffered &&
    (r.barrier == k || r.phase == (s.ctx c).phase)))

/-- An arrival of the task in the environment at a barrier: its phase q, ARR counted, its buffered reductions covered
(R173, R289), and completed phases ended (R288). -/
def State.barrierArrive (s : State) (k : Nat) : BitVec 32 × State :=
  let b := s.barrierAt k
  let q := b.ph + BitVec.ofNat 32 (b.arr.toNat / b.tgt.toNat)
  let mine (r : Red) : Bool :=
    r.exact && s.cx.runs r.serial && r.barrier == k && r.bphase.isNone
  let s1 := s.putBarrier k { b with arr := b.arr + 1 }
  let s2 : State :=
    { s1 with reds := s1.reds.map (fun r => if mine r then { r with bphase := some q, cover := s.env.ctm } else r) }
  (q, s2.settleBarrier k)

/-- The arrival of a baraw withdrawn: ARR less one, and what it covered is uncovered again (R166, R173). -/
def State.barrierWithdraw (s : State) (k : Nat) (q : BitVec 32) : State :=
  let b := s.barrierAt k
  let mine (r : Red) : Bool :=
    r.exact && s.cx.runs r.serial && r.barrier == k && r.bphase == some q && r.cover == s.env.ctm
  let s1 := s.putBarrier k { b with arr := b.arr - 1 }
  ({ s1 with reds := s1.reds.map (fun r => if mine r then { r with bphase := none } else r) } : State).settleBarrier k

/-- Pending bytes of a tagged copy added at acceptance (R165). -/
def State.addPending (s : State) (k n : Nat) : State :=
  let b := s.barrierAt k
  s.putBarrier k { b with pby := b.pby + BitVec.ofNat 28 n }
/-- Pending bytes subtracted at completion or failure, completed phases ended (R142, R288). -/
def State.subPending (s : State) (k n : Nat) : State :=
  let b := s.barrierAt k
  (s.putBarrier k { b with pby := b.pby - BitVec.ofNat 28 n }).settleBarrier k

/-! ## Event objects (R290) -/

/-- An event object (R290). -/
structure EventObj where
  cnt : Word
  tgt : BitVec 48
  st : BitVec 3
  res : BitVec 13
deriving DecidableEq, Repr

/-- The event object in 16 bytes. -/
def eventOf (bs : List Byte) : EventObj :=
  let hi : Word := BitVec.ofNat 64 (leNat (bs.drop 8))
  ⟨BitVec.ofNat 64 (leNat (bs.take 8)), hi.extractLsb' 0 48, hi.extractLsb' 48 3, hi.extractLsb' 51 13⟩

/-- A malformed event object: a reserved field or a reserved status (R290). -/
def EventObj.malformed (e : EventObj) : Bool := e.res != 0 || !(e.st == 0 || e.st == 4 || e.st == 5)
/-- The object is signalled (R290). -/
def EventObj.signalled (e : EventObj) : Bool := e.st != 0 || decide (e.tgt.toNat ≤ e.cnt.toNat)
/-- CNT plus a number, saturating (R290). -/
def EventObj.plus (e : EventObj) (n : Word) : Word :=
  if 2 ^ 64 ≤ e.cnt.toNat + n.toNat then BitVec.allOnes 64 else e.cnt + n

/-- The signal of an event object is followed by the tests of its partition's held launches (R415). -/
def State.holdsDue (s : State) (part : BitVec 4) : State :=
  if s.launches.any (fun l => l.part == part && l.st == .held) then { s with agenda := .holdTest part :: s.agenda } else s

/-- CNT of the event object at a key counts one, or its ST is set, for the reader that the record of an error names; a malformed
one stays. Waits on it and held launches of the partition are tested (R140, R148, R290, R415). -/
def State.eventPut (s : State) (r : Reader) (key : Nat) (st : BitVec 3) : State :=
  let u := s.readErrors r [⟨key, 16⟩]
  let e := eventOf (u.bytesAt key 16)
  if e.malformed then u
  else
    let cnt := if st = 0 then e.plus 1 else e.cnt
    let st' := if st = 0 then e.st else st
    (u.putBytes key (leBytes 8 cnt.toNat ++ leBytes 8 (e.res ++ st' ++ e.tgt : BitVec 64).toNat)).wake key |>.holdsDue r.part

end Sys2Proof.Machine
end

