-- ==== Sys2Proof/Machine/Access.lean ====
section
/-!
DEFINITION. Scalar, vector and indexed accesses and prefetch in the M slot (spec/10 R272 to R275). One meaning per
instruction over `memOp`, `ringOp` and `laneOp`.
-/
namespace Sys2Proof.Machine

/-! ## The three shapes of an access -/

/-- The results from number n on that a read of a HOST page produced (R493). -/
def State.markHost (s : State) (tc : List Touch) (n : Nat) : State :=
  if tc.any (fun t => isHostKey t.key && !t.write) then
    s.mapCx (fun x => { x with results := x.results.map (fun r => if n ≤ r.rid then { r with host := true } else r) })
  else s

/-- An access by the instruction in the environment finds the errors of the storage that it reads (R148). -/
def State.accessed (s : State) (a : Access) (va : Word) (ps : List Piece) : State :=
  if a.reads then s.readErrors (s.readerAt s.env.cid va) ps else s

/-- An access of n bytes from an address: the checks of R269 at issue, then its action on the storage they fixed; an
access to a frame that is out of service waits unissued (R425). -/
def State.memOp (s : State) (sh : Shape) (sp : Space) (a : Access) (va : Word) (n align : Nat)
    (k : List Touch → State → State) : Out :=
  if s.env.slipped.isNone ∧ s.frameOut sp va then .next (s.blockAway va)
  else .next ((s.operate sh (s.checkAccess sp a 0 1 va n align) (fun tc t =>
    (k tc (t.accessed a va (piecesOf tc))).markHost tc t.cx.nextRid)).noteIssue s sp va n)

/-- An access of n bytes through a ring operand: the checks of R133 and R135 at issue, the operand tested when the
instruction leaves issue or its slip buffer, then the action on the slots from slot 0 on (R133, R135, R272). Its join of
copies contributes their flags at the next bundle (R36). -/
def State.ringOp (s : State) (sh : Shape) (a : Access) (r : RingOpd) (n : Nat) (k : List Piece → State → State) : Out :=
  let sh' : Shape := { sh with dests := sh.dests ++ [(.none, 1)] }
  .next (s.operate sh' (s.checkRing r.h r.n.toNat n 1 a 0) (fun tc t =>
    t.implicitWait sh' tc (t.ringReady r.h r.producer r.n.toNat)
      (fun u =>
        let ps := u.ringPieces r.h r.producer n
        (k ps (u.accessed a (piecesVa ps) ps)).joinRing 1 r.h)))

/-- An access of single elements, each checked (R274). -/
def State.laneOp (s : State) (sh : Shape) (sp : Space) (a : Access) (vas : List Word) (e : Nat)
    (k : List Touch → State → State) : Out :=
  let out := vas.filter (s.frameOut sp)
  if s.env.slipped.isNone ∧ out ≠ [] then .next (s.blockAway (out.headD 0))
  else .next (vas.foldl (fun u va => u.noteIssue s sp va e) (s.operate sh (s.checkLanes sp a 1 e vas) (fun tc t =>
    (k tc (t.accessed a (vas.headD 0) (piecesOf tc))).markHost tc t.cx.nextRid)))

/-! ## ld and st (R272) -/

/-- An element of pieces loaded into a scalar register (R272). -/
def State.loadScalar (s : State) (f : Fmt) (d : SReg) (static : Bool) (ps : List Piece) : State :=
  s.deliverLoad 6 (.s d) (ofWord (extScalar f (leNat (s.piecesBytes ps)))) static (s.piecesPoisoned ps)

/-- ld (R272). -/
def execLd (sp : Space) (ty : Fmt) (d : SReg) (ba : SOpd) (off : BitVec 4) (s : State) : Out :=
  let f := s.accessFmt ty
  s.memOp ⟨.ld sp ty d ba off, SOpd.src ba, [], [(.s d, 6)], false, 0⟩ sp .read (s.eaMS ba off f.bytes) f.bytes f.bytes
    (fun tc t => t.loadScalar f d (isStatic sp) (piecesOf tc))

/-- ld through a ring operand (R272). -/
def execLdRing (ty : Fmt) (d : SReg) (r : RingOpd) (s : State) : Out :=
  let f := s.accessFmt ty
  s.ringOp ⟨.ldRing ty d r, [], [], [(.s d, 6)], false, 0⟩ .read r f.bytes
    (fun ps t => t.loadScalar f d false ps)

/-- Bytes stored over the storage of an access: waits on what lies there are tested again, and an exact-mode phase samples them
(R177, R290). -/
def State.storeAt (s : State) (va : Word) (tc : List Touch) (bs : List Byte) : State :=
  ((s.putPieces (piecesOf tc) bs).wakeOn (piecesOf tc)).sampleWrites s.cx.phase (withVa va tc)

/-- st (R272). -/
def execSt (sp : Space) (ty : Fmt) (a : SReg) (ba : SOpd) (off : BitVec 4) (s : State) : Out :=
  let f := s.accessFmt ty
  let va := s.eaMS ba off f.bytes
  s.memOp ⟨.st sp ty a ba off, SOpd.src ba, [.s a], [], false, 0⟩ sp .write va f.bytes f.bytes
    (fun tc t => t.storeAt va tc (leBytes f.bytes (t.rs a).toNat))

/-- st through a ring operand (R272). -/
def execStRing (ty : Fmt) (a : SReg) (r : RingOpd) (s : State) : Out :=
  let f := s.accessFmt ty
  s.ringOp ⟨.stRing ty a r, [], [.s a], [], false, 0⟩ .write r f.bytes
    (fun ps t => (t.putPieces ps (leBytes f.bytes (t.rs a).toNat)).wakeOn ps)

/-! ## vld and vst (R273) -/

/-- The lanes of a run of 64 elements with the keys of their elements (R273). -/
def laneKeys (e : Nat) (ps : List Piece) : List (Nat × Nat) :=
  (List.range 64).map (fun i => (i, ((pieceKeys ps)[e * i]?).getD 0))

/-- 64 elements of pieces loaded into the lanes of a vector register; their granules may be read at two times (R154, R273). -/
def State.loadVector (s : State) (f : Fmt) (vd : VReg) (static : Bool) (va : Word) (ps : List Piece) : State :=
  (s.deliverLoad 8 (.v vd) (lanesOfBytes f (s.piecesBytes ps)) static (s.piecesPoisoned ps)).readWide (s.ridOf (.v vd)) 8
    va f (laneKeys f.bytes ps)

/-- vld (R273). -/
def execVld (sp : Space) (ty : Fmt) (vd : VReg) (ba : SOpd) (off : BitVec 5) (s : State) : Out :=
  let f := s.accessFmt ty
  let ea := s.eaMV ba off
  s.memOp ⟨.vld sp ty vd ba off, SOpd.src ba, [], [(.v vd, 8)], false, 0⟩ sp .read ea (64 * f.bytes) 8
    (fun tc t => t.loadVector f vd (isStatic sp) ea (piecesOf tc))

/-- vld through a ring operand (R273). -/
def execVldRing (ty : Fmt) (vd : VReg) (r : RingOpd) (s : State) : Out :=
  let f := s.accessFmt ty
  s.ringOp ⟨.vldRing ty vd r, [], [], [(.v vd, 8)], false, 0⟩ .read r (64 * f.bytes)
    (fun ps t => t.loadVector f vd false (piecesVa ps) ps)

/-- Bytes of a wide store over the storage of an access, unit by unit, sampled in an exact-mode phase (R154, R177). -/
def State.storeWide (s : State) (size : Nat) (runs : List (Word × Touch)) (bs : List Byte) : State :=
  ((s.putWide s.env.cid size ((runs.map (·.1)).headD 0) (piecesOf (runs.map (·.2))) bs).wakeOn
    (piecesOf (runs.map (·.2)))).sampleWrites s.cx.phase runs

/-- vst (R273). -/
def execVst (sp : Space) (ty : Fmt) (va : VReg) (ba : SOpd) (off : BitVec 5) (s : State) : Out :=
  let f := s.accessFmt ty
  let ea := s.eaMV ba off
  s.memOp ⟨.vst sp ty va ba off, SOpd.src ba, [.v va], [], false, 0⟩ sp .write ea (64 * f.bytes) 8
    (fun tc t => t.storeWide 8 (withVa ea tc) (bytesOfLanes f (t.rv va)))

/-- vst through a ring operand (R273). -/
def execVstRing (ty : Fmt) (va : VReg) (r : RingOpd) (s : State) : Out :=
  let f := s.accessFmt ty
  s.ringOp ⟨.vstRing ty va r, [], [.v va], [], false, 0⟩ .write r (64 * f.bytes)
    (fun ps t => (t.putWide t.env.cid 8 (piecesVa ps) ps (bytesOfLanes f (t.rv va))).wakeOn ps)

/-! ## Strided and indexed accesses (R274) -/

/-- The address of lane i of a strided access (R274). -/
def stridedAddrs (base stride : Word) : List Word :=
  (List.range 64).map (fun i => base + BitVec.ofNat 64 i * stride)

/-- Whether each lane of an indexed access is active: its index has bit 31 clear (R274). -/
def activeLanes (idx : VecWord) : List Bool := (lanes idx).map (fun x => !x.getLsbD 31)

/-- The addresses of the active lanes, in order (R274). -/
def indexedAddrs (base : Word) (e : Nat) (idx : VecWord) : List Word :=
  (lanes idx).filterMap (fun x => if x.getLsbD 31 then none else some (indexedAddr base e x))

/-- The active lanes of an access with the touches of their elements. -/
def laneTouches (act : List Bool) (tc : List Touch) : List (Nat × Touch) :=
  ((List.range 64).filter (fun i => act[i]?.getD false)).zip tc

/-- The lanes that an access of elements loads, an inactive lane 0 (R274). -/
def State.loadLanes (s : State) (f : Fmt) (l : List (Nat × Touch)) : VecWord :=
  l.foldl (fun v p => setLane v p.1 (extLane f (s.natAt p.2.key p.2.len))) 0

/-- Elements loaded into the lanes of a vector register, each an access of its own (R154, R274). -/
def State.gatherLanes (s : State) (f : Fmt) (vd : VReg) (sp : Space) (va : Word) (l : List (Nat × Touch)) : State :=
  (s.deliverLoad 8 (.v vd) (s.loadLanes f l) (isStatic sp) (s.piecesPoisoned (piecesOf (l.map (·.2))))).readWide
    (s.ridOf (.v vd)) f.bytes va f (l.map (fun p => (p.1, p.2.key)))

/-- The values of the active lanes, in order. -/
def activeValues (act : List Bool) (v : VecWord) : List Lane :=
  ((act.zip (lanes v)).filter (fun p => p.1)).map (fun p => p.2)

/-- vlds (R274). -/
def execVlds (sp : Space) (ty : Fmt) (vd : VReg) (ba : SOpd) (sr : SReg) (s : State) : Out :=
  let f := s.accessFmt ty
  s.laneOp ⟨.vlds sp ty vd ba sr, .s sr :: SOpd.src ba, [], [(.v vd, 8)], false, 0⟩ sp .read
    (stridedAddrs (s.rso ba) (s.rs sr)) f.bytes (fun tc t => t.gatherLanes f vd sp (t.rso ba) (laneTouches (List.replicate 64 true) tc))

/-- vsts (R274): of lanes that name the same element, the highest is written last. -/
def execVsts (sp : Space) (ty : Fmt) (va : VReg) (ba : SOpd) (sr : SReg) (s : State) : Out :=
  let f := s.accessFmt ty
  let vas := stridedAddrs (s.rso ba) (s.rs sr)
  s.laneOp ⟨.vsts sp ty va ba sr, .s sr :: SOpd.src ba, [.v va], [], false, 0⟩ sp .write vas f.bytes
    (fun tc t => t.storeWide f.bytes (vas.zip tc) (bytesOfLanes f (t.rv va)))

/-- gath (R274). -/
def execGath (sp : Space) (ty : Fmt) (vd vi : VReg) (ba : SOpd) (s : State) : Out :=
  let f := s.accessFmt ty
  let idx := s.rv vi
  s.laneOp ⟨.gath sp ty vd vi ba, .v vi :: SOpd.src ba, [], [(.v vd, 8)], false, 0⟩ sp .read
    (indexedAddrs (s.rso ba) f.bytes idx) f.bytes
    (fun tc t => t.gatherLanes f vd sp (((indexedAddrs (t.rso ba) f.bytes idx).head?).getD 0) (laneTouches (activeLanes idx) tc))

/-- scat (R274): of lanes that name the same element, the highest is written last. -/
def execScat (sp : Space) (ty : Fmt) (va vi : VReg) (ba : SOpd) (s : State) : Out :=
  let f := s.accessFmt ty
  let idx := s.rv vi
  let vas := indexedAddrs (s.rso ba) f.bytes idx
  s.laneOp ⟨.scat sp ty va vi ba, .v vi :: SOpd.src ba, [.v va], [], false, 0⟩ sp .write vas f.bytes
    (fun tc t => t.storeWide f.bytes (vas.zip tc)
      ((activeValues (activeLanes idx) (t.rv va)).flatMap (fun x => leBytes f.bytes x.toNat)))

/-! ## Prefetch (R275) -/

/-- pref: no architectural effect and no trap (R275). -/
def execPref (_hint : BitVec 6) (_ba : SOpd) (_off : BitVec 4) (s : State) : Out := .next s

end Sys2Proof.Machine
end

