-- ==== Sys2Proof/Machine/Quant.lean ====
section
/-!
DEFINITION. The dual-power weight and its quantiser (spec/02 R30, R31, R32, R47, R48).
-/
namespace Sys2Proof.Machine

/-- Eb of a control word's bits [7:0]: signed, clamped to [-126, 119], and whether it was outside (R31). -/
def ebOf (b : Byte) : Int × Bool :=
  let e := b.toInt
  if e < -126 then (-126, true) else if e > 119 then (119, true) else (e, false)

/-- A term of a weight as a signed count of 2^-6 (R30). -/
def dpwTerm (neg : Bool) (code : Nat) : Int :=
  if code = 7 then 0 else if neg then -(2 ^ (6 - code)) else 2 ^ (6 - code)

/-- The sum of the two terms of a DPW8 byte as a count of 2^-6 (R30, R32). -/
def dpwUnits (b : Byte) : Int :=
  dpwTerm (b.getLsbD 7) (b.extractLsb' 4 3).toNat + dpwTerm (b.getLsbD 3) (b.extractLsb' 0 3).toNat

/-- The exact value of a weight in a block of scale 2^(Eb + d - 8); a zero is +0 (R31, R32). -/
def dpwValue (eb : Int) (d : BitVec 4) (b : Byte) : Num :=
  let u := dpwUnits b
  .fin (decide (u < 0)) u.natAbs (eb + d.toNat - 8 - 6)

/-- Twice the block scale: the largest magnitude in range (R47). -/
def dpwLimit (eb : Int) (d : Nat) : Num := .fin false 1 (eb + d - 8 + 1)

/-- OutOfRange of R47; an infinity is out of range at every delta. -/
def outOfRange (w : List Num) (eb : Int) (d : Nat) : Bool :=
  w.any (fun x => !x.isNan && (dpwLimit eb d).lt x.abs)

/-- The search for a delta of R47: at most three retries. -/
def quantDelta (w : List Num) (eb : Int) : Nat → Nat → Nat
  | 0, d => d
  | n + 1, d => if d < 15 && outOfRange w eb d then quantDelta w eb n (d + 1) else d

/-- The distance of t from 2^-k for k = 0 to 6, or from 0 for k = 7. -/
def powAt (k : Nat) : Num := if k = 7 then Num.zero else .fin false 1 (-(k : Int))

/-- The code of the nearest of 2^0, …, 2^-6, 0 to a magnitude, ties to the larger (R47). -/
def nearestPow (t : Num) : Nat :=
  let dist (k : Nat) : Num := ((t.add false (powAt k).negate).1).abs
  (List.range 8).foldl (fun best k => if (dist k).lt (dist best) then k else best) 0

/-- EncodeDPW of R47, its flags beside the byte. Where |t| is exactly 2^-7, both roundings of R47 go to the larger power and
the byte has the value +0 without being 0x77, against the sentence of R32 on the quantiser: the model follows the procedure
(DEDUCED, notes/assumptions/42.md). -/
def encodeDpw (eb : Int) (d : Nat) (x : Num) : Byte × Flags :=
  match x with
  | .nan => (0x77, Flags.invalid)
  | .inf s => (if s then 0x88 else 0x00, Flags.qsatur)
  | .fin s m e =>
    let t : Num := .fin s m (e - (eb + d - 8))
    if (Num.ofNat 2).lt t.abs then (if s then 0x88 else 0x00, Flags.qsatur)
    else
      let c1 := nearestPow t.abs
      let rho := (t.abs.add false (powAt c1).negate).1
      let c2 := nearestPow rho.abs
      let s1 := s && decide (m ≠ 0) && c1 != 7
      let s2 := c2 != 7 && ((s && decide (m ≠ 0)) != (rho.lt Num.zero))
      (BitVec.ofBool s1 ++ BitVec.ofNat 3 c1 ++ BitVec.ofBool s2 ++ BitVec.ofNat 3 c2, Flags.none)

/-- QuantBlock of R47: the bytes, the delta used and the flags. -/
def quantBlock (w : List Num) (eb : Int) (dp : BitVec 4) : List Byte × BitVec 4 × Flags :=
  let d := quantDelta w eb 3 dp.toNat
  let codes := w.map (encodeDpw eb d)
  (codes.map (·.1), BitVec.ofNat 4 d, Flags.union (codes.map (·.2)))

/-- One weight expanded to a floating format (R48). -/
def dequant (f : FpForm) (rm : RMode) (sat : Bool) (eb : Int) (d : BitVec 4) (b : Byte) : Nat × Flags :=
  f.round rm sat (dpwValue eb d b)

end Sys2Proof.Machine
end

