-- ==== Sys2Proof/Machine/Rings.lean ====
section
/-!
DEFINITION. The ring instructions of the M slot (spec/10 R277 to R279; spec/05 R131 to R134).
-/
namespace Sys2Proof.Machine

/-- The rings that the issuing context's launch gives each context (R277, R413). -/
def State.ringLimit (s : State) : Nat :=
  match s.cx.task with
  | some t => t.nrng
  | none => 0

/-- The entry that handle N of the issuing context defines (R277). -/
def State.ownEntry (s : State) (h : HReg) : BitVec 6 := (s.env.cid.num ++ h : BitVec 6)

/-- Another context of the core holds a handle on an entry (R132). -/
def State.entryShared (s : State) (e : BitVec 6) : Bool :=
  [0#2, 1#2, 2#2, 3#2].any (fun n =>
    let d := CtxId.of s.myCore n
    d != s.env.cid && (s.ctx d).task.isSome && (s.ctx d).h.toList.any (fun x => x == some e))

/-- The region of the issuing context's task; none has number 0. -/
def State.myRegion (s : State) : Nat := (s.cx.task.map (·.region)).getD 0

/-- The entry that rdef's operand defines (R132, R277). -/
def ringFrom (w : Word) (region : Nat) : Ring :=
  { Ring.reset with
    base := w.extractLsb' 0 32, hall := w.getLsbD 32, sszl := w.extractLsb' 33 4, valid := true,
    nslm := w.extractLsb' 39 12, cls := w.extractLsb' 51 8, region := region,
    free := BitVec.ofNat 13 ((w.extractLsb' 39 12).toNat + 1) }

/-- The slot array of a new entry lies in its window (R132). -/
def Ring.fits (r : Ring) : Bool :=
  let b := r.base.toNat
  if r.hall then decide (0x20000000 ≤ b) && decide (b + r.nsl * r.slotSize ≤ 0x22000000)
  else decide (b + r.nsl * r.slotSize ≤ 0x100000)

/-- The checks of rdef (R132, R277). -/
def State.checkRdef (s : State) (h : HReg) (w : Word) : Except IssueTrap (List Touch) :=
  let ill : IssueTrap := ⟨.ill, 0, 0⟩
  let accv : IssueTrap := ⟨.accv, 0, 0⟩
  if w.getLsbD 37 then
    let e : BitVec 6 := w.setWidth 6
    let r := s.ringAt s.myCore e
    if w &&& ~~~ 0x200000003F#64 ≠ 0 then .error ill
    else if s.ringLimit ≤ h.toNat ∨ r.valid = false ∨ r.region ≠ s.myRegion then .error accv
    else .ok [ringTouch s.myCore e false]
  else
    let r := ringFrom w s.myRegion
    let e := s.ownEntry h
    if w.getLsbD 38 ∨ w.extractLsb' 59 5 ≠ 0 ∨ r.sszl.toNat < 3 then .error ill
    else if !r.fits then .error ⟨.lwin, 0, r.base.setWidth 64⟩
    else if r.base.toNat % min r.slotSize 256 ≠ 0 then .error ⟨.align, 0, r.base.setWidth 64⟩
    else if s.ringLimit ≤ h.toNat ∨ s.entryShared e ∨ (s.ringAt s.myCore e).pend ≠ 0 then .error accv
    else .ok [ringTouch s.myCore e true]

/-- The instructions of earlier bundles that wait and use an entry that is to be defined anew (R152, R277). -/
def State.ringUsers (s : State) (e : BitVec 6) : List SlipEntry :=
  s.cx.slip.filter (fun z => z.ctm != s.env.ctm && entryIn z.touch == some e)

/-- A sleep of the bundle in the environment no longer names an entry that has been defined anew: the ring that it waits on never
advances again (R248, R277). -/
def State.loseRing (s : State) (e : BitVec 6) : State :=
  s.mapCx (fun x => { x with slip := x.slip.map (fun z =>
    if z.slot = 0 ∧ entryIn z.touch = some e then { z with touch := [] } else z) })

/-- rdef: an entry is defined, or an existing one bound (R277). It acts at issue, for the later slots of its own bundle too; its
bundle stays unissued while instructions of earlier bundles that use an entry defined anew wait in slip buffers (R152). -/
def execRdef (h : HReg) (a : SReg) (s : State) : Out :=
  let sh : Shape := ⟨.rdef h a, [.s a], [], [], false, 0⟩
  let w := s.rs a
  let e := s.ownEntry h
  if s.env.slipped.isNone ∧ w.getLsbD 37 = false ∧ s.ringUsers e ≠ [] then .next (s.blockBehind (s.ringUsers e))
  else
    .next (s.operateNow sh (s.checkRdef h w) (fun t =>
      if w.getLsbD 37 then t.mapCx (fun x => { x with h := x.h.set h.toNat (some (w.setWidth 6)) h.isLt })
      else
        ((t.mapRing t.myCore e (fun _ => ringFrom w t.myRegion)).mapCx
          (fun x => { x with h := x.h.set h.toNat (some e) h.isLt })).loseRing e))

/-- The checks of advp and advc: a bound handle, and a count of at most 4,096 (R278). -/
def State.checkAdvance (s : State) (h : HReg) (n : BitVec 13) : Except IssueTrap (List Touch) :=
  match s.ringOf h with
  | some (e, _) => if n.toNat ≤ 4096 then .ok [ringTouch s.myCore e true] else .error ⟨.ill, 0, 0⟩
  | none => .error ⟨.ill, 0, 0⟩

/-- One update of a handle's entry, as checked at issue (R96, R134, R278). -/
def State.advance (s : State) (h : HReg) (f : Ring → Ring) : State :=
  match s.ringNamed h with
  | some (e, _) => s.mapRing s.myCore e f
  | none => s

/-- advp (R134, R278). -/
def execAdvp (h : HReg) (n : BitVec 13) (s : State) : Out :=
  .next (s.operate ⟨.advp h n, [], [], [], false, 0⟩ (s.checkAdvance h n)
    (fun _ t => t.advance h (fun r => r.advp n.toNat)))

/-- advc (R134, R278). -/
def execAdvc (h : HReg) (n : BitVec 13) (s : State) : Out :=
  .next (s.operate ⟨.advc h n, [], [], [], false, 0⟩ (s.checkAdvance h n)
    (fun _ t => t.advance h (fun r => r.advc n.toNat)))

/-- rqry: word w of the entry that the handle named at issue, as it stands when the rqry executes (R96, R131, R279). -/
def execRqry (d : SReg) (h : HReg) (wd : Bool) (s : State) : Out :=
  let chk : Except IssueTrap (List Touch) :=
    match s.ringOf h with
    | some (e, _) => .ok [ringTouch s.myCore e false]
    | none => .error ⟨.ill, 0, 0⟩
  .next (s.operate ⟨.rqry d h wd, [], [], [(.s d, 6), (.none, 6)], false, 0⟩ chk (fun _ t =>
    match t.ringNamed h with
    | some (_, r) => (t.joinRing 6 h).deliverS 6 d (if wd then r.word1 else r.word0)
    | none => t.deliverS 6 d 0))

end Sys2Proof.Machine
end

