-- ==== Sys2Proof/Machine/Copy.lean ====
section
/-!
DEFINITION. The dray (spec/05 R137 to R147, R149; spec/10 R280 to R284): the checks of a copy, its acceptance, its
transformation and completion, and cpqry; with the events COPY_ACCEPTANCE and COPY_COMPLETION.
-/
namespace Sys2Proof.Machine

/-! ## Operands (R281, R282) -/

/-- The fields of the command register (R281). -/
structure CmdWord where
  len : Nat
  rm : BitVec 3
  sat : Bool
  flg : BitVec 3
  fle : Bool
  bt : Bool
  ev : Bool
  br : SReg
  er : SReg
  xw : BitVec 6
  xr : SReg
  bsp : BitVec 2
deriving DecidableEq, Repr

/-- The command register taken apart (R281). -/
def cmdWord (w : Word) : CmdWord where
  len := (w.extractLsb' 0 28).toNat
  rm := w.extractLsb' 28 3
  sat := w.getLsbD 31
  flg := w.extractLsb' 32 3
  fle := w.getLsbD 35
  bt := w.getLsbD 36
  ev := w.getLsbD 37
  br := w.extractLsb' 38 6
  er := w.extractLsb' 44 6
  xw := w.extractLsb' 50 6
  xr := w.extractLsb' 56 6
  bsp := w.extractLsb' 62 2

/-- The size class of a ZP block (R147). -/
def zpClass (zc : BitVec 2) : Nat := 64 * 2 ^ zc.toNat

/-- The unused fields of a command are zero, and its rounding mode exists (R281). -/
def CmdWord.fieldsOk (m : CmdWord) (kind : CopyKind) : Bool :=
  (m.fle || m.flg == 0) && (m.bt || (m.br == 0 && m.bsp == 0)) && (m.ev || m.er == 0) &&
  (match kind with
   | .conv => decide (m.rm.toNat ≤ 4) && m.xw == 0 && m.xr == 0
   | .encb | .dxp => m.rm == 0 && !m.sat
   | _ => m.rm == 0 && !m.sat && m.xw == 0 && m.xr == 0)

/-- The destination bytes of a kind, when its formats and length obey R282; `c0` is the column of DXP. -/
def copyBytes (kind : CopyKind) (sfmt dfmt : Fmt) (zc : BitVec 2) (m : CmdWord) (xr : Word) : Option Nat :=
  let plainFmts := sfmt == .fp32 && dfmt == .fp32
  let n := m.xw.toNat + 1
  let cls := zpClass zc
  let zok := zc == 0 || kind == .pack || kind == .unpk
  let ok := match kind with
    | .plain => plainFmts
    | .conv => decide (m.len % sfmt.bytes = 0)
    | .encb => plainFmts && decide (m.len % (4 * n) = 0) && decide (0 < m.len)
    | .dxp =>
      (sfmt == .fp32 || sfmt == .bf16) && dfmt.isFloat && decide (m.len = n * sfmt.bytes) &&
      decide (xr.toNat < 64) && decide (xr.toNat + n ≤ 64)
    | .pack => plainFmts && decide (m.len % 512 = 0)
    | .unpk => plainFmts && decide (m.len % cls = 0)
  if zok && ok then
    some (match kind with
      | .plain => m.len
      | .conv => m.len / sfmt.bytes * dfmt.bytes
      | .encb => m.len / 2
      | .dxp => n * 64 * dfmt.bytes
      | .pack => m.len / 512 * cls
      | .unpk => m.len / cls * 512)
  else none

/-- The alignments of source and destination (R282). -/
def copyAligns (kind : CopyKind) (sfmt dfmt : Fmt) (zc : BitVec 2) : Nat × Nat :=
  match kind with
  | .plain => (1, 1)
  | .conv | .dxp => (sfmt.bytes, dfmt.bytes)
  | .encb => (4, 2)
  | .pack => (8, zpClass zc)
  | .unpk => (zpClass zc, 8)

/-- One end of a copy, or an object that it names, as its checks see it. -/
structure CopyEnd where
  sp : Space
  va : Word
  n : Nat
  align : Nat
  acc : Access
deriving DecidableEq, Repr

/-- The first failing check of R269 on an end. -/
def CopyEnd.fault (s : State) (e : CopyEnd) : Option IssueTrap :=
  let n := if e.sp = .glob then min e.n (65536 - e.va.toNat % 65536) else e.n
  match s.checkAccess e.sp e.acc 1 2 e.va n e.align with
  | .error t => some t
  | .ok _ => none

/-- The place of a cause in the order of R269. -/
def checkRank : IssueTrap → Nat
  | t =>
    match t.cause with
    | .lwin => 2
    | .pflt => if t.det = 4 then 2 else 4
    | .align => 3
    | .wattr => 4
    | .accv => 5
    | .detout => 6
    | _ => 1

/-- The trap of several ends: the earliest check in the order of R269, the first end that fails it. -/
def firstFault (l : List IssueTrap) : Option IssueTrap :=
  (List.range 7).findSome? (fun k => l.find? (fun t => checkRank t == k))

/-- The touches of an end at issue: window storage whole, global storage by its first page (R152). -/
def CopyEnd.touch (s : State) (e : CopyEnd) : List Touch :=
  match s.checkAccess e.sp e.acc 1 2 e.va (if e.sp = .glob then min e.n (65536 - e.va.toNat % 65536) else e.n) e.align with
  | .ok l => l
  | .error _ => []

/-- What a copy is asked to do: its command, and its ends. -/
structure CopyPlan where
  cmd : CopyCmd
  ends : List CopyEnd
  bar : Option CopyEnd
  event : Option CopyEnd
deriving DecidableEq, Repr

/-- The plan of a copy with the keys of its event object and its barrier object, as translated at issue: they come first among the
storage that it touches (R96, R437). -/
def CopyPlan.tagged (p : CopyPlan) (tc : List Touch) : CopyPlan :=
  { p with cmd := { p.cmd with
      event := if p.event.isSome then some (keyOf tc) else none,
      barrier := if p.bar.isSome then some (keyOf (tc.drop p.event.toList.length)) else none } }

/-- The command of a copy from its words and registers; none where R145 and R280 to R282 give ILL. -/
def State.copyPlan (s : State) (a c b : SReg) (ssp dsp : Space) (kind : CopyKind) (sfmt dfmt : Fmt) (h : HReg) (re : Bool)
    (ns : BitVec 6) (tag : Bool) (zc : BitVec 2) : Option CopyPlan :=
  let m := cmdWord (s.rs c)
  let xr := s.rs m.xr
  let bva := s.rs m.br
  let eva := s.rs m.er
  match copyBytes kind sfmt dfmt zc m xr with
  | none => none
  | some d =>
    let ring := if re then s.ringNamed h else none
    let ringOk := match ring with
      | some (_, r) =>
        decide (ns.toNat ≤ r.nsl) && decide (d ≤ ns.toNat * r.slotSize) &&
        (kind == .plain || (if r.hall then ssp == .pm else ssp == .hall))
      | none => false
    if !m.fieldsOk kind || (re && (!ringOk || b != 0 || dsp != .pm || ns == 0)) || (tag && !re && dsp == .glob) ||
       (m.bt && decide (2 ^ 28 - 1 < d)) then none
    else
      let al := copyAligns kind sfmt dfmt zc
      let da := if tag then max al.2 8 else al.2
      let bsp := Space.ofCode m.bsp
      let src : CopyEnd := ⟨ssp, s.rs a, m.len, al.1, .read⟩
      let dst : List CopyEnd := if re then [] else [⟨dsp, s.rs b, d, da, .write⟩]
      let res : List CopyEnd := if kind = .encb then [⟨.pm, xr, 4 * (m.xw.toNat + 1), 4, .atomic⟩] else []
      let bar : CopyEnd := ⟨bsp, bva, 16, 16, .sync⟩
      let ev : CopyEnd := ⟨.glob, eva, 16, 16, .sync⟩
      some
        { cmd :=
            { kind := kind, sfmt := sfmt, dfmt := dfmt, rm := m.rm, sat := m.sat, ssp := ssp, src := s.rs a, dsp := dsp,
              dst := if re then 0 else s.rs b, len := m.len, dbytes := d, tag := tag, zc := zc, xw := m.xw.toNat,
              xr := xr, ring := ring.map (·.1), ns := ns.toNat, wptr := 0,
              flag := if m.fle then some m.flg else none, barrier := none, event := none },
          ends := src :: dst ++ res ++ (if m.bt then [bar] else []) ++ (if m.ev then [ev] else []),
          bar := if m.bt then some bar else none, event := if m.ev then some ev else none }

/-- The residual vector is checked as read and written in PM, not as an atomic. -/
def CopyEnd.plain (e : CopyEnd) : List CopyEnd :=
  if e.acc = .atomic then [{ e with acc := .read }, { e with acc := .write }] else [e]

/-- The checks of a copy at issue (R137, R269, R282). The storage of the objects that it names comes first. -/
def State.checkCopy (s : State) (h : HReg) (plan : Option CopyPlan) (tag : Bool) (re : Bool) :
    Except IssueTrap (List Touch) :=
  match plan with
  | none => .error ⟨.ill, 0, 0⟩
  | some p =>
    let ends := p.ends.flatMap CopyEnd.plain
    let faults := ends.filterMap (CopyEnd.fault s)
    let tagFault : List IssueTrap := if tag && decide (p.cmd.dbytes % 8 ≠ 0) then [⟨.align, 0, p.cmd.dst⟩] else []
    let ringChk := if re then s.checkRing h p.cmd.ns p.cmd.dbytes 2 .write 1 else .ok []
    let ringFault : List IssueTrap := match ringChk with
      | .error t => [t]
      | .ok _ => []
    match firstFault (faults ++ tagFault ++ ringFault) with
    | some t => .error t
    | none =>
      .ok ((p.event.toList ++ p.bar.toList ++ ends).flatMap (CopyEnd.touch s) ++
        (match ringChk with
         | .ok [t, r] => [t, { r with write := true }]
         | _ => []))

/-! ## Acceptance (R137, R165) -/

/-- The copies of a core or context that occupy the dray; those of contexts that are out of service have left it (R137, R425). -/
def State.drayUse (s : State) (p : CtxId → Bool) : Nat :=
  (s.copies.filter (fun k => k.st == .run && p k.cid && !s.isOut k.toOwner)).length

/-- The dray can accept the copy: a free entry, the ring satisfied, the pending bytes within their field (R137, R165). -/
def State.copyReady (s : State) (h : HReg) (re : Bool) (p : CopyPlan) : Bool :=
  let c := s.env.cid
  decide (s.drayUse (fun d => d.core == c.core) < 32) && decide (s.drayUse (fun d => d == c) < 16) &&
  (!re || s.ringReady h true p.cmd.ns) &&
  (match p.cmd.barrier with
   | some k => decide ((s.barrierAt k).pby.toNat + p.cmd.dbytes < 2 ^ 28)
   | none => true)

/-- A promise: a GCC value that the dray computes (R138); its delay is a free value. -/
def State.drawPromise (s : State) : Word × State :=
  (s.gcc + BitVec.ofNat 64 (Config.promiseDelay s.free), { s with free := s.free + 1 })

/-- WFL bit b set in a context whose task still runs (R90, R115). -/
def State.setFlag (s : State) (c : CtxId) (serial : Nat) (b : BitVec 3) : State :=
  match (s.ctx c).task with
  | some t =>
    if t.serial = serial then
      s.mapCtx c (fun x => { x with ctl := { x.ctl with wfl := x.ctl.wfl ||| (1#64 <<< b.toNat) } })
    else s
  | none => s

/-- A copy changed in the dray's list. -/
def State.mapCopy (s : State) (id : Nat) (f : Copy → Copy) : State :=
  { s with copies := s.copies.map (fun k => if k.id = id then f k else k) }

/-- Two threads use the ring table of one core: the same core and region, both in service or both out of it (R425). -/
def State.sameTable (s : State) (a b : Owner) : Bool :=
  a.cid.core == b.cid.core && a.region == b.region && s.isOut a == s.isOut b

/-- An entry of the ring table of a thread's core changed: while its contexts are out of service, the table saved with them
(R134, R425). -/
def State.mapRingOf (s : State) (o : Owner) (e : BitVec 6) (f : Ring → Ring) : State :=
  if s.isOut o then
    { s with groups := s.groups.map (fun g =>
        if g.region == o.region && g.core == o.cid.core then
          { g with rings := g.rings.set e.toNat (f (g.rings[e.toNat]'(e.isLt))) e.isLt }
        else g) }
  else s.mapRing o.cid.core e (fun r => if r.region = o.region then f r else r)

/-- What has been accepted into a ring and not published: number, whether it is complete, its slots (R134, R141, R344). -/
def State.unpublished (s : State) (o : Owner) (e : BitVec 6) : List (Nat × Bool × Nat) :=
  (s.copies.filter (fun k => s.sameTable k.toOwner o && k.cmd.ring == some e && !k.published)).map
      (fun k => (k.id, k.st == .ok, k.cmd.ns)) ++
  (s.conds.filter (fun k => s.sameTable k.toOwner o && k.ring == some e && !k.published)).map (fun k => (k.id, k.st == .ok, 1))

/-- The oldest of a list of accepted operations, by number. -/
def oldestOf : List (Nat × Bool × Nat) → Option (Nat × Bool × Nat)
  | [] => none
  | x :: l =>
    match oldestOf l with
    | some y => if x.1 < y.1 then some x else some y
    | none => some x

/-- An operation's publication has been made. -/
def State.markPublished (s : State) (id : Nat) : State :=
  { s with
    copies := s.copies.map (fun k => if k.id = id then { k with published := true } else k),
    conds := s.conds.map (fun k => if k.id = id then { k with published := true } else k) }

/-- Publications of one ring in acceptance order, with fuel: the oldest unpublished operation publishes once it is
complete (R141). -/
def State.publishFrom (s : State) (o : Owner) (e : BitVec 6) : Nat → State
  | 0 => s
  | n + 1 =>
    match oldestOf (s.unpublished o e) with
    | some (id, true, ns) => ((s.mapRingOf o e (fun r => r.publish ns)).markPublished id).publishFrom o e n
    | _ => s

/-- Held publications made (R141). -/
def State.publish (s : State) (o : Owner) (ring : Option (BitVec 6)) : State :=
  match ring with
  | some e => s.publishFrom o e (s.copies.length + s.conds.length + 1)
  | none => s

/-- The completion actions of a copy in the order of R140. -/
def State.completeCopy (s : State) (k : Copy) (fl : Flags) : State :=
  let s1 := s.mapCopy k.id (fun k => { k with st := .ok, flags := fl })
  let s2 := s1.publish k.toOwner k.cmd.ring
  let s3 := match k.cmd.barrier with
    | some b => s2.subPending b k.cmd.dbytes
    | none => s2
  let s4 := match k.cmd.flag with
    | some b => s3.setFlag k.cid k.serial b
    | none => s3
  match k.cmd.event with
  | some key => s4.eventPut (s4.ownerAt k.toOwner k.cmd.dst) key 0
  | none => s4

/-- The barrier object that a copy's tag names lies in a PM frame that is out of service (R425). -/
def Copy.barrierAway (k : Copy) : Bool :=
  match k.cmd.barrier with
  | some b => decide (2 ^ 57 ≤ b)
  | none => false

/-- The barrier bytes of a copy that has failed or been cancelled are subtracted; where the object is out of service with its
PM, once that is back (R142, R425). -/
def State.returnBytes (s : State) (k : Copy) : State :=
  match k.cmd.barrier with
  | none => s
  | some b =>
    if k.barrierAway then s
    else (s.mapCopy k.id (fun x => { x with cmd := { x.cmd with barrier := none } })).subPending b k.cmd.dbytes

/-- The actions of a copy that fails or is cancelled: barrier bytes subtracted, ring slots returned, no flag and no event
(R142). -/
def State.closeCopy (s : State) (k : Copy) (st : CopySt) : State :=
  let s1 := s.mapCopy k.id (fun k => { k with st := st, published := true })
  let s2 := match k.cmd.ring with
    | some e => (s1.mapRingOf k.toOwner e (fun r => r.giveBack k.cmd.ns)).publish k.toOwner k.cmd.ring
    | none => s1
  s2.returnBytes k

/-- Acceptance: the copy number, the promise to its register, ring slots reserved and pending bytes added; a PLAIN or
CONV copy of no bytes completes at once (R137, R165, R282). -/
def State.acceptCopy (s : State) (d : SReg) (p : CopyPlan) : State :=
  let c := s.env.cid
  let x := s.cx
  let done := p.cmd.len == 0 && (p.cmd.kind == .plain || p.cmd.kind == .conv)
  let pr := if done then (s.gcc, s) else s.drawPromise
  let wptr := match p.cmd.ring with
    | some e => (s.ringAt c.core e).wptr
    | none => 0
  let k : Copy :=
    { s.owner with
      id := pr.2.nextId, num := x.copyNum, cmd := { p.cmd with wptr := wptr }, st := .run, promise := pr.1, pms := false, stopped := false, revoked := none,
      published := p.cmd.ring.isNone, joined := false, flags := Flags.none,
      bph := (p.cmd.barrier.map (fun b => (s.barrierAt b).ph)).getD 0, ahead := [], done := [] }
  let s1 : State := { pr.2 with nextId := pr.2.nextId + 1, copies := pr.2.copies ++ [k] }
  let s2 := s1.mapCx (fun x => { x with copyNum := x.copyNum + 1 })
  let s3 := match p.cmd.ring with
    | some e => s2.mapRing c.core e (fun r => r.reserve p.cmd.ns)
    | none => s2
  let s4 := match p.cmd.barrier with
    | some b => s3.addPending b p.cmd.dbytes
    | none => s3
  (if done then s4.completeCopy k Flags.none else s4).deliverS 6 d pr.1

/-- copy (R280 to R283): its checks at issue, then acceptance, for which it waits in the M slip buffer under DLW. -/
def execCopy (d a b c : SReg) (ssp dsp : Space) (kind : CopyKind) (sfmt dfmt : Fmt) (h : HReg) (re : Bool)
    (ns : BitVec 6) (tag : Bool) (zc : BitVec 2) (s : State) : Out :=
  let m := cmdWord (s.rs c)
  let gates : List Src :=
    [.s a, .s c] ++ (if re then [] else [.s b]) ++ (if m.bt then [.s m.br] else []) ++ (if m.ev then [.s m.er] else []) ++
      (if kind = .encb ∨ kind = .dxp then [.s m.xr] else [])
  let sh : Shape := ⟨.copy d a b c ssp dsp kind sfmt dfmt h re ns tag zc, gates, [], [(.s d, 6)], false, 0⟩
  let plan := s.copyPlan a c b ssp dsp kind sfmt dfmt h re ns tag zc
  if s.env.slipped.isNone ∧ s.frameOut ssp (s.rs a) then .next (s.blockAway (s.rs a))
  else if s.env.slipped.isNone ∧ re = false ∧ s.frameOut dsp (s.rs b) then .next (s.blockAway (s.rs b))
  else
    .next (s.operate sh (s.checkCopy h plan tag re) (fun tc t =>
      match plan with
      | none => t
      | some p => t.implicitWait sh tc (t.copyReady h re (p.tagged tc)) (fun u => u.acceptCopy d (p.tagged tc))))

/-! ## cpqry (R284) -/

/-- The status codes of R142. -/
def CopySt.code : CopySt → BitVec 3
  | .run => 0 | .ok => 1 | .zfit => 2 | .fault => 3 | .cancelled => 4

/-- The copy of the context with a number among its 256 most recent ones (R284). -/
def State.recentCopy (s : State) (n : BitVec 16) : Option Copy :=
  match s.cx.task with
  | none => none
  | some t =>
    if (s.cx.copyNum - 1 - n).toNat < 256 then
      s.copies.reverse.find? (fun k => k.cid == s.env.cid && k.serial == t.serial && k.num == n)
    else none

/-- The report of cpqry on a copy (R284). -/
def copyReport (k : Copy) : Word := ((k.promise.setWidth 56 : BitVec 56) ++ 0#4 ++ BitVec.ofBool k.pms ++ k.st.code : BitVec 64)

/-- cpqry (R284): outside its window a free value with a status of 0 to 4. -/
def execCpqry (d a : SReg) (s : State) : Out :=
  .next (s.compute (.cpqry d a) [.s a] [] [(.s d, 6), (.none, 6)] false (fun t =>
    match t.recentCopy ((t.rs a).setWidth 16) with
    | some k =>
      let t1 := if k.st = .ok then t.joinCopies 6 (fun x => x.id == k.id) else t
      t1.deliverS 6 d (copyReport k)
    | none =>
      let r := t.drawWord
      let st : BitVec 3 := BitVec.ofNat 3 ((r.1.setWidth 3 : BitVec 3).toNat % 5)
      r.2.deliverS 6 d ((r.1 &&& ~~~ 0xF7#64) ||| st.setWidth 64)))

/-! ## Transformations (R145 to R147, R149) -/

/-- Bytes marked alike. -/
def carryAll (p : Bool) (bs : List Byte) : List Carried := bs.map (fun b => (b, p))
/-- A list cut into runs of n, with fuel. -/
def chunks {α : Type} : Nat → Nat → List α → List (List α)
  | 0, _, _ => []
  | k + 1, n, l => l.take n :: chunks k n (l.drop n)
/-- A run's bytes as a number. -/
def carriedNat (l : List Carried) : Nat := leNat (l.map (·.1))
/-- Some byte of a run is poisoned. -/
def carriedPoison (l : List Carried) : Bool := l.any (·.2)

/-- CONV, element by element (R39, R145). -/
def convElems (sfmt dfmt : Fmt) (rm : RMode) (sat : Bool) (l : List Carried) : List Carried × Flags :=
  let r := (chunks (l.length / sfmt.bytes) sfmt.bytes l).map (fun e =>
    let c := convert sfmt dfmt rm sat (BitVec.ofNat 64 (carriedNat e))
    (carryAll (carriedPoison e) (leBytes dfmt.bytes c.1.toNat), c.2))
  (r.flatMap (·.1), Flags.union (r.map (·.2)))

/-- |x - y| added to a residual, rounded up; an infinite or NaN difference makes it infinite (R146). -/
def residualAdd (acc : Lane) (x y : Lane) : Lane :=
  let d := ((f32 x).add false (f32 y).negate).1.abs
  match d with
  | .fin .. => (roundF32 .ru false ((f32 acc).add false d).1).1
  | _ => 0x7F800000#32

/-- One element of ENCB: the BF16 encoding, and the residual after it (R146). -/
def encbElem (acc : Lane) (x : Lane) : BitVec 16 × Lane :=
  let y : BitVec 16 := BitVec.ofNat 16 (bf16Form.round .rne false (f32 x)).1
  (y, residualAdd acc x (y.setWidth 32 <<< 16))

/-- One row of ENCB against the residuals (R146). -/
def encbRow : List (Lane × Bool) → List (Lane × Bool) → List Carried × List (Lane × Bool)
  | (acc, ap) :: accs, (x, xp) :: xs =>
    let e := encbElem acc x
    let r := encbRow accs xs
    (carryAll xp (leBytes 2 e.1.toNat) ++ r.1, (e.2, ap || xp) :: r.2)
  | accs, _ => ([], accs)

/-- The rows of ENCB in order (R146). -/
def encbRows (acc : List (Lane × Bool)) : List (List (Lane × Bool)) → List Carried × List (Lane × Bool)
  | [] => ([], acc)
  | x :: l =>
    let r := encbRow acc x
    let q := encbRows r.2 l
    (r.1 ++ q.1, q.2)

/-- The FP32 words of a run. -/
def carriedLanes (l : List Carried) : List (Lane × Bool) :=
  (chunks (l.length / 4) 4 l).map (fun e => (BitVec.ofNat 32 (carriedNat e), carriedPoison e))

/-- DXP: row k holds coefficient k at column c0 + k (R145). -/
def dxpRows (sfmt dfmt : Fmt) (c0 n : Nat) (l : List Carried) : List Carried :=
  let es := chunks n sfmt.bytes l
  let zero := List.replicate dfmt.bytes ((0, false) : Carried)
  (es.zip (List.range n)).flatMap (fun p =>
    let v := (convert sfmt dfmt .rne false (BitVec.ofNat 64 (carriedNat p.1))).1
    (List.range 64).flatMap (fun j =>
      if j = c0 + p.2 then carryAll (carriedPoison p.1) (leBytes dfmt.bytes v.toNat) else zero))

/-- The words of a dense block that are not zero (R147). -/
def nonZeroWords (ws : List (List Carried)) : List (List Carried) := ws.filter (fun w => decide (carriedNat w ≠ 0))

/-- The mask of a block's words (R147). -/
def zpMask (ws : List (List Carried)) : Nat :=
  (ws.zip (List.range 64)).foldl (fun m p => if carriedNat p.1 ≠ 0 then m + 2 ^ p.2 else m) 0

/-- PACK of one block; none when it does not fit its class (R147). The mask word is computed from every word of the block,
a packed word from its own word alone (R149; notes/assumptions/50.md). -/
def packBlock (cls : Nat) (b : List Carried) : Option (List Carried) :=
  if cls = 512 then some b
  else
    let ws := chunks 64 8 b
    let nz := nonZeroWords ws
    if nz.length * 8 + 8 > cls then none
    else
      some (carryAll (carriedPoison b) (leBytes 8 (zpMask ws)) ++ nz.flatMap id ++
        List.replicate (cls - 8 - 8 * nz.length) ((0, false) : Carried))

/-- The words of a block laid out by its mask from word i on, with fuel. -/
def unpackWords (mask : Nat) (p : Bool) : Nat → Nat → List Carried → List Carried
  | 0, _, _ => []
  | n + 1, i, l =>
    if mask.testBit i then (l.take 8).map (fun b => (b.1, b.2 || p)) ++ unpackWords mask p n (i + 1) (l.drop 8)
    else carryAll p (List.replicate 8 0) ++ unpackWords mask p n (i + 1) l

/-- UNPK of one block; none when its mask exceeds the class (R147). -/
def unpackBlock (cls : Nat) (b : List Carried) : Option (List Carried) :=
  if cls = 512 then some b
  else
    let mask := carriedNat (b.take 8)
    let cnt := ((List.range 64).filter (fun i => mask.testBit i)).length
    if cnt * 8 + 8 > cls then none else some (unpackWords mask (carriedPoison (b.take 8)) 64 0 (b.drop 8))

/-- Blocks transformed one by one; none when one does not fit. -/
def allBlocks (f : List Carried → Option (List Carried)) : List (List Carried) → Option (List Carried)
  | [] => some []
  | b :: l =>
    match f b, allBlocks f l with
    | some x, some y => some (x ++ y)
    | _, _ => none

/-- Transform of R283 on the source bytes and ENCB's residual words: destination bytes, new residuals and flags; none
for ZFIT. -/
def transform (k : CopyCmd) (src : List Carried) (res : List (Lane × Bool)) :
    Option (List Carried × List (Lane × Bool) × Flags) :=
  match k.kind with
  | .plain => some (src, [], Flags.none)
  | .conv =>
    let r := convElems k.sfmt k.dfmt (RMode.ofCode k.rm) k.sat src
    some (r.1, [], r.2)
  | .encb =>
    let w := k.xw + 1
    let r := encbRows res ((chunks (k.len / (4 * w)) (4 * w) src).map carriedLanes)
    some (r.1, r.2, Flags.none)
  | .dxp => some (dxpRows k.sfmt k.dfmt k.xr.toNat (k.xw + 1) src, [], Flags.none)
  | .pack => (allBlocks (packBlock (zpClass k.zc)) (chunks (k.len / 512) 512 src)).map (fun b => (b, [], Flags.none))
  | .unpk =>
    (allBlocks (unpackBlock (zpClass k.zc)) (chunks (k.len / zpClass k.zc) (zpClass k.zc) src)).map
      (fun b => (b, [], Flags.none))

/-! ## Completion (R140, R283) -/

/-- Where a copy writes; nowhere while its core's storage is out of service (R425). -/
def State.copyDest (s : State) (k : Copy) : Option (List Piece) :=
  match k.cmd.ring with
  | some e =>
    if s.isOut k.toOwner then none
    else
      let r := s.ringAt k.cid.core e
      some (slotPieces (fun i => r.slotKey k.cid.core (k.cmd.wptr.toNat + i)) r.slotSize k.cmd.ns 0 k.cmd.dbytes)
  | none => s.enginePieces k.toOwner 1 .write k.cmd.dsp k.cmd.dst k.cmd.dbytes

/-- The words that a tagged copy has written become full, each in the granule update that writes it (R127). -/
def State.fillTags (s : State) (l : List (Nat × Carried)) : State :=
  (l.filter (fun c => c.1 % 8 == 0)).foldl (fun u c => u.changeTag c.1 true) s

/-- The pieces that a copy reads, and those of its residual vector; none when one does not translate. -/
def State.copySources (s : State) (k : Copy) : Option (List Piece × List Piece) :=
  match s.enginePieces k.toOwner 1 .read k.cmd.ssp k.cmd.src k.cmd.len,
    (if k.cmd.kind = .encb then s.enginePieces k.toOwner 1 .read .pm k.cmd.xr (4 * (k.cmd.xw + 1)) else some []) with
  | some src, some res => some (src, res)
  | _, _ => none

/-- The bytes of a block that PACK or UNPK writes; none of a block that does not fit. -/
def openBlock (b : Option (List Carried)) (n : Nat) : List (Option Carried) :=
  match b with
  | some l => l.map some
  | none => List.replicate n none

/-- The bytes that a copy can write, in the order of its destination (R9, R147, R283). -/
def openBytes (k : CopyCmd) (src : List Carried) (res : List (Lane × Bool)) : List (Option Carried) :=
  let cls := zpClass k.zc
  match k.kind with
  | .pack => (chunks (k.len / 512) 512 src).flatMap (fun b => openBlock (packBlock cls b) cls)
  | .unpk => (chunks (k.len / cls) cls src).flatMap (fun b => openBlock (unpackBlock cls b) 512)
  | _ =>
    match transform k src res with
    | some r => r.1.map some
    | none => []

/-- Two lists of pieces share a byte. -/
def piecesOverlap (a b : List Piece) : Bool :=
  a.any (fun x => b.any (fun y => decide (x.key < y.key + y.len) && decide (y.key < x.key + x.len)))

/-- A copy writes some bytes of its destination: data and poison, the tags of a tagged copy, and the samples of an exact-mode
phase (R127, R149, R177). -/
def State.writeCells (s : State) (k : Copy) (dst : List Piece) (l : List (Nat × Carried)) : State :=
  let s1 := s.putCells l
  let s2 := if k.cmd.tag then s1.fillTags l else s1.wakeOn dst
  if k.cmd.dsp = .glob ∧ k.cmd.ring.isNone then
    s2.sampleCells k.phase (withVa k.cmd.dst (dst.map (fun p => ⟨true, p.key, p.len⟩))) (granulesOf l)
  else s2

/-- PART OF A COPY: the copy of a number reads some of its source ahead, and writes some of the granules of its destination that it
has not written, from what it has read ahead and what its sources hold now (R9, R143, R160, R283; notes/assumptions/40.md). -/
def State.copyPart (s0 : State) (id : Nat) : State :=
  match s0.copies.find? (fun k => k.id == id) with
  | none => s0
  | some k =>
    match s0.copySources k, s0.copyDest k with
    | some (src, res), some dst =>
      let s := s0.readErrors (s0.ownerAt k.toOwner k.cmd.src) (src ++ res)
      let ahead := s.readAhead k.ahead (src ++ res)
      let s1 : State := { s with free := s.free + 1 }
      let l := s1.openCells k.done dst (openBytes k.cmd (s.carriedFrom ahead src) (carriedLanes (s.carriedFrom ahead res)))
      (({ s1 with free := s1.free + 1 } : State).writeCells k dst l).mapCopy id
        (fun x => { x with ahead := ahead, done := x.done ++ granulesOf l })
    | _, _ => s0

/-- A copy that stops begins anew later: what it has read is forgotten, and every granule is to be written (R143). -/
def Copy.halt (k : Copy) : Copy := { k with stopped := true, revoked := none, ahead := [], done := [] }

/-- A copy that fails or is cancelled: its actions, and a destination that is unspecified (R142). -/
def State.failCopy (s : State) (k : Copy) (st : CopySt) : State := (s.copyPart k.id).closeCopy k st

/-- Source and destination overlap: the granules are written one after another in an open order, each with what the copy
reads at that time or not at all (R9, R283). -/
def State.overlapped (id : Nat) : Nat → State → State
  | 0, s => s
  | n + 1, s => State.overlapped id n (s.copyPart id)

/-- What the destination of a copy lacks is written, and its residuals (R127, R146, R177, R283). -/
def State.writeCopy (s : State) (k : Copy) (src dst res : List Piece) (bytes : List Carried) (acc : List (Lane × Bool)) :
    State :=
  let s1 :=
    if piecesOverlap src dst then State.overlapped k.id (k.cmd.dbytes / 8 + 1) s
    else s.writeCells k dst (restCells k.done dst bytes)
  if k.cmd.kind = .encb then
    s1.putCells ((pieceKeys res).zip (acc.flatMap (fun a => carryAll a.2 (leBytes 4 a.1.toNat))))
  else s1

/-- The work of a copy that nothing stops: read, with the errors that the read finds, transform, write, then the actions or
ZFIT (R140, R142, R148, R283). Where source and destination overlap, the destination is unspecified (R9, R283). -/
def State.runCopy (s0 : State) (k : Copy) (src dst res : List Piece) : State :=
  let s := s0.readErrors (s0.ownerAt k.toOwner k.cmd.src) (src ++ res)
  match transform k.cmd (s.carriedFrom k.ahead src) (carriedLanes (s.carriedFrom k.ahead res)) with
  | none => s.failCopy k .zfit
  | some (bytes, acc, fl) => (s.writeCopy k src dst res bytes acc).completeCopy k fl

/-- The slip-buffer entry at the head of a slot stands ready to run in the next step. -/
def State.stageFront (s : State) (c : CtxId) (p : Pos) : State :=
  match (s.ctx c).slotSlip p with
  | e :: _ => { s with stage := some (c, e) }
  | [] => s

/-- COPY_ACCEPTANCE: the copy that waits at the head of a context's M slip buffer is tried again (R137). -/
def execCopyAcceptance (c : CtxId) (s : State) : Out :=
  .next (match (s.ctx c).slotSlip 3 with
    | e :: _ =>
      match e.ins.instr with
      | .copy .. => s.stageFront c 3
      | _ => s
    | [] => s)

/-- A copy of the dray. -/
def State.copyOf (s : State) (id : Nat) : Option Copy := s.copies.find? (fun k => k.id == id)

/-! ## What stops an engine thread (R438, R487) -/

/-- A global range that an engine thread accesses. -/
structure Reach where
  acc : Access
  va : Word
  len : Nat
deriving DecidableEq, Repr

/-- The global ranges of a copy (R137, R283). -/
def Copy.reach (k : Copy) : List Reach :=
  (if k.cmd.ssp = .glob then [⟨.read, k.cmd.src, k.cmd.len⟩] else []) ++
  (if k.cmd.dsp = .glob ∧ k.cmd.ring = none then [⟨.write, k.cmd.dst, k.cmd.dbytes⟩] else [])

/-- What stops a thread at its first range in trouble: a translation that faults, or an access table that denies it. -/
inductive Stop
  | fault (acc : Access) (f : TransFault)
  | denied
deriving DecidableEq, Repr

/-- The first range that stops a thread that works for a core, or for none (R438, R487). -/
def State.firstStop (s : State) (core : Option CoreId) (part cls : BitVec 4) : List Reach → Option Stop
  | [] => none
  | r :: l =>
    match s.translateAll core part r.acc r.va r.len with
    | .error f => some (.fault r.acc f)
    | .ok rs =>
      if rs.all (s.permitsRun (masterOf part cls) r.acc) then s.firstStop core part cls l else some .denied

/-- COPY_COMPLETION: a copy that runs unstopped is performed whole and completes (R140 to R149, R283). -/
def execCopyCompletion (id : Nat) (s : State) : Out :=
  .next (match s.copyOf id with
    | none => s
    | some k =>
      if k.st ≠ .run ∨ k.stopped ∨ k.revoked.isSome ∨ k.barrierAway then s
      else
        match s.copySources k, s.copyDest k with
        | some (src, res), some dst => s.runCopy k src dst res
        | _, _ => if s.firstStop (some k.cid.core) k.part 1 k.reach = some .denied then s.failCopy k .fault else s)

end Sys2Proof.Machine
end

