-- ==== Sys2Proof/Machine/Atomic.lean ====
section
/-!
DEFINITION. Atomics and reductions of the M slot (spec/10 R285, R286; spec/06 R157 to R159, R173, R174), with the events
REDUCTION_ACCEPTANCE, REDUCTION_APPLICATION and PHASE_BOOKKEEPING.
-/
namespace Sys2Proof.Machine

/-- The width of an operation: 64 bits, or 32 for fadd and under FE (R285). -/
def State.atomFmt (s : State) (op : AtomOp) : Fmt := if op = .fadd then .fp32 else s.accessFmt .w64

/-- s[d] of atom: old sign-extended for i32, else zero-extended (R285). -/
def atomResult (f : Fmt) (old : Nat) : Word := if f = .i32 then extScalar .i32 old else BitVec.ofNat 64 old

/-- atom: one read-modify-write at the landing that homes EA (R157, R285). -/
def execAtom (op : AtomOp) (sp : Space) (d ba a : SReg) (s : State) : Out :=
  let f := s.atomFmt op
  let va := s.rs ba
  let data : List Src := .s a :: (if op = .cas then [.s d] else [])
  s.memOp ⟨.atom op sp d ba a, [.s ba], data, [(.s d, 6)], op == .fadd, 0⟩ sp .atomic va f.bytes f.bytes (fun tc t =>
    let k := keyOf tc
    let cut (w : Word) : Nat := w.toNat % 2 ^ (8 * f.bytes)
    let old := t.natAt k f.bytes
    let r := atomApply op f.bytes t.rmode old (cut (t.rs a)) (cut (t.rs d))
    let p := t.consume (t.poisoned k f.bytes)
    let t1 := ((p.1.putNat k f.bytes r.1).wakeOn (piecesOf tc)).sampleWrites t.cx.phase (withVa va tc)
    t1.deliverR 6 { Result.base with
      dest := .s d, val := ofWord (atomResult f old), arrived := false, flags := r.2, preg := p.2,
      mayFlag := op == .fadd })

/-- The checks of a red or redo: those of an atomic access, and an open phase in an EXACT region (R176, R286). -/
def State.checkRed (s : State) (sp : Space) (va : Word) (n : Nat) : Except IssueTrap (List Touch) :=
  match s.checkAccess sp .atomic 0 1 va n n with
  | .error t => .error t
  | .ok tc => if s.isExact s.env.cid && s.cx.phaseNow.isNone then .error ⟨.detout, 0, va⟩ else .ok tc

/-- A reduction forked by the instruction in the environment (R158, R173). -/
def State.forkRed (s : State) (ordered : Bool) (op : AtomOp) (sp : Space) (va : Word) (key : Nat) (f : Fmt) (v : Word) :
    State :=
  let r : Red :=
    { s.owner with
      id := s.nextId, ordered := ordered, op := op, wide := f.bytes == 8, sp := sp, va := va, loc := key, val := v,
      rm := s.fpc.extractLsb' 0 3, seq := s.cx.redSeq, st := .issued, revoked := none, exact := s.isExact s.env.cid,
      barrier := ((s.sampler s.cx.phase).map (·.barrier)).getD 0, bphase := none, cover := 0, spilled := false }
  ({ s with nextId := s.nextId + 1, reds := s.reds ++ [r] } : State).mapCx (fun x => { x with redSeq := x.redSeq + 1 })

/-- The landing that homes a word can take one more reduction (R286; notes/assumptions/49.md). -/
def State.landingTakes (s : State) (key : Nat) : Bool :=
  let home := Config.homeLanding (key / 256)
  let n := (s.reds.filter (fun r => r.st == .issued && Config.homeLanding (r.loc / 256) == home)).length
  n == 0 || decide (n < Config.landingRoom home)

/-- A red or redo: its checks, then, once the landing can take it, the fork (R286). -/
def State.reduction (s : State) (i : Instr) (ordered : Bool) (op : AtomOp) (sp : Space) (ba a : SReg) : Out :=
  let f := s.atomFmt op
  let va := s.rs ba
  if s.env.slipped.isNone ∧ s.frameOut sp va then .next (s.blockAway va)
  else
    let sh : Shape := ⟨i, [.s ba], [.s a], [], false, 0⟩
    .next ((s.operate sh (s.checkRed sp va f.bytes) (fun tc t =>
      t.implicitWait sh tc (t.landingTakes (keyOf tc)) (fun u =>
        u.forkRed ordered op sp va (keyOf tc) f (u.rs a)))).noteIssue s sp va f.bytes)

/-- redo: an ordered reduction (R159, R286). -/
def execRedo (op : AtomOp) (sp : Space) (ba a : SReg) (s : State) : Out := s.reduction (.redo op sp ba a) true op sp ba a

/-- red: an unordered reduction (R158, R286). -/
def execRed (op : AtomOp) (sp : Space) (ba a : SReg) (s : State) : Out := s.reduction (.red op sp ba a) false op sp ba a

/-! ## Events of the landings -/

/-- A reduction in flight. -/
def State.redOf (s : State) (id : Nat) : Option Red := s.reds.find? (fun r => r.id == id)

/-- A reduction changed. -/
def State.mapRed (s : State) (id : Nat) (f : Red → Red) : State :=
  { s with reds := s.reds.map (fun r => if r.id = id then f r else r) }

/-- VOVF of a task counts one overflow more, saturating (R174, R178). -/
def Ctx.overflowed (x : Ctx) : Ctx :=
  let inc (w : Word) : Word := if w = 0xFFFFFFFF#64 then w else w + 1
  x.change .vovf inc (fun y => { y with ctl := { y.ctl with vovf := inc y.ctl.vovf } })

/-- The phase that a buffered reduction belongs to, or will by an arrival made now (R173, R289). -/
def State.phaseFor (s : State) (r : Red) : BitVec 32 :=
  let b := s.barrierAt r.barrier
  r.bphase.getD (b.ph + BitVec.ofNat 32 (b.arr.toNat / b.tgt.toNat))

/-- A reduction enters its landing. The vestibule holds 16 of an address: the next one moves the set to the region's overflow
area and counts in its context's VOVF; later ones of the same address and phase go there too (R174). -/
def State.bufferRed (s : State) (r : Red) : State :=
  let at' (x : Red) : Bool := x.exact && x.st == .buffered && x.loc == r.loc
  let spilt := s.reds.any (fun x => at' x && x.spilled && x.barrier == r.barrier && s.phaseFor x == s.phaseFor r)
  let full := !spilt && decide (16 ≤ (s.reds.filter (fun x => at' x && !x.spilled)).length)
  let s1 : State := { s with reds := s.reds.map (fun x =>
      if x.id = r.id then { x with loc := r.loc, st := .buffered, spilled := spilt || full }
      else if full ∧ at' x then { x with spilled := true } else x) }
  if full then s1.mapTask r.cid r.serial Ctx.overflowed else s1

/-- The global target of a reduction (R158). -/
def Red.reach (r : Red) : List Reach := if r.sp = .glob then [⟨.atomic, r.va, if r.wide then 8 else 4⟩] else []

/-- RDROP in the CIV of a reduction's issuer, when its task still runs (R90, R439, R451). -/
def State.dropRed (s : State) (r : Red) : State :=
  let s1 : State := { s with reds := s.reds.filter (fun x => x.id != r.id) }
  let s2 := s1.mapTask r.cid r.serial (fun x => { x with ctl := { x.ctl with civ := x.ctl.civ ||| 0x40000#64 } })
  if r.exact then s2.settleBarrier r.barrier else s2

/-- REDUCTION_ACCEPTANCE: in an EXACT region the landing takes an operation into its vestibule or overflow area (R173,
R174, R381); a phase that waits for it may then end. -/
def execReductionAcceptance (id : Nat) (s : State) : Out :=
  .next (match s.redOf id with
    | none => s
    | some r =>
      if !r.exact ∨ r.st ≠ .issued ∨ r.revoked.isSome then s
      else
        match s.redTarget r with
        | none => if s.firstStop (some r.cid.core) r.part 0 r.reach = some .denied then s.dropRed r else s
        | some k =>
          let t := s.bufferRed { r with loc := k }
          if r.bphase.isSome then t.settleBarrier r.barrier else t)

/-- An earlier redo of the same issuer has not been applied: the issuer is the task that a context runs
(R159; notes/assumptions/49.md). -/
def State.redoHeld (s : State) (r : Red) : Bool :=
  r.ordered && s.reds.any (fun x => x.ordered && x.serial == r.serial && decide (x.id < r.id))

/-- REDUCTION_APPLICATION: outside exact mode an operation is applied to its target, a redo after the earlier ones of its
issuer (R158, R159). -/
def execReductionApplication (id : Nat) (s : State) : Out :=
  .next (match s.redOf id with
    | none => s
    | some r =>
      if r.exact ∨ r.st ≠ .issued ∨ r.revoked.isSome ∨ s.redoHeld r then s
      else
        match s.redTarget r with
        | none => if s.firstStop (some r.cid.core) r.part 0 r.reach = some .denied then s.dropRed r else s
        | some k => ({ s with reds := s.reds.filter (fun x => x.id != id) } : State).reduce { r with loc := k })

/-- PHASE_BOOKKEEPING: a closed phase whose threads have ended gives up its ranges (R295). -/
def execPhaseBookkeeping (id : Nat) (s : State) : Out :=
  .next (if s.phases.any (fun p => p.id == id && !p.isOpen) && s.phaseEnded id then
      { s with phases := s.phases.filter (fun p => p.id != id) }
    else s)

end Sys2Proof.Machine
end

