-- ==== Sys2Proof/Machine/Control.lean ====
section
/-!
DEFINITION. The C slot (spec/09 R236 to R256): branches, the loop sequencer, ending and waiting, containment regions and
checks. One meaning per instruction.
-/
namespace Sys2Proof.Machine

/-- nop: nothing but the bundle's own count in CTM (R256, R92). -/
def execNop (s : State) : Out := .next s

/-! ## Branches (R238, R239) -/

/-- A branch target from a segment distance and an index (R224). -/
def segTarget (pc : Word) (sd : BitVec 56) (ix : BitVec 8) : Word := (pc.extractLsb' 8 56 + sd ++ ix : BitVec 64)
/-- A 48-bit bundle address sign-extended (R224). -/
def target48 (a : BitVec 48) : Word := a.signExtend 64

/-- The two delay slots of the bundle in the environment (R104). -/
def State.delaySlots (s : State) : Word × Word :=
  let a := (s.succ s.env.cid s.env.pc).1
  (a, (s.succ s.env.cid a).1)

/-- One of the delay slots is the last bundle of an active body (R105). -/
def State.delayHitsLast (s : State) : Bool :=
  let d := s.delaySlots
  s.cx.loops.toList.any (fun l => l.endsAt d.1 || l.endsAt d.2)

/-- A taken branch breaks the rules of the loop sequencer: its target leaves the innermost body, or a delay slot holds
a body's last bundle (R105, R109). -/
def State.branchBreaksLoop (s : State) (target : Word) : Bool :=
  match s.cx.innermost with
  | none => false
  | some l => !(l.holds target) || s.delayHitsLast

/-- A call or ret while a level is active (R109). -/
def State.levelActive (s : State) : Bool := s.cx.innermost.isSome

/-- The C slot's decision, compared across a coach (R103). -/
def State.outcomeIs (s : State) (w : Word) : State := { s with env := { s.env with outcome := w } }

/-- A branch is taken: two delay slots, then the target (R104). -/
def State.branchTo (s : State) (target : Word) : State :=
  s.mapCx (fun x => { x with flow := { x.flow with dsl := 2, dst := target } })

/-- A taken transfer: the branch, with its trace record (R104, R511). -/
def State.transfer (s : State) (target : Word) : State :=
  (s.branchTo target).trace s.env.cid 2 s.env.ctm target 0

/-- A branch is not taken: no branch may stand in the next two bundles (R104). -/
def State.notTaken (s : State) : State := s.mapCx (fun x => { x with flow := { x.flow with shadowSlots := 2 } })

/-- The trap LOOPE (R105, R109). -/
def loope : IssueTrap := ⟨.loope, 0, 0⟩

/-- A check that raises a trap when it fails. -/
def checkThat (ok : Bool) (t : IssueTrap) : Except IssueTrap (List Touch) := if ok then .ok [] else .error t

/-- br (R238). -/
def execBr (a : SReg) (z : Bool) (sd : BitVec 9) (ix : BitVec 8) (s : State) : Out :=
  let taken := if z then s.rs a == 0 else s.rs a != 0
  let target := segTarget s.env.pc (sd.signExtend 56) ix
  .next ((s.outcomeIs (if taken then 1 else 0)).operate ⟨.br a z sd ix, [.s a], [], [], false, 0⟩
    (checkThat (!(taken && s.branchBreaksLoop target)) loope)
    (fun _ t => if taken then t.transfer target else t.notTaken))

/-- jmp (R238). -/
def execJmp (sd : BitVec 16) (ix : BitVec 8) (s : State) : Out :=
  let target := segTarget s.env.pc (sd.signExtend 56) ix
  .next (s.operate ⟨.jmp sd ix, [], [], [], false, 0⟩ (checkThat (!s.branchBreaksLoop target) loope)
    (fun _ t => t.transfer target))

/-- jmpr (R238). -/
def execJmpr (a : SReg) (s : State) : Out :=
  let target := s.rs a
  .next ((s.outcomeIs target).operate ⟨.jmpr a, [.s a], [], [], false, 0⟩ (checkThat (!s.branchBreaksLoop target) loope)
    (fun _ t => t.transfer target))

/-- call: as jmp, with lk := Succ(Succ(Succ(A))) due at t + 1 (R238, R239). -/
def execCall (sd : BitVec 16) (ix : BitVec 8) (s : State) : Out :=
  let target := segTarget s.env.pc (sd.signExtend 56) ix
  let back := (s.succ s.env.cid s.delaySlots.2).1
  .next (s.operate ⟨.call sd ix, [], [], [(.s 63, 1)], false, 0⟩ (checkThat (!s.levelActive) loope)
    (fun _ t => (t.transfer target).deliverS 1 63 back))

/-- The members of a coach that have taken a ret follow their lead to a target (R103). -/
def State.retFollows (s : State) (target : Word) : State :=
  (s.members s.env.cid).foldl (fun u d => u.mapCtx d (fun x =>
    if x.flow.dsl = 2 then { x with flow := { x.flow with dst := target } } else x)) s

/-- ret: to lk, which may be pending (R238, R239). In a coach every member follows the lead's lk (R103). -/
def execRet (s : State) : Out :=
  .next (s.operate ⟨.ret, [], [.s 63], [], false, 0⟩ (checkThat (!s.levelActive) loope)
    (fun _ t =>
      let lead := t.leadOf t.env.cid
      if lead = t.env.cid then (t.transfer (t.rs 63)).retFollows (t.rs 63)
      else t.transfer (if (t.ctx lead).flow.dsl = 2 then (t.ctx lead).flow.dst else t.rs 63)))

/-- jmpl (R238). -/
def execJmpl (addr : BitVec 48) (s : State) : Out :=
  let target := target48 addr
  .next (s.operate ⟨.jmpl addr, [], [], [], false, 0⟩ (checkThat (!s.branchBreaksLoop target) loope)
    (fun _ t => t.transfer target))

/-! ## The loop sequencer (R241 to R244) -/

/-- The level that a loop starts: its body begins at the successor of the bundle in the environment, as far as it can be
located now (R105, R113). -/
def State.loopLevel (s : State) (nm : BitVec 12) (count : BitVec 32) : Loop :=
  let sc := s.succ s.env.cid s.env.pc
  let l : Loop :=
    { active := true, lc := count, start := sc.1, last := 0, after := sc.1, afterEnd := sc.2, body := [], rest := nm.toNat + 1,
      onward := sc.1, first := true, strides := [], opened := s.env.ctm }
  if sc.2 then l else s.locate s.env.cid l

/-- The conditions of R105 on starting a level: an enclosing body has to hold the whole of the new one. -/
def State.loopOk (s : State) (lv : BitVec 3) (nm : BitVec 12) : Bool :=
  let x := s.cx
  let sc := s.succ s.env.cid s.env.pc
  !(x.level? lv).active && !(x.activeLevels.any (fun n => decide (n < lv.toNat))) && x.flow.dsl == 0 &&
  x.activeLevels.all (fun n => decide (nm.toNat + 1 ≤ (x.loops.toList[n]?.getD Loop.idle).left sc.1))

/-- A level started with a count. A count of 0 goes on after the body, where the iteration of a body around it ends if it ends
with this one; a body that cannot be located goes on where it cannot: at the fault of the segment there, or past the end of the
chain (R106, R113, R114). -/
def State.startLoop (s : State) (lv : BitVec 3) (nm : BitVec 12) (count : BitVec 32) : State :=
  let l := s.loopLevel nm count
  if count = 0 then
    let past : Word × Bool × Option Word :=
      if l.rest = 0 then (l.after, l.afterEnd, some l.last) else (l.onward, l.afterEnd, none)
    { s with env := { s.env with skip := some past } }
  else s.mapCx (fun x => x.mapLoop lv.toNat (fun _ => l))

/-- loop (R241): the count in a register, at most 2^32 - 1. -/
def execLoop (lv : BitVec 3) (a : SReg) (nm : BitVec 12) (s : State) : Out :=
  let count := s.rs a
  .next ((s.outcomeIs count).operate ⟨.loop lv a nm, [.s a], [], [], false, 0⟩
    (checkThat (decide (count.toNat < 2 ^ 32) && s.loopOk lv nm) loope)
    (fun _ t => t.startLoop lv nm (count.setWidth 32)))

/-- loopi (R241). -/
def execLoopi (lv : BitVec 3) (nm : BitVec 12) (cnt : BitVec 16) (s : State) : Out :=
  .next (s.operate ⟨.loopi lv nm cnt, [], [], [], false, 0⟩ (checkThat (s.loopOk lv nm) loope)
    (fun _ t => t.startLoop lv nm (cnt.setWidth 32)))

/-- lbrk: a taken branch to the bundle after the body of the level, which ends after the delay slots (R109, R242); where the
body around it ends there too, see `Ctx.breakLevels` (notes/assumptions/48.md). -/
def execLbrk (lv : BitVec 3) (s : State) : Out :=
  let l := s.cx.level? lv
  .next (s.operate ⟨.lbrk lv, [], [], [], false, 0⟩ (checkThat l.active loope)
    (fun _ t => (t.transfer l.after).mapCx (fun x => { x with flow := { x.flow with breaking := some lv } })))

/-- The bindings of a level with a target bound to a step, in place of an older step of the same target (R243). -/
def bindStride (l : List (SReg × Word)) (t : SReg) (step : Word) : List (SReg × Word) :=
  if l.any (fun p => p.1 == t) then l.map (fun p => if p.1 = t then (t, step) else p) else l ++ [(t, step)]

/-- The step that a level adds to a target now; 0 for a target that it does not bind (R107, R243). -/
def Loop.stepOf (l : Loop) (t : SReg) : Word := ((l.strides.find? (fun p => p.1 == t)).map (·.2)).getD 0

/-- lstr (R107, R243). A step register that is pending makes it slip; the end of the level's iteration that it stands in,
which the levels inside it must have reached too, is taken with the older binding, and what the new step adds to that is made
up for when it arrives. An lstr that expires has changed nothing (R120). The mark of such an iteration end is a touch of no
bytes. -/
def execLstr (lv : BitVec 3) (target step : SReg) (s : State) : Out :=
  let l := s.cx.level? lv
  let isBound := l.strides.any (fun p => p.1 == target)
  let ok := l.active && decide (target ≠ 0) && (isBound || decide (l.strides.length < 4))
  let ends := s.cx.flow.dsl == 0 && l.endsAt s.env.pc &&
    s.cx.activeLevels.all (fun n => decide (lv.toNat ≤ n) || decide ((s.cx.loops.toList[n]?.getD Loop.idle).lc.toNat ≤ 1))
  let sh : Shape := ⟨.lstr lv target step, [], [.s step], [], false, l.stepOf target⟩
  .next (s.operate sh (if ok then .ok (if ends then [⟨false, 0, 0⟩] else []) else .error loope)
    (fun tc t =>
      let t1 := match t.view? with
        | some v => if tc = [] then t else t.mapCx (fun x => x.addStride target (t.rs step - v.ctl))
        | none => t
      t1.mapCx (fun x => x.mapLoop lv.toNat (fun k =>
        if k.active then { k with strides := bindStride k.strides target (t.rs step) } else k))))

/-- gate: the slots of this bundle that do not act in this iteration (R108, R218, R244). -/
def execGate (lv : BitVec 3) (fm lm : BitVec 7) (s : State) : Out :=
  let l := s.cx.level? lv
  let off : BitVec 7 := (if l.first then 0 else fm) ||| (if l.lc = 1 then 0 else lm)
  .next (s.operate ⟨.gate lv fm lm, [], [], [], false, 0⟩ (checkThat l.active loope)
    (fun _ t => { t with env := { t.env with off := t.env.off ||| (off ++ 0#1 : BitVec 8) } }))

/-! ## Ending, trapping and waiting (R245 to R250) -/

/-- halt: the task ends after two delay slots, neither of which may be the last bundle of an active body (R90, R105, R245). -/
def execHalt (s : State) : Out :=
  .next (s.operate ⟨.halt, [], [], [], false, 0⟩ (checkThat (!s.delayHitsLast) loope)
    (fun _ t => (t.branchTo 0).mapCx (fun x => { x with flow := { x.flow with halting := true } })))

/-- A boundary trap of the bundle in the environment becomes pending (R445). -/
def State.pend (s : State) (cause : Cause) (sfm : BitVec 8) (det : BitVec 32) : State :=
  s.mapCx (fun x => { x with btraps := addBTrap ⟨x.level, cause, s.env.pc, sfm, det, s.env.ctm⟩ x.btraps })

/-- trap: USER at the boundary after the bundle (R246). -/
def execTrap (imm : BitVec 8) (s : State) : Out :=
  .next (s.compute (.trap imm) [] [] [] false (fun t => t.pend .user 1 (imm.setWidth 32)))

/-- The entries in a context's slip buffers that a tret waits for: those whose accesses come before its read of the frame
(R152, R450). -/
def Ctx.tretBehind (x : Ctx) : List SlipEntry := x.slip.filter (fun e => e.precedes .tret)

/-- tret: the return from a handler (R247, R450); outside a handler it fails with PRIV (R219). It reads its frame in its place
in program order, so it holds its bundle while an older access of the handler waits (R152; notes/assumptions/45.md). -/
def execTret (s : State) : Out :=
  if s.cx.level = 0 then .next (s.raise 1 ⟨.priv, 0, 0⟩)
  else if s.cx.tretBehind ≠ [] then .next (s.blockBehind s.cx.tretBehind)
  else
    let t := s.returnHandler s.env.cid
    .next { t with env := { t.env with redirect := true } }

/-- The ring operand that sleep names in its condition: handle, producer, count (R248). -/
def sleepRing (w : Word) : HReg × Bool × Nat := (w.extractLsb' 48 4, w.getLsbD 47, (w.setWidth 13 : BitVec 13).toNat)

/-- The checks of sleep's ring form (R133, R136, R248). -/
def State.checkSleep (s : State) (w : Word) : Except IssueTrap (List Touch) :=
  if !w.getLsbD 63 then .ok []
  else
    let r := sleepRing w
    if w.extractLsb' 13 34 ≠ 0 ∨ w.extractLsb' 52 11 ≠ 0 then .error ⟨.ill, 0, 0⟩
    else
      match s.ringOf r.1 with
      | none => .error ⟨.ill, 0, 0⟩
      | some (e, k) =>
        if r.2.2 > k.nsl then .error ⟨.ill, 0, 0⟩
        else if !(k.cls.getLsbD 7) then .error ⟨.accv, 0, 0⟩
        else .ok [ringTouch s.myCore e false]

/-- The condition of sleep (R248). -/
def State.sleepCond (s : State) (w : Word) : Bool :=
  if w.getLsbD 63 then
    let r := sleepRing w
    s.ringReady r.1 r.2.1 r.2.2
  else decide ((w.setWidth 63 : BitVec 63).toNat ≤ s.gcc.toNat)

/-- The end of sleep: WST, and the status to its register, which the context's next bundle sees (R119, R248). -/
def State.endSleep (s : State) (d : SReg) (st : WaitSt) : State :=
  (s.deliverS 1 d (BitVec.ofNat 64 st.code)).deliver 1 .wait (ofWord (wstBits st 0 s.env.pos))

/-- sleep (R248). Its ring operand is that of the entry that its handle named at issue; where an rdef of its own bundle defines
that entry anew, the old ring never advances again and the sleep ends at its limit (R152, R277). -/
def execSleep (d a b : SReg) (s : State) : Out :=
  let sh : Shape := ⟨.sleep d a b, [.s a, .s b], [], [(.s d, 1), (.wait, 1), (.none, 1)], false, 0⟩
  .next (s.operate sh (s.checkSleep (s.rs a))
    (fun tc t => t.explicitWait sh tc (t.rs b) none (t.sleepCond (t.rs a))
      (fun u => (if (t.rs a).getLsbD 63 then u.joinRing 1 (sleepRing (t.rs a)).1 else u).endSleep d .ok) (fun u => u.endSleep d .timeout)))

/-- yield: the context becomes the most recently ready one, and the core looks for another; in a coach the core of the lead,
which issues for all members, does (R98, R102, R249). -/
def execYield (s : State) : Out :=
  .next (s.compute .yield [] [] [] false (fun t =>
    if t.leadOf t.env.cid ≠ t.env.cid then t
    else
      let t1 : State := { t with nextId := t.nextId + 1 }
      (t1.mapCx (fun x => { x with readySince := some t.nextId })).mapCore t.myCore (fun k => { k with burst := 1024 })))

/-- The slots that a waitf leaves out: those whose bit of the mask is set and whose flag is clear (R115). -/
def waitfOff (m wfl : BitVec 8) : BitVec 8 := m &&& ~~~ wfl &&& 0xFE

/-- The wait of a waitf: the one in progress, or one begun now under DLW (R115, R118). -/
def State.waitfHold (s : State) (m : BitVec 8) : Hold :=
  s.cx.flow.waiting.getD ⟨s.dtc s.env.cid, s.clampLimit s.env.cid s.cx.ctl.dlw, m⟩

/-- The limit of the wait of a waitf has passed (R118). -/
def State.holdPast (s : State) (w : Hold) : Bool := decide (w.limit.toNat ≤ (s.dtc s.env.cid - w.t0).toNat)

/-- waitf (R115, R250): it commits when the named flags are all set, and clears them; at expiry it commits with the
slots of the missing flags left out; otherwise the bundle waits. With mask 0 it is no wait. -/
def execWaitf (m : BitVec 8) (s : State) : Out :=
  let wfl : BitVec 8 := s.cx.ctl.wfl.setWidth 8
  if m = 0 then .next s
  else if wfl &&& m = m then
    let s1 := s.mapCx (fun x => { x with ctl := { x.ctl with wfl := x.ctl.wfl &&& ~~~ (m.setWidth 64) } })
    let s2 := s1.joinCopies 1 (fun k => match k.cmd.flag with | some b => m.getLsbD b.toNat | none => false)
    .next (s2.endWait s.env.cid (wstBits .ok 0 s.env.pos))
  else if s.cx.flow.expired || s.holdPast (s.waitfHold m) then
    let s1 : State := { s with env := { s.env with off := s.env.off ||| waitfOff m wfl } }
    .next (s1.endWait s.env.cid (wstBits .timeout 0 s.env.pos))
  else
    .next ((s.mapCx (fun x => { x with flow := { x.flow with waiting := some (s.waitfHold m) } })).block Holds.none)

/-! ## Containment and checks (R251 to R255) -/

/-- creg.open: a containment region is pushed; a fifth raises CREGE (R251). -/
def execCregOpen (addr : BitVec 48) (s : State) : Out :=
  .next (s.operate ⟨.cregOpen addr, [], [], [], false, 0⟩ (checkThat (decide (s.cx.cregs.length < 4)) ⟨.crege, 0, 0⟩)
    (fun _ t => t.mapCx (fun x => { x with cregs := ⟨target48 addr, t.env.ctm⟩ :: x.cregs })))

/-- creg.close: the innermost region is popped; none raises CREGE (R251). -/
def execCregClose (s : State) : Out :=
  .next (s.operate ⟨.cregClose, [], [], [], false, 0⟩ (checkThat (decide (s.cx.cregs ≠ [])) ⟨.crege, 0, 0⟩)
    (fun _ t => t.mapCx (fun x => { x with cregs := x.cregs.tail })))

/-- chkerr: CIV is read and the masked bits are cleared as one step; what falls due later is counted in the cleared value
(R253). -/
def execChkerr (d a : SReg) (s : State) : Out :=
  .next (s.operate ⟨.chkerr d a, [], [.s a, .ctl .civ], [(.s d, 1), (.ctl .civ, 1)], false, s.ctlValue .civ⟩ (.ok [])
    (fun _ t =>
      let v := t.ctlRead .civ
      (t.deliverS 1 d v).deliver 1 (.ctl .civ) (ofWord (v &&& ~~~ t.rs a))))

/-- The other slot of a duplicate pair (R15, R216). -/
def otherSlot (p : Pos) : Option Pos :=
  match p with
  | 1 => some 2 | 2 => some 1 | 4 => some 5 | 5 => some 4 | _ => none

/-- One of two values was made by a duplicate of the instruction that made the other: the same instruction in the other slot of
the pair (R216). -/
def isPair (a b : Option Maker) : Bool :=
  match a, b with
  | some x, some y => x.op == y.op && x.dup != y.dup && otherSlot x.pos == some y.pos
  | _, _ => false

/-- A mismatch between the results of a duplicate and of its original counts against the core that holds the pair (R216,
R469). -/
def State.attribute (s : State) (a b : Option Maker) : State :=
  if isPair a b then s.raiseScore .core s.myCore.toNat 64 2 else s

/-- What made a scalar register; s0 holds no result. -/
def Ctx.makerS (x : Ctx) (r : SReg) : Option Maker := if r = 0 then none else x.madeS[r.toNat]'(r.isLt)
/-- What made a vector register. -/
def Ctx.makerV (x : Ctx) (r : VReg) : Option Maker := x.madeV[r.toNat]'(r.isLt)

/-- cmpt: CMPM at the boundary after the bundle when the operands differ (R254). -/
def execCmpt (a b : SReg) (s : State) : Out :=
  .next (s.operateNow ⟨.cmpt a b, [.s a, .s b], [], [], false, 0⟩ (.ok []) (fun t =>
    if t.rs a = t.rs b then t
    else (t.pend .cmpm 1 0).attribute (t.cx.makerS a) (t.cx.makerS b)))

/-- capack: a capacity notice is acknowledged (R255, R474). -/
def execCapack (d a : SReg) (s : State) : Out :=
  .next (s.compute (.capack d a) [] [.s a] [(.s d, 1)] false (fun t =>
    let n : BitVec 32 := (t.rs a).setWidth 32
    let seq : BitVec 32 := t.cx.ctl.capn.setWidth 32
    if n.toNat ≤ seq.toNat then
      (t.mapCx (fun x =>
        let ack := if x.ack.toNat < n.toNat then n else x.ack
        { x with ack := ack, ackSince := if seq.toNat ≤ ack.toNat then none else x.ackSince })).deliverS 1 d 0
    else t.deliverS 1 d 1))

end Sys2Proof.Machine
end

