-- ==== Sys2Proof/Machine/Sync.lean ====
section
/-!
DEFINITION. Full/empty words, barriers, events, fences, exact-mode phases and the digest in the M slot (spec/10 R276,
R287 to R296; spec/06 R163 to R178). One meaning per instruction.
-/
namespace Sys2Proof.Machine

/-! ## Full/empty words (R276) -/

/-- The end of an ldf whose word is full: the word to its register (R276). -/
def State.takeWord (s : State) (d : SReg) (sp : Space) (k : Nat) : State :=
  (s.deliverLoad 6 (.s d) (ofWord (BitVec.ofNat 64 (s.natAt k 8))) (isStatic sp) (s.poisoned k 8)).finishWait .ok 0

/-- ldf: waits for a full word (R276). -/
def execLdf (sp : Space) (d : SReg) (ba : SOpd) (lim : SReg) (s : State) : Out :=
  let sh : Shape := ⟨.ldf sp d ba lim, .s lim :: SOpd.src ba, [], [(.s d, 6), (.wait, 6)], false, 0⟩
  s.memOp sh sp .read (s.rso ba) 8 8 (fun tc t =>
    t.explicitWait sh tc (t.rs lim) none (t.tagFull (keyOf tc)) (fun u => u.takeWord d sp (keyOf tc))
      (fun u => (u.dropDest (.s d)).finishWait .timeout 0))

/-- ldf with empty: the tag becomes empty with the read (R163, R276). The access table and the open phase are asked for a read, the
direction of its data (DESIGN CHOICE, notes/assumptions/55.md). -/
def execLdfEmpty (sp : Space) (d : SReg) (ba : SOpd) (lim : SReg) (s : State) : Out :=
  let sh : Shape := ⟨.ldfEmpty sp d ba lim, .s lim :: SOpd.src ba, [], [(.s d, 6), (.wait, 6)], false, 0⟩
  s.memOp sh sp .read (s.rso ba) 8 8 (fun tc t =>
    t.explicitWait sh tc (t.rs lim) none (t.tagFull (keyOf tc) && !t.testsDue (keyOf tc))
      (fun u => (u.takeWord d sp (keyOf tc)).changeTag (keyOf tc) false)
      (fun u => (u.dropDest (.s d)).finishWait .timeout 0))

/-- ste: waits for an empty word, writes it and sets it full (R163, R276). The access table and the open phase are asked for a write,
the direction of its data (DESIGN CHOICE, notes/assumptions/55.md). -/
def execSte (sp : Space) (a : SReg) (ba : SOpd) (lim : SReg) (s : State) : Out :=
  let sh : Shape := ⟨.ste sp a ba lim, .s lim :: SOpd.src ba, [.s a], [(.wait, 6)], false, 0⟩
  s.memOp sh sp .write (s.rso ba) 8 8 (fun tc t =>
    t.explicitWait sh tc (t.rs lim) none (!t.tagFull (keyOf tc) && !t.testsDue (keyOf tc))
      (fun u => ((u.putNat (keyOf tc) 8 (u.rs a).toNat).changeTag (keyOf tc) true).finishWait .ok 0)
      (fun u => u.finishWait .timeout 0))

/-- fetag, reading a tag (R276). -/
def execFetag (sp : Space) (d : SReg) (ba : SOpd) (s : State) : Out :=
  s.memOp ⟨.fetag sp d ba, SOpd.src ba, [], [(.s d, 6)], false, 0⟩ sp .read (s.rso ba) 8 8 (fun tc t =>
    t.deliverR 6 { Result.base with
      dest := .s d, val := ofWord (if t.tagFull (keyOf tc) then 1 else 0), arrived := isStatic sp })

/-- fetag with set: the tag becomes s[a][0], the data stays (R276). Behind tests of waits that an earlier change has made due, it
stands in the slip buffer. -/
def execFetagSet (sp : Space) (a : SReg) (ba : SOpd) (s : State) : Out :=
  let sh : Shape := ⟨.fetagSet sp a ba, SOpd.src ba, [.s a], [], false, 0⟩
  s.memOp sh sp .write (s.rso ba) 8 8 (fun tc t =>
    if t.testsDue (keyOf tc) then t.slipIn sh [] tc none else t.changeTag (keyOf tc) ((t.rs a).getLsbD 0))

/-! ## Barriers (R289) -/

/-- barinit (R289): s[a] must be 1 to 2^32 - 1. -/
def execBarinit (sp : Space) (d : SReg) (ba : SOpd) (a : SReg) (s : State) : Out :=
  let sh : Shape := ⟨.barinit sp d ba a, .s a :: SOpd.src ba, [], [(.s d, 6)], false, 0⟩
  if s.env.slipped.isNone ∧ s.needs sh.gates = [] ∧ (s.rs a = 0 ∨ (s.rs a).extractLsb' 32 32 ≠ 0) then
    .next (s.raise (slotMask sh.instr s.env.pos.toNat) ⟨.ill, 0, 0⟩)
  else
    s.memOp sh sp .sync (s.rso ba) 16 16 (fun tc t =>
      let k := keyOf tc
      let b := t.barrierAt k
      let buffered := t.reds.any (fun r => r.exact && r.barrier == k && r.st == .buffered)
      if b.res = 0 ∧ b.arr = 0 ∧ b.pby = 0 ∧ buffered = false then
        ((t.putBarrier k { b with tgt := (t.rs a).setWidth 32 }).settleBarrier k).deliverS 6 d 0
      else t.deliverS 6 d 4)

/-- bararr: one arrival; the phase arrived at, or all ones for a malformed object (R287, R289). In an EXACT region the
arrival is held until the landings have accepted the context's reductions (R381). -/
def execBararr (sp : Space) (d : SReg) (ba : SOpd) (s : State) : Out :=
  let sh : Shape := ⟨.bararr sp d ba, SOpd.src ba, [], [(.s d, 6)], false, 0⟩
  s.memOp sh sp .sync (s.rso ba) 16 16 (fun tc t =>
    t.implicitWait sh tc (t.redsAccepted t.env.cid (keyOf tc)) (fun u =>
      let k := keyOf tc
      if (u.barrierAt k).malformed then u.deliverS 6 d (BitVec.allOnes 64)
      else
        let r := u.barrierArrive k
        r.2.deliverS 6 d (r.1.setWidth 64)))

/-- The copies whose barrier tag is an object, and that it accepted for a phase or an earlier one, are joined by the wait for that
phase that returns OK (R141, R161, R164). -/
def State.joinBarrier (s : State) (k : Nat) (q : BitVec 32) : State :=
  s.joinCopies 6 (fun c => c.cmd.barrier == some k && decide ((q - c.bph).toNat < 2 ^ 31))

/-- barwait: until phase s[d] is done (R289). -/
def execBarwait (sp : Space) (d : SReg) (ba : SOpd) (lim : SReg) (s : State) : Out :=
  let sh : Shape := ⟨.barwait sp d ba lim, .s lim :: SOpd.src ba, [.s d], [(.s d, 6), (.wait, 6), (.none, 6)], false, 0⟩
  s.memOp sh sp .sync (s.rso ba) 16 16 (fun tc t =>
    let b := t.barrierAt (keyOf tc)
    t.explicitWait sh tc (t.rs lim) none (b.malformed || b.done ((t.rs d).setWidth 32))
      (fun u => if b.malformed then u.finishStatus d .failed 0 else (u.joinBarrier (keyOf tc) ((u.rs d).setWidth 32)).finishStatus d .ok 0)
      (fun u => u.finishStatus d .timeout 0))

/-- baraw: an arrival, then a wait until its phase is done; at the limit the arrival is withdrawn unless the phase has
completed (R166, R289). -/
def execBaraw (sp : Space) (d : SReg) (ba : SOpd) (lim : SReg) (s : State) : Out :=
  let sh : Shape := ⟨.baraw sp d ba lim, .s lim :: SOpd.src ba, [], [(.s d, 6), (.wait, 6), (.none, 6)], false, 0⟩
  s.memOp sh sp .sync (s.rso ba) 16 16 (fun tc t =>
    let k := keyOf tc
    let w := t.beginWait (t.rs lim) none
    match (t.env.slipped.bind (·.wait)).bind (·.q) with
    | some q =>
      if tc.any (·.away) then t.stall sh tc w
      else if (t.barrierAt k).done q then (t.joinBarrier k q).finishStatus d .ok 0
      else if t.expired then (t.barrierWithdraw k q).finishStatus d .withdrawn 0
      else t.stall sh tc w
    | none =>
      if tc.any (·.away) then
        if t.expired || t.pastLimit w then t.finishStatus d .withdrawn 0 else t.stall sh tc w
      else if (t.barrierAt k).malformed then t.finishStatus d .failed 0
      else if t.expired then t.finishStatus d .withdrawn 0
      else if !t.redsAccepted t.env.cid k then
        if t.pastLimit w then t.finishStatus d .withdrawn 0 else t.stall sh tc w
      else
        let r := t.barrierArrive k
        if (r.2.barrierAt k).done r.1 then (r.2.joinBarrier k r.1).finishStatus d .ok 0
        else if t.pastLimit w then (r.2.barrierWithdraw k r.1).finishStatus d .withdrawn 0
        else r.2.stall sh tc { w with q := some r.1 })

/-! ## Events (R291) -/

/-- The event object at a key. -/
def State.eventAt (s : State) (k : Nat) : EventObj := eventOf (s.bytesAt k 16)

/-- evsig: adds s[a], or 1 when a = 0 (R291). -/
def execEvsig (sp : Space) (ba : SOpd) (a : SReg) (s : State) : Out :=
  s.memOp ⟨.evsig sp ba a, SOpd.src ba, [.s a], [], false, 0⟩ sp .sync (s.rso ba) 16 16 (fun tc t =>
    let e := t.eventAt (keyOf tc)
    if e.malformed then t else (t.putNat (keyOf tc) 8 (e.plus (if a = 0 then 1 else t.rs a)).toNat).wake (keyOf tc))

/-- evwait: until the object is signalled (R291). -/
def execEvwait (sp : Space) (d : SReg) (ba : SOpd) (lim : SReg) (s : State) : Out :=
  let sh : Shape := ⟨.evwait sp d ba lim, .s lim :: SOpd.src ba, [], [(.s d, 6), (.wait, 6), (.none, 6)], false, 0⟩
  s.memOp sh sp .sync (s.rso ba) 16 16 (fun tc t =>
    let e := t.eventAt (keyOf tc)
    t.explicitWait sh tc (t.rs lim) none (e.malformed || e.signalled)
      (fun u =>
        if e.malformed ∨ e.st = 4 then u.finishStatus d .failed 0
        else if e.st = 5 then u.finishStatus d .cancelled 0
        else (u.joinCopies 6 (fun c => c.cmd.event == some (keyOf tc))).finishStatus d .ok 0)
      (fun u => u.finishStatus d .timeout 0))

/-! ## Fences (R170, R171, R292) -/

/-- Every engine thread of a class of R170 that the task in the environment forked before the fence has ended (R171). What
stands before the fence in program order has executed by then (R152). -/
def State.classEnded (s : State) (k : Nat) : Bool :=
  let covers (o : Owner) : Bool := s.cx.runs o.serial && decide (o.ctm.toNat < s.env.ctm.toNat)
  match k with
  | 0 => !s.copies.any (fun x => covers x.toOwner && x.st == .run)
  | 1 => !s.reds.any (fun r => covers r.toOwner && !r.ordered && !(r.exact && r.st == .buffered))
  | 2 => !s.reds.any (fun r => covers r.toOwner && r.ordered && !(r.exact && r.st == .buffered))
  | 3 => !s.sends.any (fun x => covers x.toOwner && x.origin.isNone)
  | 4 => !s.posts.any (fun x => covers x.toOwner && x.st == .run)
  | 5 => !s.conds.any (fun x => covers x.toOwner && x.st == .run)
  | 6 => !s.sigs.any (fun x => covers x.toOwner) && !s.rels.any (fun x => covers x.toOwner)
  | _ => !s.phases.any (fun x => s.cx.runs x.serial && !x.isOpen && decide (x.closed.toNat < s.env.ctm.toNat))

/-- The named classes whose covered threads have all ended, as WST.CLS holds them (R171). -/
def State.fenceCls (s : State) (mask : BitVec 8) : BitVec 8 :=
  (List.range 8).foldl (fun m k => if mask.getLsbD k && s.classEnded k then m ||| (1#8 <<< k) else m) 0

/-- The completed copies are joined by a fence that names or marks DRAY (R36, R171). -/
def State.joinFence (s : State) (cls : BitVec 8) : State :=
  if cls.getLsbD 0 then s.joinCopies 1 (fun _ => true) else s

/-- fence (R292). -/
def execFence (d lim : SReg) (mask : BitVec 8) (s : State) : Out :=
  let sh : Shape := ⟨.fence d lim mask, [.s lim], [], [(.s d, 6), (.wait, 6), (.none, 1)], false, 0⟩
  .next (s.operate sh (.ok []) (fun tc t =>
    let cls := t.fenceCls mask
    t.explicitWait sh tc (t.rs lim) none (cls == mask) (fun u => (u.joinFence mask).finishStatus d .ok 0)
      (fun u => (u.joinFence cls).finishStatus d .partly cls)))

/-! ## Exact-mode phases (R293 to R295) -/

/-- The bytes of a phase record as a number, and a field of it. -/
def recField (r off n : Nat) : Nat := r / 2 ^ (8 * off) % 2 ^ (8 * n)

/-- One declared range as flat keys; none when it breaks R293: LO above HI, misaligned, or not within one window. -/
def State.rangeKeys (s : State) (w : Nat) : Option Range :=
  let lo := w % 2 ^ 32
  let hi := w / 2 ^ 32
  if lo > hi ∨ lo % 8 ≠ 0 ∨ hi % 8 ≠ 7 then none
  else
    let sp : Space := if lo < 0x10000000 then .pm else if lo < 0x20000000 then .peer else .hall
    (s.windowKey sp (BitVec.ofNat 64 lo) (hi - lo + 1)).map (fun k => ⟨k, k + (hi - lo)⟩)

/-- The ranges of a record from an offset, of 8 classes with their counts; none when one breaks R293. -/
def State.recRanges (s : State) (r cnt off : Nat) : Option (List (Nat × Range)) :=
  let all := (List.range 8).flatMap (fun k =>
    (List.range (recField r (cnt + k) 1)).map (fun i => (k, s.rangeKeys (recField r (off + 128 * k + 8 * i) 8))))
  if all.any (fun p => p.2.isNone) then none
  else some (all.filterMap (fun p => p.2.map (fun x => (p.1, x))))

/-- The fixed fields of a phase record obey R293. -/
def recOk (r : Nat) : Bool :=
  (List.range 16).all (fun k => decide (recField r (0x10 + k) 1 ≤ 8)) && decide (recField r 8 1 < 4) &&
  decide (recField r 9 7 = 0) && decide (recField r 0x20 32 = 0) && decide (recField r 0 8 % 16 = 0)

/-- Two ranges share a byte. -/
def Range.meets (a b : Range) : Bool := decide (a.lo ≤ b.hi) && decide (b.lo ≤ a.hi)

/-- The overlaps that R175 forbids, within a record and against the other phases registered in the cluster. -/
def State.overlaps (s : State) (rd wr : List (Nat × Range)) : Bool :=
  wr.any (fun w => (rd ++ wr).any (fun x => x.1 != w.1 && w.2.meets x.2)) ||
  s.phases.any (fun p =>
    p.cluster == s.myCore.cluster &&
    (wr.any (fun w => (p.rd ++ p.wr).any (fun x => w.2.meets x.2)) ||
     (rd ++ wr).any (fun w => p.wr.any (fun x => w.2.meets x.2))))

/-- The checks of a phase record (R293, R294): the barrier's key and the ranges. -/
def State.checkRecord (s : State) (r : Nat) : Except IssueTrap (Nat × List (Nat × Range) × List (Nat × Range)) :=
  if !recOk r then .error ⟨.ill, 0, 0⟩
  else
    match s.recRanges r 0x10 0x40, s.recRanges r 0x18 0x80 with
    | some rd, some wr =>
      if s.cx.phaseNow.isSome then .error ⟨.ill, 0, 0⟩
      else
        match s.checkAccess (Space.ofCode (BitVec.ofNat 2 (recField r 8 1))) .sync 0 1 (BitVec.ofNat 64 (recField r 0 8))
            16 16 with
        | .error t => .error t
        | .ok tc => if s.isExact s.env.cid && s.overlaps rd wr then .error ⟨.detov, 0, 0⟩ else .ok (keyOf tc, rd, wr)
    | _, _ => .error ⟨.ill, 0, 0⟩

/-- phase (R294): the bundle stays unissued until earlier M instructions have been performed, so that the record is
read in program order. -/
def execPhase (sp : Space) (ba : SOpd) (s : State) : Out :=
  let sh : Shape := ⟨.phase sp ba, SOpd.src ba, [], [], false, 0⟩
  let va := s.rso ba
  if s.needs sh.gates ≠ [] then .next (s.blockFor (s.needs sh.gates))
  else if s.frameOut sp va then .next (s.blockAway va)
  else if s.cx.slotSlip s.env.pos ≠ [] ∨ s.conflict sh.instr then
    .next (s.blockBehind (s.cx.slotSlip s.env.pos ++ s.ahead sh.instr))
  else
    match s.checkAccess sp .read 0 1 va 1088 64 with
    | .error t => .next (s.raise (slotMask sh.instr s.env.pos.toNat) t)
    | .ok tc =>
      let s0 := s.accessed .read va (piecesOf tc)
      match s0.checkRecord (leNat (s0.piecesBytes (piecesOf tc))) with
      | .error t => .next (s0.raise (slotMask sh.instr s.env.pos.toNat) t)
      | .ok (bk, rd, wr) =>
        let s1 := s0.noteAccess sp va 1088
        if s.isExact s.env.cid then
          let p : Phase :=
            { id := s1.nextId, cid := s.env.cid, serial := (s.cx.task.map (·.serial)).getD 0, cluster := s.myCore.cluster,
              launch := (s.cx.task.map (·.launch)).getD 0, barrier := bk, rd := rd, wr := wr, isOpen := true, closed := 0 }
          .next (({ s1 with nextId := s1.nextId + 1, phases := s1.phases ++ [p] } : State).mapCx
            (fun x => { x with phase := some p.id, redSeq := 0 }))
        else .next s1

/-- A context's phase closes at a CTM; its ranges stay registered until its threads have ended (R295). -/
def State.closePhase (s : State) (c : CtxId) (ctm : Word) : State :=
  match (s.ctx c).phase with
  | none => s
  | some id =>
    ({ s with phases := s.phases.map (fun p => if p.id = id then { p with isOpen := false, closed := ctm } else p) } : State).mapCtx c
      (fun x => { x with phase := none })

/-- phend (R295). -/
def execPhend (s : State) : Out :=
  .next (s.operate ⟨.phend, [], [], [], false, 0⟩ (checkThat s.cx.phaseNow.isSome ⟨.ill, 0, 0⟩)
    (fun _ t => t.closePhase t.env.cid t.env.ctm))

/-! ## The digest (R296) -/

/-- Eight steps of the digest polynomial. -/
def dgaBits : Nat → Word → Word
  | 0, w => w
  | n + 1, w => dgaBits n (if w.getLsbD 63 then (w <<< 1) ^^^ 0x42F0E1EBA9EA3693#64 else w <<< 1)
/-- Bytes folded into DGA (R296). -/
def dgaFold (w : Word) (bs : List Byte) : Word :=
  bs.foldl (fun a b => dgaBits 8 (a ^^^ ((b.setWidth 64 : Word) <<< 56))) w

/-- dgst: a 64-bit store, and the address and value folded into DGA at issue (R296). -/
def execDgst (sp : Space) (ba : SOpd) (a : SReg) (s : State) : Out :=
  let va := s.rso ba
  let sh : Shape := ⟨.dgst sp ba a, .s a :: SOpd.src ba, [], [], false, 0⟩
  let dga := dgaFold s.cx.ctl.dga (leBytes 8 va.toNat ++ leBytes 8 (s.rs a).toNat)
  match s.memOp sh sp .write va 8 8 (fun tc t => t.storeAt va tc (leBytes 8 (t.rs a).toNat)) with
  | .next t =>
    if s.env.slipped.isSome ∨ t.env.block ∨ t.env.raised.isSome then .next t
    else .next (t.deliver 1 (.ctl .dga) (ofWord dga))
  | o => o

end Sys2Proof.Machine
end

