-- ==== Sys2Proof/Machine/Pantry.lean ====
section
/-!
DEFINITION. Affine tensors and the pantry (spec/03 R53 to R57, R77 to R82; spec/12 R339 to R343): sym.new, sym.sig,
sym.qry and sym.rel, with the events SIGNIFICANCE_CONTRIBUTION and REFERENCE_UPDATE.
-/
namespace Sys2Proof.Machine

/-! ## Descriptors and slab lists (R53 to R57) -/

/-- An affine tensor descriptor as read (R53). -/
structure Atd where
  dims : List Nat
  caddr : Word
  raddr : Word
  sladdr : Word
  k : Nat
  kmax : Nat
  group : BitVec 16
  et : Byte
  gfmt : Nat
  flags : BitVec 32
  slcap : Nat
  nslab : Nat
  tailZero : Bool
deriving DecidableEq, Repr

/-- A slab-list entry (R55) with the live map of a diagonal one (R340), bit e for symbol base + e. -/
structure Slab where
  saddr : Word
  sym : BitVec 32
  diag : Bool
  live : Nat
  resZero : Bool
  map : Nat
deriving DecidableEq, Repr

/-- A tensor: its descriptor's address, descriptor and list. -/
structure Tensor where
  va : Word
  atd : Atd
  slabs : List Slab
deriving DecidableEq, Repr

/-- A field of little-endian bytes. -/
def fieldOf (bs : List Byte) (off n : Nat) : Nat := leNat ((bs.drop off).take n)

/-- A descriptor in 64 bytes (R53). -/
def atdOf (bs : List Byte) : Atd where
  dims := [fieldOf bs 0 2, fieldOf bs 2 2, fieldOf bs 4 2, fieldOf bs 6 2]
  caddr := BitVec.ofNat 64 (fieldOf bs 0x08 8)
  raddr := BitVec.ofNat 64 (fieldOf bs 0x10 8)
  sladdr := BitVec.ofNat 64 (fieldOf bs 0x18 8)
  k := fieldOf bs 0x20 4
  kmax := fieldOf bs 0x24 4
  group := BitVec.ofNat 16 (fieldOf bs 0x28 2)
  et := BitVec.ofNat 8 (fieldOf bs 0x2A 1)
  gfmt := fieldOf bs 0x2B 1
  flags := BitVec.ofNat 32 (fieldOf bs 0x2C 4)
  slcap := fieldOf bs 0x30 4
  nslab := fieldOf bs 0x34 4
  tailZero := decide (fieldOf bs 0x38 8 = 0)

/-- N of R54. -/
def Atd.n (a : Atd) : Nat := a.dims.foldl (· * ·) 1
/-- Bytes of a generator element (R53, R340). -/
def Atd.esize (a : Atd) : Nat := if a.gfmt = 1 then 2 else 4

/-- A slab-list entry in 16 bytes, its live map not read yet (R55). -/
def slabOf (bs : List Byte) : Slab :=
  let w := fieldOf bs 0xC 4
  ⟨BitVec.ofNat 64 (fieldOf bs 0 8), BitVec.ofNat 32 (fieldOf bs 8 4), decide (w % 2 = 1), w / 64,
   decide (w / 2 % 32 = 0), 0⟩

/-- The 16 bytes of an entry (R55). -/
def Slab.bytes (b : Slab) : List Byte :=
  leBytes 8 b.saddr.toNat ++ leBytes 4 b.sym.toNat ++ leBytes 4 ((if b.diag then 1 else 0) + 64 * b.live)

/-- The address of a diagonal slab's live map (R340). -/
def liveMapAddr (saddr : Word) (n esize : Nat) : Word := saddr + BitVec.ofNat 64 (8 * ((n * esize + 7) / 8))
/-- The bytes of a live map (R340). -/
def liveMapLen (n : Nat) : Nat := 8 * ((n + 63) / 64)

/-- The statuses of R57. -/
inductive AtdSt
  | ok | atdr | order | count | symf
deriving DecidableEq, Repr

/-- The list with its live maps, read through a reader of global bytes; none where it fails. -/
def readSlabs (rd : Word → Nat → Option (List Byte)) (a : Atd) : Nat → Word → Option (List Slab)
  | 0, _ => some []
  | k + 1, va =>
    match rd va 16 with
    | none => none
    | some bs =>
      let b := slabOf bs
      let m := if b.diag then rd (liveMapAddr b.saddr a.n a.esize) (liveMapLen a.n) else some []
      match m, readSlabs rd a k (va + 16) with
      | some mb, some l => some ({ b with map := leNat mb % 2 ^ a.n } :: l)
      | _, _ => none

/-- The descriptor obeys R53 and R54 (ATDR of R57). -/
def Atd.ok (a : Atd) (va : Word) : Bool :=
  decide (va.toNat % 64 = 0) && decide (a.gfmt ≤ 1) && decide (a.flags.toNat < 16) && a.tailZero &&
  a.dims.all (fun d => decide (d ≠ 0)) && decide (a.n ≤ 2 ^ 26) && decide (a.kmax ≠ 0) &&
  decide (a.caddr.toNat % 4 = 0) && decide (a.raddr.toNat % 4 = 0) && decide (a.sladdr.toNat % 16 = 0)

/-- A tensor read through a reader of global bytes; with a broken descriptor its list is not read. -/
def readTensor (rd : Word → Nat → Option (List Byte)) (va : Word) : Option Tensor :=
  match rd va 64 with
  | none => none
  | some bs =>
    let a := atdOf bs
    if a.ok va && decide (a.nslab ≤ a.slcap) then (readSlabs rd a a.nslab a.sladdr).map (fun l => ⟨va, a, l⟩)
    else some ⟨va, a, []⟩

/-- The last symbol that an entry names. -/
def Slab.last (b : Slab) (n : Nat) : Nat := b.sym.toNat + if b.diag then n - 1 else 0

/-- The list is strictly ascending without overlaps and no diagonal entry passes its chip's serials (ORDER of R57). -/
def slabsOrdered (n : Nat) : List Slab → Bool
  | [] => true
  | b :: l =>
    decide (b.sym.toNat % 2 ^ 26 + (if b.diag then n - 1 else 0) < 2 ^ 26) &&
    (match l with
     | c :: _ => decide (b.last n < c.sym.toNat)
     | [] => true) && slabsOrdered n l

/-- The counts of R56 (COUNT of R57). -/
def Tensor.counts (t : Tensor) : Bool :=
  decide (t.atd.k = (t.slabs.map (·.live)).sum) && decide (t.atd.nslab ≤ t.atd.slcap) &&
  t.slabs.all (fun b => decide (1 ≤ b.live) && decide (b.live ≤ if b.diag then t.atd.n else 1))

/-- The symbols that an entry holds live in the tensor: its own, or those whose live-map bit is set. -/
def Slab.symbols (b : Slab) (n : Nat) : List (BitVec 32) :=
  if b.diag then ((List.range n).filter (fun e => b.map.testBit e)).map (fun e => b.sym + BitVec.ofNat 32 e) else [b.sym]

/-! ## Entries (R77, R78) -/

/-- The job of a region: the RCB of level 2 on its chain, the child of its partition's RCB, at its virtual address in the
partition (R406, R407). -/
def Rgn.job (r : Rgn) : Nat :=
  2 ^ 64 * r.part.toNat +
    match r.chain.reverse[2]? with
    | some l => l.rcb.toNat
    | none => r.rcb.toNat

/-- The job of the region of a number. -/
def State.jobOf (s : State) (region : Nat) : Nat :=
  match s.rgnOf region with
  | some r => r.job
  | none => 0

/-- An entry of a job. -/
def State.symOf (s : State) (job : Nat) (id : BitVec 32) : Option Sym := s.syms.find? (fun e => e.job == job && e.id == id)
/-- The state of a code of R78. -/
def SymSt.ofCode : BitVec 2 → SymSt
  | 0 => .free | 1 => .live | _ => .condensing

/-- An entry of another chip's pantry from its 256 bits: one that its chip never issued to the job is none (R78). -/
def symAbroad (job : Nat) (id : BitVec 32) (w : BitVec 256) : Option Sym :=
  if w = 0 then none
  else
    some ⟨id, job, 0, w.extractLsb' 32 16, w.extractLsb' 48 16, w.extractLsb' 64 64, w.extractLsb' 128 8,
      SymSt.ofCode (w.extractLsb' 136 2)⟩

/-- The entry of a symbol in the pantry of its chip: this one's, or that of another chip of the job, which this machine does not
hold and which is a free value (R57, R77, R87, R342; notes/assumptions/51.md). -/
def State.symSeen (s : State) (job : Nat) (id : BitVec 32) : Option Sym :=
  let chip : BitVec 6 := id.extractLsb' 26 6
  if chip = s.chip then s.symOf job id
  else if chip.toNat < s.chips then symAbroad job id (Config.pantryAbroad s.gcc.toNat job id)
  else none

/-- A symbol is live in its chip's pantry (R57, R78, R81). -/
def State.symAlive (s : State) (job : Nat) (id : BitVec 32) : Bool :=
  match s.symSeen job id with
  | some e => e.st != .free
  | none => false
/-- A cond of an entry's job has chosen its symbol and has not ended (R78, R83). -/
def State.condensing (s : State) (e : Sym) : Bool :=
  s.conds.any (fun k => k.st == .run && s.jobOf k.region == e.job &&
    (match k.work with
     | some w => w.1.contains e.id
     | none => false))
/-- An entry changed. -/
def State.mapSym (s : State) (job : Nat) (id : BitVec 32) (f : Sym → Sym) : State :=
  { s with syms := s.syms.map (fun e => if e.job = job ∧ e.id = id then f e else e) }

/-- The status of a tensor under R57, in the order of its table. -/
def State.tensorStatus (s : State) (job : Nat) (t : Tensor) : AtdSt :=
  if !t.atd.ok t.va || t.slabs.any (fun b => !b.resZero || decide (b.saddr.toNat % t.atd.esize ≠ 0)) then .atdr
  else if !slabsOrdered t.atd.n t.slabs then .order
  else if !t.counts then .count
  else if t.slabs.all (fun b => (b.symbols t.atd.n).all (s.symAlive job)) then .ok
  else .symf

/-- The next serial of a job (R77). -/
def State.nextSerial (s : State) (job : Nat) : Nat :=
  match s.symSerial.find? (fun p => p.1 == job) with
  | some p => p.2
  | none => 1

/-- One reference released; the last frees the entry (R80). -/
def Sym.release (e : Sym) : Sym :=
  if e.refs.toNat ≤ 1 then { e with refs := 0, st := .free } else { e with refs := e.refs - 1 }

/-- The live entries of this package (R81). -/
def State.symCount (s : State) : Nat :=
  (s.syms.filter (fun e => e.st != .free && e.id.extractLsb' 26 6 == s.chip)).length

/-- The symbols that the regions below the RCB of a level hold (R81, R409). -/
def State.symsBelow (s : State) (l : Level) : Nat :=
  (s.syms.filter (fun e => e.st != .free &&
    (match s.rgnOf e.region with
     | some r => r.chain.any l.same
     | none => false))).length

/-- n more symbols keep every budget of a region's chain (R81, R409). -/
def State.symBudget (s : State) (region n : Nat) : Bool :=
  match s.rgnOf region with
  | some r => r.chain.all (fun l => decide (s.symsBelow l + n ≤ l.symb.toNat))
  | none => true

/-! ## Issue of a pantry command (R339) -/

/-- A check of a pantry command: the trap unless it holds. -/
def orTrap {α : Type} (ok : Bool) (t : IssueTrap) (k : Except IssueTrap α) : Except IssueTrap α :=
  if ok then k else .error t

/-- SYMX with a reason of R81. -/
def symx (reason : BitVec 32) : IssueTrap := ⟨.symx, reason, 0⟩

/-- The pieces of a global range that the pantry reads for the task in the environment. -/
def State.pantryPieces (s : State) (va : Word) (n : Nat) : Option (List Piece) :=
  if n = 0 then some [] else s.globalPieces (s.ctxPart s.env.cid) 3 .read va n

/-- The pantry reads a global range for the task in the environment. -/
def State.pantryRead (s : State) (va : Word) (n : Nat) : Option (List Byte) := (s.pantryPieces va n).map s.piecesBytes

/-- The storage of a tensor that the pantry reads: descriptor, list and live maps (R53, R55, R340). -/
def State.tensorPieces (s : State) (t : Tensor) : List Piece :=
  let at' (va : Word) (n : Nat) : List Piece := (s.pantryPieces va n).getD []
  at' t.va 64 ++ (if t.slabs = [] then [] else at' t.atd.sladdr (16 * t.atd.nslab)) ++
    t.slabs.flatMap (fun b => if b.diag then at' (liveMapAddr b.saddr t.atd.n t.atd.esize) (liveMapLen t.atd.n) else [])

/-- The errors that the pantry finds in a tensor that it reads (R148). -/
def State.tensorErrors (s : State) (t : Tensor) : State := s.readErrors (s.readerAt s.env.cid t.va) (s.tensorPieces t)

/-- A global range that the pantry touches: the trap of its first failing check, if any. -/
def State.pantryReach (s : State) (a : Access) (va : Word) (n align : Nat) : Option IssueTrap :=
  if n = 0 then none
  else
    match s.checkAccess .glob a 3 1 va n align with
    | .error t => some t
    | .ok _ => none

/-- The pantry's access table lets the task in the environment give it a command: W for one that changes entries, R for a query
(R486, R487). The request comes from the core; its table is asked before the pantry does anything
(notes/assumptions/51.md). -/
def State.pantryAdmits (s : State) (a : Access) : Bool :=
  s.permitsKey .pantry (masterOf (s.ctxPart s.env.cid) 0) a 0

/-- The first trap of a list of reaches. -/
def firstTrap (l : List (Option IssueTrap)) : Option IssueTrap := l.findSome? id

/-! ## sym.new (R340) -/

/-- The result word of sym.new (R340). -/
def symNewWord (base : BitVec 32) (st : BitVec 3) (exc : Nat) : Word :=
  (BitVec.ofNat 28 (min exc (2 ^ 28 - 1)) ++ 0#1 ++ st ++ base : BitVec 64)

/-- The code of a status in sym.new (R340). -/
def AtdSt.newCode : AtdSt → BitVec 3
  | .ok => 0 | .atdr => 2 | .order => 3 | .count => 4 | .symf => 5

/-- A slab inserted in ascending order of its symbol (R340). -/
def insertSlab (b : Slab) : List Slab → List Slab
  | [] => [b]
  | c :: l => if b.sym.toNat < c.sym.toNat then b :: c :: l else c :: insertSlab b l

/-- What the mint of a slab writes: the list with its entry, K, NSLAB, and the live map (R340). -/
def mintWrites (t : Tensor) (slab : Word) (base : BitVec 32) : List (Word × List Byte) :=
  let n := t.atd.n
  [(t.atd.sladdr, (insertSlab ⟨slab, base, true, n, true, 0⟩ t.slabs).flatMap Slab.bytes),
   (t.va + 0x20, leBytes 4 (t.atd.k + n)), (t.va + 0x34, leBytes 4 (t.atd.nslab + 1)),
   (liveMapAddr slab n t.atd.esize, leBytes (liveMapLen n) (2 ^ n - 1))]

/-- The first id of the next mint of a job on this chip (R77). -/
def State.nextBase (s : State) (job : Nat) : BitVec 32 := (s.chip ++ BitVec.ofNat 26 (s.nextSerial job) : BitVec 32)

/-- The entries of a mint (R77, R340). -/
def mintEntries (t : Tensor) (job region : Nat) (base : BitVec 32) : List Sym :=
  (List.range t.atd.n).map (fun e => ⟨base + BitVec.ofNat 32 e, job, region, t.atd.group, 1, 0, t.atd.et, .live⟩)

/-- The result of a mint (R340). -/
def mintResult (t : Tensor) (base : BitVec 32) : Word :=
  let k := t.atd.k + t.atd.n
  if t.atd.kmax < k then symNewWord base 1 (k - t.atd.kmax) else symNewWord base 0 0

/-- Steps 2 to 4 of R340 for the task in the environment. -/
def State.mint (s : State) (d : SReg) (job region : Nat) (t : Tensor) (slab : Word) : State :=
  let base := s.nextBase job
  let s1 : State :=
    { s with
      syms := s.syms ++ mintEntries t job region base,
      symSerial := (job, s.nextSerial job + t.atd.n) :: s.symSerial.filter (fun p => p.1 != job) }
  (s1.globalPutAll (s.ctxPart s.env.cid) 3 (mintWrites t slab base)).deliverS 6 d (mintResult t base)

/-- The trap of a tensor that cannot be read: its list, then the live maps of its diagonal entries (R339). -/
def State.tensorTrap (s : State) (a : Atd) : Option IssueTrap :=
  firstTrap (s.pantryReach .read a.sladdr (16 * a.nslab) 16 ::
    (List.range a.nslab).map (fun i =>
      match s.pantryRead (a.sladdr + BitVec.ofNat 64 (16 * i)) 16 with
      | some bs =>
        let b := slabOf bs
        if b.diag then s.pantryReach .read (liveMapAddr b.saddr a.n a.esize) (liveMapLen a.n) 1 else none
      | none => none))

/-- What the pantry does for a sym.new that it has taken: its statuses, its traps, or the mint (R81, R82, R340). The limits are asked in the order of their reasons;
R77's serial that passes the last one has the first reason that applies (R81; notes/assumptions/51.md). -/
def State.symNewAnswer (s : State) (d : SReg) (va slab : Word) : Except IssueTrap (State → State) :=
  let region := s.myRegion
  let job := s.jobOf region
  let answer (t : Tensor) (st : BitVec 3) : State → State := fun u => (u.tensorErrors t).deliverS 6 d (symNewWord 0 st 0)
  match firstTrap [s.pantryReach .read va 64 64, s.pantryReach .write va 64 64] with
  | some t => .error t
  | none =>
    match readTensor s.pantryRead va with
    | none => .error ((s.tensorTrap (atdOf ((s.pantryRead va 64).getD []))).getD ⟨.pflt, 0, va⟩)
    | some t =>
      let n := t.atd.n
      match s.tensorStatus job t with
      | .ok =>
        if t.atd.nslab = t.atd.slcap then .ok (answer t 6)
        else
          match firstTrap [
              if slab.toNat % t.atd.esize = 0 then none else some ⟨.align, 0, slab⟩,
              s.pantryReach .write t.atd.sladdr (16 * (t.atd.nslab + 1)) 16,
              s.pantryReach .write (liveMapAddr slab n t.atd.esize) (liveMapLen n) 1] with
          | some x => .error x
          | none =>
            orTrap (decide (s.symCount + n ≤ 1048576)) (symx 0)
              (orTrap (s.symBudget region n) (symx 1)
                (orTrap (decide (s.nextSerial job + n ≤ 2 ^ 26)) (symx 2)
                  (.ok (fun u => (u.tensorErrors t).mint d job region t slab))))
      | st => .ok (answer t st.newCode)

/-- A sym.new: the pantry's table, then its answer (R339, R340, R486). -/
def State.symNewCheck (s : State) (d : SReg) (va slab : Word) : Except IssueTrap (State → State) :=
  orTrap (s.pantryAdmits .write) ⟨.accv, 0, 0⟩ (s.symNewAnswer d va slab)

/-- sym.new (R340). -/
def execSymNew (d a b : SReg) (s : State) : Out :=
  .next (s.issueOrBlock (.symNew d a b) [.s a, .s b] (s.symNewCheck d (s.rs a) (s.rs b)))

/-! ## sym.sig, sym.qry and sym.rel (R341 to R343) -/

/-- The ids of a range. -/
def idRange (first : BitVec 32) (n : Nat) : List (BitVec 32) := (List.range n).map (fun k => first + BitVec.ofNat 32 k)
/-- A range of ids stays on one chip (R81). -/
def oneChip (first : BitVec 32) (n : Nat) : Bool := decide (first.toNat % 2 ^ 26 + n ≤ 2 ^ 26)

/-- An entry of the group g has another exponent (R81). -/
def State.etDiffers (s : State) (job : Nat) (g : BitVec 16) (et : Byte) (id : BitVec 32) : Bool :=
  match s.symSeen job id with
  | some e => e.group == g && e.et != et
  | none => false

/-- sym.sig (R341): a free entry, or one of another job, is found before one of the group with another exponent (R81;
notes/assumptions/51.md). -/
def execSymSig (a b c : SReg) (s : State) : Out :=
  let first : BitVec 32 := (s.rs a).setWidth 32
  let w := s.rs c
  let n := (w.extractLsb' 32 26).toNat + 1
  let g : BitVec 16 := w.extractLsb' 0 16
  let et : Byte := w.extractLsb' 16 8
  let job := s.jobOf s.myRegion
  let ids := idRange first n
  let act (u : State) : State :=
    { u with
      nextId := u.nextId + 1,
      sigs := u.sigs ++ [{ u.owner with
        id := u.nextId, job := job, first := first, src := (u.rs b).toNat, n := n, group := g, et := et }] }
  .next (s.issueOrBlock (.symSig a b c) [.s a, .s b, .s c]
    (orTrap (w.extractLsb' 24 8 == 0 && w.extractLsb' 58 6 == 0) ⟨.ill, 0, 0⟩
      (match s.checkAccess .pm .read 3 1 (s.rs b) (4 * n) 4 with
       | .error t => .error t
       | .ok _ =>
         orTrap (s.pantryAdmits .write) ⟨.accv, 0, 0⟩
           (orTrap (oneChip first n) (symx 6)
             (orTrap (ids.all (s.symAlive job)) (symx 3)
               (orTrap (!ids.any (s.etDiffers job g et)) (symx 4) (.ok act)))))))

/-- The code of a state (R78). -/
def SymSt.code : SymSt → BitVec 2
  | .free => 0 | .live => 1 | .condensing => 2

/-- Word w of an entry (R78, R342). -/
def Sym.word (e : Sym) (w : Word) : Word :=
  if w = 0 then (e.refs ++ e.group ++ e.id : BitVec 64)
  else if w = 1 then e.sig
  else if w = 2 then (e.st.code ++ e.et : BitVec 10).setWidth 64
  else 0

/-- An entry as it is reported: STATE 2 while a cond condenses it (R78, R342; notes/assumptions/51.md). -/
def State.symShown (s : State) (e : Sym) : Sym := if e.st ≠ .free ∧ s.condensing e then { e with st := .condensing } else e

/-- sym.qry (R342): 0 for an id of another job or a serial never issued. -/
def execSymQry (d a b : SReg) (s : State) : Out :=
  let w := s.rs b
  .next (s.issueOrBlock (.symQry d a b) [.s a, .s b]
    (orTrap (decide (w.toNat ≤ 3)) ⟨.ill, 0, 0⟩
      (orTrap (s.pantryAdmits .read) ⟨.accv, 0, 0⟩
        (.ok (fun u => u.deliverS 6 d
          (match u.symSeen (u.jobOf u.myRegion) ((u.rs a).setWidth 32) with
           | some e => (u.symShown e).word w
           | none => 0))))))

/-- References of an entry with those that are on their way (R80, R81). -/
def State.refsComing (s : State) (job : Nat) (id : BitVec 32) : Nat :=
  (match s.symSeen job id with
   | some e => e.refs.toNat
   | none => 0) +
  (s.rels.filter (fun r => r.add && r.job == job && (idRange r.first r.n).contains id)).length

/-- sym.rel (R343). -/
def execSymRel (a b c : SReg) (s : State) : Out :=
  let first : BitVec 32 := (s.rs a).setWidth 32
  let n := (s.rs b).toNat
  let add := s.rs c == 1
  let job := s.jobOf s.myRegion
  let ids := idRange first n
  let act (u : State) : State :=
    { u with
      nextId := u.nextId + 1,
      rels := u.rels ++ [{ u.owner with id := u.nextId, job := job, first := first, n := n, add := add }] }
  .next (s.issueOrBlock (.symRel a b c) [.s a, .s b, .s c]
    (orTrap (decide ((s.rs c).toNat ≤ 1) && decide (1 ≤ n) && decide (n < 2 ^ 26)) ⟨.ill, 0, 0⟩
      (orTrap (s.pantryAdmits .write) ⟨.accv, 0, 0⟩
        (orTrap (oneChip first n) (symx 6)
          (orTrap (ids.all (s.symAlive job)) (symx 3)
            (orTrap (!add || ids.all (fun id => decide (s.refsComing job id < 65535))) (symx 5) (.ok act)))))))

/-! ## Events of the pantry (R79, R80) -/

/-- q of R79: the magnitude over 2^(Et - 40), rounded up to an integer; the cap for NaN and infinities. -/
def sigUnits (et : Byte) (v : Num) : Nat :=
  match v with
  | .fin _ m e =>
    let k : Int := e - et.toInt + 40
    if k ≥ 0 then m * 2 ^ k.toNat else (m + 2 ^ (-k).toNat - 1) / 2 ^ (-k).toNat
  | _ => 2 ^ 58 - 1

/-- One contribution to an entry, converted at its own exponent (R79). -/
def Sym.contribute (e : Sym) (g : BitVec 16) (et : Byte) (v : Num) : Sym :=
  let e1 : Sym := if g = e.group then e else { e with sig := 0, group := g, et := et }
  { e1 with sig := BitVec.ofNat 64 (min (e1.sig.toNat + sigUnits et v) (2 ^ 58 - 1)) }

/-- SIGNIFICANCE_CONTRIBUTION: the m values of a sym.sig are applied to its entries; a free one receives nothing
(R79, R341). -/
def execSignificanceContribution (id : Nat) (s : State) : Out :=
  .next (match s.sigs.find? (fun j => j.id == id) with
    | none => s
    | some j =>
      match s.enginePieces j.toOwner 3 .read .pm (BitVec.ofNat 64 j.src) (4 * j.n) with
      | none => s
      | some ps =>
        ((elements j.n 4 (s.piecesBytes ps)).zip (idRange j.first j.n)).foldl
          (fun u p => u.mapSym j.job p.2 (fun e =>
            if e.st = .free then e else e.contribute j.group j.et (f32 (BitVec.ofNat 32 p.1))))
          { s.readErrors (s.ownerAt j.toOwner (BitVec.ofNat 64 j.src)) ps with sigs := s.sigs.filter (fun x => x.id != id) })

/-- REFERENCE_UPDATE: one reference added to, or released from, each entry of a sym.rel (R80, R343). -/
def execReferenceUpdate (id : Nat) (s : State) : Out :=
  .next (match s.rels.find? (fun j => j.id == id) with
    | none => s
    | some j =>
      (idRange j.first j.n).foldl
        (fun u k => u.mapSym j.job k (fun e =>
          if e.st = .free then e else if j.add then { e with refs := e.refs + 1 } else e.release))
        { s with rels := s.rels.filter (fun x => x.id != id) })

end Sys2Proof.Machine
end

