-- ==== Sys2Proof/Machine/Attic.lean ====
section
/-!
DEFINITION. The attics (spec/03 R83 to R86; spec/12 R344 to R347): cond and cond.qry, with the event CONDENSATION.
-/
namespace Sys2Proof.Machine

/-! ## cond (R344) -/

/-- The conds that a cluster's attic holds (R344). -/
def State.atticUse (s : State) (c : ClusterId) : Nat := (s.conds.filter (fun k => k.st == .run && k.cluster == c)).length

/-- A cond accepted by the attic: its number, its ring slot reserved, its event object at a key (R134, R344, R437). -/
def State.acceptCond (s : State) (d a b c : SReg) (event : Option Nat) (h : HReg) (re : Bool) : State :=
  let x := s.cx
  let ring : Option (BitVec 6) := if re then (s.ringNamed h).map (·.1) else none
  let k : Cond :=
    { s.owner with
      id := s.nextId, num := x.condNum, cluster := s.myCore.cluster, atd := s.rs a,
      m := ((s.rs b).setWidth 32 : BitVec 32).toNat, vec := if c = 0 then none else some (s.rs c),
      event := event, ring := ring, st := .run, mc := 0, stopped := false, revoked := none, work := none,
      published := ring.isNone, done := [] }
  let s1 := ({ s with nextId := s.nextId + 1, conds := s.conds ++ [k] } : State).mapCx
    (fun x => { x with condNum := x.condNum + 1 })
  let s2 := match ring with
    | some r => s1.mapRing s.myCore r (fun y => y.reserve 1)
    | none => s1
  s2.deliverS 6 d (x.condNum.setWidth 64)

/-- The checks of a cond at issue: its ring operand, the descriptor's address, and its event object, whose storage comes first
(R269, R513). What its attic finds of the descriptor beyond that, its status tells (R57, R345, R487). -/
def State.checkCond (s : State) (a e : SReg) (h : HReg) (re : Bool) : Except IssueTrap (List Touch) :=
  let ring : Except IssueTrap (List Touch) :=
    if re then
      match s.checkRing h 1 0 2 .write 3 with
      | .ok [t, r] => .ok [t, { r with write := true }]
      | x => x
    else .ok []
  let event := if e = 0 then .ok [] else s.checkAccess .glob .sync 3 2 (s.rs e) 16 16
  let trapOf (x : Except IssueTrap (List Touch)) : List IssueTrap := match x with
    | .error t => [t]
    | .ok _ => []
  let atd := (trapOf (s.checkAccess .glob .read 3 2 (s.rs a) 64 1)).filter (fun t => t.cause == .pflt)
  match firstFault (atd ++ trapOf event ++ trapOf ring), event, ring with
  | some t, _, _ => .error t
  | none, .ok l, .ok m => .ok (l ++ m)
  | none, _, _ => .ok []

/-- cond (R344). -/
def execCond (d a b c e : SReg) (h : HReg) (re : Bool) (s : State) : Out :=
  let sh : Shape := ⟨.cond d a b c e h re, [.s a, .s b, .s c, .s e], [], [(.s d, 6)], false, 0⟩
  .next (((s.operate sh (s.checkCond a e h re) (fun tc t =>
    t.implicitWait sh tc (decide (t.atticUse t.myCore.cluster < 16) && (!re || t.ringReady h true 1))
      (fun u => u.acceptCond d a b c (if e = 0 then none else some (keyOf tc)) h re))).noteIssue s .glob (s.rs a) 64).noteIssue s
        .glob (s.rs e) (if e = 0 then 0 else 16))

/-! ## cond.qry (R347) -/

/-- The codes of R347. -/
def CondSt.code : CondSt → BitVec 3
  | .run => 0 | .ok => 1 | .atdr => 2 | .order => 3 | .count => 4 | .symf => 5 | .fault => 6 | .cancelled => 7

/-- The cond of the context with a number among its 64 most recent ones (R347). -/
def State.recentCond (s : State) (n : BitVec 16) : Option Cond :=
  match s.cx.task with
  | none => none
  | some t =>
    if (s.cx.condNum - 1 - n).toNat < 64 then
      s.conds.reverse.find? (fun k => k.cid == s.env.cid && k.serial == t.serial && k.num == n)
    else none

/-- cond.qry: outside its window a free value (R347). -/
def execCondQry (d a : SReg) (s : State) : Out :=
  .next (s.compute (.condQry d a) [.s a] [] [(.s d, 6)] false (fun t =>
    match t.recentCond ((t.rs a).setWidth 16) with
    | some k => t.deliverS 6 d (((if k.st = .ok then k.mc else 0#32) ++ 0#5 ++ k.st.code : BitVec 40).setWidth 64)
    | none => let r := t.drawWord
              r.2.deliverS 6 d r.1))

/-! ## CONDENSATION (R83, R84, R345, R346) -/

/-- A candidate: its symbol, its position, the place of its slab in the list and, for a diagonal one, its element. -/
structure Cand where
  sym : BitVec 32
  pos : Nat
  slab : Nat
  elem : Option Nat
deriving DecidableEq, Repr

/-- The candidates of a list from an entry number and a position on (R345). -/
def candsFrom (n : Nat) : Nat → Nat → List Slab → List Cand
  | _, _, [] => []
  | i, pos, b :: l =>
    if b.diag then
      ((List.range n).filter (fun e => b.map.testBit e)).map (fun e => ⟨b.sym + BitVec.ofNat 32 e, pos + e, i, some e⟩) ++
        candsFrom n (i + 1) (pos + n) l
    else ⟨b.sym, pos, i, none⟩ :: candsFrom n (i + 1) (pos + 1) l

/-- The positions of a list (R345). -/
def positions (n : Nat) (l : List Slab) : Nat := (l.map (fun b => if b.diag then n else 1)).sum

/-- Insertion by significance; equal ones by id, the larger first (R83, R345). -/
def insertCand (c : Cand × Nat) : List (Cand × Nat) → List (Cand × Nat)
  | [] => [c]
  | x :: l =>
    if c.2 < x.2 ∨ (c.2 = x.2 ∧ x.1.sym.toNat < c.1.sym.toNat) then c :: x :: l else x :: insertCand c l

/-- SIG · 2^(ET - 40) as an integer over a common power of two; a symbol of another chip has its own there (R87, R345). -/
def State.sigKey (s : State) (job : Nat) (id : BitVec 32) : Nat :=
  match s.symSeen job id with
  | some e => e.sig.toNat * 2 ^ (e.et.toInt + 128).toNat
  | none => 0

/-- A generator element's magnitude (R53, R84). -/
def genAbs (gfmt w : Nat) : Num := (elemNum' (if gfmt = 1 then bf16Form else fp32Form) w).abs
where
  /-- The value of an encoding. -/
  elemNum' (f : FpForm) (w : Nat) : Num := f.decode w

/-- A remainder element after one condensed coefficient (R84). -/
def foldAbs (r : Lane) (g : Num) : Lane := (roundF32 .ru false ((f32 r).add false g).1).1

/-- Everything that a condensation reads beside the tensor: remainder, significance vector, and the coefficients of
every slab. -/
structure CondRead where
  t : Tensor
  rem : List Lane
  vec : List Nat
  coef : List (List Nat)
deriving DecidableEq, Repr

/-- The reads of a condensation; none while one of them meets a late fault (R345, R438). -/
def State.condReads (s : State) (k : Cond) : Option CondRead :=
  let rd (va : Word) (n : Nat) : Option (List Byte) :=
    if n = 0 then some [] else (s.enginePieces k.toOwner 3 .read .glob va n).map s.piecesBytes
  match readTensor rd k.atd with
  | none => none
  | some t =>
    if s.tensorStatus (s.jobOf k.region) t ≠ .ok then some ⟨t, [], [], []⟩
    else
      let n := t.atd.n
      let np := positions n t.slabs
      let coefs := t.slabs.map (fun b => rd b.saddr (n * t.atd.esize))
      match rd t.atd.raddr (4 * n), (match k.vec with | some v => rd v (8 * np) | none => some []) with
      | some r, some v =>
        if coefs.any (·.isNone) then none
        else
          some ⟨t, (elements n 4 r).map (BitVec.ofNat 32), elements np 8 v,
            coefs.map (fun c => elements n t.atd.esize (c.getD []))⟩
      | _, _ => none

/-- The selected symbols in order (R83, R345). -/
def State.condSelect (s : State) (k : Cond) (r : CondRead) : List Cand :=
  let job := s.jobOf k.region
  let key (c : Cand) : Nat := match k.vec with
    | some _ => r.vec.getD c.pos 0
    | none => s.sigKey job c.sym
  ((((candsFrom r.t.atd.n 0 0 r.t.slabs).map (fun c => (c, key c))).foldr insertCand []).map (·.1)).take k.m

/-- The remainder after the selected symbols, in their order (R84, R345). -/
def CondRead.remainder (r : CondRead) (sel : List Cand) : List Lane :=
  sel.foldl (fun l c =>
    let g := r.coef.getD c.slab []
    match c.elem with
    | some e => l.modify e (fun x => foldAbs x (genAbs r.t.atd.gfmt (g.getD e 0)))
    | none => (l.zip g).map (fun p => foldAbs p.1 (genAbs r.t.atd.gfmt p.2))) r.rem

/-- The list after the selected symbols: live-map bits cleared, counts lowered, empty and dense entries removed (R84). -/
def slabsAfter (sel : List Cand) (l : List Slab) : List (Slab × Nat) :=
  ((l.zip (List.range l.length)).map (fun p =>
    let mine := sel.filter (fun c => c.slab == p.2)
    if p.1.diag then
      ({ p.1 with
         live := p.1.live - mine.length,
         map := mine.foldl (fun m c => m - 2 ^ (c.elem.getD 0)) p.1.map }, p.2)
    else ({ p.1 with live := if mine = [] then p.1.live else 0 }, p.2)))

/-- The completion of a cond: its report, its ring slot and its event (R346). -/
def State.finishCond (s : State) (k : Cond) (st : CondSt) (mc : Nat) : State :=
  let s1 : State :=
    { s with conds := s.conds.map (fun x =>
        if x.id = k.id then { x with st := st, mc := BitVec.ofNat 32 mc, stopped := false, revoked := none, work := none } else x) }
  let s2 := match k.ring with
    | some e =>
      if st = .ok then s1.publish k.toOwner k.ring
      else ((s1.mapRingOf k.toOwner e (fun r => r.giveBack 1)).markPublished k.id).publish k.toOwner k.ring
    | none => s1
  match k.event with
  | some key => s2.eventPut (s2.ownerAt k.toOwner k.atd) key (if st = .ok then 0 else if st = .cancelled then 5 else 4)
  | none => s2

/-- The report of a broken tensor (R57, R345). -/
def AtdSt.condSt : AtdSt → CondSt
  | .ok => .ok | .atdr => .atdr | .order => .order | .count => .count | .symf => .symf

/-- The writes of a condensation: coefficients and live maps of its diagonal entries, remainder, list and descriptor
(R84, R345). -/
def condWrites (r : CondRead) (sel : List Cand) : List (Word × List Byte) :=
  let a := r.t.atd
  let after := slabsAfter sel r.t.slabs
  let kept := (after.map (·.1)).filter (fun b => decide (b.live ≠ 0))
  let rem := r.remainder sel
  let k := a.k - sel.length
  let unb : BitVec 32 := if rem.all isFinite32 then 0 else 2
  let flags := (a.flags ||| unb) &&& (if k ≤ a.kmax then ~~~ 8#32 else BitVec.allOnes 32)
  (sel.filterMap (fun c =>
    match c.elem, r.t.slabs[c.slab]? with
    | some e, some b => some (b.saddr + BitVec.ofNat 64 (a.esize * e), List.replicate a.esize (0 : Byte))
    | _, _ => none)) ++
  (after.filterMap (fun p =>
    if p.1.diag ∧ sel.any (fun c => c.slab == p.2) then
      some (liveMapAddr p.1.saddr a.n a.esize, leBytes (liveMapLen a.n) p.1.map)
    else none)) ++
  [(a.raddr, rem.flatMap (fun x => leBytes 4 x.toNat)), (a.sladdr, kept.flatMap Slab.bytes),
   (r.t.va + 0x20, leBytes 4 k), (r.t.va + 0x2C, leBytes 4 flags.toNat), (r.t.va + 0x34, leBytes 4 kept.length)]

/-- An earlier cond of the attic names the same ATD, one address of one partition, and has not ended (R86). -/
def State.condBehind (s : State) (k : Cond) : Bool :=
  s.conds.any (fun x => x.st == .run && x.cluster == k.cluster && x.part == k.part && x.atd == k.atd && decide (x.id < k.id))

/-- The ranges of a slab list from an address on, as far as they can be read (R55, R340). -/
def slabReach (rd : Word → Nat → Option (List Byte)) (a : Atd) : Nat → Word → List Reach
  | 0, _ => []
  | k + 1, va =>
    ⟨.read, va, 16⟩ ::
      match rd va 16 with
      | none => []
      | some bs =>
        let b := slabOf bs
        (if b.diag then [⟨.read, liveMapAddr b.saddr a.n a.esize, liveMapLen a.n⟩] else []) ++ slabReach rd a k (va + 16)

/-- The ranges of a condensation in the order of its work (R345). -/
def State.condReach (s : State) (k : Cond) : List Reach :=
  let rd (va : Word) (n : Nat) : Option (List Byte) :=
    if n = 0 then some [] else (s.enginePieces k.toOwner 3 .read .glob va n).map s.piecesBytes
  ⟨.read, k.atd, 64⟩ ::
    match rd k.atd 64 with
    | none => []
    | some bs =>
      let a := atdOf bs
      if a.ok k.atd && decide (a.nslab ≤ a.slcap) then
        slabReach rd a a.nslab a.sladdr ++
        match readTensor rd k.atd with
        | none => []
        | some t =>
          if s.tensorStatus (s.jobOf k.region) t ≠ .ok then []
          else
            let base : List Reach :=
              ⟨.read, a.raddr, 4 * a.n⟩ :: ((match k.vec with | some v => [⟨.read, v, 8 * positions a.n t.slabs⟩] | none => []) ++
                t.slabs.map (fun b => (⟨.read, b.saddr, a.n * a.esize⟩ : Reach)))
            base ++
              match s.condReads k with
              | none => []
              | some r =>
                if k.m = 0 then [] else (condWrites r (s.condSelect k r)).map (fun w => (⟨.write, w.1, w.2.length⟩ : Reach))
      else []

/-- The runs of storage that the writes of a cond reach; none when a page does not translate or a table denies it (R345). -/
def State.reachWrites (s : State) (k : Cond) : List (Word × List Byte) → Option (List CondWrite)
  | [] => some []
  | w :: l =>
    match (if w.2 = [] then some [] else s.enginePieces k.toOwner 3 .write .glob w.1 w.2.length), s.reachWrites k l with
    | some ps, some r => some (⟨w.1, ps.map (fun p => (p.key, p.len)), w.2⟩ :: r)
    | _, _ => none

/-- What a cond has to do, from what it reads now: the symbols that it condenses and its writes, or the status that ends it;
none while a range stops it (R57, R83, R84, R345). -/
def State.condPlan (s : State) (k : Cond) : Option (Except CondSt (List (BitVec 32) × List CondWrite)) :=
  match s.condReads k with
  | none => none
  | some r =>
    match s.tensorStatus (s.jobOf k.region) r.t with
    | .ok =>
      let sel := s.condSelect k r
      (s.reachWrites k (if k.m = 0 then [] else condWrites r sel)).map (fun l => .ok (sel.map (·.sym), l))
    | st => some (.error st.condSt)

/-- The pieces of a write of a condensation. -/
def CondWrite.pieces (w : CondWrite) : List Piece := w.runs.map (fun p => ⟨p.1, p.2⟩)

/-- The storage that a cond reads, as far as it translates. -/
def State.condPieces (s : State) (k : Cond) : List Piece :=
  (s.condReach k).flatMap (fun r =>
    if r.acc = .read then (s.enginePieces k.toOwner 3 .read .glob r.va r.len).getD [] else [])

/-- The bytes that a cond writes, at their keys. -/
def condCells (ws : List CondWrite) : List (Nat × Carried) :=
  ws.flatMap (fun w => (pieceKeys w.pieces).zip (w.bytes.map (fun b => (b, false))))

/-- A cond writes some cells, sampled in an exact-mode phase (R177). -/
def State.writeCond (s : State) (k : Cond) (ws : List CondWrite) (l : List (Nat × Carried)) : State :=
  ((s.putCells l).wakeOn (ws.flatMap CondWrite.pieces)).sampleCells k.phase
    (ws.flatMap (fun c => withVa c.va (c.runs.map (fun p => ⟨true, p.1, p.2⟩)))) (granulesOf l)

/-- PART OF A COND: some of the granules that it writes, and has not written, take their new values (R9, R86, R160, R429;
notes/assumptions/40.md). -/
def State.condPart (s : State) (k : Cond) (ws : List CondWrite) : State :=
  let cells := condCells ws
  let l := s.openCells k.done (cells.map (fun c => ⟨c.1, 1⟩)) (cells.map (fun c => some c.2))
  let s1 := ({ s with free := s.free + 1 } : State).writeCond k ws l
  { s1 with conds := s1.conds.map (fun x => if x.id = k.id then { x with done := x.done ++ granulesOf l } else x) }

/-- The destinations of a cond that has not completed are unspecified: each granule has its prior value or what the cond writes
there (R9, R86, R429). -/
def State.condUnspecified (s : State) (k : Cond) : State :=
  match k.work with
  | some w => s.condPart k w.2
  | none => (match s.condPlan k with | some (.ok w) => s.condPart k w.2 | _ => s)

/-- A cond that a teardown cancels: its destinations are unspecified (R346, R429). -/
def State.cancelCond (s : State) (k : Cond) : State := (s.condUnspecified k).finishCond k .cancelled 0

/-- The pages of ranges that an engine thread of a core translates enter the core's caches (R436). -/
def State.noteReach (s : State) (o : Owner) (l : List Reach) : State :=
  l.foldl (fun u r => u.noteRange o.cid.core (u.ownerAt o r.va) r.len) s

/-- The pantry's table lets the attic give back a cond's symbols (R486). -/
def State.atticAdmitted (s : State) (k : Cond) : Bool := s.permitsKey .pantry (masterOf k.part 3) .write 0

/-- The attic reads everything, chooses and translates: from then on nothing stops the cond. A broken tensor, or a table that
denies a range or the pantry, ends it (R83, R345, R346, R486, R487). -/
def State.condBegin (s : State) (k : Cond) : State :=
  if !s.atticAdmitted k then s.finishCond k .fault 0
  else
    match s.condPlan k with
    | none => if s.firstStop (some k.cid.core) k.part 3 (s.condReach k) = some .denied then s.finishCond k .fault 0 else s
    | some p =>
      let u := (s.readErrors (s.ownerAt k.toOwner k.atd) (s.condPieces k)).noteReach k.toOwner (s.condReach k)
      match p with
      | .error st => u.finishCond k st 0
      | .ok w => { u with conds := u.conds.map (fun x => if x.id = k.id then { x with work := some w } else x) }

/-- The attic writes what it has not written of remainder, live maps, list and descriptor, and the references go (R84, R177,
R345, R346). -/
def State.condEnd (s : State) (k : Cond) (w : List (BitVec 32) × List CondWrite) : State :=
  let s1 := s.writeCond k w.2 ((condCells w.2).filter (fun c => !k.done.contains (c.1 / 8)))
  (w.1.foldl (fun u i => u.mapSym (s.jobOf k.region) i Sym.release) s1).finishCond k .ok w.1.length

/-- CONDENSATION: a cond takes its snapshot, reads, chooses and translates; another such step writes and completes it. A late
fault or a pre-emption before the second one begins it anew (R83 to R86, R345, R346). -/
def execCondensation (id : Nat) (s : State) : Out :=
  .next (match s.conds.find? (fun k => k.id == id) with
    | none => s
    | some k =>
      if k.st ≠ .run ∨ k.revoked.isSome ∨ s.condBehind k then s
      else
        match k.work with
        | some w => s.condEnd k w
        | none => if k.stopped ∨ s.isOut k.toOwner then s else s.condBegin k)

end Sys2Proof.Machine
end

