-- ==== Sys2Proof/Machine/Func.lean ====
section
/-!
DEFINITION. The functions of vfn (spec/11 R313, R314): the exact real value of each function is enclosed in an interval
of fixed-point numbers, and the precision grows until both ends round to the same FP32 value. Intervals are pairs of
naturals over 2^p. notes/assumptions/13.md says what ends the search.
-/
namespace Sys2Proof.Machine

/-- An interval [lo, hi] of non-negative numbers over 2^p. -/
structure Ival where
  lo : Nat
  hi : Nat
deriving DecidableEq, Repr

/-- A fraction num / den · 2^exp as an interval of precision p. -/
def Ival.ofFrac (p num den : Nat) (exp : Int) : Ival :=
  let f := scaleFrac num den (-(exp + p))
  ⟨f.1 / f.2, f.1 / f.2 + 1⟩

/-- The value one. -/
def Ival.one (p : Nat) : Ival := ⟨2 ^ p, 2 ^ p⟩
/-- The product of two intervals. -/
def Ival.mul (p : Nat) (a b : Ival) : Ival := ⟨a.lo * b.lo / 2 ^ p, a.hi * b.hi / 2 ^ p + 1⟩
/-- The sum of two intervals. -/
def Ival.add (a b : Ival) : Ival := ⟨a.lo + b.lo, a.hi + b.hi⟩
/-- The difference of two intervals whose result is not negative. -/
def Ival.sub (a b : Ival) : Ival := ⟨a.lo - b.hi, a.hi - b.lo⟩
/-- The quotient of two intervals; the divisor's lower end is positive. -/
def Ival.div (p : Nat) (a b : Ival) : Ival := ⟨a.lo * 2 ^ p / b.hi, a.hi * 2 ^ p / b.lo + 1⟩
/-- An interval over a small natural number. -/
def Ival.divNat (a : Ival) (n : Nat) : Ival := ⟨a.lo / n, a.hi / n + 1⟩
/-- Half of an interval. -/
def Ival.half (a : Ival) : Ival := ⟨a.lo / 2, a.hi / 2 + 1⟩

/-- n terms of e^x from term t on, number k: the sum, and the last term. -/
def expTerms (p : Nat) (x : Ival) : Nat → Nat → Ival → Ival → Ival × Ival
  | 0, _, t, s => (s, t)
  | n + 1, k, t, s =>
    let t' := (Ival.mul p t x).divNat k
    expTerms p x n (k + 1) t' (s.add t')

/-- Squaring n times. -/
def squareN (p : Nat) : Nat → Ival → Ival
  | 0, a => a
  | n + 1, a => squareN p n (Ival.mul p a a)

/-- e^x for an interval below 2^8: 16 halvings, a series whose rest is below its last term, 16 squarings. -/
def expPos (p : Nat) (x : Ival) : Ival :=
  let y : Ival := ⟨x.lo / 2 ^ 16, x.hi / 2 ^ 16 + 1⟩
  let r := expTerms p y (p / 8 + 4) 1 (Ival.one p) (Ival.one p)
  squareN p 16 ⟨r.1.lo, r.1.hi + r.2.hi + 1⟩

/-- n terms of the odd series z + z³/3 + z⁵/5 + …: power w = z^k, z2 = z². -/
def atanhTerms (p : Nat) (z2 : Ival) : Nat → Nat → Ival → Ival → Ival × Ival
  | 0, _, w, s => (s, w)
  | n + 1, k, w, s => atanhTerms p z2 n (k + 2) (Ival.mul p w z2) (s.add (w.divNat k))

/-- artanh z for an interval of at most 1/3; the rest is below twice the next power. -/
def atanhSmall (p : Nat) (z : Ival) : Ival :=
  let r := atanhTerms p (Ival.mul p z z) (p / 3 + 4) 1 z ⟨0, 0⟩
  ⟨r.1.lo, r.1.hi + 2 * r.2.hi + 1⟩

/-- ln 2 = 2 artanh (1/3). -/
def ln2 (p : Nat) : Ival :=
  let a := atanhSmall p (Ival.ofFrac p 1 3 0)
  a.add a

/-- n terms of the alternating series of arctan (1/q), as sums of the positive and of the negative terms. -/
def atanTerms (p q : Nat) : Nat → Nat → Ival → Ival → Ival → Ival × Ival × Ival
  | 0, _, w, a, b => (a, b, w)
  | n + 1, k, w, a, b => atanTerms p q n (k + 2) (w.divNat (q * q)) (b.add (w.divNat k)) a

/-- arctan (1/q) for q ≥ 5. -/
def atanInv (p q : Nat) : Ival :=
  let r := atanTerms p q (2 * (p / 4 + 4)) 1 (Ival.ofFrac p 1 q 0) ⟨0, 0⟩ ⟨0, 0⟩
  let d := if r.1.lo ≥ r.2.1.lo then r.1.sub r.2.1 else r.2.1.sub r.1
  ⟨d.lo - r.2.2.hi - 1, d.hi + r.2.2.hi + 1⟩

/-- π = 16 arctan (1/5) - 4 arctan (1/239). -/
def piIval (p : Nat) : Ival :=
  let a := atanInv p 5
  let b := atanInv p 239
  ⟨16 * a.lo - 4 * b.hi, 16 * a.hi - 4 * b.lo⟩

/-- The square root of an interval. -/
def Ival.sqrt (p : Nat) (a : Ival) : Ival := ⟨isqrt (a.lo * 2 ^ p), isqrt (a.hi * 2 ^ p) + 1⟩

/-- n terms of x + x³/3 + x⁵/15 + …. -/
def phiTerms (p : Nat) (x2 : Ival) : Nat → Nat → Ival → Ival → Ival × Ival
  | 0, _, w, s => (s, w)
  | n + 1, k, w, s =>
    let w' := (Ival.mul p w x2).divNat k
    phiTerms p x2 n (k + 2) w' (s.add w')

/-- Φ(x) - 1/2 for 0 ≤ x < 20: the density times the series; the rest is below the last term once k > 2x². -/
def phiHalf (p : Nat) (x : Ival) : Ival :=
  let x2 := Ival.mul p x x
  let r := phiTerms p x2 (p + 1600) 3 x x
  let s : Ival := ⟨r.1.lo, r.1.hi + r.2.hi + 1⟩
  let e := expPos p x2.half
  let pi := piIval p
  let root := Ival.sqrt p (pi.add pi)
  Ival.div p s (Ival.mul p e root)

/-- A magnitude enclosed at precision p, or known exactly, with its sign. -/
inductive Encl
  | exact (x : Num)
  | near (neg : Bool) (i : Nat → Ival)

/-- The result of an enclosure: the precision grows until both ends round alike (R313); an enclosed value is never
representable, so it raises INX (R314). -/
def roundEncl (sat : Bool) (neg : Bool) (i : Nat → Ival) : Nat → Nat → Lane × Flags
  | 0, p =>
    let r := toLane (fp32Form.roundFrac .rne sat neg (i p).lo 1 (-(p : Int)))
    (r.1, r.2.or Flags.inexact)
  | n + 1, p =>
    let v := i p
    let a := fp32Form.roundFrac .rne sat neg v.lo 1 (-(p : Int))
    let b := fp32Form.roundFrac .rne sat neg v.hi 1 (-(p : Int))
    if a.1 = b.1 then let r := toLane a; (r.1, (r.2.or b.2).or Flags.inexact)
    else roundEncl sat neg i n (2 * p)

/-- A positive value below every representable one. -/
def tinyIval (p : Nat) : Ival := Ival.ofFrac p 1 1 (-180)

/-- The interval of a finite magnitude. -/
def Ival.ofMag (p m : Nat) (e : Int) : Ival := Ival.ofFrac p m 1 e

/-- A finite magnitude is at least n. -/
def magGe (m : Nat) (e : Int) (n : Nat) : Bool :=
  let f := scaleFrac m 1 (-e)
  decide (f.1 ≥ n * f.2)

/-- 2^x (R313, R314). -/
def vfnExp2 : Num → Encl
  | .nan => .exact .nan
  | .inf s => .exact (if s then Num.zero else .inf false)
  | .fin s m e =>
    if m = 0 then .exact (Num.ofNat 1)
    else if magGe m e 200 then .exact (.fin false 1 (if s then -200 else 200))
    else
      let d := 2 ^ (-(min e 0)).toNat
      let v := m * 2 ^ (max e 0).toNat
      let n := v / d
      let r := v % d
      if r = 0 then .exact (.fin false 1 (if s then -(n : Int) else n))
      else
        .near false (fun p =>
          let fr := if s then d - r else r
          let g := expPos p (Ival.mul p (ln2 p) (Ival.ofFrac p fr d 0))
          if s then ⟨g.lo / 2 ^ (n + 1), g.hi / 2 ^ (n + 1) + 1⟩ else ⟨g.lo * 2 ^ n, g.hi * 2 ^ n⟩)

/-- log₂ x with its sign (R313, R314): the exponent of the leading bit, plus 2 artanh((m-1)/(m+1)) / ln 2. -/
def vfnLog2 : Num → Encl × Bool
  | .nan => (.exact .nan, false)
  | .inf s => if s then (.exact .nan, true) else (.exact (.inf false), false)
  | .fin s m e =>
    if m = 0 then (.exact (.inf true), false)
    else if s then (.exact .nan, true)
    else
      let k := Nat.log2 m
      let top : Int := e + k
      if m = 2 ^ k then (.exact (Num.ofInt top), false)
      else
        let frac (p : Nat) : Ival :=
          let a := atanhSmall p (Ival.ofFrac p (m - 2 ^ k) (m + 2 ^ k) 0)
          Ival.div p (a.add a) (ln2 p)
        if top ≥ 0 then
          (.near false (fun p => (Ival.ofFrac p top.toNat 1 0).add (frac p)), false)
        else
          (.near true (fun p =>
            let w := (-top).toNat * 2 ^ p
            Ival.sub ⟨w, w⟩ (frac p)), false)

/-- tanh x (R313, R314). -/
def vfnTanh : Num → Encl
  | .nan => .exact .nan
  | .inf s => .exact (.fin s 1 0)
  | .fin s m e =>
    if m = 0 then .exact (.fin s 0 0)
    else if magGe m e 40 then .near s (fun p => ⟨2 ^ p - 2 ^ (p - 60), 2 ^ p - 1⟩)
    else
      .near s (fun p =>
        let x := Ival.ofMag p m e
        let g := expPos p (x.add x)
        let one := Ival.one p
        Ival.div p (g.sub one) (g.add one))

/-- sigm x = 1/(1 + e^-x) (R313, R314). -/
def vfnSigm : Num → Encl
  | .nan => .exact .nan
  | .inf s => .exact (if s then Num.zero else Num.ofNat 1)
  | .fin s m e =>
    if m = 0 then .exact (.fin false 1 (-1))
    else if magGe m e 160 then
      .near false (fun p => if s then ⟨0, (tinyIval p).hi⟩ else ⟨2 ^ p - 2 ^ (p - 60), 2 ^ p - 1⟩)
    else
      .near false (fun p =>
        let g := expPos p (Ival.ofMag p m e)
        let one := Ival.one p
        if s then Ival.div p one (one.add g) else Ival.div p g (one.add g))

/-- x · Φ(x) (R313, R314). -/
def vfnGelu : Num → Encl
  | .nan => .exact .nan
  | .inf s => .exact (if s then .fin true 0 0 else .inf false)
  | .fin s m e =>
    if m = 0 then .exact (.fin s 0 0)
    else if magGe m e 19 then
      if s then .near true (fun p => ⟨0, (tinyIval p).hi⟩)
      else .near false (fun p =>
        let x := Ival.ofMag p m e
        ⟨x.lo - x.lo / 2 ^ 60, x.hi⟩)
    else
      .near s (fun p =>
        let x := Ival.ofMag p m e
        let h := phiHalf p x
        let half : Ival := ⟨2 ^ (p - 1), 2 ^ (p - 1)⟩
        Ival.mul p x (if s then half.sub h else half.add h))

/-- x · sigm(x) (R313, R314). -/
def vfnSilu : Num → Encl
  | .nan => .exact .nan
  | .inf s => .exact (if s then .fin true 0 0 else .inf false)
  | .fin s m e =>
    if m = 0 then .exact (.fin s 0 0)
    else if magGe m e 160 then
      if s then .near true (fun p => ⟨0, (tinyIval p).hi⟩)
      else .near false (fun p =>
        let x := Ival.ofMag p m e
        ⟨x.lo - x.lo / 2 ^ 60, x.hi⟩)
    else
      .near s (fun p =>
        let x := Ival.ofMag p m e
        let g := expPos p x
        let one := Ival.one p
        Ival.mul p x (if s then Ival.div p one (one.add g) else Ival.div p g (one.add g)))

/-- 1/x (R313, R314). -/
def vfnRcp (sat : Bool) : Num → Lane × Flags
  | .nan => (f32NaN, Flags.none)
  | .inf s => roundF32 .rne sat (.fin s 0 0)
  | .fin s m e =>
    if m = 0 then roundF32 .rne sat (.inf s) else toLane (fp32Form.roundFrac .rne sat s 1 m (-e))

/-- 1/√x (R313, R314). -/
def vfnRsq (sat : Bool) : Num → Lane × Flags
  | .nan => (f32NaN, Flags.none)
  | .inf s => if s then (f32NaN, Flags.invalid) else roundF32 .rne sat Num.zero
  | .fin s m e =>
    if m = 0 then roundF32 .rne sat (.inf s)
    else if s then (f32NaN, Flags.invalid)
    else
      let odd := e % 2 ≠ 0
      let r := sqrtFrac 1 (if odd then 2 * m else m) (-((if odd then e - 1 else e) / 2)) 64
      toLane (fp32Form.roundFrac .rne sat false r.1 1 r.2)

/-- An enclosure's FP32 result. -/
def enclResult (sat : Bool) : Encl → Lane × Flags
  | .exact x => roundF32 .rne sat x
  | .near neg i => roundEncl sat neg i 4 256

/-- The result of a function whose value at +inf is +inf: under SAT it differs from that value, which is inexact (R314). -/
def clampedResult (sat : Bool) (x : Num) (e : Encl) : Lane × Flags :=
  let r := enclResult sat e
  (r.1, r.2.or (Flags.inxIf (sat && decide (x = .inf false))))

/-- vfn of one lane (R313, R314). -/
def vfnLane (f : VFun) (sat : Bool) (x : Lane) : Lane × Flags :=
  match f with
  | .exp2 => clampedResult sat (f32 x) (vfnExp2 (f32 x))
  | .log2 =>
    let r := vfnLog2 (f32 x)
    let v := clampedResult sat (f32 x) r.1
    (v.1, v.2.or (Flags.invIf r.2))
  | .rcp => vfnRcp sat (f32 x)
  | .rsq => vfnRsq sat (f32 x)
  | .tanh => enclResult sat (vfnTanh (f32 x))
  | .sigm => enclResult sat (vfnSigm (f32 x))
  | .gelu => clampedResult sat (f32 x) (vfnGelu (f32 x))
  | .silu => clampedResult sat (f32 x) (vfnSilu (f32 x))

end Sys2Proof.Machine
end

