-- ==== Sys2Proof/Machine/Vector.lean ====
section
/-!
DEFINITION. The vector instructions of the VA and VB slots (spec/11 R297 to R315; spec/02 R46 to R48). One meaning per
instruction over `laneWise`, which writes the active lanes (R298).
-/
namespace Sys2Proof.Machine

/-! ## Shapes (R298, R299) -/

/-- Whether lane i is active (R298). -/
def active (p : Word) (i : Nat) : Bool := p.getLsbD i

/-- The flags of the active lanes together (R36). -/
def activeFlags (p : Word) (l : List (Lane × Flags)) : Flags :=
  Flags.union ((l.zip (List.range 64)).map (fun x => if active p x.2 then x.1.2 else Flags.none))

/-- A predicated instruction: the lanes of its result, written where the predicate is set (R298, R301). -/
def State.laneWise (s : State) (i : Instr) (data : List Src) (vd : VReg) (p : PReg) (lat : Nat) (mayFlag : Bool)
    (f : State → List (Lane × Flags)) : Out :=
  .next (s.compute i [] (.p p :: data) [(.v vd, lat)] mayFlag (fun t =>
    let r := f t
    let pw := t.rp p
    let fl := activeFlags pw r
    t.deliverR lat { Result.base with
      dest := .v vd, val := ofLanes (r.map (·.1)), mask := pw, flags := fl, fpx := t.fpxOf fl, mayFlag := mayFlag }))

/-- An instruction that writes every lane (R298). -/
def State.allLanes (s : State) (i : Instr) (data : List Src) (vd : VReg) (lat : Nat) (f : State → VecWord) : Out :=
  .next (s.compute i [] data [(.v vd, lat)] false (fun t => t.deliver lat (.v vd) (f t)))

/-- A lane function of one register. -/
def State.map1 (t : State) (va : VReg) (f : Lane → Lane × Flags) : List (Lane × Flags) := (lanes (t.rv va)).map f
/-- A lane function of a register and the vb operand. -/
def State.map2 (t : State) (va : VReg) (vb : VOpd) (f : Lane → Lane → Lane × Flags) : List (Lane × Flags) :=
  ((lanes (t.rv va)).zip (lanes (t.rvo vb))).map (fun x => f x.1 x.2)
/-- A lane function of two operands and the old destination. -/
def State.map3 (t : State) (va : VReg) (vb : VOpd) (vd : VReg) (f : Lane → Lane → Lane → Lane × Flags) :
    List (Lane × Flags) :=
  ((lanes (t.rv va)).zip ((lanes (t.rvo vb)).zip (lanes (t.rv vd)))).map (fun x => f x.1 x.2.1 x.2.2)
/-- A lane result that raises no flag. -/
def quiet (f : Lane → Lane → Lane) (x y : Lane) : Lane × Flags := (f x y, Flags.none)

/-! ## Floating point (R301, R302) -/

/-- vadd: x + y (R301). -/
def execVadd (vd va : VReg) (vb : VOpd) (p : PReg) (s : State) : Out :=
  s.laneWise (.vadd vd va vb p) (.v va :: VOpd.src vb) vd p 4 true (fun t => t.map2 va vb (fadd32 t.rmode t.env.pfx.sat))

/-- vsub: x - y (R301). -/
def execVsub (vd va : VReg) (vb : VOpd) (p : PReg) (s : State) : Out :=
  s.laneWise (.vsub vd va vb p) (.v va :: VOpd.src vb) vd p 4 true (fun t => t.map2 va vb (fsub32 t.rmode t.env.pfx.sat))

/-- vmul: x·y (R301). -/
def execVmul (vd va : VReg) (vb : VOpd) (p : PReg) (s : State) : Out :=
  s.laneWise (.vmul vd va vb p) (.v va :: VOpd.src vb) vd p 4 true (fun t => t.map2 va vb (fmul32 t.rmode t.env.pfx.sat))

/-- vfma: x·y + z, one rounding (R301). -/
def execVfma (vd va : VReg) (vb : VOpd) (p : PReg) (s : State) : Out :=
  s.laneWise (.vfma vd va vb p) (.v va :: .v vd :: VOpd.src vb) vd p 4 true (fun t => t.map3 va vb vd (ffma32 t.rmode t.env.pfx.sat))

/-- vfms: z - x·y, one rounding (R301). -/
def execVfms (vd va : VReg) (vb : VOpd) (p : PReg) (s : State) : Out :=
  s.laneWise (.vfms vd va vb p) (.v va :: .v vd :: VOpd.src vb) vd p 4 true (fun t => t.map3 va vb vd (ffms32 t.rmode t.env.pfx.sat))

/-- vmin: the lesser by R28 (R301). -/
def execVmin (vd va : VReg) (vb : VOpd) (p : PReg) (s : State) : Out :=
  s.laneWise (.vmin vd va vb p) (.v va :: VOpd.src vb) vd p 4 true (fun t => t.map2 va vb (quiet fmin32))

/-- vmax: the greater by R28 (R301). -/
def execVmax (vd va : VReg) (vb : VOpd) (p : PReg) (s : State) : Out :=
  s.laneWise (.vmax vd va vb p) (.v va :: VOpd.src vb) vd p 4 true (fun t => t.map2 va vb (quiet fmax32))

/-- vabs (R301). -/
def execVabs (vd va : VReg) (p : PReg) (s : State) : Out :=
  s.laneWise (.vabs vd va p) [.v va] vd p 4 true (fun t => t.map1 va (fun x => (fabs32 x, Flags.none)))

/-- vneg (R301). -/
def execVneg (vd va : VReg) (p : PReg) (s : State) : Out :=
  s.laneWise (.vneg vd va p) [.v va] vd p 4 true (fun t => t.map1 va (fun x => (fneg32 x, Flags.none)))

/-- vabsacc: z + |x|·|y| rounded up, whatever FPC.RM says (R302). -/
def execVabsacc (vd va : VReg) (vb : VOpd) (p : PReg) (s : State) : Out :=
  s.laneWise (.vabsacc vd va vb p) (.v va :: .v vd :: VOpd.src vb) vd p 4 true (fun t => t.map3 va vb vd (fun x y z => ffma32 .ru false (fabs32 x) (fabs32 y) z))

/-! ## Comparison, selection and movement (R303 to R306) -/

/-- The lanes of a predicate word that hold. -/
def wordOfBits (f : Nat → Bool) : Word :=
  BitVec.ofNat 64 ((List.range 64).foldl (fun n i => if f i then n + 2 ^ i else n) 0)

/-- Whether a condition reads its lanes as FP32 (R303). -/
def cmpIsFloat : CmpOp → Bool
  | .eq | .ne | .lt | .le | .un => true
  | _ => false

/-- vcmp: the condition in the active lanes, 0 elsewhere (R303). -/
def execVcmp (cc : CmpOp) (pd : PReg) (va : VReg) (vb : VOpd) (p : PReg) (s : State) : Out :=
  let lat := if cmpIsFloat cc then 4 else 2
  .next (s.compute (.vcmp cc pd va vb p) [] (.p p :: .v va :: VOpd.src vb) [(.p pd, lat)] false (fun t =>
    t.deliver lat (.p pd) (ofWord (wordOfBits (fun i =>
      active (t.rp p) i && cmpEval cc (lane (t.rv va) i) (lane (t.rvo vb) i))))))

/-- vsel: x where the predicate is set, y elsewhere, in every lane (R304). -/
def execVsel (vd va : VReg) (vb : VOpd) (p : PReg) (s : State) : Out :=
  s.allLanes (.vsel vd va vb p) (.p p :: .v va :: VOpd.src vb) vd 2
    (fun t => mergeLanes (t.rp p) (t.rvo vb) (t.rv va))

/-- vmov (R305). -/
def execVmov (vd : VReg) (vb : VOpd) (p : PReg) (s : State) : Out :=
  s.laneWise (.vmov vd vb p) (VOpd.src vb) vd p 2 false
    (fun t => (lanes (t.rvo vb)).map (fun y => (y, Flags.none)))

/-- vperm: lane y[5:0] of va, 0 where y[31] is set (R305). -/
def execVperm (vd va : VReg) (vb : VOpd) (p : PReg) (s : State) : Out :=
  s.laneWise (.vperm vd va vb p) (.v va :: VOpd.src vb) vd p 2 false (fun t =>
    (lanes (t.rvo vb)).map (fun y => (if y.getLsbD 31 then 0 else lane (t.rv va) (y.toNat % 64), Flags.none)))

/-- vidx: y + i (R305). -/
def execVidx (vd : VReg) (vb : VOpd) (p : PReg) (s : State) : Out :=
  s.laneWise (.vidx vd vb p) (VOpd.src vb) vd p 2 false (fun t =>
    ((lanes (t.rvo vb)).zip (List.range 64)).map (fun x => (x.1 + BitVec.ofNat 32 x.2, Flags.none)))

/-- The number of ones in bits i to 0. -/
def onesUpTo (p : Word) (i : Nat) : Nat := ((List.range (i + 1)).filter (fun k => active p k)).length

/-- vcnt: the running count of ones, in every lane (R305). -/
def execVcnt (vd : VReg) (p : PReg) (s : State) : Out :=
  s.allLanes (.vcnt vd p) [.p p] vd 2
    (fun t => ofLanes ((List.range 64).map (fun i => BitVec.ofNat 32 (onesUpTo (t.rp p) i))))

/-- The partition of R306: the indices with the bit set, then the others with bit 31 set. -/
def partLanes (p : Word) : List Lane :=
  ((List.range 64).filter (fun i => active p i)).map (BitVec.ofNat 32) ++
  ((List.range 64).filter (fun i => !active p i)).map (fun i => 0x80000000#32 ||| BitVec.ofNat 32 i)

/-- vpart (R306). -/
def execVpart (vd : VReg) (p : PReg) (s : State) : Out :=
  s.allLanes (.vpart vd p) [.p p] vd 10 (fun t => ofLanes (partLanes (t.rp p)))

/-! ## Integer, logic and shift (R307) -/

/-- viadd: x + y (R307). -/
def execViadd (vd va : VReg) (vb : VOpd) (p : PReg) (s : State) : Out :=
  s.laneWise (.viadd vd va vb p) (.v va :: VOpd.src vb) vd p 2 false (fun t => t.map2 va vb (quiet (fun x y => sat32 t.env.pfx.sat (x.toInt + y.toInt))))

/-- visub: x - y (R307). -/
def execVisub (vd va : VReg) (vb : VOpd) (p : PReg) (s : State) : Out :=
  s.laneWise (.visub vd va vb p) (.v va :: VOpd.src vb) vd p 2 false (fun t => t.map2 va vb (quiet (fun x y => sat32 t.env.pfx.sat (x.toInt - y.toInt))))

/-- vimul: the low 32 bits of x·y (R307). -/
def execVimul (vd va : VReg) (vb : VOpd) (p : PReg) (s : State) : Out :=
  s.laneWise (.vimul vd va vb p) (.v va :: VOpd.src vb) vd p 2 false (fun t => t.map2 va vb (quiet (fun x y => sat32 t.env.pfx.sat (x.toInt * y.toInt))))

/-- vand: x and y (R307). -/
def execVand (vd va : VReg) (vb : VOpd) (p : PReg) (s : State) : Out :=
  s.laneWise (.vand vd va vb p) (.v va :: VOpd.src vb) vd p 2 false (fun t => t.map2 va vb (quiet (fun x y => x &&& y)))

/-- vor: x or y (R307). -/
def execVor (vd va : VReg) (vb : VOpd) (p : PReg) (s : State) : Out :=
  s.laneWise (.vor vd va vb p) (.v va :: VOpd.src vb) vd p 2 false (fun t => t.map2 va vb (quiet (fun x y => x ||| y)))

/-- vxor: x xor y (R307). -/
def execVxor (vd va : VReg) (vb : VOpd) (p : PReg) (s : State) : Out :=
  s.laneWise (.vxor vd va vb p) (.v va :: VOpd.src vb) vd p 2 false (fun t => t.map2 va vb (quiet (fun x y => x ^^^ y)))

/-- vandn: x and not y (R307). -/
def execVandn (vd va : VReg) (vb : VOpd) (p : PReg) (s : State) : Out :=
  s.laneWise (.vandn vd va vb p) (.v va :: VOpd.src vb) vd p 2 false (fun t => t.map2 va vb (quiet (fun x y => x &&& ~~~ y)))

/-- vshl: x shifted left by y[4:0] (R307). -/
def execVshl (vd va : VReg) (vb : VOpd) (p : PReg) (s : State) : Out :=
  s.laneWise (.vshl vd va vb p) (.v va :: VOpd.src vb) vd p 2 false (fun t => t.map2 va vb (quiet (fun x y => x <<< (y.toNat % 32))))

/-- vshr: x shifted right with zeros (R307). -/
def execVshr (vd va : VReg) (vb : VOpd) (p : PReg) (s : State) : Out :=
  s.laneWise (.vshr vd va vb p) (.v va :: VOpd.src vb) vd p 2 false (fun t => t.map2 va vb (quiet (fun x y => x >>> (y.toNat % 32))))

/-- vsar: x shifted right with its sign (R307). -/
def execVsar (vd va : VReg) (vb : VOpd) (p : PReg) (s : State) : Out :=
  s.laneWise (.vsar vd va vb p) (.v va :: VOpd.src vb) vd p 2 false (fun t => t.map2 va vb (quiet (fun x y => x.sshiftRight (y.toNat % 32))))

/-! ## Predicates (R308) -/

/-- A predicate instruction. -/
def State.predOp (s : State) (i : Instr) (data : List Src) (pd : PReg) (f : State → Word) : Out :=
  .next (s.compute i [] data [(.p pd, 2)] false (fun t => t.deliver 2 (.p pd) (ofWord (f t))))

/-- pand (R308). -/
def execPand (pd pa pb : PReg) (s : State) : Out :=
  s.predOp (.pand pd pa pb) [.p pa, .p pb] pd (fun t => t.rp pa &&& t.rp pb)

/-- por (R308). -/
def execPor (pd pa pb : PReg) (s : State) : Out :=
  s.predOp (.por pd pa pb) [.p pa, .p pb] pd (fun t => t.rp pa ||| t.rp pb)

/-- pxor (R308). -/
def execPxor (pd pa pb : PReg) (s : State) : Out :=
  s.predOp (.pxor pd pa pb) [.p pa, .p pb] pd (fun t => t.rp pa ^^^ t.rp pb)

/-- pnot (R308). -/
def execPnot (pd pa : PReg) (s : State) : Out := s.predOp (.pnot pd pa) [.p pa] pd (fun t => ~~~ t.rp pa)

/-! ## Conversions and the quantiser (R309 to R311) -/

/-- vcvt: TO from FP32, or from the format of a prefix with FE (R309). -/
def execVcvt (vd va : VReg) (dst : Fmt) (p : PReg) (s : State) : Out :=
  s.laneWise (.vcvt vd va dst p) [.v va] vd p 6 true (fun t =>
    t.map1 va (fun x =>
      let r := convert (t.accessFmt .fp32) dst t.rmode t.env.pfx.sat (x.setWidth 64)
      (r.1.setWidth 32, r.2)))

/-- The floating format that vqnt reads or vdqnt writes: FP32, or the prefix's (R310, R311). -/
def State.quantForm (t : State) : FpForm := (fmtForm (t.accessFmt .fp32)).getD fp32Form

/-- The width of that format in bits. -/
def FpForm.bits (f : FpForm) : Nat := f.signBit + 1

/-- Eb and delta of a control word, with the invalid flag of a clamped Eb (R31, R310). -/
def ctlWord (c : Lane) : (Int × Bool) × BitVec 4 := (ebOf (c.extractLsb' 0 8), c.extractLsb' 8 4)

/-- One block of vqnt: lane words and flags (R47, R310). -/
def quantLanes (f : FpForm) (act : List Bool) (ws : List Lane) (c : Lane) : List (Lane × Flags) :=
  let e := ctlWord c
  let xs := (act.zip ws).map (fun x => if x.1 then f.decode (x.2.toNat % 2 ^ f.bits) else Num.zero)
  let q := quantBlock xs e.1.1 e.2
  let fl := q.2.2.or (Flags.invIf e.1.2)
  q.1.map (fun b => ((q.2.1 ++ b : BitVec 12).setWidth 32, fl))

/-- vqnt: two blocks of 32 lanes, each with its control word (R310). -/
def execVqnt (vd va : VReg) (vb : VOpd) (p : PReg) (s : State) : Out :=
  s.laneWise (.vqnt vd va vb p) (.v va :: VOpd.src vb) vd p 6 true (fun t =>
    let act := (List.range 64).map (active (t.rp p))
    let ws := lanes (t.rv va)
    let c := t.rvo vb
    quantLanes t.quantForm (act.take 32) (ws.take 32) (lane c 0) ++
    quantLanes t.quantForm (act.drop 32) (ws.drop 32) (lane c 32))

/-- vdqnt: DPW8 bytes expanded under the block's Eb and delta (R48, R311). -/
def execVdqnt (vd va : VReg) (vb : VOpd) (p : PReg) (s : State) : Out :=
  s.laneWise (.vdqnt vd va vb p) (.v va :: VOpd.src vb) vd p 6 true (fun t =>
    ((lanes (t.rv va)).zip (List.range 64)).map (fun x =>
      let e := ctlWord (lane (t.rvo vb) (x.2 / 32 * 32))
      let r := dequant t.quantForm t.rmode t.env.pfx.sat e.1.1 e.2 (x.1.setWidth 8)
      (BitVec.ofNat 32 r.1, r.2.or (Flags.invIf e.1.2))))

/-! ## Reduction and functions (R312 to R314) -/

/-- The leaves of a reduction, an inactive lane replaced (R46). -/
def redLeaves (p : Word) (v : VecWord) (idle : Lane) : List Lane :=
  (List.range 64).map (fun i => if active p i then lane v i else idle)

/-- The sum of R46: every node rounded under the mode, SAT on the final result. -/
def sumTree (rm : RMode) (sat : Bool) (l : List Lane) : Lane × Flags :=
  let r := treeSum rm (l.map (fun x => (f32 x, Flags.none)))
  let c := roundF32 rm sat r.1
  (c.1, r.2)

/-- The value of a reduction (R46, R312). -/
def redValue (op : RedOp) (rm : RMode) (sat : Bool) (p : Word) (v : VecWord) : Lane × Flags :=
  match op with
  | .sum => sumTree rm sat (redLeaves p v 0)
  | .sumabs => sumTree rm sat ((redLeaves p v 0).map fabs32)
  | .max => (tree64 fmax32 0 (redLeaves p v 0xFF800000#32), Flags.none)
  | .min => (tree64 fmin32 0 (redLeaves p v 0x7F800000#32), Flags.none)

/-- vred: one FP32 result in every lane (R312). -/
def execVred (op : RedOp) (vd va : VReg) (p : PReg) (s : State) : Out :=
  .next (s.compute (.vred op vd va p) [] [.p p, .v va] [(.v vd, 8)] true (fun t =>
    let r := redValue op t.rmode t.env.pfx.sat (t.rp p) (t.rv va)
    t.deliverF 8 (.v vd) (splat r.1) (BitVec.allOnes 64) r.2))

/-- vfn: a correctly rounded function (R313, R314). -/
def execVfn (f : VFun) (vd va : VReg) (p : PReg) (s : State) : Out :=
  s.laneWise (.vfn f vd va p) [.v va] vd p 12 true (fun t => t.map1 va (vfnLane f t.env.pfx.sat))

/-! ## The compare of duplicates (R315) -/

/-- vcmpt: CMPM at the boundary after the bundle when a lane differs (R315). -/
def execVcmpt (va : VReg) (vb : VOpd) (s : State) : Out :=
  .next (s.operateNow ⟨.vcmpt va vb, .v va :: VOpd.src vb, [], [], false, 0⟩ (.ok []) (fun t =>
    if t.rv va = t.rvo vb then t
    else (t.pend .cmpm (1#8 <<< t.env.pos.toNat) (t.env.pos.setWidth 32)).attribute (t.cx.makerV va)
      (match vb with | .reg r => t.cx.makerV r | .port => none)))

end Sys2Proof.Machine
end

