-- ==== Sys2Proof/Machine/Ports.lean ====
section
/-!
DEFINITION. The link ports of the porch (spec/20 R494 to R497; spec/19 R462): credits, sequence numbers, routes, and how a flit
leaves the chip.
-/
namespace Sys2Proof.Machine

/-- A port of the porch. -/
def State.portAt (s : State) (p : Nat) : Option Port := s.porch.ports.toList[p]?

/-- A port changed. -/
def State.mapPort (s : State) (p : Nat) (f : Port → Port) : State :=
  if h : p < 12 then { s with porch := { s.porch with ports := s.porch.ports.set p (f (s.porch.ports[p]'h)) h } } else s

/-- The port by which another chip is reached: the lowest one of its route that is in service (R497). -/
def State.routePort (s : State) (chip : BitVec 6) : Option Nat :=
  let r := s.porch.routes[chip.toNat]'(chip.isLt)
  (List.range 12).find? (fun p =>
    r.getLsbD p && (match s.porch.ports.toList[p]? with
      | some q => q.trained && q.service == .inService
      | none => false))

/-! ## Sending (R462, R494, R496, R497) -/

/-- The credits of a channel of a port. -/
def Port.credit (x : Port) (vc : BitVec 4) : BitVec 16 := x.credits[vc.toNat]'(vc.isLt)
/-- Credits added to a channel, or one taken. -/
def Port.addCredit (x : Port) (vc : BitVec 4) (n : BitVec 16) : Port :=
  { x with credits := x.credits.set vc.toNat (x.credit vc + n) vc.isLt }

/-- A flit leaves a port with the next sequence number, and stays there for a replay (R494). -/
def Port.transmit (x : Port) (f : Flit) : Port :=
  { x with sent := x.sent ++ [{ f with seq := x.txSeq }], txSeq := x.txSeq + 1 }

/-- A port may send traffic now: it is in service, trained, and its partner has not asked it to hold (R462). -/
def Port.open (x : Port) : Bool := x.service == .inService && x.trained && !x.holding

/-- The flits that a port holds go out as far as credits allow, those of one channel in order; with the flits still to look
at, and those kept (R462, R496). -/
def Port.drainFrom (x : Port) : List Flit → List Flit → Port
  | [], kept => { x with held := kept }
  | f :: l, kept =>
    if x.open && decide (x.credit f.vc ≠ 0) && !kept.any (fun k => k.vc == f.vc) then
      ((x.addCredit f.vc (-1)).transmit f).drainFrom l kept
    else x.drainFrom l (kept ++ [f])
/-- A port's held flits sent as far as possible. -/
def Port.drain (x : Port) : Port := x.drainFrom x.held []

/-- Traffic given to a port: it goes out on a credit of its channel, behind what is held there (R462, R496). -/
def Port.offer (x : Port) (f : Flit) : Port := ({ x with held := x.held ++ [f] } : Port).drain

/-- The ports of a chip's route (R497). -/
def State.routeMask (s : State) (chip : BitVec 6) : BitVec 12 := s.porch.routes[chip.toNat]'(chip.isLt)

/-- The port of a route: the lowest one in service; the lowest one while none is, and it holds the traffic (R462, R497). -/
def State.exitPort (s : State) (chip : BitVec 6) : Option Nat :=
  match s.routePort chip with
  | some p => some p
  | none => (List.range 12).find? (fun p => (s.routeMask chip).getLsbD p)

/-- A port holds a flit of the same channel, source and destination (R496). -/
def Port.holdsOf (x : Port) (f : Flit) : Bool := x.held.any (fun g => g.vc == f.vc && g.schip == f.schip && g.dchip == f.dchip)

/-- The port by which a flit leaves: the one that holds an earlier one of its order, else its route's (R496, R497). -/
def State.portFor (s : State) (f : Flit) : Option Nat :=
  match (List.range 12).find? (fun p => (s.portAt p).any (·.holdsOf f)) with
  | some p => some p
  | none => s.exitPort f.dchip

/-- A flit sent toward its destination; one without a route goes nowhere (R497). -/
def State.sendFlit (s : State) (f : Flit) : State :=
  match s.portFor f with
  | some p => s.mapPort p (fun x => x.offer f)
  | none => s

/-- An answer on a channel to a chip's request of a tag: RSP, EPA or ERR (R495, R497, R499). -/
def State.answerTo (s : State) (vc : BitVec 4) (chip : BitVec 6) (tag : BitVec 16) (kind : BitVec 4) : State :=
  s.sendFlit { vc := vc, kind := kind, dchip := chip, schip := s.chip, psn := false, last := true, tag := tag, seq := 0, pay := 0 }

/-- An answer to a flit. -/
def State.answer (s : State) (f : Flit) (kind : BitVec 4) : State := s.answerTo f.vc f.schip f.tag kind

/-- n credits of a channel returned toward a chip, one CRED each; a CRED takes no credit itself (R350, R495, R496;
notes/assumptions/36.md). -/
def State.returnCredits (s : State) (vc : BitVec 4) (chip : BitVec 6) (n : Nat) : State :=
  match s.exitPort chip with
  | some p =>
    s.mapPort p (fun x => (List.replicate n
      (⟨vc, 4, chip, s.chip, false, true, 0, 0, 0⟩ : Flit)).foldl Port.transmit x)
  | none => s

/-- A channel of a port has a credit for one flit more than it holds: there is no stop signal (R350, R496). -/
def Port.hasCredit (x : Port) (vc : BitVec 4) : Bool :=
  decide ((x.held.filter (fun f => f.vc == vc)).length < (x.credit vc).toNat)

/-! ## The 64 bytes of a flit (R494) -/

/-- Bytes 0x00 to 0x07 of a flit. -/
def flitHeader (f : Flit) : Word :=
  f.seq ++ f.tag ++ (0 : BitVec 10) ++ BitVec.ofBool f.last ++ BitVec.ofBool f.psn ++ f.schip ++ f.dchip ++ f.kind ++ f.vc

/-- Bytes 0x00 to 0x3B of a flit. -/
def flitChecked (f : Flit) : List Byte := leBytes 8 (flitHeader f).toNat ++ leBytes 48 f.pay.toNat ++ leBytes 4 0

/-- The 64 bytes of a flit, its CRC last. -/
def flitBytes (f : Flit) : List Byte := flitChecked f ++ leBytes 4 (crc32c (flitChecked f)).toNat

/-- The fields of 64 bytes as they stand. -/
def flitFields (w : BitVec 512) : Flit :=
  { vc := w.extractLsb' 0 4, kind := w.extractLsb' 4 4, dchip := w.extractLsb' 8 6, schip := w.extractLsb' 14 6,
    psn := w.getLsbD 20, last := w.getLsbD 21, tag := w.extractLsb' 32 16, seq := w.extractLsb' 48 16, pay := w.extractLsb' 64 384 }

/-- The CRC of 64 bytes is right. -/
def flitCrcOk (w : BitVec 512) : Bool := crc32c (leBytes 60 w.toNat) == w.extractLsb' 480 32

/-- What the 64 bytes that arrive at a port are: a flit, which the event of its KIND takes, or a SEQ to replay from, which a
FLIT_CRC_FAILURE takes (R494, R495). -/
def flitArrived (w : BitVec 512) : Except (BitVec 16) Flit :=
  if flitCrcOk w then .ok (flitFields w) else .error (flitFields w).seq

end Sys2Proof.Machine
end

