-- ==== Sys2Proof/Machine/Exchange.lean ====
section
/-!
DEFINITION. Point-to-point exchange in the X slot (spec/13 R348 to R355): send, sends, recv, recva, recvm, recvs, with
the event SEND_ARRIVAL.
-/
namespace Sys2Proof.Machine

/-! ## Destinations (R348) -/

/-- The number of tasks of a launch, X·Y·Z of its record (R88, R413). -/
def Launch.tasks (l : Launch) : Nat := (l.field 0x08 2 + 1) * (l.field 0x0A 2 + 1) * (l.field 0x0C 2 + 1)
/-- The launch is marked co-resident (R413). -/
def Launch.cor (l : Launch) : Bool := l.record.getLsbD (8 * 0x12)

/-- The task of a launch with a placement index, where it runs: its context and serial number (R348). -/
def State.placedAt (s : State) (launch pidx : Nat) : Option (CtxId × Nat) :=
  ((List.range 2048).map (BitVec.ofNat 11)).findSome? (fun c =>
    match (s.ctx c).task with
    | some t => if t.launch = launch ∧ t.pidx = pidx then some (c, t.serial) else none
    | none => none)

/-- The task of a launch with a placement index, while its resume group is out of service (R352, R425). -/
def State.placedOut (s : State) (launch pidx : Nat) : Option Nat :=
  s.groups.findSome? (fun g => g.images.findSome? (fun i =>
    match i.2.task with
    | some t => if t.launch = launch ∧ t.pidx = pidx then some t.serial else none
    | none => none))

/-- The context that runs a task now (R348). -/
def State.runsTask (s : State) (serial : Nat) : Option CtxId :=
  ((List.range 2048).map (BitVec.ofNat 11)).find? (fun c =>
    match (s.ctx c).task with
    | some t => t.serial == serial
    | none => false)

/-- The lowest virtual channel of a context's region (R408: LVC). -/
def State.channelOf (s : State) (c : CtxId) : Option Nat :=
  match s.ctxRgn c with
  | some r => (List.range 16).find? (fun v => r.lvc.getLsbD v)
  | none => none

/-- The core of a task of this chip with a placement index: where it runs, or where its saved images left (R348, R425). -/
def State.placedCore (s : State) (launch pidx : Nat) : Option CtxId :=
  ((s.placedAt launch pidx).map (·.1)).or
    (s.groups.findSome? (fun g => g.images.findSome? (fun i =>
      match i.2.task with
      | some t => if t.launch = launch ∧ t.pidx = pidx then some (CtxId.of g.core i.1) else none
      | none => none)))

/-- The access table that stands before a destination permits the sending: that of the destination's cluster, under a key of
the queue that R486 leaves open, or that of the porch (R125, R348, R486; notes/assumptions/47.md). -/
def State.sendPermitted (s : State) (launch pidx : Nat) (q : BitVec 3) (chip : BitVec 6) : Bool :=
  let m := masterOf (s.ctxPart s.env.cid) 0
  if chip = s.chip then
    match s.placedCore launch pidx with
    | some c => s.permitsKey (.hall c.core.cluster) m .write (Config.queueKey (8 * c.toNat + q.toNat)).toNat
    | none => true
  else
    match s.routePort chip, s.channelOf s.env.cid with
    | some p, some v => s.permitsKey .porch m .write (16 * p + v)
    | _, _ => true

/-- The number of tasks that a launch places on a chip: on another, one that the image of this chip does not tell (R348;
notes/assumptions/24.md). -/
def State.tasksOn (s : State) (l : Launch) (chip : BitVec 6) : Nat :=
  if chip = s.chip then l.tasks else Config.tasksAbroad chip l.id

/-- The checks of R348 on a descriptor at issue. -/
def State.checkSend (s : State) (w : Word) : Except IssueTrap (List Touch) :=
  let chip : BitVec 6 := w.setWidth 6
  let pidx := (w.extractLsb' 6 11).toNat
  if w.extractLsb' 20 44 ≠ 0 then .error ⟨.ill, 0, 0⟩
  else
    match s.cx.task.bind (fun t => s.launchOf t.launch) with
    | none => .error ⟨.accv, 0, 0⟩
    | some l =>
      if decide (chip.toNat < s.chips) && decide (pidx < s.tasksOn l chip) && l.cor &&
          s.sendPermitted l.id pidx (w.extractLsb' 17 3) chip then .ok []
      else .error ⟨.accv, 0, 0⟩

/-! ## Sends (R350, R354) -/

/-- Entries that a queue of a task on this chip holds or that are on their way to it. -/
def State.queueUse (s : State) (serial : Nat) (q : BitVec 3) (held : Nat) : Nat :=
  held + (s.sends.filter (fun x => x.chip == s.chip && x.dserial == serial && x.q == q)).length

/-- The destination grants an entry now: its queue has room and its task is in service (R350, R352). A task that has
retired takes nothing and stops nothing (R349). For another chip the channel has a credit, and no more than 64 entries for the
queue are unanswered; a chip without a route answers at once (R350, R496, R497). -/
def State.sendReady (s : State) (w : Word) : Bool :=
  let chip : BitVec 6 := w.setWidth 6
  let pidx := (w.extractLsb' 6 11).toNat
  let q : BitVec 3 := w.extractLsb' 17 3
  let launch := (s.cx.task.map (·.launch)).getD 0
  if chip = s.chip then
    match s.placedAt launch pidx with
    | some (c, n) => decide (s.queueUse n q ((s.ctx c).queue q).length < 64)
    | none => (s.placedOut launch pidx).isNone
  else if s.routeMask chip = 0 then true
  else
    decide ((s.sends.filter (fun x => x.chip == chip && x.dserial == pidx && x.q == q)).length < 64) &&
    match s.channelOf s.env.cid, (s.exitPort chip).bind s.portAt with
    | some v, some x => x.hasCredit (BitVec.ofNat 4 v)
    | _, _ => false

/-- The flits of a request with n flits of data: a REQ and n DATA, marked with the poison of what they carry; their payloads have no
layout in the manual (R479, R494). -/
def requestFlits (n free : Nat) (vc : BitVec 4) (dchip schip : BitVec 6) (tag : BitVec 16) (poison : Bool) : List Flit :=
  (List.range (n + 1)).map (fun k =>
    { vc := vc, kind := if k = 0 then 1 else 2, dchip := dchip, schip := schip, psn := poison, last := k == n, tag := tag,
      seq := 0, pay := Config.sendPayload (free + k) })

/-- A request of a local endpoint goes out to another chip on a channel: its flits, and the outstanding request that waits for an
answer (R494, R499). -/
def State.request (s : State) (n : Nat) (vc : BitVec 4) (chip : BitVec 6) (use : LinkUse) (poison : Bool) : State :=
  let tag : BitVec 16 := BitVec.ofNat 16 s.nextId
  (requestFlits n s.free vc chip s.chip tag poison).foldl State.sendFlit
    { s with
      nextId := s.nextId + 1, free := s.free + n + 1,
      porch := { s.porch with outstanding := (tag, vc, chip, use) :: s.porch.outstanding } }

/-- An entry leaves the port: an engine thread of class SEND, and over a link an outstanding request whose flits go out; one
for a chip without a route has ended with EPA (R354, R494, R497, R499, R500). -/
def State.leavePort (s : State) (w : Word) (val : VecWord) : State :=
  let chip : BitVec 6 := w.setWidth 6
  let pidx := (w.extractLsb' 6 11).toNat
  let at' := s.placedAt ((s.cx.task.map (·.launch)).getD 0) pidx
  let n := s.nextId
  let x : Send :=
    { s.owner with
      origin := none, id := n, chip := chip, dest := (at'.map (·.1)).getD 0,
      dserial := if chip = s.chip then (at'.map (·.2)).getD 0 else pidx, q := w.extractLsb' 17 3, val := val,
      poison := false }
  let s1 : State := { s with nextId := n + 1, sends := s.sends ++ [x] }
  if chip = s.chip then s1
  else if s.routeMask chip = 0 then { s with nextId := n + 1 }
  else s1.request 6 (BitVec.ofNat 4 ((s.channelOf s.env.cid).getD 0)) chip (.send n) false

/-- send (R353, R354): 64 lanes captured at issue; a stopped one waits in the X slip buffer under DLW (R350). -/
def execSend (v : VReg) (a : SOpd) (s : State) : Out :=
  let sh : Shape := ⟨.send v a, SOpd.src a, [.v v], [], false, 0⟩
  .next (s.operate sh (s.checkSend (s.rso a)) (fun tc t =>
    t.implicitWait sh tc (t.sendReady (t.rso a)) (fun u => u.leavePort (u.rso a) (u.rv v))))

/-- sends: one scalar in bytes 0 to 7 of the entry (R353, R354). -/
def execSends (a b : SReg) (s : State) : Out :=
  let sh : Shape := ⟨.sends a b, [.s a], [.s b], [], false, 0⟩
  .next (s.operate sh (s.checkSend (s.rs a)) (fun tc t =>
    t.implicitWait sh tc (t.sendReady (t.rs a)) (fun u => u.leavePort (u.rs a) (ofWord (u.rs b)))))

/-- Two entries come from one source: a task of this chip, or a channel from another chip (R168, R349, R496). -/
def Send.sameSource (x y : Send) : Bool :=
  match x.origin, y.origin with
  | none, none => y.cid == x.cid && y.serial == x.serial
  | some a, some b => a.1 == b.1 && a.2.1 == b.2.1
  | _, _ => false

/-- Another entry of the same source for the same queue left before this one (R168, R349). -/
def State.sendBehind (s : State) (x : Send) : Bool :=
  s.sends.any (fun y =>
    x.sameSource y && y.chip == x.chip && y.dserial == x.dserial && y.q == x.q && decide (y.id < x.id))

/-- An entry's thread has ended, and with it its request over a link. -/
def State.endSend (s : State) (id : Nat) : State :=
  { s with
    sends := s.sends.filter (fun x => x.id != id),
    porch := { s.porch with outstanding := s.porch.outstanding.filter (fun o => o.2.2.2 != .send id) } }

/-- The destination of an entry is out of service: it waits (R352). -/
def State.destOut (s : State) (x : Send) : Bool :=
  s.groups.any (fun g => g.images.any (fun i => match i.2.task with | some t => t.serial == x.dserial | none => false))

/-- An entry from another chip has been taken: its request is answered, and the credit of its last flit comes back (R350,
R496, R499). -/
def State.answerSend (s : State) (x : Send) : State :=
  match x.origin with
  | none => s
  | some (vc, chip, tag) =>
    (({ s with porch := { s.porch with
        inbound := s.porch.inbound.filter (fun f => !(f.2.tag == tag && f.2.schip == chip)) } } : State).answerTo vc chip tag 3
      ).returnCredits vc chip 1

/-- SEND_ARRIVAL: the oldest entry of its source for its queue enters the queue, once there is room; that of a retired task is
discarded, and one for another chip has entered its queue there (R349 to R352, R354). -/
def execSendArrival (id : Nat) (s : State) : Out :=
  .next (match s.sends.find? (fun x => x.id == id) with
    | none => s
    | some x =>
      if s.sendBehind x then s
      else if x.chip ≠ s.chip then s.endSend id
      else if s.destOut x then s
      else
        match s.runsTask x.dserial with
        | some c =>
          if 64 ≤ ((s.ctx c).queue x.q).length then s
          else ((s.mapCtx c (fun y => y.setQueue x.q (y.queue x.q ++ [(x.val, x.poison)]))).endSend id).answerSend x
        | none => (s.endSend id).answerSend x)

/-- The flits of a transfer that this chip has received so far, the given one the last. -/
def State.transferOf (s : State) (f : Flit) : List Flit :=
  s.porch.inbox.filter (fun g => g.schip == f.schip && g.tag == f.tag && g.vc == f.vc)

/-- An inbound request is answered with RSP or ERR and is no longer open (R495, R499). -/
def State.answerRequest (s : State) (f : Flit) (kind : BitVec 4) : State :=
  ({ s with porch := { s.porch with
      inbound := s.porch.inbound.filter (fun x => !(x.2.tag == f.tag && x.2.schip == f.schip)) } } : State).answer f kind

/-- The access table that stands before a queue here lets a request of another chip for a partition's job enter it (R484, R486). -/
def State.arrivalPermitted (s : State) (part : BitVec 4) (launch pidx : Nat) (q : BitVec 3) : Bool :=
  (s.placedCore launch pidx).all (fun c =>
    s.permitsKey (.hall c.core.cluster) (masterOf part 6) .write (Config.queueKey (8 * c.toNat + q.toNat)).toNat)

/-- A transfer from another chip is complete. Where its payload stands for a send that the queue's table permits, the entry is on
its way to its queue, with the poison of its flits, and the credit of its last flit comes back when the queue takes it; a denied
one ends with ERR. Every other request is answered. The credits of the flits come back (R349, R350, R352, R484, R487, R494, R496;
notes/assumptions/36.md). -/
def State.endTransfer (s0 : State) (f : Flit) : State :=
  let l := s0.transferOf f
  let s : State := { s0 with porch := { s0.porch with inbox := s0.porch.inbox.filter (fun g => !l.contains g) } }
  let part := Config.requestPart f.schip ((l.head?.map (·.pay)).getD 0)
  match Config.transferSend f.schip (l.map (·.pay)) with
  | none => (s.answerRequest f 3).returnCredits f.vc f.schip l.length
  | some (launch, pidx, q, val) =>
    if !s.arrivalPermitted part launch pidx q then (s.answerRequest f 8).returnCredits f.vc f.schip l.length
    else
      let at' := s.placedAt launch pidx
      let serial := match at' with
        | some p => p.2
        | none => (s.placedOut launch pidx).getD 0
      let x : Send :=
        { cid := 0, serial := 0, launch := launch, lidx := 0, region := 0, part := part, phase := none, ctm := 0,
          origin := some (f.vc, f.schip, f.tag), id := s.nextId, chip := s.chip, dest := (at'.map (·.1)).getD 0, dserial := serial,
          q := q, val := val, poison := l.any (·.psn) }
      ({ s with nextId := s.nextId + 1, sends := s.sends ++ [x] } : State).returnCredits f.vc f.schip (l.length - 1)

/-- A flit of a transfer is filed for its local endpoint (R494, R497). -/
def State.fileFlit (s : State) (f : Flit) : State :=
  let u : State := { s with porch := { s.porch with inbox := s.porch.inbox ++ [f] } }
  if f.last then u.endTransfer f else u

/-! ## Pops (R355) -/

/-- A pop: it waits while queue q is empty, then takes the oldest entry (R355). -/
def State.popEntry (s : State) (sh : Shape) (q : BitVec 3) (k : VecWord × Bool → State → State) : Out :=
  .next (s.operate sh (.ok []) (fun tc t =>
    match t.cx.queue q with
    | [] => t.implicitWait sh tc false id
    | e :: l => t.implicitWait sh tc true (fun u => k e (u.mapCx (fun x => x.setQueue q l)))))

/-- recv (R355). -/
def execRecv (v : VReg) (q : BitVec 3) (s : State) : Out :=
  s.popEntry ⟨.recv v q, [], [], [(.v v, 4)], false, 0⟩ q (fun e t => t.deliverLoad 4 (.v v) e.1 true e.2)

/-- recvs (R355). -/
def execRecvs (d : SReg) (q : BitVec 3) (s : State) : Out :=
  s.popEntry ⟨.recvs d q, [], [], [(.s d, 4)], false, 0⟩ q (fun e t => t.deliverLoad 4 (.s d) (ofWord (toWord e.1)) true e.2)

/-- The lane sum of recva: FP32 under RNE, or modulo 2^32 when FE narrows it (R355). -/
def popAdd (pfx : Prefix) (x y : Lane) : Lane × Flags :=
  if pfx.fe ∧ Fmt.ofCode pfx.fmt ≠ some .fp32 then (x + y, Flags.none) else fadd32 .rne false x y

/-- recva (R355): its flags contribute, and an enabled one raises FPX. -/
def execRecva (v : VReg) (q : BitVec 3) (s : State) : Out :=
  s.popEntry ⟨.recva v q, [], [.v v], [(.v v, 6)], true, 0⟩ q (fun e t =>
    let r := ((lanes (t.rv v)).zip (lanes e.1)).map (fun p => popAdd t.env.pfx p.1 p.2)
    let fl := Flags.union (r.map (·.2))
    let p := t.consume e.2
    p.1.deliverR 6 { Result.base with
      dest := .v v, val := ofLanes (r.map (·.1)), flags := fl, fpx := t.fpxOf fl, mayFlag := true, preg := p.2 })

/-- The lane maximum of recvm: FP32, or signed or unsigned when FE narrows it (R355). -/
def popMax (pfx : Prefix) (x y : Lane) : Lane :=
  if pfx.fe then
    match Fmt.ofCode pfx.fmt with
    | some .i32 => if x.slt y then y else x
    | some .w32 => if x.ult y then y else x
    | _ => fmax32 x y
  else fmax32 x y

/-- recvm (R355). -/
def execRecvm (v : VReg) (q : BitVec 3) (s : State) : Out :=
  s.popEntry ⟨.recvm v q, [], [.v v], [(.v v, 6)], false, 0⟩ q (fun e t =>
    t.deliverLoad 6 (.v v) (ofLanes (((lanes (t.rv v)).zip (lanes e.1)).map (fun p => popMax t.env.pfx p.1 p.2))) true e.2)

end Sys2Proof.Machine
end

