-- ==== Sys2Proof/Machine/Omnibus.lean ====
section
/-!
DEFINITION. Collectives (spec/13 R356 to R369; spec/20 R491): xpost, xcanc and xqry, the orders in which an omnibus
combines contributions, and the events OMNIBUS_STEP, EARLY_ARRIVAL, INSTANCE_TIMEOUT, PEER, COLLECTIVE_COMPLETION and
CANCELLATION_REPORT.
-/
namespace Sys2Proof.Machine

/-! ## The parameter block (R358) and the group (R359) -/

/-- A field of n bytes of a parameter block. -/
def blk (b : BitVec 1024) (off n : Nat) : Nat := b.toNat / 2 ^ (8 * off) % 2 ^ (8 * n)
/-- OP. -/
def blkOp (b : BitVec 1024) : Nat := blk b 0 1
/-- The format DT, when it is one that R358 admits. -/
def blkFmt (b : BitVec 1024) : Option Fmt :=
  match blk b 1 1 % 16 with
  | 0 => some .fp32 | 1 => some .bf16 | 2 => some .e4m3 | 6 => some .i32 | 7 => some .i64 | 10 => some .w32
  | 11 => some .w64 | _ => none
/-- DT, FP32 where it is none. -/
def blkDt (b : BitVec 1024) : Fmt := (blkFmt b).getD .fp32
/-- RED. -/
def blkRed (b : BitVec 1024) : Nat := blk b 1 1 / 16
/-- ALG. -/
def blkAlg (b : BitVec 1024) : Nat := blk b 2 1
/-- COUNT. -/
def blkCount (b : BitVec 1024) : Nat := blk b 0x20 8
/-- ROOT. -/
def blkRoot (b : BitVec 1024) : Nat := blk b 6 2
/-- ORG and SPN. -/
def blkNode (b : BitVec 1024) : Nat × Nat := (blk b 0x40 8, blk b 0x48 1)
/-- An address field. -/
def blkAddr (b : BitVec 1024) (off : Nat) : Word := BitVec.ofNat 64 (blk b off 8)
/-- OP reduces (R360). -/
def blkReduces (b : BitVec 1024) : Bool := decide (blkOp b ≤ 2)

/-- The checks that the block decides alone (R357 step 1, R358). -/
def blkOk (b : BitVec 1024) : Bool :=
  match blkFmt b with
  | none => false
  | some dt =>
    let tree := blkAlg b == 2 && blkReduces b
    decide (blkOp b ≤ 5) && decide (blkRed b ≤ 5) && (decide (blkRed b ≤ 2) || !dt.isFloat) && decide (blkAlg b ≤ 2) &&
    blk b 3 1 == 0 && blk b 0x49 55 == 0 && decide (1 ≤ blkCount b) && decide (blkCount b ≤ 2 ^ 32) &&
    decide (blk b 0x28 8 % 65536 = 0) && decide (131072 ≤ blk b 0x28 8) && decide ((blkNode b).2 ≤ 40) &&
    decide ((blkNode b).1 % 2 ^ (blkNode b).2 = 0) && (tree || blkNode b == (0, 0)) &&
    decide (blk b 8 8 % 16 = 0) && decide (blk b 0x10 8 % dt.bytes = 0) && decide (blk b 0x18 8 % dt.bytes = 0) &&
    decide (blk b 0x30 8 % 16 = 0)

/-- The bytes of the source buffer of n members (R360). -/
def srcBytes (b : BitVec 1024) (n : Nat) : Nat :=
  blkCount b * (blkDt b).bytes * (if blkOp b = 2 ∨ blkOp b = 5 then n else 1)
/-- The bytes of the destination buffer of n members (R360). -/
def dstBytes (b : BitVec 1024) (n : Nat) : Nat :=
  blkCount b * (blkDt b).bytes * (if blkOp b = 3 ∨ blkOp b = 5 then n else 1)
/-- A rank reads its source (R360). -/
def readsSrc (b : BitVec 1024) (rank : Nat) : Bool := blkOp b != 4 || rank == blkRoot b
/-- A rank writes its destination (R360). -/
def writesDst (b : BitVec 1024) (rank : Nat) : Bool := blkOp b != 1 || rank == blkRoot b

/-- The group entry of an omnibus of this chip (R359). -/
def State.ownEntry16 (s : State) (die : BitVec 2) : BitVec 16 := (0#8 ++ die ++ s.chip : BitVec 16)
/-- The chip that an entry names. -/
def entryChip (e : BitVec 16) : BitVec 6 := e.setWidth 6
/-- The die that an entry names. -/
def entryDie (e : BitVec 16) : BitVec 2 := e.extractLsb' 6 2

/-- What step 2 or 6 of R357 finds of a range: FAULT 7, ACCESS 6, or nothing. -/
def State.rangeStatus (s : State) (part : BitVec 4) (a : Access) (va : Word) (n : Nat) : Nat :=
  match s.translateAll none part a va n with
  | .error _ => 7
  | .ok rs => if rs.all (s.permitsRun (masterOf part 2) a) then 0 else 6

/-- The worst of several ranges: FAULT before ACCESS (R357 step 6). -/
def worstStatus (l : List Nat) : Nat := if l.contains 7 then 7 else if l.contains 6 then 6 else 0

/-- NMEM, the header's further fields, and the entries of a group descriptor, or the status that refuses it (R357 steps 2
and 3, R359). -/
def State.readGroup (s : State) (part : BitVec 4) (die : BitVec 2) (b : BitVec 1024) : Except Nat (List (BitVec 16)) :=
  let va := blkAddr b 8
  let read (v : Word) (n : Nat) : Nat := (s.globalNat part 2 v n).getD 0
  let st := s.rangeStatus part .read va 16
  if st ≠ 0 then .error st
  else
    let h := read va 16
    let n := h % 65536
    if n = 0 ∨ n > 256 then .error 2
    else
      let st2 := s.rangeStatus part .read (va + 16) (2 * n)
      if st2 ≠ 0 then .error st2
      else
        let es := (List.range n).map (fun k => BitVec.ofNat 16 (read (va + BitVec.ofNat 64 (16 + 2 * k)) 2))
        if h / 65536 % 65536 = blk b 4 2 ∧ h / 2 ^ 32 = 0 ∧ es.all (fun e => e.extractLsb' 8 8 == 0 &&
            decide ((entryChip e).toNat < s.chips)) ∧ (es.filter (fun e => e == s.ownEntry16 die)).length = 1 then .ok es
        else .error 2

/-- The posts that an omnibus holds (R357). -/
def State.heldPosts (s : State) (die : BitVec 2) : List Post := s.posts.filter (fun p => p.die == die && p.st == .run)
/-- The staging bytes that posts hold (R364). -/
def stagingOf (l : List Post) : Nat := (l.map (fun p => blk p.block 0x28 8)).sum

/-- The pool and the partition's quota supply the staging of a block now (R364, R491). -/
def State.stagingFits (s : State) (part : BitVec 4) (die : BitVec 2) (b : BitVec 1024) : Bool :=
  let held := s.heldPosts die
  let n := blk b 0x28 8
  decide (stagingOf held + n ≤ 64 * 2 ^ 20) &&
  decide (stagingOf (held.filter (fun p => p.part == part)) + n ≤
    ((s.partOf part).quotas[die.toNat]'(die.isLt)).toNat * 2 ^ 20)

/-- The checks of an omnibus on a block in the order of R357: a status, or the group's entries and the rank. -/
def State.checkPost (s : State) (c : CtxId) (b : BitVec 1024) : Except Nat (List (BitVec 16) × Nat) :=
  let part := s.ctxPart c
  let die := c.core.cluster.die
  if !blkOk b then .error 1
  else
    match s.readGroup part die b with
    | .error st => .error st
    | .ok es =>
      let n := es.length
      let rank := es.findIdx (fun e => e == s.ownEntry16 die)
      let bufs :=
        (if readsSrc b rank then [s.rangeStatus part .read (blkAddr b 0x10) (srcBytes b n)] else []) ++
        (if writesDst b rank then [s.rangeStatus part .write (blkAddr b 0x18) (dstBytes b n)] else []) ++
        [s.rangeStatus part .sync (blkAddr b 0x30) 16] ++
        [if s.permitsKey (.omnibus die) (masterOf part 0) .write (blk b 4 2) then 0 else 6]
      if blkRoot b ≥ n ∨ srcBytes b n > 2 ^ 40 ∨ dstBytes b n > 2 ^ 40 then .error 1
      else if s.isExact c && blkReduces b && blkRed b == 0 && (blkDt b).isFloat && blkAlg b != 2 then .error 3
      else if worstStatus bufs ≠ 0 then .error (worstStatus bufs)
      else if (s.heldPosts die).length ≥ 64 then .error 5
      else if !s.stagingFits part die b then .error 4
      else .ok (es, rank)

/-! ## Combination (R361 to R363) -/

/-- A value under combination, with the flags raised for it. -/
abbrev Summand := Word × Flags

/-- One combination of two values of a format (R361). -/
def combine (dt : Fmt) (red : Nat) (a b : Summand) : Summand :=
  let fl := a.2.or b.2
  if dt.isFloat then
    let x : Lane := a.1.setWidth 32
    let y : Lane := b.1.setWidth 32
    match red with
    | 0 => let r := fadd32 .rne false x y
           (r.1.setWidth 64, fl.or r.2)
    | 1 => ((fmax32 x y).setWidth 64, fl)
    | _ => ((fmin32 x y).setWidth 64, fl)
  else
    let i := fmtInt dt a.1
    let j := fmtInt dt b.1
    match red with
    | 0 => (fmtOfInt dt (i + j), fl)
    | 1 => (if i < j then b.1 else a.1, fl)
    | 2 => (if j < i then b.1 else a.1, fl)
    | 3 => (a.1 &&& b.1, fl)
    | 4 => (a.1 ||| b.1, fl)
    | _ => (a.1 ^^^ b.1, fl)

/-- An input element: floats converted exactly to FP32 (R361). -/
def partIn (dt : Fmt) (w : Nat) : Summand :=
  (if dt.isFloat ∧ dt ≠ .fp32 then (convert dt .fp32 .rne false (BitVec.ofNat 64 w)).1 else BitVec.ofNat 64 w, Flags.none)
/-- A destination element: a float rounded once to DT, its NaN the canonical one even of a single contribution (R27,
R361). -/
def partOut (dt : Fmt) (p : Summand) : Summand :=
  if dt.isFloat then
    let r := convert .fp32 dt .rne false p.1
    (r.1, p.2.or r.2)
  else p

/-- The value of a rank; 0 for one that is missing. -/
def rankPart (l : List Summand) (r : Nat) : Summand := l.getD r (0, Flags.none)

/-- Ring order: the element's block starts at rank b + 1, and each rank adds on the right (R362). -/
def ringOrder (op : Summand → Summand → Summand) (l : List Summand) (total e : Nat) : Summand :=
  let n := l.length
  let size := (total + n - 1) / n
  let b := e / size
  ((List.range (n - 1)).map (fun i => rankPart l ((b + 2 + i) % n))).foldl op (rankPart l ((b + 1) % n))

/-- The children of a node of the binomial tree of n ranks, counted from its root (R362). -/
def treeKids (n r : Nat) : List Nat :=
  ((List.range 9).filter (fun k => (r == 0 || decide (r % 2 ^ (k + 1) = 0)) && decide (r + 2 ^ k < n))).map (fun k => r + 2 ^ k)

/-- A list in the order of arrival, which timing decides (R362). -/
def arrivalOrder (key : Nat) : Nat → List Nat → List Nat
  | 0, l => l
  | k + 1, l =>
    match l with
    | [] => []
    | _ :: _ =>
      let i := Config.arrivalPick (16 * key + k) % l.length
      l.getD i 0 :: arrivalOrder key k (l.eraseIdx i)

/-- The partial of a node of the binomial tree: its own value, then its children's in their order of arrival (R362). -/
def treeNode (op : Summand → Summand → Summand) (l : List Summand) (root key : Nat) : Nat → Nat → Summand
  | 0, r => rankPart l ((r + root) % l.length)
  | fuel + 1, r =>
    ((arrivalOrder (256 * key + r) 9 (treeKids l.length r)).map (treeNode op l root key fuel)).foldl op
      (rankPart l ((r + root) % l.length))

/-- One level of the ordered tree: pairs combined, lone nodes passed on (R363). -/
def treeLevel (op : Summand → Summand → Summand) (s : Nat) (l : List (Nat × Nat × Summand)) : List (Nat × Nat × Summand) :=
  l.filterMap (fun x =>
    if x.2.1 ≠ s then some x
    else if x.1 % 2 ^ (s + 1) = 0 then
      match l.find? (fun y => y.1 == x.1 + 2 ^ s && y.2.1 == s) with
      | some y => some (x.1, s + 1, op x.2.2 y.2.2)
      | none => some (x.1, s + 1, x.2.2)
    else if l.any (fun y => y.1 == x.1 - 2 ^ s && y.2.1 == s) then none
    else some (x.1 - 2 ^ s, s + 1, x.2.2))

/-- The ordered tree from a level on, with fuel for the levels (R363). -/
def orderedTree (op : Summand → Summand → Summand) : Nat → Nat → List (Nat × Nat × Summand) → Summand
  | 0, _, l => (l.map (·.2.2)).headD (0, Flags.none)
  | fuel + 1, s, l =>
    match l with
    | [] => (0, Flags.none)
    | [x] => x.2.2
    | _ => orderedTree op fuel (s + 1) (treeLevel op s l)

/-- One reduced element of an instance from the ranks' values (R362, R363). -/
def reduceElem (b : BitVec 1024) (nodes : List (Nat × Nat)) (key total e : Nat) (l : List Summand) : Summand :=
  let op := combine (blkDt b) (blkRed b)
  let v := match blkAlg b with
    | 0 => ringOrder op l total e
    | 1 => treeNode op l (if blkOp b = 1 then blkRoot b else 0) (2 ^ 33 * key + e) 9 0
    | _ => orderedTree op 128 ((nodes.map (·.2)).foldl min 64) ((nodes.zip l).map (fun p => (p.1.1, p.1.2, p.2)))
  partOut (blkDt b) v

/-- Element e of a contribution: its value and its mark of poison. -/
def contribElem (dt : Fmt) (c : Contrib) (e : Nat) : Nat × Bool :=
  let bs := (c.data.drop (dt.bytes * e)).take dt.bytes
  (leNat (bs.map (·.1)), bs.any (·.2))

/-- What rank k writes from the contributions in rank order, and the flags of the instance (R360, R361). -/
def collect (p : Post) (key : Nat) (l : List Contrib) : List Carried × Flags :=
  let b := p.block
  let dt := blkDt b
  let c := blkCount b
  let n := p.entries.length
  let bytes := c * dt.bytes
  match blkOp b with
  | 3 => (l.flatMap (fun x => x.data.take bytes), Flags.none)
  | 4 => (((l.find? (fun x => x.rank == blkRoot b)).map (·.data)).getD [], Flags.none)
  | 5 => (l.flatMap (fun x => (x.data.drop (bytes * p.rank)).take bytes), Flags.none)
  | op =>
    let total := if op = 2 then n * c else c
    let all := (List.range total).map (fun e =>
      let es := l.map (fun x => contribElem dt x e)
      (reduceElem b (l.map (fun x => blkNode x.block)) key total e (es.map (fun v => partIn dt v.1)), es.any (·.2)))
    let mine := if op = 2 then (all.drop (c * p.rank)).take c else all
    (mine.flatMap (fun r => carryAll r.2 (leBytes dt.bytes r.1.1.toNat)), Flags.union (all.map (fun r => r.1.2)))

/-! ## Failure and cancellation (R366, R368) -/

/-- The contributions of an instance at a member. -/
def State.contribsAt (s : State) (die : BitVec 2) (gid : BitVec 16) (inst : Nat) : List Contrib :=
  s.contribs.filter (fun c => c.die == die && c.gid == gid && c.inst == inst)
/-- The contributions of an instance at a member discarded. -/
def State.dropContribs (s : State) (die : BitVec 2) (gid : BitVec 16) (inst : Nat) : State :=
  { s with contribs := s.contribs.filter (fun c => !(c.die == die && c.gid == gid && c.inst == inst)) }
/-- The post of an instance at a member. -/
def State.postAt (s : State) (die : BitVec 2) (gid : BitVec 16) (inst : Nat) : Option Post :=
  s.posts.find? (fun p => p.die == die && p.gid == gid && p.inst == inst)
/-- A post changed. -/
def State.mapPost (s : State) (id : Nat) (f : Post → Post) : State :=
  { s with posts := s.posts.map (fun p => if p.id = id then f p else p) }
/-- The requests of a post over links are forgotten (R499). -/
def State.dropRequests (s : State) (id : Nat) : State :=
  { s with porch := { s.porch with outstanding := s.porch.outstanding.filter (fun o => o.2.2.2 != .post id) } }

/-- The contribution of a rank at a member, or, for one that has not come, a free one (R9, R366; notes/assumptions/2.md). -/
def State.openContrib (s : State) (p : Post) (k : Nat) : Contrib :=
  ((s.contribsAt p.die p.gid p.inst).find? (fun c => c.rank == k)).getD
    ⟨p.die, p.gid, p.inst, k, p.block, p.entries,
      (List.range (srcBytes p.block p.entries.length)).map (fun i => (Config.missingByte (256 * s.free + k) i, false))⟩

/-- The destination of a post; none while a page does not translate or a table denies it (R360, R438, R487). -/
def State.postDest (s : State) (p : Post) : Option (List Piece) :=
  if writesDst p.block p.rank then
    s.globalPieces p.part 2 .write (blkAddr p.block 0x18) (dstBytes p.block p.entries.length)
  else some []

/-- A member writes some cells of its destination, sampled in an exact-mode phase (R177). -/
def State.writePost (s : State) (p : Post) (ps : List Piece) (l : List (Nat × Carried)) : State :=
  ((s.putCells l).wakeOn ps).sampleCells p.phase
    (withVa (blkAddr p.block 0x18) (ps.map (fun x => ⟨true, x.key, x.len⟩))) (granulesOf l)

/-- PART OF A COLLECTIVE: some of the granules of a member's destination that it has not written take the values that contributions
give them (R9, R160, R366, R368; notes/assumptions/40.md). -/
def State.postPart (s : State) (p : Post) (ps : List Piece) (cs : List Contrib) : State :=
  let l := s.openCells p.done ps ((collect p (2 ^ 32 * p.gid.toNat + p.inst) cs).1.map some)
  (({ s with free := s.free + 1 } : State).writePost p ps l).mapPost p.id (fun q => { q with done := q.done ++ granulesOf l })

/-- An access of the poster that precedes its xpost in program order still waits in a slip buffer: the thread's accesses come after
it (R160). -/
def State.olderWaits (s : State) (o : Owner) : Bool :=
  let old (l : List SlipEntry) : Bool := l.any (fun e =>
    decide (e.ctm.toNat ≤ o.ctm.toNat) && ordered e.ins.instr && !isSend e.ins.instr && !isPop e.ins.instr)
  let inCtx (x : Ctx) : Bool := x.runs o.serial && (old x.slip || x.frozen.any (fun f => old f.slip))
  inCtx (s.ctx o.cid) || s.groups.any (fun g => g.images.any (fun i => inCtx i.2))

/-- The destination of a post that has not completed is unspecified: each granule has its prior value or what the instance
writes there (R9, R366, R368). -/
def State.postUnspecified (s : State) (p : Post) : State :=
  match s.postDest p with
  | some ps => if s.olderWaits p.toOwner then s else s.postPart p ps ((List.range p.entries.length).map (s.openContrib p))
  | none => s

/-- A member's part ends without a destination: its steps stop, staging returns, and its event is set (R366, R368). -/
def State.closePost (s : State) (p : Post) (st : PostSt) (rsn : BitVec 3) : State :=
  let s1 := ((s.mapPost p.id (fun q => { q with st := st, rsn := rsn })).dropContribs p.die p.gid p.inst).dropRequests p.id
  s1.eventPut (s1.ownerAt p.toOwner (blkAddr p.block 0x30)) p.event (if st = .cancelled then 5 else 4)

/-- A member's part ends as failed or cancelled, and its destination is unspecified (R9, R366, R368). -/
def State.endPost (s : State) (p : Post) (st : PostSt) (rsn : BitVec 3) : State :=
  if p.st ≠ .run then s else (s.postUnspecified p).closePost p st rsn

/-- An instance ends at one member of this chip: its post ends, or what was to come is noted for it (R366, R368). -/
def State.endMember (s : State) (gid : BitVec 16) (inst : Nat) (st : PostSt) (rsn : BitVec 3) (die : BitVec 2) : State :=
  match s.postAt die gid inst with
  | some p => s.endPost p st rsn
  | none =>
    let s1 := s.dropContribs die gid inst
    if s1.early.any (fun e => e.1 == die && e.2.1 == gid && e.2.2.1 == inst) then s1
    else { s1 with early := (die, gid, inst, decide (st = .cancelled)) :: s1.early }

/-- The dies of this chip that a group names. -/
def State.localDies (s : State) (es : List (BitVec 16)) : List (BitVec 2) :=
  (es.filter (fun e => entryChip e == s.chip)).map entryDie

/-- The other chips that a group names. -/
def State.remoteChips (s : State) (es : List (BitVec 16)) : List (BitVec 6) :=
  ((es.map entryChip).filter (fun c => c != s.chip)).dedup

/-- The channel on which a post's omnibus speaks to other chips: the lowest one of its region (R408). -/
def State.postChannel (s : State) (p : Post) : BitVec 4 :=
  match s.rgnOf p.region with
  | some r => BitVec.ofNat 4 (((List.range 16).find? (fun v => r.lvc.getLsbD v)).getD 0)
  | none => 0

/-- The porch is up and has a route to a chip: a request for it can leave (R497, R501). -/
def State.reachable (s : State) (chip : BitVec 6) : Bool := s.porch.up && decide (s.routeMask chip ≠ 0)

/-- A report of a failure or a cancellation leaves for every other chip of the group that can be reached (R366, R368). -/
def State.reportAbroad (s : State) (p : Post) : State :=
  ((s.remoteChips p.entries).filter s.reachable).foldl (fun u c => u.request 0 (u.postChannel p) c .other false) s

/-- A failure or cancellation that begins at a member reaches every member, here and on other chips (R366, R368). SPAN and MISMATCH
are seen by each of them; a timeout or fault is PEER elsewhere. -/
def State.endInstance (s : State) (p : Post) (st : PostSt) (rsn : BitVec 3) : State :=
  let other : BitVec 3 := if st = .cancelled then 6 else if rsn = 3 ∨ rsn = 4 then rsn else 2
  ((s.localDies p.entries).foldl (fun u d => if d = p.die then u else u.endMember p.gid p.inst st other d)
    (s.endPost p st rsn)).reportAbroad p

/-- Blocks or descriptors of two members differ (R366). -/
def blocksDiffer (a b : BitVec 1024) (ea eb : List (BitVec 16)) : Bool :=
  blk a 0 3 != blk b 0 3 || blkCount a != blkCount b || blkRoot a != blkRoot b || ea != eb

/-- Two nodes cover a common leaf (R363). -/
def nodesMeet (a b : Nat × Nat) : Bool := decide (a.1 < b.1 + 2 ^ b.2) && decide (b.1 < a.1 + 2 ^ a.2)

/-- Some two of a list of contributions meet a test. -/
def anyPair (f : Contrib → Contrib → Bool) : List Contrib → Bool
  | [] => false
  | c :: l => l.any (f c) || anyPair f l

/-- The reason for which a member's contributions fail it: MISMATCH, then SPAN (R363, R366). -/
def State.postBad (s : State) (p : Post) : Option (BitVec 3) :=
  let l := s.contribsAt p.die p.gid p.inst
  if l.any (fun c => blocksDiffer c.block p.block c.entries p.entries) || anyPair (fun a b => a.rank == b.rank) l ||
     l.any (fun c => c.rank == p.rank && !p.stepped) then some 3
  else if blkAlg p.block == 2 && blkReduces p.block &&
      (anyPair (fun a b => nodesMeet (blkNode a.block) (blkNode b.block)) l ||
       l.any (fun c => c.rank != p.rank && nodesMeet (blkNode c.block) (blkNode p.block))) then some 4
  else none

/-- A member checked after contributions have come (R366). -/
def State.settlePost (s : State) (die : BitVec 2) (gid : BitVec 16) (inst : Nat) : State :=
  match s.postAt die gid inst with
  | none => s
  | some p =>
    if p.st ≠ .run then s
    else
      match s.postBad p with
      | some r => s.endInstance p .failed r
      | none => s

/-! ## xpost (R357) -/

/-- The result word of xpost (R357). -/
def postWord (num : BitVec 16) (st : Nat) : Word := (BitVec.ofNat 3 st ++ num : BitVec 19).setWidth 64

/-- The deadline of a block: clamped to DLWMAX, which 0 stands for (R358). -/
def State.postLimit (s : State) (c : CtxId) (b : BitVec 1024) : Word :=
  let d := blkAddr b 0x38
  if d = 0 then s.dlwMax c else s.clampLimit c d

/-- The number of the next instance of a GID at an omnibus (R359). -/
def State.nextInst (s : State) (die : BitVec 2) (gid : BitVec 16) : Nat :=
  match s.gidSeq.find? (fun g => g.1 == die && g.2.1 == gid) with
  | some g => g.2.2
  | none => 0

/-- A post accepted: its number and instance; one whose instance has failed or been cancelled ends at once, after a failure
without writing its destination (R359, R364 to R366, R368). -/
def State.acceptPost (s : State) (b : BitVec 1024) (es : List (BitVec 16)) (rank : Nat) : State :=
  let c := s.env.cid
  let die := c.core.cluster.die
  let gid : BitVec 16 := BitVec.ofNat 16 (blk b 4 2)
  let inst := s.nextInst die gid
  let p : Post :=
    { s.owner with
      id := s.nextId, num := s.cx.postNum, die := die, gid := gid, inst := inst, rank := rank, block := b,
      entries := es, st := .run, rsn := 0, flags := Flags.none, started := s.gcc, limit := s.postLimit c b,
      asked := false, stepped := false,
      event := ((s.globalPieces (s.ctxPart c) 2 .sync (blkAddr b 0x30) 16).bind (fun l => l.head?.map (·.key))).getD 0,
      ahead := [], done := [] }
  let s1 : State :=
    { s with
      nextId := s.nextId + 1, posts := s.posts ++ [p],
      gidSeq := (die, gid, inst + 1) :: s.gidSeq.filter (fun g => !(g.1 == die && g.2.1 == gid)) }
  let s2 := s1.mapCx (fun x => { x with postNum := x.postNum + 1 })
  match s2.early.find? (fun e => e.1 == die && e.2.1 == gid && e.2.2.1 == inst) with
  | some e => if e.2.2.2 then s2.endPost p .cancelled 6 else s2.closePost p .failed 2
  | none => s2.settlePost die gid inst

/-- What a post reads at issue, the block and its group descriptor, as far as older stores of its thread that still wait write into
it: their values are operands of the post, and pending (R153, R236, R357; notes/assumptions/52.md). -/
def State.postBehind (s : State) (tc : List Touch) : List SlipEntry :=
  let va := blkAddr (BitVec.ofNat 1024 (leNat (s.piecesBytes (piecesOf tc)))) 8
  let part := s.ctxPart s.env.cid
  let members := min 256 ((s.globalNat part 2 va 2).getD 0)
  let group := (s.globalPieces part 2 .read va (16 + 2 * members)).getD []
  s.cx.slip.filter (fun e => e.before s.env &&
    e.touch.any (fun t => t.write && piecesOverlap [⟨t.key, t.len⟩] (piecesOf tc ++ group)))

/-- The meaning of an xpost whose block passed the checks at issue: the post is accepted or rejected at once (R357). -/
def State.postNow (s : State) (d a : SReg) (tc : List Touch) : State :=
  let t := (s.accessed .read (s.rs a) (piecesOf tc)).noteAccess .glob (s.rs a) 128
  let b := BitVec.ofNat 1024 (leNat (t.piecesBytes (piecesOf tc)))
  match t.checkPost t.env.cid b with
  | .error st => t.deliverS 6 d (postWord 0 st)
  | .ok (es, rank) => (t.acceptPost b es rank).deliverS 6 d (postWord t.cx.postNum 0)

/-- xpost (R357): the block is read at issue, and the post is accepted or rejected at once; behind an older X instruction it keeps
a place in the slip buffer, with nothing left to do there (R96). Only a pending operand delays it (R236). -/
def execXpost (d a : SReg) (s : State) : Out :=
  let chk := s.checkAccess .glob .read 2 5 (s.rs a) 128 128
  let tc := match chk with
    | .ok l => l
    | .error _ => []
  let behind := if chk.isOk then s.postBehind tc else []
  if s.env.slipped.isNone ∧ s.needs [.s a] = [] ∧ behind ≠ [] then .next (s.blockBehind behind)
  else .next (s.operateNow ⟨.xpost d a, [.s a], [], [(.s d, 6)], false, 0⟩ chk (fun t => t.postNow d a tc))

/-! ## xqry and xcanc (R356, R367, R368) -/

/-- The post of the context with a number among its 64 most recent ones (R367). -/
def State.recentPost (s : State) (n : BitVec 16) : Option Post :=
  match s.cx.task with
  | none => none
  | some t =>
    if (s.cx.postNum - 1 - n).toNat < 64 then
      s.posts.reverse.find? (fun p => p.cid == s.env.cid && p.serial == t.serial && p.num == n)
    else none

/-- The codes of R367. -/
def PostSt.code : PostSt → BitVec 3
  | .run => 0 | .ok => 1 | .failed => 4 | .cancelled => 5

/-- The report of a post (R367). -/
def postReport (p : Post) : Word :=
  (BitVec.ofBool p.flags.ovf ++ BitVec.ofBool p.flags.inv ++ BitVec.ofBool p.flags.inx ++ p.rsn ++ 0#5 ++ p.st.code
    : BitVec 14).setWidth 64

/-- The status word of an unknown post: a free value whose ST is one of those that R367 allows. -/
def openReport (w : Word) : Word :=
  let st : BitVec 3 := if w.getLsbD 2 then (if w.getLsbD 0 then 5 else 4) else if w.getLsbD 0 then 1 else 0
  (w &&& ~~~ 0x7#64) ||| st.setWidth 64

/-- The oldest X instruction that waits is a send that found no credit (R350, R356). -/
def State.sendStopped (s : State) : Bool :=
  match s.cx.slotSlip 7 with
  | e :: _ => isSend e.ins.instr && (match e.wait with | some w => !w.reader | none => false)
  | [] => false

/-- The selectors that xqry admits (R356). -/
def queryOk (w : Word) : Bool :=
  let idx := (w.setWidth 16 : BitVec 16).toNat
  w.extractLsb' 16 46 == 0 &&
  (match (w.extractLsb' 62 2).toNat with
   | 0 => decide (idx < 8)
   | 1 => idx == 0
   | 2 => true
   | _ => false)

/-- xqry (R356): queue fill, sends on their way, or a collective's status; a number outside the window gives a free
value (R367). -/
def execXqry (d a : SReg) (s : State) : Out :=
  .next (s.operate ⟨.xqry d a, [.s a], [], [(.s d, 6)], false, 0⟩ (checkThat (queryOk (s.rs a)) ⟨.ill, 0, 0⟩)
    (fun _ t =>
      let w := t.rs a
      match (w.extractLsb' 62 2).toNat with
      | 0 => t.deliverS 6 d (BitVec.ofNat 64 (t.cx.queue (w.setWidth 3)).length)
      | 1 =>
        let n := (t.sends.filter (fun x => x.origin.isNone && x.cid == t.env.cid &&
          (match t.cx.task with | some k => x.serial == k.serial | none => false))).length
        t.deliverS 6 d (BitVec.ofNat 64 (n % 64 + if t.sendStopped then 64 else 0))
      | _ =>
        match t.recentPost (w.setWidth 16) with
        | some p => t.deliverS 6 d (postReport p)
        | none =>
          let r := t.drawWord
          r.2.deliverS 6 d (openReport r.1)))

/-- xcanc (R368). -/
def execXcanc (d a : SReg) (s : State) : Out :=
  .next (s.operate ⟨.xcanc d a, [.s a], [], [(.s d, 6)], false, 0⟩
    (checkThat ((s.rs a).extractLsb' 16 48 == 0) ⟨.ill, 0, 0⟩)
    (fun _ t =>
      match t.recentPost ((t.rs a).setWidth 16) with
      | none => t.deliverS 6 d 2
      | some p =>
        if p.st = .run then (t.endInstance p .cancelled 6).deliverS 6 d 0 else t.deliverS 6 d 1))

/-! ## Steps and completion (R360, R364 to R367) -/

/-- The contributions that a member's destination needs are there (R367). -/
def State.haveAll (s : State) (p : Post) : Bool :=
  let l := s.contribsAt p.die p.gid p.inst
  if !writesDst p.block p.rank then true
  else if blkOp p.block = 4 then l.any (fun c => c.rank == blkRoot p.block)
  else (List.range p.entries.length).all (fun k => l.any (fun c => c.rank == k))

/-- The contributions of a member in rank order. -/
def State.inRankOrder (s : State) (p : Post) : List Contrib :=
  (List.range p.entries.length).filterMap (fun k =>
    (s.contribsAt p.die p.gid p.inst).find? (fun c => c.rank == k))

/-- A contribution has room at a member: granted by its posted instance, or in the early-arrival area of its GID
(R364, R365). -/
def State.contribFits (s : State) (c : Contrib) : Bool :=
  match s.postAt c.die c.gid c.inst with
  | some _ => true
  | none =>
    let held := s.contribs.filter (fun x => x.die == c.die && x.gid == c.gid && (s.postAt x.die x.gid x.inst).isNone)
    decide ((held.map (fun x => x.data.length)).sum + c.data.length ≤ 262144)

/-- The instance has ended at a member, which takes nothing more for it (R365, R366, R368). -/
def State.memberEnded (s : State) (die : BitVec 2) (gid : BitVec 16) (inst : Nat) : Bool :=
  (match s.postAt die gid inst with
   | some p => p.st != .run
   | none => false) ||
  s.early.any (fun e => e.1 == die && e.2.1 == gid && e.2.2.1 == inst)

/-- A contribution lands at a member (R365). -/
def State.landContrib (s : State) (c : Contrib) : State :=
  if s.memberEnded c.die c.gid c.inst then s else { s with contribs := s.contribs ++ [c] }

/-- The pieces of a member's source; none while it meets a late fault (R360, R438). -/
def State.postSource (s : State) (p : Post) : Option (List Piece) :=
  if readsSrc p.block p.rank then
    s.globalPieces p.part 2 .read (blkAddr p.block 0x10) (srcBytes p.block p.entries.length)
  else some []

/-- The access table of the porch lets an omnibus send to a chip on its channel (R486). -/
def State.stepPermitted (s : State) (p : Post) (chip : BitVec 6) : Bool :=
  match s.routePort chip with
  | some k => s.permitsKey .porch (masterOf p.part 2) .write (16 * k + (s.postChannel p).toNat)
  | none => true

/-- The flits of a contribution's data: 48 bytes of payload each (R494). -/
def dataFlits (data : List Carried) : Nat := (data.length + 47) / 48

/-- The request for space goes to every other chip of the group (R364). -/
def State.askGrants (s : State) (p : Post) : State :=
  ((s.remoteChips p.entries).foldl (fun u c => u.request 0 (u.postChannel p) c (.post p.id) false) s).mapPost p.id
    (fun q => { q with asked := true })

/-- A contribution goes to every other chip of the group, with its mark of poison (R364, R479). -/
def State.sendData (s : State) (p : Post) (data : List Carried) : State :=
  (s.remoteChips p.entries).foldl
    (fun u c => u.request (dataFlits data) (u.postChannel p) c (.post p.id) (carriedPoison data)) s

/-- A request of a post over a link waits for its answer. -/
def State.postWaits (s : State) (p : Post) : Bool := s.porch.outstanding.any (fun o => o.2.2.2 == .post p.id)

/-- The buffers of a collective at one member (R360). -/
def Post.reach (p : Post) : List Reach :=
  (if !p.stepped && readsSrc p.block p.rank then
    [⟨.read, blkAddr p.block 0x10, srcBytes p.block p.entries.length⟩] else []) ++
  (if p.stepped && writesDst p.block p.rank then
    [⟨.write, blkAddr p.block 0x18, dstBytes p.block p.entries.length⟩] else [])

/-- A member's data goes to the members of this chip that have space for it, and over the links that have granted it; a mismatch or
overlapping nodes fail the instance (R363 to R366). -/
def State.stepData (s : State) (p : Post) (ps : List Piece) : State :=
  let v := s.readErrors (s.ownerAt p.toOwner (blkAddr p.block 0x10)) ps
  let data := v.carriedFrom p.ahead ps
  let outs := (s.localDies p.entries).map (fun d => (⟨d, p.gid, p.inst, p.rank, p.block, p.entries, data⟩ : Contrib))
  if outs.all s.contribFits then
    let s1 := outs.foldl State.landContrib (v.mapPost p.id (fun q => { q with stepped := true }))
    (s.localDies p.entries).foldl (fun u d => u.settlePost d p.gid p.inst) (s1.sendData p data)
  else s

/-- OMNIBUS_STEP: a member first asks the other chips of its group for space; once every one has granted it, its data goes out. A chip
without a route answers with EPA, and a table's denial is a fault (R364 to R366, R486, R487, R497, R500). While the porch is down,
or an older access of its thread waits, the step waits (R160, R501). -/
def execOmnibusStep (id : Nat) (s : State) : Out :=
  .next (match s.posts.find? (fun p => p.id == id) with
    | none => s
    | some p =>
      let far := s.remoteChips p.entries
      if p.st ≠ .run ∨ p.stepped ∨ s.faults.any (fun f => f.eng == .omnibus id) ∨ s.olderWaits p.toOwner ∨ s.postWaits p then s
      else if far ≠ [] ∧ s.porch.up = false then s
      else if far.any (fun c => s.routeMask c == 0) then s.endInstance p .failed 2
      else if !far.all (s.stepPermitted p) then s.endInstance p .failed 5
      else if far ≠ [] ∧ p.asked = false then s.askGrants p
      else
        match s.postSource p with
        | none => if s.firstStop none p.part 2 p.reach = some .denied then s.endInstance p .failed 5 else s
        | some ps => s.stepData p ps)

/-- EARLY_ARRIVAL: a contribution from another chip lands at a member that has posted the instance, or in its
early-arrival area; with no room there it waits (R364 to R366). -/
def execEarlyArrival (die : BitVec 2) (gid : BitVec 16) (inst rank : Nat) (block : BitVec 1024)
    (entries : List (BitVec 16)) (data : List (Byte × Bool)) (s : State) : Out :=
  let c : Contrib := ⟨die, gid, inst, rank, block, entries, data⟩
  .next (if s.contribFits c then (s.landContrib c).settlePost die gid inst else s)

/-- The member's part can complete: its contributions are there, its steps have ended, and nothing holds it (R367). -/
def State.postDone (s : State) (p : Post) : Bool :=
  p.st == .run && p.stepped && s.haveAll p && !s.faults.any (fun f => f.eng == .omnibus p.id) && !s.postWaits p

/-- What a member reports as the flags of the instance: those of the combination that it forms; one that writes no destination forms
none whole, and the manual does not say which it reports (R361, R367; notes/assumptions/56.md). -/
def State.postFlags (s : State) (p : Post) (fl : Flags) : Flags × State :=
  if writesDst p.block p.rank ∨ !blkReduces p.block then (fl, s)
  else
    let w := Config.rootFlags s.free
    (⟨w.getLsbD 0, w.getLsbD 1, w.getLsbD 2, false⟩, { s with free := s.free + 1 })

/-- COLLECTIVE_COMPLETION: what the destination lacks is written, its writes sampled in an exact-mode phase (R177), the status and flags
stand, staging returns, and the event gains 1 (R360 to R364, R367). -/
def execCollectiveCompletion (id : Nat) (s : State) : Out :=
  .next (match s.posts.find? (fun p => p.id == id) with
    | none => s
    | some p =>
      if !s.postDone p then s
      else
        match s.postDest p with
        | none => if s.firstStop none p.part 2 p.reach = some .denied then s.endInstance p .failed 5 else s
        | some ps =>
          let r := if writesDst p.block p.rank then collect p (2 ^ 32 * p.gid.toNat + p.inst) (s.inRankOrder p) else ([], Flags.none)
          let src := (s.postSource p).getD []
          let inPlace := decide (blkAddr p.block 0x10 = blkAddr p.block 0x18) &&
            (blkOp p.block == 0 || blkOp p.block == 1 || blkOp p.block == 4)
          let s1 :=
            if !inPlace && piecesOverlap src ps then s.postPart p ps (s.inRankOrder p)
            else s.writePost p ps (restCells p.done ps r.1)
          let f := s1.postFlags p r.2
          let s2 := (f.2.mapPost id (fun q => { q with st := .ok, flags := f.1 })).dropContribs p.die p.gid p.inst
          s2.eventPut (s2.ownerAt p.toOwner (blkAddr p.block 0x30)) p.event 0)

/-- The clock of a post stands still: its poster's core is out of service for its region, or the region whole (R117, R366). -/
def State.postFrozen (s : State) (p : Post) : Bool :=
  s.groups.any (fun g => g.region == p.region && g.core == p.cid.core) ||
  (s.groups.any (fun g => g.region == p.region) &&
    !allCtxs.any (fun c => match (s.ctx c).task with | some t => t.region == p.region | none => false))

/-- INSTANCE_TIMEOUT: a member's limit has expired before its part completed; the members are told (R366). -/
def execInstanceTimeout (id : Nat) (s : State) : Out :=
  .next (match s.posts.find? (fun p => p.id == id) with
    | none => s
    | some p =>
      if p.st = .run ∧ s.postFrozen p = false ∧ p.limit.toNat ≤ (s.gcc - p.started).toNat then
        s.endInstance p .failed 1
      else s)

/-- PEER: another chip's member reports the failure of an instance (R366). -/
def execPeer (die : BitVec 2) (gid : BitVec 16) (inst : Nat) (s : State) : Out :=
  .next (match s.postAt die gid inst with
    | some p => if p.st = .run then s.endInstance p .failed 2 else s
    | none => s.endMember gid inst .failed 2 die)

/-- CANCELLATION_REPORT: another chip's member reports the cancellation of an instance (R368). -/
def execCancellationReport (die : BitVec 2) (gid : BitVec 16) (inst : Nat) (s : State) : Out :=
  .next (s.endMember gid inst .cancelled 6 die)

end Sys2Proof.Machine
end

