-- ==== Sys2Proof/Machine/TrapEvents.lean ====
section
/-!
DEFINITION. The events of a context: decode and fetch failures, boundary traps, containment unwinding, values that
arrive, the release and expiry of what waits, and the context switch of a core (spec/04 R95 to R98, R110 to R121;
spec/09 R252; spec/18 R441 to R450; spec/20 R493).
-/
namespace Sys2Proof.Machine

/-! ## Fetch and decode (R113, R114, R219, R220) -/

/-- The context is at a boundary where its next bundle would be looked at. -/
def State.atBundle (s : State) (c : CtxId) : Bool :=
  (s.ctx c).run == .running && s.boundary c == .clear

/-- BUNDLE_DECODE_FAILURE: the next bundle fails a check of R219 and takes no effect; every member of the coach enters its
handler (R102, R219, R220). -/
def execBundleDecodeFailure (c : CtxId) (s : State) : Out :=
  .next (if !s.atBundle c then s
    else
      let x := s.ctx c
      match (x.loaded (bundleSeg x.flow.pc)).bind (fun g => g.bundles[bundleIdx x.flow.pc]?) with
      | none => s
      | some b =>
        match s.decodeChecked c b with
        | .ok _ => s
        | .error (cause, m) =>
          (s.members c).foldl
            (fun u d => u.enterHandler d ⟨cause, 0, (u.ctx d).flow.pc, m, slotCauses m cause, 0⟩) s)

/-- SEGMENT_EXPANSION: a segment is expanded into the half of the loop buffer that does not hold the executing one; reading it
finds the errors of its storage (R110 to R113, R148, R436). -/
def execSegmentExpansion (c : CtxId) (seg : BitVec 56) (s : State) : Out :=
  .next (if (s.ctx c).run ≠ .running then s
    else
      let u := (s.readErrors (s.readerAt c (segAddr seg)) (s.segmentPieces c.core (s.ctxPart c) seg)).noteTlb c.core
        (s.readerAt c (segAddr seg))
      let g := u.expandSegment c.core (s.ctxPart c) seg
      u.mapCtx c (fun x =>
        let others := x.lbuf.filter (fun y => y.seg != seg)
        let keep := others.filter (fun y => y.seg == bundleSeg x.flow.pc) ++
          others.filter (fun y => y.seg != bundleSeg x.flow.pc)
        { x with lbuf := g :: keep.take 1 }))

/-- The fault of reaching the next bundle: past the end of the chain, or that of its segment (R113, R114). -/
def Ctx.fetchFaultOf (x : Ctx) : Option (Cause × BitVec 32 × Word) :=
  if x.flow.pastEnd then some (.fend, 0, 0)
  else
    match x.loaded (bundleSeg x.flow.pc) with
    | none => none
    | some g =>
      match g.fault with
      | some f => some f
      | none => if g.nb ≤ bundleIdx x.flow.pc then some (.fend, 0, 0) else none

/-- The faults of a handler's first fetch (R448). -/
def firstFetchFault : Cause → Bool
  | .pflt | .fend | .ill | .pois => true
  | _ => false

/-- The segments with faults leave a context's loop buffer: once its fault has been raised, a segment is expanded anew when
execution comes back to it (R113, R450). -/
def Ctx.dropFaulty (x : Ctx) : Ctx := { x with lbuf := x.lbuf.filter (fun g => g.fault.isNone) }

/-- FETCH_FAULT: execution reaches the fault; at a handler's vector the context stops with HFLT for the causes that R448 lists,
and ACCV is an ordinary trap there too (R102, R113, R114, R448, R449; notes/assumptions/55.md). -/
def execFetchFault (c : CtxId) (s : State) : Out :=
  .next (if !s.atBundle c then s
    else
      match (s.ctx c).fetchFaultOf with
      | none => s
      | some (cause, det, far) =>
        let u := s.mapCtx c Ctx.dropFaulty
        let entry : State := (u.members c).foldl (fun v d => v.enterHandler d ⟨cause, det, (v.ctx d).flow.pc, 0, 0, far⟩) u
        match (s.ctx c).flow.entering with
        | some entered => if firstFetchFault cause then u.hflt c entered.code cause.code 0 (s.ctx c).trap.tad else entry
        | none => entry)

/-! ## Boundary traps (R445) -/

/-- A boundary trap taken, when it is the one that the context's boundary calls for (R445). -/
def State.takeAt (s : State) (c : CtxId) (cause : Cause) : State :=
  if (s.ctx c).run = .running ∧ s.boundary c = .trap cause then s.takePending c cause else s

/-- FPX: at the boundary at which a trapping result has fallen due (R37, R445). -/
def execFpx (c : CtxId) (s : State) : Out := .next (s.takeAt c .fpx)

/-- SWT: an implicit wait has expired and its instruction is discarded (R120, R445). -/
def execSwt (c : CtxId) (s : State) : Out := .next (s.takeAt c .swt)

/-- PMISS: at the first boundary at which GCC has reached the promise of a copy that has not completed (R139, R445). -/
def execPmiss (c : CtxId) (s : State) : Out := .next ((s.noteMissed c).takeAt c .pmiss)

/-- CAPC: a pending notice under mode 1; its DET is the SEQ that CAPN holds at this boundary (R445, R475). -/
def execCapc (c : CtxId) (s : State) : Out :=
  let seq : BitVec 32 := (s.ctx c).ctl.capn.setWidth 32
  .next ((s.mapCtx c (fun x =>
    let y := x.dropCapc
    { y with btraps := y.btraps.map (fun t =>
        if t.cause = .capc then { t with det := seq, tad := x.flow.pc, sfm := 0 } else t) })).takeAt c .capc)

/-! ## Containment (R252) -/

/-- One context unwinds to the handler of its innermost region: what was issued since the creg.open is discarded (R252,
R445). -/
def Ctx.unwound (x : Ctx) (r : Region) (lk : Word) : Ctx :=
  let since (t : Word) : Bool := decide (r.opened.toNat < t.toNat)
  let x1 : Ctx :=
    { x with
      cregs := x.cregs.tail, unwind := none,
      results := x.results.filter (fun y => !since y.issued),
      slip := x.slip.filter (fun e => !since e.ctm),
      btraps := x.btraps.filter (fun t => !((t.cause == .swt || t.cause == .fpx) && since t.issued)),
      loops := x.loops.map (fun l => if l.active && since l.opened then Loop.idle else l),
      flow := { Flow.reset with pc := r.handler } }
  x1.ws 63 lk

/-- A coach whose member has consumed poison inside a region unwinds whole (R103, R252). -/
def State.unwindCoach (s : State) (c : CtxId) : State :=
  match (s.ctx c).unwind with
  | some lk =>
    (s.members c).foldl (fun u d =>
      match (u.ctx d).cregs with
      | r :: _ => (u.settle d).mapCtx d (fun x => x.unwound r lk)
      | [] => u.mapCtx d (fun x => { x with unwind := none })) s
  | none => s

/-- CONTAINMENT_UNWINDING: poison was consumed inside a region; every member of a coach follows (R103, R252). -/
def execContainmentUnwinding (c : CtxId) (s : State) : Out :=
  .next (if (s.ctx c).run = .running then s.unwindCoach c else s)

/-! ## Values that arrive (R95, R493) -/

/-- A context whose buffered work goes on: it runs, or it drains after halt (R90). -/
def Ctx.alive (x : Ctx) : Bool := x.run == .running || x.run == .draining

/-- A result of a context, of its present level or of one that a handler interrupted. -/
def Ctx.resultOf (x : Ctx) (rid : Nat) : Option Result :=
  (x.results ++ x.frozen.flatMap (·.results)).find? (fun r => r.rid == rid)

/-- PENDING_VALUE_ARRIVAL: a variable-latency value arrives, read to its last granule (R95, R154). -/
def execPendingValueArrival (c : CtxId) (rid : Nat) (s : State) : Out :=
  .next (match (s.ctx c).resultOf rid with
    | some r => if (s.ctx c).alive && !r.held && !r.arrived then (s.settle c).arrive c rid else s
    | none => s)

/-- Poison consumed by an instruction whose bundle is at an address: inside a region the context unwinds (R252, R451). -/
def Ctx.consumeAt (x : Ctx) (pc : Word) : Ctx × Bool :=
  if x.cregs = [] then (x, true) else ({ x with unwind := some (x.unwind.getD pc) }, false)

/-! ## Release and expiry (R96, R115, R118, R120, R248) -/

/-- SLIP_BUFFER_RELEASE: the oldest instruction of a slot is tried in the next step; it executes once what it waits for is
there (R96). -/
def execSlipBufferRelease (c : CtxId) (slot : Pos) (s : State) : Out :=
  .next (if (s.ctx c).alive then s.stageFront c slot else s)

/-- SLEEP_WAKE: the condition of a sleep is tested again (R248). -/
def execSleepWake (c : CtxId) (s : State) : Out :=
  .next (if (s.ctx c).alive then s.stageFront c 0 else s)

/-- A limit that began at a DTC has passed (R118). -/
def State.limitPassed (s : State) (c : CtxId) (t0 limit : Word) : Bool := decide (limit.toNat ≤ (s.dtc c - t0).toNat)

/-- The oldest entry of a slot is marked as having reached its limit. -/
def expireFront (p : Pos) : List SlipEntry → List SlipEntry
  | [] => []
  | e :: l => if e.slot = p then { e with expired := true } :: l else e :: expireFront p l

/-- WAIT_EXPIRY: the wait of a slot's oldest instruction, or a waitf, has reached its limit on DTC; the instruction runs once
more and ends its wait (R115, R118, R120, R166). -/
def execWaitExpiry (c : CtxId) (slot : Pos) (s : State) : Out :=
  let x := s.ctx c
  .next (if !x.alive then s
    else
      match x.slotSlip slot with
      | e :: _ =>
        match e.wait with
        | some w =>
          if w.past (s.dtc c) then
            (s.mapCtx c (fun y => { y with slip := expireFront slot y.slip })).stageFront c slot
          else s
        | none => s
      | [] =>
        match x.flow.waiting with
        | some w =>
          if slot = 0 ∧ s.limitPassed c w.t0 w.limit then
            s.mapCtx c (fun y => { y with flow := { y.flow with expired := true } })
          else s
        | none => s)

/-! ## The context switch (R98) -/

/-- The context that has been ready longest; ties go to the lowest number. -/
def longestReady (s : State) : List CtxId → Option CtxId
  | [] => none
  | c :: l =>
    match longestReady s l with
    | some d => if (s.ctx d).readySince.getD 0 < (s.ctx c).readySince.getD 0 then some d else some c
    | none => some c

/-- A context that its core leaves is ready anew, if it is ready at all (R98). -/
def State.leave (s : State) (c : CtxId) : State :=
  ({ s with nextId := s.nextId + 1 } : State).mapCtx c
    (fun x => { x with readySince := if s.ready c then some s.nextId else none })

/-- CONTEXT_SWITCH: the context that issued goes behind the others, and the core takes the one that has been ready longest
(R97, R98, R249). Members of a coach issue with their lead (R102). -/
def execContextSwitch (core : CoreId) (s : State) : Out :=
  let s1 := (s.stampReady core).leave (CtxId.of core (s.core core).cur)
  .next (match longestReady s1 ((coreCtxs core).filter s1.ready) with
    | some d => s1.mapCore core (fun k => { k with cur := d.num, burst := 0 })
    | none => s1.mapCore core (fun k => { k with burst := 0 }))

end Sys2Proof.Machine
end

