-- ==== Sys2Proof/Machine/Placement.lean ====
section
/-!
DEFINITION. What the scheduler's events share (spec/17 R405 to R428; spec/19 R472, R473; spec/04 R88, R89; spec/15 R392):
region control blocks and their effective values, budgets and placement, the start of a task, capacity notices, and
pre-emption and resume.
-/
namespace Sys2Proof.Machine

/-! ## Region control blocks (R406 to R410) -/

/-- A field of an RCB: n bytes from an offset (R408). -/
def rcbField (r : BitVec 2048) (off n : Nat) : Nat := r.toNat / 2 ^ (8 * off) % 2 ^ (8 * n)
/-- A 64-bit field. -/
def rcbWord (r : BitVec 2048) (off : Nat) : Word := BitVec.ofNat 64 (rcbField r off 8)
/-- KIND (R407). -/
def rcbKind (r : BitVec 2048) : Nat := rcbField r 8 1
/-- An override bit (R409). -/
def rcbOvr (r : BitVec 2048) (k : Nat) : Bool := (rcbField r 0x0C 4).testBit k

/-- The registered copy of a partition or device RCB (R406). -/
def State.rcbCopy (s : State) (a : Word) : Option (BitVec 2048) := (s.rcbCopies.find? (fun c => c.1 == a)).map (·.2)

/-- The registered chain of a partition: its own RCB and the device RCB (R406, R407). -/
def State.partChain (s : State) (part : BitVec 4) : Option (List (Word × BitVec 2048)) :=
  let a := (s.partOf part).rcb
  match s.rcbCopy a with
  | none => none
  | some p => (s.rcbCopy (rcbWord p 0)).map (fun d => [(a, p), (rcbWord p 0, d)])

/-- The chain from an RCB of a partition to the device RCB, with fuel for its levels; none when an RCB is unreadable,
misaligned or the chain does not end. Job and launch RCBs lie in the partition's memory; a PARENT that names the partition's
registered RCB leads to the scheduler's copies (R406, R407, R410; notes/assumptions/22.md). -/
def State.rcbChain (s : State) (part : BitVec 4) : Nat → Word → Option (List (Word × BitVec 2048))
  | 0, _ => none
  | n + 1, a =>
    if a.setWidth 8 ≠ (0 : BitVec 8) then none
    else
      match (s.globalNat part 4 a 256).map (BitVec.ofNat 2048) with
      | none => none
      | some r =>
        let up := rcbWord r 0
        if up = (s.partOf part).rcb then (s.partChain part).map (fun l => (a, r) :: l)
        else (s.rcbChain part n up).map (fun l => (a, r) :: l)

/-- The effective values of R409 that the chain hands down. -/
structure Eff where
  prio : BitVec 3
  exact : Bool
  clkb : BitVec 2
  share : BitVec 32
  fdom : BitVec 16
  esc : BitVec 8
  cores : BitVec 64
  ctxs : BitVec 32
  accs : BitVec 32
  hallb : BitVec 32
  cways : BitVec 32
  mslot : Word
  lvc : BitVec 16
  lport : BitVec 16
  symb : BitVec 32
  dlwmax : Word
  tvb : Word
  save : Word
  savesz : Word
  ovfa : Word
  ovfsz : Word
  evq : Word
deriving DecidableEq, Repr

/-- The lesser of two values. -/
def lesser {w : Nat} (a b : BitVec w) : BitVec w := if a.toNat ≤ b.toNat then a else b

/-- The lesser of two CORES fields, byte by byte (R409). -/
def lesserBytes (a b : BitVec 64) : BitVec 64 :=
  (List.range 8).foldl (fun (w : BitVec 64) k =>
    w ||| ((lesser (a.extractLsb' (8 * k) 8) (b.extractLsb' (8 * k) 8)).setWidth 64 <<< (8 * k))) 0

/-- An RCB's own values (R408). -/
def ownEff (r : BitVec 2048) : Eff where
  prio := BitVec.ofNat 3 (rcbField r 0x09 1)
  exact := (rcbField r 0x0A 1).testBit 0
  clkb := BitVec.ofNat 2 (rcbField r 0x0B 1)
  share := BitVec.ofNat 32 (rcbField r 0x10 4)
  fdom := BitVec.ofNat 16 (rcbField r 0x14 2)
  esc := BitVec.ofNat 8 (rcbField r 0x16 1)
  cores := rcbWord r 0x18
  ctxs := BitVec.ofNat 32 (rcbField r 0x20 4)
  accs := BitVec.ofNat 32 (rcbField r 0x24 4)
  hallb := BitVec.ofNat 32 (rcbField r 0x28 4)
  cways := BitVec.ofNat 32 (rcbField r 0x2C 4)
  mslot := rcbWord r 0x30
  lvc := BitVec.ofNat 16 (rcbField r 0x38 2)
  lport := BitVec.ofNat 16 (rcbField r 0x3A 2)
  symb := BitVec.ofNat 32 (rcbField r 0x3C 4)
  dlwmax := rcbWord r 0x40
  tvb := rcbWord r 0x48
  save := rcbWord r 0x50
  savesz := rcbWord r 0x58
  ovfa := rcbWord r 0x60
  ovfsz := rcbWord r 0x68
  evq := rcbWord r 0x70

/-- The effective values of an RCB under its parent's (R409). -/
def Eff.under (p : Eff) (r : BitVec 2048) : Eff :=
  let o := ownEff r
  let k := rcbOvr r
  { prio := if k 0 then lesser o.prio p.prio else p.prio
    exact := o.exact || p.exact
    clkb := if k 1 then o.clkb else p.clkb
    share := if k 2 then o.share else p.share
    fdom := if k 3 then o.fdom else p.fdom
    esc := if k 4 then o.esc else p.esc
    cores := if k 5 then lesserBytes o.cores p.cores else p.cores
    ctxs := if k 6 then lesser o.ctxs p.ctxs else p.ctxs
    accs := if k 7 then lesser o.accs p.accs else p.accs
    hallb := if k 8 then lesser o.hallb p.hallb else p.hallb
    cways := if k 9 then o.cways &&& p.cways else p.cways
    mslot := if k 10 then o.mslot &&& p.mslot else p.mslot
    lvc := if k 11 then o.lvc &&& p.lvc else p.lvc
    lport := if k 11 then o.lport &&& p.lport else p.lport
    symb := if k 12 then lesser o.symb p.symb else p.symb
    dlwmax := if k 13 then lesser o.dlwmax p.dlwmax else p.dlwmax
    tvb := if k 14 then o.tvb else p.tvb
    save := if k 15 then o.save else p.save
    savesz := if k 15 then o.savesz else p.savesz
    ovfa := if k 16 then o.ovfa else p.ovfa
    ovfsz := if k 16 then o.ovfsz else p.ovfsz
    evq := if k 17 then o.evq else p.evq }

/-- The effective values along a chain, own RCB first (R409). -/
def effChain : List (Word × BitVec 2048) → List (Word × Eff)
  | [] => []
  | [(a, r)] => [(a, ownEff r)]
  | (a, r) :: l =>
    match effChain l with
    | [] => [(a, ownEff r)]
    | (b, e) :: m => (a, e.under r) :: (b, e) :: m

/-- A value lies in a range. -/
def inRange (lo hi n : Nat) : Bool := decide (lo ≤ n) && decide (n ≤ hi)

/-- The reserved fields of an RCB are 0 (R408, R410). -/
def rcbReservedOk (r : BitVec 2048) : Bool :=
  decide (rcbKind r < 4) && decide (rcbField r 0x09 1 < 8) && decide (rcbField r 0x0A 1 < 8) && decide (rcbField r 0x0B 1 < 4) &&
  decide (rcbField r 0x0C 4 < 2 ^ 18) && decide (rcbField r 0x17 1 = 0) && decide (rcbField r 0x3A 2 < 2 ^ 12) &&
  decide (rcbField r 0x40 8 < 2 ^ 40) && decide (rcbField r 0x78 0x48 = 0) && (rcbWord r 0x48).setWidth 8 == 0#8

/-- The ranges and alignments of the fields of an RCB, overridden or not, and the ports and cores it names (R20, R408,
R410). -/
def rcbRangesOk (p : PartNo) (r : BitVec 2048) : Bool :=
  inRange 1 65536 (rcbField r 0x10 4) && (List.range 8).all (fun c => decide (rcbField r (0x18 + c) 1 ≤ 64)) &&
  decide (rcbField r 0x28 4 % 65536 = 0) && decide (rcbField r 0x28 4 ≤ 0x2000000) &&
  decide (rcbField r 0x3A 2 < 2 ^ portCount p) && decide (1000 ≤ rcbField r 0x40 8) &&
  decide (rcbField r 0x50 8 % 65536 = 0) && decide (rcbField r 0x60 8 % 4096 = 0)

/-- KIND and FLAGS by position: `depth` RCBs stand above it, `first` is the RCB that the record names, `level` counts from
the device RCB (R405, R407, R409). -/
def rcbPlaceOk (first mgmt : Bool) (level : Nat) (r : BitVec 2048) : Bool :=
  let kind := rcbKind r
  let fl := rcbField r 0x0A 1
  (match level with
   | 0 => kind == 0 && rcbWord r 0 == 0 && decide (rcbField r 0x0C 4 = 2 ^ 18 - 1)
   | 1 => kind == 1
   | _ => if first then kind == 2 || kind == 3 else kind == 2) &&
  (!fl.testBit 1 || kind == 1) && (!fl.testBit 2 || first) && (mgmt || level == 0 || rcbField r 0x09 1 != 7)

/-- The bytes of the cores of all clusters. -/
def coreSum (cores : BitVec 64) : Nat := ((List.range 8).map (fun c => (cores.extractLsb' (8 * c) 8).toNat)).sum

/-- The checks of R410 and R426 on a launch's chain, own RCB first. -/
def State.chainOk (s : State) (part : BitVec 4) (l : List (Word × BitVec 2048)) : Bool :=
  let p := s.partOf part
  let n := l.length
  let effs := effChain l
  decide (3 ≤ n) && decide (n ≤ 6) && (l.map (·.1))[n - 1]? == some s.deviceRcb && (l.map (·.1))[n - 2]? == some p.rcb &&
  (l.zip (List.range n)).all (fun x =>
    rcbReservedOk x.1.2 && rcbRangesOk s.part x.1.2 && rcbPlaceOk (x.2 == 0) p.mgmt (n - 1 - x.2) x.1.2) &&
  (match effs with
   | (_, e) :: _ =>
     (p.mgmt || e.prio != 7) && decide (4 * 2 ^ 20 * coreSum e.cores ≤ e.savesz.toNat) &&
     (decide (coreSum e.cores = 0) ||
       ((s.globalPieces part 4 .write e.save (4 * 2 ^ 20 * coreSum e.cores)).isSome &&
        (s.globalPieces part 4 .read e.save (4 * 2 ^ 20 * coreSum e.cores)).isSome))
   | [] => false)

/-- The budgets of one level of a chain whose RCB lies in a space. -/
def levelOf (space : Option (BitVec 4)) (x : Word × Eff) : Level :=
  ⟨x.1, space, x.2.cores, x.2.ctxs, x.2.accs, x.2.hallb, x.2.symb⟩

/-- The levels of a chain: its last two RCBs are registered by physical address, those below lie in the partition (R406). -/
def levelsOf (part : BitVec 4) (l : List (Word × Eff)) : List Level :=
  l.zipIdx.map (fun x => levelOf (if x.2 + 2 < l.length then some part else none) x.1)

/-- The region of a chain as the scheduler keeps it: its notice number, mode and counters continue (R409, R472, R475). -/
def regionFrom (part : BitVec 4) (l : List (Word × BitVec 2048)) (old : Option Rgn) (id : Nat) :
    Option Rgn :=
  match effChain l, l with
  | (a, e) :: rest, (_, own) :: _ =>
    some
      { id := id, rcb := a, part := part, chain := levelsOf part ((a, e) :: rest), prio := e.prio, exact := e.exact,
        isolated := l.any (fun x => (rcbField x.2 0x0A 1).testBit 1), serial := (rcbField own 0x0A 1).testBit 2,
        clkb := e.clkb, share := e.share, fdom := e.fdom, esc := e.esc, cways := e.cways, mslot := e.mslot, lvc := e.lvc,
        lport := e.lport, dlwmax := e.dlwmax, tvb := e.tvb, save := e.save, savesz := e.savesz, ovfa := e.ovfa,
        ovfsz := e.ovfsz, evq := e.evq,
        seq := (old.map (·.seq)).getD 0, mode := (old.map (·.mode)).getD false, nret := (old.map (·.nret)).getD 0,
        posted := (old.map (·.posted)).getD 0 }
  | _, _ => none

/-- The event queue of a partition's own RCB (R408, R412). -/
def State.partEvq (s : State) (p : BitVec 4) : Option Word :=
  (s.partChain p).bind (fun ch => (effChain ch).head?.map (fun x => x.2.evq))

/-- The ISOLATED partition that owns a cluster, if one does (R409, R489). -/
def State.isolatedOwner (s : State) (k : ClusterId) : Option (BitVec 4) :=
  ((List.range 16).map (BitVec.ofNat 4)).find? (fun p =>
    (s.partOf p).registered &&
    (match s.partChain p with
     | some ch =>
       ch.any (fun x => (rcbField x.2 0x0A 1).testBit 1) &&
       (match (effChain ch).head? with
        | some e => e.2.cores.extractLsb' (8 * k.toNat) 8 != (0 : BitVec 8)
        | none => false)
     | none => false))

/-- The region of an RCB in a partition. -/
def State.rgnAt (s : State) (part : BitVec 4) (rcb : Word) : Option Rgn :=
  s.rgns.find? (fun r => r.part == part && r.rcb == rcb)

/-- A region changed. -/
def State.mapRgn (s : State) (id : Nat) (f : Rgn → Rgn) : State :=
  { s with rgns := s.rgns.map (fun r => if r.id = id then f r else r) }

/-! ## What is held (R409, R418, R425) -/

/-- A context that is placed, or that a placement would place: its region, launch and accumulators. -/
structure Occ where
  cid : CtxId
  region : Nat
  launch : Nat
  nacc : Nat
deriving DecidableEq, Repr

/-- The cores of the package. -/
def allCores : List CoreId := (List.range 512).map (BitVec.ofNat 9)

/-- What the contexts on cores hold. -/
def State.placed (s : State) : List Occ :=
  allCtxs.filterMap (fun c => (s.ctx c).task.map (fun t => ⟨c, t.region, t.launch, t.nacc⟩))

/-- What the contexts of a resume group hold on a core. -/
def Group.holds (g : Group) (k : CoreId) : List Occ :=
  g.images.map (fun i => ⟨CtxId.of k i.1, g.region, (i.2.task.map (·.launch)).getD 0, (i.2.task.map (·.nacc)).getD 0⟩)

/-- What is held: by the contexts on cores, and by those that a withdrawal of another core keeps from theirs (R392). -/
def State.occupied (s : State) : List Occ :=
  s.placed ++ (s.groups.filter (·.kept)).flatMap (fun g => g.holds g.core)

/-- A region lies in the subtree of the RCB of a level (R407). -/
def State.inSubtree (s : State) (l : Level) (region : Nat) : Bool :=
  match s.rgnOf region with
  | some r => r.chain.any l.same
  | none => false

/-- The clusters in which a region's hall allocation stands: those of its contexts and of its pre-empted groups
(R425). -/
def State.hallIn (s : State) (occ : List Occ) (region : Nat) (k : ClusterId) : Bool :=
  occ.any (fun o => o.region == region && o.cid.core.cluster == k) ||
  s.groups.any (fun g => g.region == region && g.core.cluster == k)

/-- What a subtree holds stays within the ceilings of its root (R409). -/
def State.levelOk (s : State) (occ : List Occ) (l : Level) : Bool :=
  let mine := occ.filter (fun o => s.inSubtree l o.region)
  let cores := (mine.map (fun o => o.cid.core)).dedup
  (List.range 8).all (fun k =>
    let kb := BitVec.ofNat 3 k
    decide ((cores.filter (fun c => c.cluster == kb)).length ≤ (l.cores.extractLsb' (8 * k) 8).toNat) &&
    decide ((((s.rgns.filter (fun r => s.inSubtree l r.id && s.hallIn occ r.id kb)).map
      (fun r => ((r.chain.head?).map (fun h => h.hallb.toNat)).getD 0)).sum) ≤ l.hallb.toNat)) &&
  decide (mine.length ≤ l.ctxs.toNat) && decide ((mine.map (·.nacc)).sum ≤ l.accs.toNat)

/-- A region's chain of budgets holds (R409). -/
def State.budgetsOk (s : State) (r : Rgn) (occ : List Occ) : Bool := r.chain.all (s.levelOk occ)

/-! ## Placement (R417, R418) -/

/-- A launch's coach size, contexts per core, accumulators, TEW (R413). -/
def Launch.coach (l : Launch) : Nat := 2 ^ (l.field 0x0E 1)
/-- NCTX. -/
def Launch.nctx (l : Launch) : Nat := l.field 0x0F 1
/-- NACC. -/
def Launch.nacc (l : Launch) : Nat := l.field 0x10 1
/-- NRNG. -/
def Launch.nrng (l : Launch) : Nat := l.field 0x11 1
/-- TEW. -/
def Launch.tew (l : Launch) : Bool := (l.field 0x12 1).testBit 1

/-- A core takes a context of a launch: it is in service, holds no other region, has the context, accumulators and
launch share free, and a free grant for TEW (R316, R413, R418). -/
def coreTakes (l : Launch) (region : Nat) (serves granted : CoreId → Bool) (occ : List Occ) (k : CoreId) (n : BitVec 2) :
    Bool :=
  let here := occ.filter (fun o => o.cid.core == k)
  serves k && here.all (fun o => o.region == region) && !here.any (fun o => o.cid.num == n) &&
  decide ((here.filter (fun o => o.launch == l.id)).length < l.nctx) && decide ((here.map (·.nacc)).sum + l.nacc ≤ 8) &&
  (!l.tew || (!granted k && !here.any (fun o => o.launch == l.id)))

/-- The lowest cores of a cluster that take m contexts of number n within the budgets (R418). -/
def State.pickCores (s : State) (l : Launch) (r : Rgn) (serves granted : CoreId → Bool) (n : BitVec 2) :
    List CoreId → Nat → List Occ → Option (List Occ)
  | _, 0, occ => some occ
  | [], _ + 1, _ => none
  | k :: ks, m + 1, occ =>
    let o : Occ := ⟨CtxId.of k n, r.id, l.id, l.nacc⟩
    if coreTakes l r.id serves granted occ k n && s.budgetsOk r (occ ++ [o]) then
      s.pickCores l r serves granted n ks m (occ ++ [o])
    else s.pickCores l r serves granted n ks (m + 1) occ

/-- The core numbers of a list of contexts. -/
def coresOf (l : List Occ) : List Nat := l.map (fun o => o.cid.core.toNat)

/-- The better of two placements: lower cores first, then the lower context number (R418). -/
def betterPlace (a b : List Occ) : Bool := keyLe (coresOf a) (coresOf b)

/-- One coach in a cluster. -/
def State.placeIn (s : State) (l : Launch) (r : Rgn) (serves granted : CoreId → Bool) (occ : List Occ) (k : ClusterId) :
    Option (List Occ) :=
  let cores := (List.range 64).map (fun i => (k ++ BitVec.ofNat 6 i : BitVec 9))
  let tries := [0#2, 1#2, 2#2, 3#2].filterMap (fun n =>
    (s.pickCores l r serves granted n cores l.coach occ).map (fun o => o.drop occ.length))
  tries.foldl (fun (best : Option (List Occ)) x =>
    match best with
    | none => some x
    | some b => if betterPlace b x then some b else some x) none

/-- One coach of a launch: the lowest cluster that can take it (R418). -/
def State.placeCoach (s : State) (l : Launch) (r : Rgn) (serves granted : CoreId → Bool) (occ : List Occ) :
    Option (List Occ) :=
  (List.range 8).findSome? (fun k => s.placeIn l r serves granted occ (BitVec.ofNat 3 k))

/-- n coaches of a launch, one after another (R417). -/
def State.placeCoaches (s : State) (l : Launch) (r : Rgn) (serves granted : CoreId → Bool) :
    Nat → List Occ → Option (List (List Occ))
  | 0, _ => some []
  | n + 1, occ =>
    match s.placeCoach l r serves granted occ with
    | none => none
    | some c => (s.placeCoaches l r serves granted n (occ ++ c)).map (fun rest => c :: rest)

/-- The coaches that the next start of a launch places: all of a co-resident launch, else one (R417, R420). -/
def Launch.startCoaches (l : Launch) : Nat := if l.cor then l.tasks / l.coach else 1

/-- A thread of another region still reaches the PM of a core: a core passes on once its region's threads need it no more
(R160, R425; notes/assumptions/47.md). -/
def State.pmInUse (s : State) (region : Nat) (k : CoreId) : Bool :=
  let peer (o : Owner) (sp : Space) (va : Word) : Bool :=
    sp == .peer && ((s.windowKeyOf o.cid.core (some o.launch) .peer va 0).map pmCore == some k)
  s.copies.any (fun c =>
    c.st == .run && c.region != region && !s.isOut c.toOwner &&
    (c.cid.core == k || peer c.toOwner c.cmd.ssp c.cmd.src || peer c.toOwner c.cmd.dsp c.cmd.dst)) ||
  s.reds.any (fun r => r.region != region && decide (pmKey k 0 ≤ r.loc) && decide (r.loc < pmKey k 0 + 2 ^ 20)) ||
  s.conds.any (fun c => c.st == .run && c.region != region && c.ring.isSome && !s.isOut c.toOwner && c.cid.core == k)

/-- A partition may use a cluster: no other ISOLATED one owns it (R490). -/
def State.mayUse (s : State) (part : BitVec 4) (k : ClusterId) : Bool := (s.isolatedOwner k).all (· == part)

/-- A core can serve a region: in service, not under lease, in a cluster that its partition may use, and its PM in no other
region's use (R425, R458, R490). -/
def State.serves (s : State) (r : Rgn) (k : CoreId) : Bool :=
  (s.core k).service == .inService && s.mayUse r.part k.cluster && !s.pmInUse r.id k
/-- A core's grant is held (R316). -/
def State.granted (s : State) (k : CoreId) : Bool := (s.core k).holder.isSome

/-- Where the next start of a launch would be placed now; none when it does not fit (R417, R418). -/
def State.nextPlace (s : State) (l : Launch) (r : Rgn) : Option (List (List Occ)) :=
  s.placeCoaches l r (s.serves r) s.granted l.startCoaches s.occupied

/-- The launch fits its region when nothing is held, retired cores and clusters of other ISOLATED partitions left out (R416, R466,
R490). -/
def State.couldFit (s : State) (l : Launch) (r : Rgn) : Bool :=
  let u : State := { s with groups := [] }
  decide ((l.field 0x08 2 + 1) % l.coach = 0) && (!l.cor || decide (l.tasks ≤ 2048)) &&
  ((u.placeCoaches l r (fun k => (s.core k).service != .retired && s.mayUse r.part k.cluster) (fun _ => false) l.startCoaches
    []).isSome)

/-! ## Capacity notices (R472 to R475) -/

/-- CAPN of a region (R472). -/
def State.capn (s : State) (r : Rgn) : Word :=
  let cores := ((s.occupied.filter (fun o => o.region == r.id)).map (fun o => o.cid.core)).dedup
  let ports := (List.range 12).filter (fun p =>
    r.lport.getLsbD p && (match s.porch.ports.toList[p]? with | some q => q.service != .inService | none => false))
  (0#8 ++ r.nret ++ 0#2 ++ BitVec.ofNat 4 ports.length ++ BitVec.ofNat 10 cores.length ++ r.seq : BitVec 64)

/-- A context takes the region's notice: CAPN, the time from which it stands unacknowledged, and a pending CAPC under
mode 1, one for all notices not yet taken (R473 to R475). -/
def Ctx.noticed (x : Ctx) (capn now : Word) (seq : BitVec 32) (mode running : Bool) : Ctx :=
  { x with
    ctl := { x.ctl with capn := capn },
    ackSince := if seq.toNat ≤ x.ack.toNat then none else some (x.ackSince.getD now),
    btraps :=
      if mode && running then
        x.btraps.filter (fun t => t.cause != .capc) ++ [⟨x.level, .capc, x.flow.pc, 0, seq, x.ctm⟩]
      else x.btraps }

/-- A notice to a region: SEQ rises by one and every context of the region takes it (R473). -/
def State.notice (s : State) (region : Nat) : State :=
  let s1 := s.mapRgn region (fun r => { r with seq := r.seq + 1 })
  match s1.rgnOf region with
  | none => s
  | some r =>
    let w := s1.capn r
    let s2 := allCtxs.foldl (fun u c =>
      match (u.ctx c).task with
      | some t => if t.region = region then u.mapCtx c (fun x => x.noticed w (u.dtc c) r.seq r.mode (x.run == .running)) else u
      | none => u) s1
    { s2 with groups := s2.groups.map (fun g =>
        if g.region = region then
          { g with images := g.images.map (fun i =>
              (i.1, i.2.noticed w (match i.2.dtc with | .frozen v => v | .running _ => 0) r.seq r.mode false)) }
        else g) }

/-! ## The start of a task (R88, R89, R316) -/

/-- The PM of a core cleared to zero with every tag full and no poison (R127, R425, R461). -/
def State.clearPm (s : State) (k : CoreId) : State :=
  let lo := pmKey k 0
  let inPm (a : Nat) : Bool := decide (lo ≤ a) && decide (a < lo + 2 ^ 20)
  { s with
    mem := s.mem.filter (fun c => !inPm c.1),
    empties := s.empties.filter (fun a => !inPm a),
    poison := s.poison.filter (fun a => !inPm a),
    damaged := s.damaged.filter (fun d => !inPm d.1) }

/-- A core passes to a region: what another region left in its PM is cleared first (R425). -/
def State.giveCore (s : State) (k : CoreId) (region : Nat) : State :=
  if (s.core k).region = some region then s
  else (s.clearPm k).mapCore k (fun c => { c with region := some region })

/-- The coordinate of a linear index (R88). -/
def Launch.coord (l : Launch) (lidx : Nat) : Nat × Nat × Nat :=
  let x := l.field 0x08 2 + 1
  let y := l.field 0x0A 2 + 1
  (lidx % x, lidx / x % y, lidx / x / y)

/-- A context without its task: what remains of it is when its last WESC record was posted, and what the next one merges
(R430). -/
def Ctx.vacated (x : Ctx) : Ctx := { Ctx.reset with wescAt := x.wescAt, wescMore := x.wescMore }

/-- A context at task start; its notice and its grant come once the whole start is placed (R89, R101). -/
def State.startCtx (s : State) (l : Launch) (r : Rgn) (t : Task) (cid : CtxId) (pos : Nat) : Ctx :=
  let xyz := l.coord t.lidx.toNat
  let seg : Word := BitVec.ofNat 64 (l.field 0 8)
  { (s.ctx cid).vacated with
    run := .running, task := some t,
    s := (Ctx.reset.s.set 1 (BitVec.ofNat 64 (l.field 0x18 8))).set 62 (BitVec.ofNat 64 (0x100000 - 0x4000 * cid.num.toNat)),
    ctl := { Ctl.reset with
      tx := BitVec.ofNat 64 xyz.1, ty := BitVec.ofNat 64 xyz.2.1, tz := BitVec.ofNat 64 xyz.2.2,
      cpos := BitVec.ofNat 64 pos, csz := BitVec.ofNat 64 t.size, dlw := r.dlwmax, tvb := r.tvb },
    dtc := .running s.gcc,
    flow := { Flow.reset with pc := seg },
    ackSince := if r.seq = 0 then none else some 0 }

/-- One task started on a context (R89). -/
def State.startTask (s : State) (l : Launch) (r : Rgn) (lead : CtxId) (lidx pos : Nat) (o : Occ) : State :=
  let f := (s.giveCore o.cid.core r.id).fresh
  let t : Task :=
    { serial := f.1 + 1, launch := l.id, lidx := BitVec.ofNat 64 lidx, pidx := lidx, lead := lead, size := l.coach,
      region := r.id, part := l.part, nacc := l.nacc, nrng := l.nrng, cor := l.cor }
  f.2.setCtx o.cid (f.2.startCtx l r t o.cid pos)

/-- The tasks of a coach started from a linear index on. -/
def State.startMembers (s : State) (l : Launch) (r : Rgn) (lead : CtxId) (base : Nat) : Nat → List Occ → State
  | _, [] => s
  | pos, o :: os => (s.startTask l r lead (base + pos) pos o).startMembers l r lead base (pos + 1) os

/-- The tasks of the coaches of a start, in ascending linear index (R419). -/
def State.startTasks (s : State) (l : Launch) (r : Rgn) : Nat → List (List Occ) → State
  | _, [] => s
  | base, c :: cs =>
    (s.startMembers l r ((c.head?.map (·.cid)).getD 0) base 0 c).startTasks l r (base + c.length) cs

/-- The contexts of a start in ascending number on every core. -/
def byNumber (l : List Occ) : List CtxId :=
  [0#2, 1, 2, 3].flatMap (fun n => (l.map (·.cid)).filter (fun c => c.num == n))

/-- The grant of a core given to a context, when it is free: its banks are ready for the context's own time (R316, R320,
R322). -/
def State.grant (s : State) (c : CtxId) : State :=
  if s.granted c.core then s
  else
    (s.mapCore c.core (fun k =>
      { k with holder := some c.num, bank := k.bank.map (fun b => { b with ready := 0, busy := 0 }) })).mapCtx c
      (fun x => { x with ctl := { x.ctl with cpos := x.ctl.cpos ||| 0x100#64 } })

/-- A start placed whole: its tasks, then on each core the grant for the lowest-numbered context that has accumulators, and the
region's notice, which counts the cores of the start (R89, R316, R419, R472). -/
def State.startCoaches (s : State) (l : Launch) (r : Rgn) (base : Nat) (place : List (List Occ)) : State :=
  let cs := byNumber place.flatten
  let s1 := s.startTasks l r base place
  let s2 := if l.nacc = 0 then s1 else cs.foldl State.grant s1
  cs.foldl (fun u c => u.mapCtx c (fun x => { x with ctl := { x.ctl with capn := s2.capn r } })) s2

/-- A launch changed. -/
def State.mapLaunch (s : State) (id : Nat) (f : Launch → Launch) : State :=
  { s with launches := s.launches.map (fun l => if l.id = id then f l else l) }

/-! ## The save area (R426, R427) -/

/-- CAPW.GTAG of the part (R18). -/
def gtagOf (p : PartNo) : Byte := (capwOf p).setWidth 8

/-- The sections of an image in order of kind: kind, accumulator, bytes (R427). -/
def imageSections (x : Ctx) (holds : Bool) : List (Nat × Nat × Nat) :=
  [(1, 0, 1024), (2, 0, 8192), (3, 0, 17408), (4, 0, 65536), (5, 0, 512)] ++
  (List.range ((x.task.map (·.nacc)).getD 0)).map (fun a => (6, a, 17408)) ++
  (if holds then [(7, 0, 33024)] else []) ++ [(8, 0, 131136)]

/-- The directory entries of sections laid from an offset on (R426). -/
def dirEntries : Nat → List (Nat × Nat × Nat) → List Nat
  | _, [] => []
  | off, (k, a, n) :: l => (k + 64 * a + 256 * off) :: dirEntries (off + n) l

/-- n bytes that the manual leaves open, drawn from a number on. -/
def freeRun (at' n : Nat) : List Byte := (List.range n).map (fun i => Config.freeByte (at' + i))

/-- The 128-byte header of a snapshot image (R426). -/
def imageHeader (tag : Byte) (n : BitVec 2) (x : Ctx) (holds : Bool) (rcb dtc : Word) : List Byte :=
  let fl := x.flow
  let secs := imageSections x holds
  let ifl := (if x.level ≠ 0 then 1 else 0) + (if x.run = .draining then 2 else 0) + (if holds then 4 else 0) +
    (if x.phase.isSome then 8 else 0)
  let dst : Word := (fl.dst &&& ~~~ 0xFF#64) ||| fl.dsl.setWidth 64
  [tag, 1, n.setWidth 8, BitVec.ofNat 8 ifl] ++ leBytes 4 secs.length ++ leBytes 8 rcb.toNat ++
  leBytes 8 ((x.task.map (·.lidx.toNat)).getD 0) ++ leBytes 8 x.ctm.toNat ++ leBytes 8 dtc.toNat ++ leBytes 8 fl.pc.toNat ++
  leBytes 8 (if fl.dsl = 0 then 0 else dst.toNat) ++ leBytes 8 (if fl.dsl = 0 then 0 else (fl.dst.setWidth 8 : Byte).toNat) ++
  ((dirEntries 128 secs).flatMap (leBytes 4)) ++ List.replicate (64 - 4 * secs.length) 0

/-- The vector section of an image: v0 to v31 (R427). -/
def vregSection (x : Ctx) : List Byte := x.v.toList.flatMap (fun v => leBytes 256 v.toNat)

/-- The first part of the scalar section: s0 to s63, p0 to p7 (R427). -/
def sregSection (x : Ctx) : List Byte :=
  (x.s.toList.flatMap (fun w => leBytes 8 w.toNat)) ++ ([0#3, 1, 2, 3, 4, 5, 6, 7].flatMap (fun p => leBytes 8 (x.rp p).toNat))

/-- One entry of the held-result section (R427); its bytes 5 to 15 have no meaning. -/
def holdEntry (at' : Nat) (x : Ctx) (r : Result) : List Byte :=
  let c := match r.dest with
    | .s d => (0, d.toNat) | .v d => (1, d.toNat) | .p d => (2, d.toNat) | _ => (3, 0)
  [BitVec.ofNat 8 c.1, BitVec.ofNat 8 c.2] ++ leBytes 2 (r.due - x.ctm).toNat ++ leBytes 1 r.flags.toWord.toNat ++
  freeRun at' 11 ++ leBytes 256 r.val.toNat

/-- The accumulator section up to the rows' depths; the fields after it have no stated places (R427). -/
def accSection (a : Acc) : List Byte :=
  a.tile.toList.flatMap (fun v => leBytes 256 v.toNat) ++ leBytes 256 a.cerr.toNat ++ leBytes 256 a.crem.toNat ++
  leBytes 256 a.rowdepth.toNat

/-- The receive-queue section: 64 entries of each queue, then the fill counts; an empty entry holds anything (R427). -/
def queueSection (at' : Nat) (x : Ctx) : List Byte :=
  (List.range 8).flatMap (fun q =>
    let l := x.queue (BitVec.ofNat 3 q)
    (l.take 64).flatMap (fun e => leBytes 256 e.1.toNat) ++ freeRun (at' + 16384 * q) (16384 - 256 * (l.take 64).length)) ++
  (List.range 8).flatMap (fun q => leBytes 8 (x.queue (BitVec.ofNat 3 q)).length)

/-- The ring-table section up to the handle bindings: the context's 16 entries (R131, R427). -/
def ringSection (rings : Vector Ring 64) (n : BitVec 2) : List Byte :=
  ((rings.toList.drop (16 * n.toNat)).take 16).flatMap (fun r => leBytes 8 r.word0.toNat ++ leBytes 8 r.word1.toNat)

/-- The stated bytes of a section of a context of a core, by its kind and accumulator (R427). -/
def sectionBytes (at' : Nat) (k : Core) (n : BitVec 2) (x : Ctx) (kind acc : Nat) : List Byte :=
  match kind with
  | 5 => ringSection k.rings n
  | 1 => sregSection x
  | 2 => vregSection x
  | 3 =>
    let l := x.results ++ x.frozen.flatMap (fun f => f.results.map (fun r => { r with due := x.ctm + r.due }))
    (l.take 64).zipIdx.flatMap (fun e => holdEntry (at' + 16 * e.2) x e.1)
  | 6 => match x.acc.toList[acc]? with | some a => accSection a | none => []
  | 7 => k.bank.toList.flatMap (fun b => leBytes 16384 b.img.toNat)
  | 8 => queueSection at' x
  | _ => []

/-- A section of n bytes; what R427 gives no place for is free. -/
def sectionRun (at' : Nat) (c : Core) (n : BitVec 2) (x : Ctx) (k : Nat × Nat × Nat) : List Byte :=
  let l := sectionBytes (at' + 2 ^ 18) c n x k.1 k.2.1
  l ++ freeRun at' (k.2.2 - l.length)

/-- The tags of a core's PM as the save area holds them (R426). -/
def State.tagBytes (s : State) (k : CoreId) : List Byte :=
  (List.range 16384).map (fun b =>
    (List.range 8).foldl (fun (w : Byte) i => if s.tagFull (pmKey k (64 * b + 8 * i)) then w ||| (1#8 <<< i) else w) 0)

/-- A group slot written: PM, tags, zeros, and the image of each context; saving the PM finds its errors (R148, R425 to
R427). -/
def State.writeSlot (s0 : State) (r : Rgn) (slot : Nat) (k : CoreId) (holder : Option (BitVec 2)) (images : List (BitVec 2 × Ctx)) :
    State :=
  let base := r.save + BitVec.ofNat 64 (slot * 2 ^ 22)
  let s := s0.readErrors ⟨some (CtxId.of k 0), r.part, r.rcb, BitVec.allOnes 64, 0⟩ [⟨pmKey k 0, 2 ^ 20⟩]
  let pm := s.bytesAt (pmKey k 0) (2 ^ 20)
  let bad := (List.range 4096).filter (fun i => s.poisoned (pmKey k (256 * i)) 256)
  let s1 := s.globalPut r.part 4 base (pm ++ s.tagBytes k ++ List.replicate (2 ^ 20 - 16384) 0)
  let marks := bad.flatMap (fun i =>
    ((s.globalPieces r.part 4 .write (base + BitVec.ofNat 64 (256 * i)) 256).getD []).map (fun p => poisonBase p.key))
  let s2 : State := { s1 with poison := marks.foldl keyAdd s1.poison }
  images.foldl (fun u i =>
    let va := base + BitVec.ofNat 64 (2 ^ 21 + 2 ^ 19 * i.1.toNat)
    let dtc := match i.2.dtc with | .frozen v => v | .running _ => 0
    let holds := holder == some i.1
    let u1 : State := { u with free := u.free + 2 ^ 24 }
    u1.globalPut r.part 4 va
      (imageHeader (gtagOf s.part) i.1 i.2 holds r.rcb dtc ++
        (imageSections i.2 holds).zipIdx.flatMap (fun e => sectionRun (u.free + 2 ^ 20 * e.2) (s.core k) i.1 i.2 e.1))) s2

/-- The GTAG bytes of the images in a group slot; none when one cannot be read (R426, R428). -/
def State.slotTags (s : State) (r : Rgn) (g : Group) : Option (List Byte) :=
  g.images.foldr (fun i l =>
    match s.globalNat r.part 4 (r.save + BitVec.ofNat 64 (g.slot * 2 ^ 22 + 2 ^ 21 + 2 ^ 19 * i.1.toNat)) 1, l with
    | some b, some m => some (BitVec.ofNat 8 b :: m)
    | _, _ => none) (some [])

/-- The bytes of PM and tags that a group slot holds, with the marks of poison; none when it cannot be read. -/
def State.readSlot (s : State) (r : Rgn) (slot : Nat) : Option (List (Byte × Bool) × List Byte) :=
  let base := r.save + BitVec.ofNat 64 (slot * 2 ^ 22)
  (s.globalPieces r.part 4 .read base (2 ^ 20)).bind (fun a =>
    (s.globalPieces r.part 4 .read (base + 0x100000) 16384).map (fun b => (s.carriedBytes a, s.piecesBytes b)))

/-! ## Pre-emption (R423, R425) -/

/-- Keys of a PM frame, or of a core's ring table, moved (R425). -/
def moveKey (from' new : Nat) (ringFrom ringNew : Nat) (k : Nat) : Nat :=
  if from' ≤ k ∧ k < from' + 2 ^ 20 then new + (k - from')
  else if ringFrom ≤ k ∧ k < ringFrom + 64 then ringNew + (k - ringFrom)
  else k

/-- The keys under which the frame of a group stands while it is out of service: no storage lies there. -/
def awayKey (group : Nat) : Nat := 2 ^ 57 + 2 ^ 21 * group
/-- The ring-table keys of such a group. -/
def awayRing (group : Nat) : Nat := 2 ^ 57 + 2 ^ 21 * group + 2 ^ 20

/-- The ring-table keys of a core. -/
def ringKeys (k : CoreId) : Nat := 2 ^ 55 + 64 * k.toNat

/-- The storage that a waiting entry touches, moved. -/
def SlipEntry.rekey (f : Nat → Nat) (e : SlipEntry) : SlipEntry :=
  { e with touch := e.touch.map (fun t => { t with key := f t.key }) }
/-- The same for a context. -/
def Ctx.rekey (f : Nat → Nat) (x : Ctx) : Ctx :=
  { x with
    slip := x.slip.map (·.rekey f),
    frozen := x.frozen.map (fun z => { z with slip := z.slip.map (·.rekey f) }) }

/-- Storage named by key moves with its frame: waiting instructions, reductions, barrier objects and phase ranges follow
it (R425). -/
def State.rekey (s : State) (f : Nat → Nat) : State :=
  let rng (l : List (Nat × Range)) := l.map (fun p => (p.1, (⟨f p.2.lo, f p.2.hi⟩ : Range)))
  { s with
    ctxs := s.ctxs.map (·.rekey f),
    groups := s.groups.map (fun g => { g with images := g.images.map (fun i => (i.1, i.2.rekey f)) }),
    reds := s.reds.map (fun r => { r with loc := f r.loc, barrier := f r.barrier }),
    copies := s.copies.map (fun k => { k with
      cmd := { k.cmd with barrier := k.cmd.barrier.map f }, ahead := k.ahead.map (fun c => (f c.1, c.2)),
      done := k.done.map (fun g => f (8 * g) / 8) }),
    phases := s.phases.map (fun p => { p with barrier := f p.barrier, rd := rng p.rd, wr := rng p.wr }),
    writes := s.writes.map (fun w => { w with barrier := f w.barrier }) }

/-- The event at the boundary at which a coach stops is settled before its images are taken (R423, R445). -/
def State.settleBoundary (s : State) (c : CtxId) : State :=
  let s := (s.members c).foldl State.noteMissed s
  match s.coachBoundary c with
  | some (d, .unwind) => s.unwindCoach d
  | some (d, .trap cause) => s.takePending d cause
  | _ => s

/-- A context as its image holds it: its deadline clock stands still (R117, R423). -/
def State.imageOf (s : State) (c : CtxId) : Ctx := { s.ctx c with dtc := .frozen (s.dtc c), readySince := none }

/-- The lowest free group slot of a region's save area (R426). -/
def State.freeSlot (s : State) (r : Rgn) : Nat :=
  let used := (s.groups.filter (fun g => (match s.rgnOf g.region with | some q => q.save == r.save && q.part == r.part | none => false))).map (·.slot)
  ((List.range (used.length + 1)).find? (fun n => !used.contains n)).getD 0

/-- Copies of a core's tasks of a region stop and leave their destinations unspecified, conds that have not begun to write
stop, and posts keep the time they have left (R143, R345, R366, R423). -/
def State.stopEngines (s : State) (region : Nat) (k : CoreId) : State :=
  let mine (o : Owner) : Bool := o.region == region && o.cid.core == k
  let run := s.copies.filter (fun c => mine c.toOwner && c.st == .run)
  let s1 := run.foldl (fun u c => u.copyPart c.id) s
  { s1 with
    copies := s1.copies.map (fun c => if mine c.toOwner && c.st == .run then c.halt else c),
    conds := s1.conds.map (fun c => if mine c.toOwner && c.st == .run && c.done.isEmpty then
      { c with stopped := true, revoked := none, work := none } else c),
    posts := s1.posts.map (fun p =>
      if mine p.toOwner && p.st == .run then
        { p with limit := BitVec.ofNat 64 (p.limit.toNat - (s.gcc - p.started).toNat), started := s.gcc }
      else p) }

/-- The contexts of a region on a core become a resume group: PM, tags and images go to the save area, the frame goes out
of service, and the core is freed (R423 to R426). -/
def State.freezeCore (s0 : State) (r : Rgn) (k : CoreId) (withdrawn kept : Bool) : State :=
  let s := ((coreCtxs k).foldl State.settle s0).stopEngines r.id k
  let cids := (coreCtxs k).filter (fun c => match (s.ctx c).task with | some t => t.region == r.id | none => false)
  if cids = [] then s
  else
    let f := s.fresh
    let images := cids.map (fun c => (c.num, s.imageOf c))
    let slot := s.freeSlot r
    let core := s.core k
    let live := (s.launches.filter (fun l => l.region == r.id && l.st != .ended)).map (·.id)
    let mine (x : CoreId × List Nat × Option CoreId) : Bool := x.2.1.any live.contains
    let old := (s.frames.filter (fun x => mine x && x.2.2 == some k)).map (·.1)
    let frames := if old.contains k then old else k :: old
    let g : Group :=
      { id := f.1, region := r.id, slot := slot, core := k, withdrawn := withdrawn, kept := kept, holder := core.holder, bank := core.bank,
        act := core.act, rings := core.rings, images := images, frames := frames, refused := false }
    let s1 := f.2.writeSlot r slot k core.holder images
    let s2 : State :=
      { s1 with
        groups := s1.groups ++ [g],
        frames := frames.map (fun x => (x, live, none)) ++ s1.frames.filter (fun x => !(mine x && frames.contains x.1)) }
    let s3 := (cids.foldl (fun u c => u.mapCtx c Ctx.vacated) s2).mapCore k (fun c =>
      { c with rings := Vector.replicate 64 Ring.reset, bank := Vector.replicate 2 Bank.reset, act := false, holder := none })
    s3.rekey (moveKey (pmKey k 0) (awayKey f.1) (ringKeys k) (awayRing f.1))

/-- The cores that hold contexts of a region, and those whose retired tasks' threads belong to it. -/
def State.regionCores (s : State) (region : Nat) : List CoreId :=
  let mine (o : Owner) : List CoreId := if o.region = region ∧ s.isOut o = false then [o.cid.core] else []
  ((s.occupied.filter (fun o => o.region == region)).map (fun o => o.cid.core) ++
    (s.copies.filter (fun c => c.st == .run)).flatMap (fun c => mine c.toOwner) ++
    (s.conds.filter (fun c => c.st == .run)).flatMap (fun c => mine c.toOwner) ++
    (s.posts.filter (fun c => c.st == .run)).flatMap (fun c => mine c.toOwner)).dedup

/-- A region is pre-empted whole: the event at each coach's boundary is settled, then every core's contexts become a
group; when one core of it is withdrawn, the region keeps the others. Where no context is left there is nothing to pre-empt, and
what its retired tasks have forked goes on (R392, R422, R423, R425; notes/assumptions/47.md). -/
def State.preemptRegion (s : State) (r : Rgn) (withdraw : Option CoreId) : State :=
  if s.occupied.all (fun o => o.region != r.id) then s
  else
  let mine := allCtxs.filter (fun c =>
    (match (s.ctx c).task with | some t => t.region == r.id | none => false) && (s.ctx c).run == .running && s.leadOf c == c)
  let s1 := mine.foldl State.settleBoundary s
  let s2 := (s1.regionCores r.id).foldl (fun u k => u.freezeCore r k (withdraw == some k) (withdraw.any (· != k))) s1
  { s2 with
    sched := { s2.sched with again := true },
    groups := if withdraw.isSome then s2.groups
      else s2.groups.map (fun g => if g.region = r.id then { g with kept := false } else g) }

/-! ## Resume (R424, R425, R428) -/

/-- A core can take a group: in service, no context on it, and within the region's budget (R392, R424). -/
def State.qualifies (s : State) (r : Rgn) (g : Group) (k : CoreId) : Bool :=
  let others := ({ s with groups := s.groups.filter (fun x => x.id != g.id) } : State).occupied
  s.serves r k && others.all (fun o => o.cid.core != k) && s.budgetsOk r (others ++ g.holds k)

/-- The core on which a group resumes: the one it left when it qualifies and was not withdrawn, else the lowest of its
cluster (R392, R424). -/
def State.resumeCore (s : State) (r : Rgn) (g : Group) : Option CoreId :=
  if !g.withdrawn && s.qualifies r g g.core then some g.core
  else ((List.range 64).map (clusterCore g.core)).find? (s.qualifies r g)

/-- A thread of a group's core follows it (R348, R424). -/
def Owner.moved (o : Owner) (region : Nat) (a b : CoreId) : Owner :=
  if o.region = region ∧ o.cid.core = a then { o with cid := CtxId.of b o.cid.num } else o

/-- What names contexts of a core names those of another: engine threads, phases, sampled writes, coaches, and sends on
their way (R348, R424). -/
def State.rebind (s : State) (region : Nat) (serials : List Nat) (a b : CoreId) : State :=
  let mv (c : CtxId) : CtxId := if c.core = a then CtxId.of b c.num else c
  { s with
    copies := s.copies.map (fun k => { k with toOwner := k.toOwner.moved region a b }),
    reds := s.reds.map (fun k => { k with toOwner := k.toOwner.moved region a b }),
    sends := s.sends.map (fun k =>
      let k1 := { k with toOwner := k.toOwner.moved region a b }
      if serials.contains k1.dserial then { k1 with dest := mv k1.dest } else k1),
    sigs := s.sigs.map (fun k => { k with toOwner := k.toOwner.moved region a b }),
    rels := s.rels.map (fun k => { k with toOwner := k.toOwner.moved region a b }),
    conds := s.conds.map (fun k => { k with toOwner := k.toOwner.moved region a b }),
    posts := s.posts.map (fun k => { k with toOwner := k.toOwner.moved region a b }),
    phases := s.phases.map (fun p => if serials.contains p.serial then { p with cid := mv p.cid } else p),
    writes := s.writes.map (fun w => if serials.contains w.serial then { w with cid := mv w.cid } else w) }

/-- A task goes on in a context: its deadline clock runs again from the saved value; the record of WESC is the context's own
(R117, R424, R430). -/
def State.thawed (s : State) (c : CtxId) (x : Ctx) : Ctx :=
  { x with
    dtc := match x.dtc with | .frozen v => .running (s.gcc - v) | .running b => .running b
    wescAt := (s.ctx c).wescAt, wescMore := (s.ctx c).wescMore }

/-- Saved PM and tags written into a core's PM (R425). -/
def State.restorePm (s : State) (k : CoreId) (pm : List (Byte × Bool)) (tags : List Byte) : State :=
  let s1 := (s.clearPm k).putBytes (pmKey k 0) (pm.map (·.1))
  let empties := (List.range 131072).filterMap (fun i =>
    if (tags.getD (i / 8) 0xFF).getLsbD (i % 8) then none else some (pmKey k (8 * i)))
  let bad := (List.range 131072).filterMap (fun i =>
    if ((pm.getD (8 * i) (0, false)).2) then some (pmKey k (8 * i)) else none)
  { s1 with empties := empties.foldl keyAdd s1.empties, poison := bad.foldl keyAdd s1.poison }

/-- A thread of a region can go on: no resume group of its core is out of service. -/
def State.backIn (s : State) (region : Nat) (o : Owner) : Bool :=
  o.region == region && !s.groups.any (fun g => g.region == region && g.core == o.cid.core)

/-- The engines of a region go on where its cores are back: stopped copies and conds restart, unless a late fault holds them;
bytes that a closed copy owes a barrier are subtracted; the limits of posts run again (R142, R143, R345, R366). `before` is the
state in which the posts stood still. -/
def State.restartEngines (s before : State) (region : Nat) : State :=
  let waits (e : EngRef) : Bool := s.faults.any (fun f => f.eng == e)
  let s1 := (s.copies.filter (fun c => s.backIn region c.toOwner && c.st == .run && c.stopped && !waits (.copy c.id))).foldl
    (fun u c =>
      let d := u.drawPromise
      d.2.mapCopy c.id (fun c => { c with stopped := false, promise := d.1, pms := false })) s
  let s2 := (s1.copies.filter (fun c => c.toOwner.region == region && (c.st == .zfit || c.st == .fault || c.st == .cancelled))).foldl
    State.returnBytes s1
  { s2 with
    conds := s2.conds.map (fun c =>
      if s.backIn region c.toOwner && c.stopped && !waits (.cond c.id) then { c with stopped := false } else c),
    posts := s2.posts.map (fun p =>
      if p.region = region ∧ p.st = .run ∧ (before.posts.find? (fun q => q.id == p.id)).any before.postFrozen ∧ s.postFrozen p = false then { p with started := s.gcc }
      else p) }

/-- A group is placed on a core: PM, banks, rings and contexts are back, every name of its core follows, its frames map to the
new core, and engines go on (R143, R345, R424, R425). -/
def State.placeGroup (s0 : State) (r : Rgn) (g : Group) (k : CoreId) (pm : List (Byte × Bool)) (tags : List Byte) : State :=
  let s := s0.restorePm k pm tags
  let serials := g.images.filterMap (fun i => i.2.task.map (·.serial))
  let live := (s.launches.filter (fun l => l.region == r.id && l.st != .ended)).map (·.id)
  let s1 : State :=
    { s with
      groups := s.groups.filter (fun x => x.id != g.id),
      frames := s.frames.filterMap (fun x =>
        if g.frames.contains x.1 ∧ x.2.2 = none ∧ x.2.1.any live.contains then
          if x.1 = k then none else some (x.1, x.2.1, some k)
        else some x) }
  let s2 := s1.mapCore k (fun c =>
    { c with rings := g.rings, bank := g.bank, act := g.act, holder := g.holder, region := some r.id })
  let s3 := g.images.foldl (fun u i =>
    (u.setCtx (CtxId.of k i.1) (u.thawed (CtxId.of k i.1) i.2)).trace (CtxId.of k i.1) 5 i.2.ctm i.2.flow.pc 0) s2
  let s4 := (s3.rebind r.id serials g.core k).rekey (moveKey (awayKey g.id) (pmKey k 0) (awayRing g.id) (ringKeys k))
  g.images.foldl (fun u i =>
    match i.2.task with
    | none => u
    | some t =>
      if i.2.coachPos = 0 then
        (u.members (CtxId.of k i.1)).foldl (fun w d =>
          w.mapCtx d (fun x => { x with task := x.task.map (fun q => { q with lead := CtxId.of k i.1 }) })) u
      else
        match (u.members (CtxId.of k i.1)).find? (fun d => (u.ctx d).coachPos == 0) with
        | some d => u.mapCtx (CtxId.of k i.1) (fun x => { x with task := some { t with lead := d } })
        | none => u) (s4.restartEngines s0 r.id)

/-- An image of a group in the save area bears another part's tag (R3, R428). -/
def State.strangeTag (s : State) (r : Rgn) (g : Group) : Bool :=
  (s.slotTags r g).any (fun l => l.any (fun b => b != gtagOf s.part))

/-- The resume of a group is refused: RESX goes to the partition's event queue (R428). -/
def State.refuseGroup (s : State) (r : Rgn) (g : Group) : State :=
  ({ s with groups := s.groups.map (fun x => if x.id = g.id then { x with refused := true } else x) } : State).postEvent
    { r with evq := (s.partEvq r.part).getD r.evq } 4 ((g.images.head?.map (·.1.toNat)).getD 0) g.core.toNat 1 0

end Sys2Proof.Machine
end

