-- ==== Sys2Proof/Machine/Scheduler.lean ====
section
/-!
DEFINITION. The events of the launch scheduler (spec/17 R411 to R429; spec/18 R452, R455 to R457; spec/04 R90; spec/06
R162): doorbells, admission, holds, starts, retirement, launch end, cancellation, pre-emption and resume, step digests.
-/
namespace Sys2Proof.Machine

/-! ## Queues and launches (R411 to R414) -/

/-- A queue of a partition. -/
def State.queueOf (s : State) (p : BitVec 4) (q : BitVec 6) : Queue := (s.partOf p).queues[q.toNat]'(q.isLt)
/-- A queue changed. -/
def State.mapQueue (s : State) (p : BitVec 4) (q : BitVec 6) (f : Queue → Queue) : State :=
  s.mapPart p (fun x => { x with queues := x.queues.set q.toNat (f (s.queueOf p q)) q.isLt })

/-- The launches of a queue that have not ended, oldest first. -/
def State.liveOf (s : State) (p : BitVec 4) (q : BitVec 6) : List Launch :=
  s.launches.filter (fun l => l.part == p && l.q == q && l.st != .ended)

/-- A launch's region is SERIAL (R409). -/
def State.isSerial (s : State) (l : Launch) : Bool :=
  match s.rgnOf l.region with
  | some r => r.serial
  | none => false

/-- The launch at the head of a queue: the oldest one that has a task to start; a SERIAL launch stays there until it ends
(R416, R419). -/
def State.headLaunch (s : State) (p : BitVec 4) (q : BitVec 6) : Option Launch :=
  (s.liveOf p q).find? (fun l =>
    l.st == .submitted || l.st == .held || decide (l.started < l.tasks) || s.isSerial l)

/-- The record of a queue with an index has ended: the newest one, since a queue that is enabled anew, or that has come round,
counts its records again (R411). -/
def State.recordEnded (s : State) (p : BitVec 4) (q : BitVec 6) (i : BitVec 32) : Bool :=
  match s.launches.reverse.find? (fun l => l.part == p && l.q == q && l.index == i) with
  | some l => l.st == .ended
  | none => false

/-- HEAD moves past a contiguous run of ended records, with fuel, and is written to the table (R411). -/
def State.advanceHead (s : State) (p : BitVec 4) (q : BitVec 6) : Nat → State
  | 0 => s
  | n + 1 =>
    let x := s.queueOf p q
    if s.recordEnded p q x.head ∧ x.head ≠ x.tail then
      (((s.mapQueue p q (fun y => { y with head := y.head + 1 })).putNat
        (physKey (x.table.toNat + 32 * q.toNat + 0x10)) 4 (x.head + 1).toNat)).advanceHead p q n
    else s

/-- The status codes of R414. -/
inductive Rstat
  | ok | badrec | badrcb | toobig | noimg | depfail | cancelled | failed
deriving DecidableEq, Repr

/-- The code of a status (R414). -/
def Rstat.code : Rstat → Nat
  | .ok => 1 | .badrec => 2 | .badrcb => 3 | .toobig => 4 | .noimg => 5 | .depfail => 6 | .cancelled => 7 | .failed => 8

/-- The ST that a status sets in the launch's SIG object; 0 for a count of one (R414). -/
def Rstat.sig : Rstat → BitVec 3
  | .ok => 0 | .depfail => 5 | .cancelled => 5 | _ => 4

/-- The scheduler looks for starts again (R420). -/
def State.wakeScheduler (s : State) : State := { s with sched := { s.sched with again := true } }

/-- A launch's SIG object counts its end or takes its status; one that the scheduler may not reach stays (R406, R414). -/
def State.signalEnd (s : State) (l : Launch) (st : BitVec 3) : State :=
  let sig : Word := BitVec.ofNat 64 (l.field 0x40 8)
  if sig = 0 then s
  else
    match s.globalPieces l.part 4 .sync sig 16 with
    | some (p :: _) =>
      s.eventPut ⟨none, l.part, ((s.rgnOf l.region).map (·.rcb)).getD 0, BitVec.allOnes 64, sig⟩ p.key st
    | _ => s

/-- A launch ends: RSTAT and RGCC, then SIG, then HEAD; its peer frames map to themselves again (R411, R414, R425). -/
def State.endLaunch (s : State) (l : Launch) (st : Rstat) : State :=
  let s1 := s.mapLaunch l.id (fun x =>
    { x with st := .ended, rstat := BitVec.ofNat 32 st.code, boost := 0, waitingSince := none })
  let s2 := s1.globalPut l.part 4 (l.recAddr + 0x70) (leBytes 4 st.code ++ leBytes 4 0 ++ leBytes 8 s.gcc.toNat)
  let s3 := s2.signalEnd l st.sig
  let s4 := s3.advanceHead l.part l.q s3.launches.length
  ({ s4 with
    frames := (s4.frames.map (fun f => (f.1, f.2.1.filter (· != l.id), f.2.2))).filter (fun f => !f.2.1.isEmpty) } : State).wakeScheduler

/-! ## Cancellation (R429) -/

/-- A context gives up its task: its ring entries end, those with reserved slots once these are returned, its grant is free,
and its core may take another region once it is empty. Its record of WESC stays (R90, R316, R425, R430). -/
def State.leaveCtx (s : State) (c : CtxId) : State :=
  let k := c.core
  let s1 := (List.range 16).foldl (fun u h =>
    u.mapRing k (c.num ++ BitVec.ofNat 4 h : BitVec 6) (fun r => Ring.settle { r with retiring := r.valid })) s
  let s2 := s1.mapCore k (fun x => { x with holder := if x.holder = some c.num then none else x.holder })
  s2.setCtx c (s.ctx c).vacated

/-- The launch's engine threads are cancelled: copies, conds, collectives, and buffered reductions; its outstanding faults
are resolved with them (R429, R439). -/
def State.cancelThreads (s : State) (launch : Nat) : State :=
  let mineC := s.copies.filter (fun k => k.launch == launch && k.st == .run)
  let s1 := mineC.foldl (fun u k => u.failCopy k .cancelled) s
  let s2 := (s1.conds.filter (fun k => k.launch == launch && k.st == .run)).foldl (fun u k => u.cancelCond k) s1
  let s3 := (s2.posts.filter (fun p => p.launch == launch && p.st == .run)).foldl
    (fun u p =>
      match u.posts.find? (fun x => x.id == p.id) with
      | some x => if x.st = .run then u.endInstance x .cancelled 6 else u
      | none => u) s2
  let gone (r : Red) : Bool := r.launch == launch && (r.exact || r.st == .faulted)
  let bars := ((s3.reds.filter gone).map (·.barrier)).dedup
  let eng (e : EngRef) : Bool :=
    match e with
    | .copy id => s3.copies.any (fun k => k.id == id && k.launch == launch)
    | .red id => s3.reds.any (fun k => k.id == id && k.launch == launch)
    | .omnibus id => s3.posts.any (fun k => k.id == id && k.launch == launch)
    | .cond id => s3.conds.any (fun k => k.id == id && k.launch == launch)
  let s4 : State :=
    { s3 with
      faults := s3.faults.filter (fun f => !eng f.eng), reds := s3.reds.filter (fun r => !gone r),
      phases := s3.phases.map (fun p => if p.launch = launch then { p with isOpen := false } else p) }
  bars.foldl (fun u b => if b = 0 then u else u.settleBarrier b) s4

/-- The images of a launch leave a resume group, and its bank holder's claim with the holder's image (R316, R429). -/
def Group.without (g : Group) (launch : Nat) : Group :=
  let stays := g.images.filter (fun i => match i.2.task with | some t => t.launch != launch | none => false)
  { g with images := stays, holder := g.holder.filter (fun n => stays.any (fun i => i.1 == n)) }

/-- The images of a launch are dropped. A group of which nothing is left is gone, the frames that name its PM with it; what else
belongs to its core goes on (R143, R425, R429). -/
def State.dropImages (s : State) (l : Launch) : State :=
  let left := s.groups.map (·.without l.id)
  let gone := left.filter (·.images.isEmpty)
  let lost (f : CoreId × List Nat × Option CoreId) : Bool :=
    f.2.2.isNone && f.2.1.contains l.id && gone.any (fun g => g.frames.contains f.1)
  let t : State := { s with groups := left.filter (fun g => !g.images.isEmpty), frames := s.frames.filter (fun f => !lost f) }
  (gone.map (·.region)).dedup.foldl (fun u r => u.restartEngines s r) t

/-- A launch is cancelled or ended by the supervisor: no further start, its contexts discarded without an image, its threads
cancelled, its images dropped, and its end written (R429). -/
def State.killLaunch (s : State) (l : Launch) (st : Rstat) : State :=
  let s1 := (s.placed.filter (fun o => o.launch == l.id)).foldl (fun u o => (u.settle o.cid).leaveCtx o.cid) s
  ((s1.cancelThreads l.id).dropImages l).endLaunch l st

/-! ## Replicated queues (R455 to R457) -/

/-- A queue is replicated. -/
def State.replicated (s : State) (p : BitVec 4) (q : BitVec 6) : Bool :=
  (s.partOf p).rpd != 0 && (s.partOf p).rqm.getLsbD q.toNat

/-- A field of a partition's replica descriptor (R455); 0 when it cannot be read. -/
def State.replicaField (s : State) (p : BitVec 4) (off n : Nat) : Nat :=
  (s.globalNat p 4 ((s.partOf p).rpd + BitVec.ofNat 64 off) n).getD 0
/-- A field written. -/
def State.putReplica (s : State) (p : BitVec 4) (off n v : Nat) : State :=
  s.globalPut p 4 ((s.partOf p).rpd + BitVec.ofNat 64 off) (leBytes n v)

/-- ST of the descriptor holds back the replicated queues (R456, R457). -/
def State.replicaHolds (s : State) (p : BitVec 4) (q : BitVec 6) : Bool :=
  s.replicated p q && s.replicaField p 0x19 1 != 0

/-- The effective FDOM of a launch, admitted or not (R408, R429). -/
def State.fdomOf (s : State) (l : Launch) : Option (BitVec 16) :=
  match s.rgnOf l.region with
  | some r => some r.fdom
  | none =>
    match s.rcbChain l.part 6 (BitVec.ofNat 64 (l.field 0x48 8)) with
    | some ch => (effChain ch).head?.map (fun x => x.2.fdom)
    | none => none

/-- A supervisor's teardown of a fault domain (R429). -/
def State.tearDown (s : State) (p : BitVec 4) (fdom : BitVec 16) : State :=
  (s.launches.filter (fun l => l.part == p && l.st != .ended && s.fdomOf l == some fdom)).foldl
    (fun u l => u.killLaunch l .cancelled) s

/-- A step's verdict is acted on (R457): AGREE ends it OK; DISAGREE halts the replicated queues, tears down the launch's
fault domain, and counts against the cores that ran the step. -/
def State.judge (s : State) (l : Launch) : State :=
  let p := l.part
  let step := s.replicaField p 0 8
  let verd := s.replicaField p 0x18 1
  if s.replicaField p 0x10 8 ≠ step + 1 then s
  else if verd = 1 then
    ((((s.putReplica p 0 8 (step + 1)).putReplica p 0x18 1 0).putReplica p 0x19 1 0)).endLaunch l .ok
  else if verd = 2 then
    let s1 := l.retiredOn.foldl (fun u k => u.raiseScore .core k.toNat 256 4) (s.putReplica p 0x19 1 2)
    let s2 := match s1.fdomOf l with
      | some f => s1.tearDown p f
      | none => s1
    (s2.launches.filter (fun x => x.part == p && s2.replicated p x.q && x.st != .ended)).foldl
      (fun u x => u.killLaunch x .cancelled) s2
  else s

/-! ## Holds (R415) -/

/-- The event objects that a launch waits on (R413). -/
def Launch.waits (l : Launch) : List Word := (List.range (l.field 0x13 1)).map (fun k => BitVec.ofNat 64 (l.field (0x20 + 8 * k) 8))

/-- An awaited object, as the scheduler reads it; one that it may not read counts as malformed (R406, R415). -/
def State.awaited (s : State) (p : BitVec 4) (va : Word) : Option EventObj :=
  match s.globalPieces p 4 .sync va 16 with
  | none => none
  | some ps => let e := eventOf (s.piecesBytes ps); if e.malformed then none else some e

/-- A held launch is tested (R415). -/
def State.testHeld (s : State) (l : Launch) : State :=
  let objs := l.waits.map (s.awaited l.part)
  if objs.any (fun o => match o with | some e => e.st != 0 | none => true) then s.endLaunch l .depfail
  else if objs.all (fun o => match o with | some e => e.signalled | none => false) then
    (s.mapLaunch l.id (fun x => { x with st := .released, waitingSince := some s.gcc })).wakeScheduler
  else s

/-- One round of tests of a partition's held launches and of its step that awaits a verdict (R415, R456). -/
def State.holdRound (s : State) (p : BitVec 4) : State :=
  let s1 := (s.launches.filter (fun l => l.part == p && l.st == .digest)).foldl State.judge s
  (s1.launches.filter (fun l => l.part == p && l.st == .held)).foldl (fun u l =>
    match u.launchOf l.id with
    | some x => if x.st = .held then u.testHeld x else u
    | none => u) s1

/-- The tests repeated, since the end of one launch may release or fail others, with fuel (R415). -/
def State.holdTests (s : State) (p : BitVec 4) : Nat → State
  | 0 => s
  | n + 1 => (s.holdRound p).holdTests p n

/-- The tests with enough fuel for a chain through every launch. -/
def State.retest (s : State) (p : BitVec 4) : State := s.holdTests p (s.launches.length + 1)

/-! ## Doorbells (R412) -/

/-- DBERR for a doorbell that is ignored (R412, R431). -/
def State.doorbellError (s : State) (p : BitVec 4) (q : BitVec 6) (tail : BitVec 32) : State :=
  match s.partEvq p with
  | none => s
  | some evq =>
    s.post p evq
      (leBytes 1 5 ++ leBytes 1 0 ++ leBytes 2 0xFFFF ++ leBytes 4 1 ++ leBytes 8 (s.partOf p).rcb.toNat ++
        leBytes 8 s.gcc.toNat ++ leBytes 8 (q ++ tail : BitVec 38).toNat)

/-- A record read at submission (R411, R413). -/
def State.submit (s : State) (p : BitVec 4) (q : BitVec 6) (i : BitVec 32) : State :=
  let x := s.queueOf p q
  let va := x.base + BitVec.ofNat 64 (128 * (i.toNat % 2 ^ x.lnent.toNat))
  let rec' : BitVec 1024 :=
    match s.globalNat p 4 va 128 with
    | some n => BitVec.ofNat 1024 n
    | none => BitVec.allOnes 1024
  let f := s.fresh
  { f.2 with
    launches := f.2.launches ++
      [{ id := f.1 + 1, part := p, q := q, index := i, record := rec', recAddr := va, region := 0, st := .submitted, started := 0,
         retired := 0, retiredOn := [], digest := 0, boost := 0, waitingSince := none, rstat := 0 }] }

/-- TAIL: a doorbell submits the records up to the value written, or is ignored with DBERR (R412). -/
def execTail (p : BitVec 4) (q : BitVec 6) (val : Word) (s : State) : Out :=
  let x := s.queueOf p q
  let tail : BitVec 32 := val.setWidth 32
  .next (if !(s.partOf p).registered ∨ !x.en then s
    else
      let d := (tail - x.head).toNat
      let prev := (x.tail - x.head).toNat
      if d < prev ∨ 2 ^ x.lnent.toNat < d then (s.doorbellError p q tail).retest p
      else
        let s1 := (List.range (d - prev)).foldl (fun u i => u.submit p q (x.tail + BitVec.ofNat 32 i)) s
        ((s1.mapQueue p q (fun y => { y with tail := tail })).wakeScheduler).retest p)

/-- CANCEL_DOORBELL: launch i of the queue is cancelled when it has not ended (R412, R429). -/
def execCancelDoorbell (p : BitVec 4) (q : BitVec 6) (val : Word) (s : State) : Out :=
  let i : BitVec 32 := val.setWidth 32
  .next (if !(s.partOf p).registered ∨ !(s.queueOf p q).en then s
    else
      match (s.liveOf p q).find? (fun l => l.index == i) with
      | some l => ((s.killLaunch l .cancelled).wakeScheduler).retest p
      | none => s.wakeScheduler.retest p)

/-! ## Admission (R413, R416) -/

/-- The record obeys R413. -/
def Launch.recordOk (l : Launch) : Bool :=
  let f := l.field
  let nw := f 0x13 1
  decide (f 0x00 8 % 256 = 0) && decide (f 0x0E 1 ≤ 6) && inRange 1 4 (f 0x0F 1) && decide (f 0x10 1 ≤ 4) &&
  decide (f 0x11 1 ≤ 16) && decide (f 0x12 1 < 4) && decide (nw ≤ 4) && decide (f 0x14 4 = 0) &&
  (List.range 4).all (fun k => if k < nw then decide (f (0x20 + 8 * k) 8 % 16 = 0) else decide (f (0x20 + 8 * k) 8 = 0)) &&
  decide (f 0x40 8 % 16 = 0) && decide (f 0x48 8 % 256 = 0) && decide (f 0x58 24 = 0) &&
  decide (f 0x0F 1 * f 0x10 1 ≤ 8) && decide (f 0x0F 1 * f 0x11 1 ≤ 64) &&
  (!(f 0x12 1).testBit 1 || decide (1 ≤ f 0x10 1))

/-- A launch at the head of its queue passes its checks in order and is held, or ends with the status of the first check
that fails (R416). -/
def State.decideLaunch (s : State) (l : Launch) : State :=
  let p := l.part
  if s.replicated p l.q ∧ s.replicaField p 0x19 1 = 2 then s.endLaunch l .cancelled
  else if !l.recordOk then s.endLaunch l .badrec
  else
    let a : Word := BitVec.ofNat 64 (l.field 0x48 8)
    match s.rcbChain p 6 a with
    | none => s.endLaunch l .badrcb
    | some ch =>
      let old := s.rgnAt p a
      let f := s.fresh
      let id := (old.map (·.id)).getD (f.1 + 1)
      match s.chainOk p ch, regionFrom p ch old id with
      | true, some r =>
        if l.field 0 8 = 0 then s.endLaunch l .noimg
        else
          let s1 : State := { f.2 with rgns := r :: f.2.rgns.filter (fun x => x.id != id) }
          let l1 := { l with region := id, st := .held }
          let s2 := s1.mapLaunch l.id (fun _ => l1)
          if s2.couldFit l1 r then s2.testHeld l1 else s2.endLaunch l1 .toobig
      | _, _ => s.endLaunch l .badrcb

/-- ADMISSION of the launch at the head of a queue (R416). -/
def execAdmission (p : BitVec 4) (q : BitVec 6) (s : State) : Out :=
  .next (match s.headLaunch p q with
    | some l => if l.st = .submitted then ((s.decideLaunch l).wakeScheduler).retest p else s
    | none => s)

/-- HOLD_TEST: the objects of held launches and the verdict of a step are tested (R415, R456). -/
def execHoldTest (p : BitVec 4) (s : State) : Out := .next (s.retest p)

/-! ## Starts (R419 to R421) -/

/-- The priority level at which a launch is served: its base, raised by waiting up to 6 (R420, R421). -/
def State.levelNow (s : State) (l : Launch) : Nat :=
  match s.rgnOf l.region with
  | some r => max r.prio.toNat (min 6 (r.prio.toNat + l.boost.toNat))
  | none => 0

/-- A launch at the head of its queue can start a task; whether it fits is tested later (R419, R420, R424, R456). -/
def State.startable (s : State) (l : Launch) : Bool :=
  l.st == .released && decide (l.started < l.tasks) && !s.replicaHolds l.part l.q &&
  !(s.groups.any (fun g => g.region == l.region && !g.withdrawn)) &&
  (!s.isSerial l || (decide (l.started = l.retired) && (s.liveOf l.part l.q).head?.map (·.id) == some l.id))

/-- Every queue, in ascending order of partition and queue. -/
def allQueues : List (BitVec 4 × BitVec 6) :=
  (List.range 1024).map (fun i => (BitVec.ofNat 4 (i / 64), BitVec.ofNat 6 (i % 64)))

/-- The head launches that can start a task, in queue order. -/
def State.ready' (s : State) : List Launch :=
  allQueues.filterMap (fun pq => (s.headLaunch pq.1 pq.2).filter (fun l => s.startable l))

/-- The highest level at which a queue can start a task. -/
def State.topLevel (s : State) : Option Nat :=
  (s.ready'.map s.levelNow).foldl (fun m n => match m with | some k => some (max k n) | none => some n) none

/-- A new round of a level: its queues in order; a queue that can start nothing loses a positive deficit (R420). -/
def State.newRound (s : State) (lv : Nat) : State :=
  let l := s.ready'
  let can (pq : BitVec 4 × BitVec 6) : Bool := l.any (fun x => x.part == pq.1 && x.q == pq.2)
  let s1 := allQueues.foldl (fun u pq =>
    if can pq ∨ (u.queueOf pq.1 pq.2).deficit ≤ 0 then u else u.mapQueue pq.1 pq.2 (fun y => { y with deficit := 0 })) s
  { s1 with
    sched := { again := false, todo := (l.filter (fun x => s.levelNow x == lv)).map (fun x => (x.part, x.q)), served := false,
               started := false, level := lv } }

/-- The region of a launch, SHARE for one that has none. -/
def State.shareOf (s : State) (l : Launch) : Int :=
  match s.rgnOf l.region with
  | some r => r.share.toNat
  | none => 1

/-- One look at the rounds of R420 at the highest level with work: a start and where it is placed, or the end of the search; else the state in which the
search goes on. -/
def State.roundAt (s : State) (top : Option Nat) : Sum (Option (Launch × Rgn × List (List Occ)) × State) State :=
  match top with
  | none => .inl (none, { s with sched := { s.sched with todo := [], again := false } })
  | some lv =>
    match s.sched.todo with
    | pq :: rest =>
      if s.sched.level ≠ lv then .inr (s.newRound lv)
      else
        let skip (t : State) : State := { t with sched := { t.sched with todo := rest, served := false } }
        match (s.headLaunch pq.1 pq.2).filter (fun l => s.startable l && s.levelNow l == lv) with
        | none => .inr (skip s)
        | some l =>
          let sh := s.shareOf l
          let s1 :=
            if s.sched.served then s
            else s.mapQueue pq.1 pq.2 (fun y => { y with deficit := min (y.deficit + sh) (sh + 64) })
          match s1.rgnOf l.region with
          | none => .inl (none, s1)
          | some r =>
            match s1.nextPlace l r with
            | some place =>
              if (l.coach : Int) ≤ (s1.queueOf pq.1 pq.2).deficit then
                .inl (some (l, r, place), { s1 with sched := { s1.sched with served := true } })
              else .inr (skip s1)
            | none => .inr (skip s1)
    | [] =>
      if s.sched.again ∨ s.sched.started ∨ s.sched.level ≠ lv then .inr (s.newRound lv) else .inl (none, s)

/-- The next start of the rounds of R420, with fuel for the queues: the launch and where it is placed; or none when a round
has started nothing and nothing has changed since. -/
def State.roundNext (s : State) : Nat → Option (Launch × Rgn × List (List Occ)) × State
  | 0 => (none, s)
  | n + 1 => Sum.elim id (fun t => State.roundNext t n) (s.roundAt s.topLevel)

/-- TASK_START: the rounds go on up to their next start, which is made when it is this queue's: one coach, or every task of a
co-resident launch (R88, R89, R417 to R421). -/
def execTaskStart (p : BitVec 4) (q : BitVec 6) (s : State) : Out :=
  .next (match s.roundNext 4096 with
    | (some (l, r, place), s1) =>
      if l.part = p ∧ l.q = q then
        let n := (place.map (·.length)).sum
        let s2 := (s1.startCoaches l r l.started place).mapLaunch l.id (fun x =>
          let done := decide (x.tasks ≤ x.started + n)
          { x with started := x.started + n, boost := if done then 0 else x.boost,
                   waitingSince := if done then none else some s.gcc })
        let s3 := s2.mapQueue p q (fun y => { y with deficit := y.deficit - n })
        { s3 with sched := { s3.sched with started := true } }
      else s1
    | (none, s1) => s1)

/-- AGING: a released launch that has waited a full millisecond to start its next task rises one level (R421). -/
def execAging (p : BitVec 4) (q : BitVec 6) (s : State) : Out :=
  .next (match s.headLaunch p q with
    | some l =>
      match l.st, l.waitingSince with
      | .released, some t =>
        if 1000000 ≤ (s.gcc - t).toNat ∧ l.started < l.tasks ∧ l.boost.toNat < 6 then
          (s.mapLaunch l.id (fun x => { x with boost := x.boost + 1, waitingSince := some (t + 1000000) })).wakeScheduler
        else s
      | _, _ => s
    | none => s)

/-! ## Retirement and launch end (R90, R162, R414, R452, R456) -/

/-- The CIVR record of a task that retires with CIV not 0 (R452, R454). -/
def State.postCivr (s : State) (c : CtxId) (civ rcb : Word) : State :=
  let part := s.ctxPart c
  s.post part (s.partOf part).eq
    ([4, 0] ++ leBytes 2 c.core.toNat ++ leBytes 1 c.num.toNat ++ leBytes 3 0 ++ leBytes 8 0 ++ leBytes 8 0 ++
      leBytes 8 rcb.toNat ++ leBytes 8 s.gcc.toNat ++ leBytes 8 civ.toNat ++ leBytes 16 0)

/-- The results that are left when a task has halted are written in their order (R90). -/
def State.drainResults (s : State) (c : CtxId) : State :=
  let l := sortResults (s.ctx c).results
  l.foldl (fun u r => u.applyResult c r) (s.mapCtx c (fun x => { x with results := [] }))

/-- A task that has halted is ready to retire: its slip buffers are empty and every result has arrived (R90). Of a halt inside a
handler the manual says nothing: what the handlers have frozen of the interrupted levels is not waited for, and is dropped at the
retirement (DESIGN CHOICE, notes/assumptions/55.md). -/
def Ctx.drained (x : Ctx) : Bool := x.run == .draining && x.slip.isEmpty && x.results.all (·.arrived)

/-- TASK_RETIREMENT (R90, R173, R316, R452, R456). -/
def execTaskRetirement (c : CtxId) (s : State) : Out :=
  .next (match (s.ctx c).task with
    | none => s
    | some t =>
      if !(s.ctx c).drained then s
      else
        let s1 := ((s.settle c).drainResults c).closePhase c (s.ctx c).ctm
        let x := s1.ctx c
        let s2 : State :=
          { s1 with reds := s1.reds.map (fun r =>
              if r.exact ∧ r.serial = t.serial ∧ r.bphase = none then { r with bphase := some (s1.barrierAt r.barrier).ph } else r) }
        let rcb := (s2.rgnOf t.region).map (·.rcb)
        let s3 := if x.ctl.civ = 0 then s2 else s2.postCivr c x.ctl.civ (rcb.getD 0)
        let fold := dgaFold 0 (leBytes 8 t.lidx.toNat ++ leBytes 8 x.ctl.dga.toNat)
        let s4 := s3.mapLaunch t.launch (fun l =>
          { l with retired := l.retired + 1, digest := l.digest ^^^ fold,
                   retiredOn := if l.retiredOn.contains c.core then l.retiredOn else l.retiredOn ++ [c.core] })
        (s4.leaveCtx c).wakeScheduler)

/-- Every engine thread that a launch's tasks forked has ended (R162). -/
def State.threadsEnded (s : State) (launch : Nat) : Bool :=
  !s.copies.any (fun k => k.launch == launch && k.st == .run) && !s.reds.any (fun k => k.launch == launch) &&
  !s.sends.any (fun k => k.launch == launch) && !s.posts.any (fun k => k.launch == launch && k.st == .run) &&
  !s.conds.any (fun k => k.launch == launch && k.st == .run) && !s.sigs.any (fun k => k.launch == launch) &&
  !s.rels.any (fun k => k.launch == launch) && !s.phases.any (fun k => k.launch == launch)

/-- Every task has retired and every thread has ended (R162). -/
def State.launchDone (s : State) (l : Launch) : Bool :=
  l.st == .released && decide (l.retired = l.tasks) && s.threadsEnded l.id

/-- A context of the launch stands after HFLT, or its resume was refused: the supervisor may end the launch (R414, R428,
R449). -/
def State.launchStuck (s : State) (l : Launch) : Bool :=
  s.placed.any (fun o => o.launch == l.id && (s.ctx o.cid).run == .hflt) ||
  s.groups.any (fun g => g.refused && g.images.any (fun i => match i.2.task with | some t => t.launch == l.id | none => false))

/-- LAUNCH_END: OK once everything has ended, or FAILED when the supervisor ends a task after HFLT or a refused resume
(R162, R414). A step of a replicated queue first awaits its verdict (R456). -/
def execLaunchEnd (id : Nat) (s : State) : Out :=
  .next (match s.launchOf id with
    | none => s
    | some l =>
      if s.launchDone l ∧ s.replicated l.part l.q = false then (s.endLaunch l .ok).retest l.part
      else if l.st ≠ .ended ∧ s.launchStuck l then (s.killLaunch l .failed).retest l.part
      else s)

/-- STEP_DIGEST: the digest of a step is published for its verdict (R456). -/
def execStepDigest (id : Nat) (s : State) : Out :=
  .next (match s.launchOf id with
    | none => s
    | some l =>
      if s.launchDone l ∧ s.replicated l.part l.q then
        let rcb := ((s.rgnOf l.region).map (·.rcb)).getD 0
        let s1 := ((s.putReplica l.part 0x08 8 l.digest.toNat).putReplica l.part 0x20 8 rcb.toNat).putReplica l.part 0x28 8 s.gcc.toNat
        (s1.putReplica l.part 0x19 1 1).mapLaunch l.id (fun x => { x with st := .digest })
      else s)

/-- TEARDOWN of a fault domain by the supervisor (R429). -/
def execTeardown (p : BitVec 4) (fdom : BitVec 16) (s : State) : Out :=
  .next (((s.tearDown p fdom).wakeScheduler).retest p)

/-! ## Pre-emption and resume (R392, R422 to R428) -/

/-- The victims of a pre-emption in favour of a launch, the first to go first: launches on cores, of lower base priority,
lowest priority first, then the most recently started; none of another partition that is ISOLATED (R422). -/
def State.victims (s : State) (l : Launch) : List Rgn :=
  match s.rgnOf l.region with
  | none => []
  | some r =>
    let cands := s.rgns.filter (fun v =>
      decide (v.prio.toNat < r.prio.toNat) && (!v.isolated || v.part == r.part) &&
      allCtxs.any (fun c => match (s.ctx c).task with | some t => t.region == v.id | none => false))
    let latest (v : Rgn) : Nat :=
      (allCtxs.map (fun c => match (s.ctx c).task with | some t => if t.region = v.id then t.serial else 0 | none => 0)).foldl max 0
    let ins (v : Rgn) (l : List Rgn) : List Rgn :=
      l.takeWhile (fun x => decide (x.prio.toNat < v.prio.toNat) || (x.prio == v.prio && decide (latest v < latest x))) ++ [v] ++
        l.dropWhile (fun x => decide (x.prio.toNat < v.prio.toNat) || (x.prio == v.prio && decide (latest v < latest x)))
    cands.foldr ins []

/-- The scheduler pre-empts a region for a released launch that cannot place its next coach (R422). -/
def State.mustYield (s : State) (region : Nat) : Bool :=
  s.ready'.any (fun l =>
    match s.rgnOf l.region with
    | none => false
    | some r => (s.nextPlace l r).isNone && ((s.victims l).head?.map (·.id)) == some region)

/-- PREEMPTION of a region: in favour of a launch of higher priority, or at the supervisor's request (R422, R423). -/
def execPreemption (region : Nat) (s : State) : Out :=
  .next (match s.rgnOf region with
    | none => s
    | some r =>
      if s.preempts.contains region ∨ s.mustYield region then
        let s1 := s.preemptRegion r none
        { s1 with preempts := s1.preempts.filter (fun x => x != region) }
      else s)

/-- The groups that resume with a group: all of a co-resident launch's, unless it was withdrawn alone (R392, R417,
R424). -/
def State.resumeWith (s : State) (g : Group) : List Group :=
  let cor := g.images.filterMap (fun i => i.2.task.bind (fun t => if t.cor then some t.launch else none))
  if g.withdrawn then [g]
  else
    s.groups.filter (fun x =>
      x.id == g.id || (!x.withdrawn && x.images.any (fun i => match i.2.task with | some t => cor.contains t.launch | none => false)))

/-- A group on the core that takes it; none where no core does, or its slot cannot be read (R417, R424). -/
def State.resumeOne (s : State) (r : Rgn) (g : Group) : Option State :=
  match s.resumeCore r g, s.readSlot r g.slot with
  | some k, some (pm, tags) => some (s.placeGroup r g k pm tags)
  | _, _ => none

/-- Groups resumed together, or none of them (R417, R424). -/
def State.resumeAll (s : State) (r : Rgn) (l : List Group) : Option State :=
  l.foldl (fun t g => t.bind (fun u => u.resumeOne r g)) (some s)

/-- Groups that are to resume together: the first with a strange tag in an image is refused, and none of them resumes; else all do
(R3, R417, R424, R428). -/
def State.resumeGroups (s : State) (r : Rgn) (l : List Group) : Option State :=
  match l.find? (s.strangeTag r) with
  | some g => some (s.refuseGroup r g)
  | none => s.resumeAll r l

/-- The level at which a group's launches are served. -/
def State.groupLevel (s : State) (g : Group) : Nat :=
  (g.images.map (fun i =>
    match i.2.task.bind (fun t => s.launchOf t.launch) with
    | some l => s.levelNow l
    | none => 0)).foldl max 0

/-- REGION_RESUME: a group is placed again once a core of its cluster qualifies, a pre-empted one when no launch of a higher level
can start; the placing of a withdrawn core's group is a capacity notice. A region of which a resume was refused stays
pre-empted (R392, R424, R428, R473). -/
def execRegionResume (group : Nat) (s : State) : Out :=
  .next (match s.groups.find? (fun g => g.id == group) with
    | none => s
    | some g =>
      match s.rgnOf g.region with
      | none => s
      | some r =>
        let outranked : Bool := match s.topLevel with
          | some lv => decide (s.groupLevel g < lv)
          | none => false
        if s.groups.any (fun x => x.region == g.region && x.refused) || (outranked && !g.withdrawn && !g.kept) then s
        else
          match s.resumeGroups r (s.resumeWith g) with
          | none => s
          | some t =>
            if g.withdrawn ∧ (t.groups.all (fun x => x.id != group)) then (t.notice r.id).wakeScheduler else t)

end Sys2Proof.Machine
end

