-- ==== Sys2Proof/Machine/EngineEvents.lean ====
section
/-!
DEFINITION. Late faults and denials of engine threads, and the supervisor's resolutions (spec/18 R437 to R440; spec/20
R487).
-/
namespace Sys2Proof.Machine

/-! ## Late-fault records (R438) -/

/-- The code of an engine in a record (R438). -/
def engCode (redo : Bool) : EngRef → Nat
  | .copy _ => 0
  | .red _ => if redo then 2 else 1
  | .omnibus _ => 3
  | .cond _ => 4

/-- ACC of a record: read, write, and the kind of PFLT (R438, R442). -/
def accByte (a : Access) (kind : BitVec 4) : Nat :=
  (if a.reads then 1 else 0) + (if a.writes then 2 else 0) + 16 * kind.toNat

/-- A late fault recorded in FQ, its number waiting for a resolution (R438, R439). -/
def State.recordFault (s : State) (o : Owner) (e : EngRef) (redo : Bool) (num : BitVec 16) (a : Access) (kind : BitVec 4)
    (va : Word) : State :=
  let p := s.partOf o.part
  let id := p.nextFault
  let s1 := s.mapPart o.part (fun x => { x with nextFault := x.nextFault + 1 })
  let rcb := ((s.rgnOf o.region).map (·.rcb)).getD 0
  let s2 : State := { s1 with faults := s1.faults ++ [⟨id, o.part, e⟩] }
  s2.post o.part p.fq
    (leBytes 4 id.toNat ++ leBytes 1 (engCode redo e) ++ leBytes 1 (accByte a kind) ++ leBytes 2 o.cid.core.toNat ++
      leBytes 8 va.toNat ++ leBytes 8 rcb.toNat ++ leBytes 8 s.gcc.toNat ++ leBytes 2 num.toNat ++ leBytes 1 o.cid.num.toNat ++
      List.replicate 29 0)

/-- FQ has room, or fewer than 256 of its records are held: an engine whose record cannot be placed waits (R435). -/
def State.faultRoom (s : State) (part : BitVec 4) : Bool :=
  let q := (s.partOf part).fq
  match s.queueHeader part q with
  | none => false
  | some (ln, head, tail) =>
    let waiting := (s.held.filter (fun h => h.1 == part && h.2.1 == q)).length
    decide ((tail + 2 ^ 32 - head) % 2 ^ 32 < 2 ^ ln) || decide (waiting < 256)

/-- A running thread of an engine already waits for the resolution of a fault. -/
def State.awaiting (s : State) (e : EngRef) : Bool := s.faults.any (fun f => f.eng == e)

/-- What a late fault says of a thread's ranges: the access that was revoked, with the kind of fault that its page meets now, or the
first range that stops it (R437, R438, R442). -/
def State.lateStop (s : State) (core : Option CoreId) (part cls : BitVec 4) (revoked : Option (Access × Word)) (l : List Reach) :
    Option Stop :=
  match revoked with
  | none => s.firstStop core part cls l
  | some (a, va) =>
    match s.translateAll core part a va 1 with
    | .error f => some (.fault a f)
    | .ok _ => some (.fault a ⟨0, 0, va⟩)

/-- A buffered reduction is due: the phase that it belongs to would complete now (R288, R440). -/
def State.bufferDue (s : State) (r : Red) : Bool :=
  let b := s.barrierAt r.barrier
  r.bphase == some b.ph && decide (b.tgt ≠ 0) && decide (b.tgt.toNat ≤ b.arr.toNat) && b.pby == 0

/-- LATE_FAULT: an engine thread meets a page that does not translate, or one whose translation was revoked: it is recorded
and the thread waits; an access table's denial ends the thread as R487 says (R437, R438, R440, R487). -/
def execLateFault (e : EngRef) (s : State) : Out :=
  .next (if s.awaiting e then s
    else
      match e with
      | .copy id =>
        match s.copyOf id with
        | none => s
        | some k =>
          if k.st ≠ .run ∨ k.stopped then s
          else
            match s.lateStop (some k.cid.core) k.part 1 k.revoked k.reach with
            | some .denied => s.failCopy k .fault
            | some (.fault a f) =>
              if s.faultRoom k.part then
                ((s.copyPart id).mapCopy id Copy.halt).recordFault k.toOwner e false k.num a f.kind f.va
              else s
            | none => s
      | .red id =>
        match s.redOf id with
        | none => s
        | some r =>
          if r.st = .faulted ∨ (r.st = .issued ∧ s.redoHeld r) ∨ (r.st = .buffered ∧ !s.bufferDue r) then s
          else
            match s.lateStop (some r.cid.core) r.part 0 r.revoked r.reach with
            | some .denied => s.dropRed r
            | some (.fault a f) =>
              if s.faultRoom r.part then
                (s.mapRed id (fun x => { x with st := .faulted, revoked := none })).recordFault r.toOwner e r.ordered 0 a f.kind f.va
              else s
            | none => s
      | .omnibus id =>
        match s.posts.find? (fun p => p.id == id) with
        | none => s
        | some p =>
          if p.st ≠ .run ∨ (p.stepped && !s.haveAll p) then s
          else
            match s.firstStop none p.part 2 p.reach with
            | some .denied => s.endInstance p .failed 5
            | some (.fault a f) => if s.faultRoom p.part then s.recordFault p.toOwner e false p.num a f.kind f.va else s
            | none => s
      | .cond id =>
        match s.conds.find? (fun k => k.id == id) with
        | none => s
        | some k =>
          if k.st ≠ .run ∨ k.stopped ∨ (k.work.isSome ∧ k.revoked.isNone) ∨ s.isOut k.toOwner ∨ s.condBehind k then s
          else
            match s.lateStop (some k.cid.core) k.part 3 k.revoked (s.condReach k) with
            | some .denied => s.finishCond k .fault 0
            | some (.fault a f) =>
              if s.faultRoom k.part then
                ({ s with conds := s.conds.map (fun x =>
                    if x.id = id then { x with stopped := true, revoked := none, work := none } else x) } : State).recordFault
                  k.toOwner e false k.num a f.kind f.va
              else s
            | none => s)

/-! ## Resolutions (R439, R440) -/

/-- The later redo operations of an issuer are translated again once the one that held them goes on: no revocation of before
stands against them (R159, R402, R439; notes/assumptions/54.md). -/
def State.heldAgain (s : State) (r : Red) : State :=
  { s with reds := s.reds.map (fun x =>
      if r.ordered && x.ordered && x.serial == r.serial && decide (r.id < x.id) then { x with revoked := none } else x) }

/-- A fault retried (R439). -/
def State.retryFault (s : State) (e : EngRef) : State :=
  match e with
  | .copy id =>
    match s.copyOf id with
    | some k =>
      if s.isOut k.toOwner then s
      else
        let d := s.drawPromise
        d.2.mapCopy id (fun x => { x with stopped := false, promise := d.1, pms := false })
    | none => s
  | .red id =>
    match s.redOf id with
    | some r =>
      let s1 := (s.heldAgain r).mapRed id (fun x => { x with st := if r.exact ∧ r.bphase.isSome then .buffered else .issued })
      if r.exact then s1.settleBarrier r.barrier else s1
    | none => s
  | .omnibus _ => s
  | .cond id =>
    { s with conds := s.conds.map (fun k => if k.id = id ∧ s.isOut k.toOwner = false then { k with stopped := false } else k) }

/-- A fault declined (R439). -/
def State.declineFault (s : State) (e : EngRef) : State :=
  match e with
  | .copy id =>
    match s.copyOf id with
    | some k => s.failCopy k .fault
    | none => s
  | .red id =>
    match s.redOf id with
    | some r => (s.heldAgain r).dropRed r
    | none => s
  | .omnibus id =>
    match s.posts.find? (fun p => p.id == id) with
    | some p => if p.st = .run then s.endInstance p .failed 5 else s
    | none => s
  | .cond id =>
    match s.conds.find? (fun k => k.id == id) with
    | some k => s.finishCond k .fault 0
    | none => s

/-- HERR counts a refused host request, saturating (R482). -/
def State.hostError (s : State) (part : BitVec 4) : State :=
  s.mapPart part (fun p => { p with herr := if p.herr = BitVec.allOnes 32 then p.herr else p.herr + 1 })

/-- A write of FRES: an unknown number is ignored, and a reserved bit counts in HERR (R439, R482). -/
def State.writeFres (s : State) (part : BitVec 4) (val : Word) : State :=
  if !(s.partOf part).registered then s
  else if val.extractLsb' 33 31 ≠ 0 then s.hostError part
  else
    match s.faults.find? (fun f => f.part == part && f.id == val.setWidth 32) with
    | none => s
    | some f =>
      let s1 : State := { s with faults := s.faults.filter (fun x => !(x.part == part && x.id == f.id)) }
      if val.getLsbD 32 then s1.declineFault f.eng else s1.retryFault f.eng

/-! ## Work under way (R86, R160) -/

/-- A copy whose work goes on. -/
def Copy.works (k : Copy) : Bool := k.st == .run && !k.stopped && k.revoked.isNone && !k.barrierAway

/-- Part of the work of a collective at a member: before its step it reads some of its source ahead, and once its contributions are
there it writes some of its destination (R160, R360). -/
def State.postWork (s : State) (p : Post) : State :=
  if p.st ≠ .run ∨ s.olderWaits p.toOwner then s
  else if s.postDone p then
    match s.postDest p with
    | some ps => s.postPart p ps (s.inRankOrder p)
    | none => s
  else if p.stepped then s
  else
    match s.postSource p with
    | some ps =>
      let u := s.readErrors (s.ownerAt p.toOwner (blkAddr p.block 0x10)) ps
      ({ u with free := u.free + 1 } : State).mapPost p.id (fun q => { q with ahead := u.readAhead q.ahead ps })
    | none => s

/-- Before a step, something that works beside the instructions may have read or written a part: a copy, a cond that has begun to
write, a collective, or a wide access. No two of these parts need come together; none comes between a change of an object and the
tests that it makes due (R86, R154, R160, R163; notes/assumptions/40.md). -/
def State.engines (s : State) : State :=
  if (s.copies = [] ∧ s.conds = [] ∧ s.posts = [] ∧ s.late = []) ∨ s.agenda ≠ [] ∨ s.stage.isSome then s
  else
    let n := Config.progress s.free
    let t : State := { s with free := s.free + 1 }
    let c := s.copies.length
    let d := c + s.conds.length
    match s.copies[n]?, s.conds[n - c]?, s.posts[n - d]? with
    | some k, _, _ => if k.works then t.copyPart k.id else t
    | none, some k, _ =>
      (match k.work with
       | some w => if k.st = .run ∧ k.revoked = none then t.condPart k w.2 else t
       | none => t)
    | none, none, some p => t.postWork p
    | none, none, none => t.performSome (n - (d + s.posts.length))

/-- Nothing is under way when there are no engine threads and no wide access. -/
theorem State.engines_of_idle (s : State) (h : s.copies = []) (h' : s.conds = []) (h₁ : s.posts = []) (h₂ : s.late = []) :
    s.engines = s := by
  simp [State.engines, h, h', h₁, h₂]

/-- RETRY: FRES written with DECL 0 (R439). -/
def execRetry (part : BitVec 4) (val : Word) (s : State) : Out := .next (s.writeFres part (val &&& ~~~ 0x100000000#64))

/-- DECLINE: FRES written with DECL 1 (R439). -/
def execDecline (part : BitVec 4) (val : Word) (s : State) : Out := .next (s.writeFres part (val ||| 0x100000000#64))

end Sys2Proof.Machine
end

