-- ==== Sys2Proof/Machine/Scalar.lean ====
section
/-!
DEFINITION. The integer instructions of the SA and SB slots (spec/09 R257 to R261), control registers, the broadcast
port and clocks (R265 to R268). One meaning per instruction, over the shared operation `scalarOp`.
-/
namespace Sys2Proof.Machine

/-- A scalar instruction without checks: its data operands, its result and its latency (R93, R257). -/
def State.scalarOp (s : State) (i : Instr) (data : List Src) (d : SReg) (lat : Nat) (f : State → Word) : Out :=
  .next (s.compute i [] data [(.s d, lat)] false (fun t => t.deliverS lat d (f t)))

/-- An instruction of two registers, latency 1. -/
def State.scalar2 (s : State) (i : Instr) (d a b : SReg) (f : Word → Word → Word) : Out :=
  s.scalarOp i [.s a, .s b] d 1 (fun t => f (t.rs a) (t.rs b))

/-- An instruction of one register, latency 1. -/
def State.scalar1 (s : State) (i : Instr) (d a : SReg) (f : Word → Word) : Out :=
  s.scalarOp i [.s a] d 1 (fun t => f (t.rs a))

/-- The word 1 for true and 0 for false (R257). -/
def boolWord (b : Bool) : Word := if b then 1 else 0
/-- The shift amount of R257. -/
def shiftAmt (y : Word) : Nat := y.toNat % 64
/-- A 12-bit immediate (R257). -/
def sext12 (imm : BitVec 12) : Word := imm.signExtend 64
/-- The lesser of two words under an order. -/
def pick (lt : Word → Word → Bool) (x y : Word) : Word := if lt y x then y else x

/-! ## Register and immediate operations (R257) -/

/-- add: x + y; SAT clamps the exact signed result (R257). -/
def execAdd (d a b : SReg) (s : State) : Out :=
  s.scalarOp (.add d a b) [.s a, .s b] d 1 (fun t => sat64 t.env.pfx.sat ((t.rs a).toInt + (t.rs b).toInt))

/-- sub: x - y; SAT clamps the exact signed result (R257). -/
def execSub (d a b : SReg) (s : State) : Out :=
  s.scalarOp (.sub d a b) [.s a, .s b] d 1 (fun t => sat64 t.env.pfx.sat ((t.rs a).toInt - (t.rs b).toInt))

/-- and: bitwise and (R257). -/
def execAnd (d a b : SReg) (s : State) : Out := s.scalar2 (.and d a b) d a b (fun x y => x &&& y)

/-- or: bitwise or (R257). -/
def execOr (d a b : SReg) (s : State) : Out := s.scalar2 (.or d a b) d a b (fun x y => x ||| y)

/-- xor: bitwise exclusive or (R257). -/
def execXor (d a b : SReg) (s : State) : Out := s.scalar2 (.xor d a b) d a b (fun x y => x ^^^ y)

/-- andn: x and not y (R257). -/
def execAndn (d a b : SReg) (s : State) : Out := s.scalar2 (.andn d a b) d a b (fun x y => x &&& ~~~ y)

/-- orn: x or not y (R257). -/
def execOrn (d a b : SReg) (s : State) : Out := s.scalar2 (.orn d a b) d a b (fun x y => x ||| ~~~ y)

/-- xnor: not (x xor y) (R257). -/
def execXnor (d a b : SReg) (s : State) : Out := s.scalar2 (.xnor d a b) d a b (fun x y => ~~~ (x ^^^ y))

/-- shl: x shifted left (R257). -/
def execShl (d a b : SReg) (s : State) : Out := s.scalar2 (.shl d a b) d a b (fun x y => x <<< shiftAmt y)

/-- shr: x shifted right with zeros (R257). -/
def execShr (d a b : SReg) (s : State) : Out := s.scalar2 (.shr d a b) d a b (fun x y => x >>> shiftAmt y)

/-- sar: x shifted right with its sign (R257). -/
def execSar (d a b : SReg) (s : State) : Out := s.scalar2 (.sar d a b) d a b (fun x y => x.sshiftRight (shiftAmt y))

/-- rol: x rotated left (R257). -/
def execRol (d a b : SReg) (s : State) : Out := s.scalar2 (.rol d a b) d a b (fun x y => x.rotateLeft (shiftAmt y))

/-- seq: x = y (R257). -/
def execSeq (d a b : SReg) (s : State) : Out := s.scalar2 (.seq d a b) d a b (fun x y => boolWord (x == y))

/-- sne: x ≠ y (R257). -/
def execSne (d a b : SReg) (s : State) : Out := s.scalar2 (.sne d a b) d a b (fun x y => boolWord (x != y))

/-- slt: x < y, signed (R257). -/
def execSlt (d a b : SReg) (s : State) : Out := s.scalar2 (.slt d a b) d a b (fun x y => boolWord (x.slt y))

/-- sle: x ≤ y, signed (R257). -/
def execSle (d a b : SReg) (s : State) : Out := s.scalar2 (.sle d a b) d a b (fun x y => boolWord (x.sle y))

/-- sltw: x < y, unsigned (R257). -/
def execSltw (d a b : SReg) (s : State) : Out := s.scalar2 (.sltw d a b) d a b (fun x y => boolWord (x.ult y))

/-- slew: x ≤ y, unsigned (R257). -/
def execSlew (d a b : SReg) (s : State) : Out := s.scalar2 (.slew d a b) d a b (fun x y => boolWord (x.ule y))

/-- min: the lesser, signed (R257). -/
def execMin (d a b : SReg) (s : State) : Out := s.scalar2 (.min d a b) d a b (fun x y => pick BitVec.slt x y)

/-- max: the greater, signed (R257). -/
def execMax (d a b : SReg) (s : State) : Out := s.scalar2 (.max d a b) d a b (fun x y => pick (fun p q => q.slt p) x y)

/-- minw: the lesser, unsigned (R257). -/
def execMinw (d a b : SReg) (s : State) : Out := s.scalar2 (.minw d a b) d a b (fun x y => pick BitVec.ult x y)

/-- maxw: the greater, unsigned (R257). -/
def execMaxw (d a b : SReg) (s : State) : Out := s.scalar2 (.maxw d a b) d a b (fun x y => pick (fun p q => q.ult p) x y)

/-- mul: the low 64 bits of x·y; SAT clamps the exact signed result (R257). -/
def execMul (d a b : SReg) (s : State) : Out :=
  s.scalarOp (.mul d a b) [.s a, .s b] d 3 (fun t => sat64 t.env.pfx.sat ((t.rs a).toInt * (t.rs b).toInt))

/-- mulh: bits [127:64] of the signed product (R257). -/
def execMulh (d a b : SReg) (s : State) : Out :=
  s.scalarOp (.mulh d a b) [.s a, .s b] d 3 (fun t => BitVec.ofInt 64 ((t.rs a).toInt * (t.rs b).toInt / 2 ^ 64))

/-- mulhw: bits [127:64] of the unsigned product (R257). -/
def execMulhw (d a b : SReg) (s : State) : Out :=
  s.scalarOp (.mulhw d a b) [.s a, .s b] d 3 (fun t => BitVec.ofNat 64 ((t.rs a).toNat * (t.rs b).toNat / 2 ^ 64))

/-- lea: x + (y << X) (R257). -/
def execLea (d a b : SReg) (x : BitVec 3) (s : State) : Out :=
  s.scalarOp (.lea d a b x) [.s a, .s b] d 1 (fun t => t.rs a + (t.rs b <<< x.toNat))

/-- sel: x when c is not zero, else y (R257). -/
def execSel (d a b c : SReg) (s : State) : Out :=
  s.scalarOp (.sel d a b c) [.s a, .s b, .s c] d 1 (fun t => if t.rs c ≠ 0 then t.rs a else t.rs b)

/-- addi: x + sext(IMM12); SAT clamps (R257). -/
def execAddi (d a : SReg) (imm : BitVec 12) (s : State) : Out :=
  s.scalarOp (.addi d a imm) [.s a] d 1 (fun t => sat64 t.env.pfx.sat ((t.rs a).toInt + imm.toInt))

/-- andi (R257). -/
def execAndi (d a : SReg) (imm : BitVec 12) (s : State) : Out := s.scalar1 (.andi d a imm) d a (fun x => x &&& sext12 imm)

/-- ori (R257). -/
def execOri (d a : SReg) (imm : BitVec 12) (s : State) : Out := s.scalar1 (.ori d a imm) d a (fun x => x ||| sext12 imm)

/-- xori (R257). -/
def execXori (d a : SReg) (imm : BitVec 12) (s : State) : Out := s.scalar1 (.xori d a imm) d a (fun x => x ^^^ sext12 imm)

/-- slti: x < sext(IMM12), signed (R257). -/
def execSlti (d a : SReg) (imm : BitVec 12) (s : State) : Out :=
  s.scalar1 (.slti d a imm) d a (fun x => boolWord (x.slt (sext12 imm)))

/-- shli (R257). -/
def execShli (d a sh : BitVec 6) (s : State) : Out := s.scalar1 (.shli d a sh) d a (fun x => x <<< sh.toNat)

/-- shri (R257). -/
def execShri (d a sh : BitVec 6) (s : State) : Out := s.scalar1 (.shri d a sh) d a (fun x => x >>> sh.toNat)

/-- sari (R257). -/
def execSari (d a sh : BitVec 6) (s : State) : Out := s.scalar1 (.sari d a sh) d a (fun x => x.sshiftRight sh.toNat)

/-! ## Division (R258) -/

/-- The divider of the slot in the environment: 0 for SA, 1 for SB. -/
def State.divider (s : State) : Fin 2 := if s.env.pos = 2 then 1 else 0

/-- The divider of the slot is still busy (R258). -/
def State.divBusy (s : State) : Bool := decide (s.cx.ctm.toNat < (s.cx.divFree.get s.divider).toNat)

/-- A divider instruction: while the slot's divider is busy it waits in the slot's slip buffer, whose release is the divider's
becoming free; then it occupies the divider for its latency (R96, R258). -/
def State.divide (s : State) (i : Instr) (data : List Src) (d : SReg) (lat : Nat) (mayFlag : Bool)
    (k : State → State) : State :=
  let sh : Shape := ⟨i, [], data, [(.s d, lat)], mayFlag, 0⟩
  let need := s.needs data
  if s.env.slipped.isNone ∧ s.divBusy then
    if need ≠ [] ∧ s.pastLimit s.readerWait then s.expireImplicit i
    else s.slipIn sh need [] (if need = [] then none else some s.readerWait)
  else
    s.operate sh (.ok []) (fun _ t =>
      k (t.mapCx (fun x => { x with divFree := x.divFree.set t.divider (x.ctm + BitVec.ofNat 64 lat) })))

/-- An integer division. -/
def State.intDivide (s : State) (i : Instr) (d a b : SReg) (f : Word → Word → Word) : Out :=
  .next (s.divide i [.s a, .s b] d 20 false (fun t => t.deliverS 20 d (f (t.rs a) (t.rs b))))

/-- div: signed, toward zero; all ones over 0 (R258). -/
def execDiv (d a b : SReg) (s : State) : Out :=
  s.intDivide (.div d a b) d a b (fun x y =>
    if y = 0 then BitVec.allOnes 64 else BitVec.ofInt 64 (x.toInt.tdiv y.toInt))

/-- divw: unsigned; all ones over 0 (R258). -/
def execDivw (d a b : SReg) (s : State) : Out :=
  s.intDivide (.divw d a b) d a b (fun x y => if y = 0 then BitVec.allOnes 64 else BitVec.ofNat 64 (x.toNat / y.toNat))

/-- rem: signed, with the dividend's sign; x over 0 (R258). -/
def execRem (d a b : SReg) (s : State) : Out :=
  s.intDivide (.rem d a b) d a b (fun x y => if y = 0 then x else BitVec.ofInt 64 (x.toInt.tmod y.toInt))

/-- remw: unsigned; x over 0 (R258). -/
def execRemw (d a b : SReg) (s : State) : Out :=
  s.intDivide (.remw d a b) d a b (fun x y => if y = 0 then x else BitVec.ofNat 64 (x.toNat % y.toNat))

/-! ## Bit operations and constants (R259 to R261) -/

/-- The number of zero bits before the first one bit, in the order of a list of places. -/
def zerosBefore (x : Word) : List Nat → Nat
  | [] => 0
  | k :: l => if x.getLsbD k then 0 else zerosBefore x l + 1

/-- popc: the number of one bits (R259). -/
def execPopc (d a : SReg) (s : State) : Out :=
  s.scalar1 (.popc d a) d a (fun x => BitVec.ofNat 64 ((List.range 64).filter (fun k => x.getLsbD k)).length)

/-- clz: leading zero bits; 64 for 0 (R259). -/
def execClz (d a : SReg) (s : State) : Out :=
  s.scalar1 (.clz d a) d a (fun x => BitVec.ofNat 64 (zerosBefore x (List.range 64).reverse))

/-- ctz: trailing zero bits; 64 for 0 (R259). -/
def execCtz (d a : SReg) (s : State) : Out :=
  s.scalar1 (.ctz d a) d a (fun x => BitVec.ofNat 64 (zerosBefore x (List.range 64)))

/-- brev: bit i moves to bit 63 - i (R259). -/
def execBrev (d a : SReg) (s : State) : Out := s.scalar1 (.brev d a) d a BitVec.reverse

/-- bswap: byte i moves to byte 7 - i (R259). -/
def execBswap (d a : SReg) (s : State) : Out :=
  s.scalar1 (.bswap d a) d a (fun x => BitVec.ofNat 64 (leNat (leBytes 8 x.toNat).reverse))

/-- The mask m of R260. -/
def fieldMask (pos lm : BitVec 6) : Word := BitVec.ofNat 64 ((2 ^ (lm.toNat + 1) - 1) * 2 ^ pos.toNat)

/-- bfx: a bit field extracted, zero-extended (R260). -/
def execBfx (d a : SReg) (pos lm : BitVec 6) (s : State) : Out :=
  s.scalar1 (.bfx d a pos lm) d a (fun x => (x &&& fieldMask pos lm) >>> pos.toNat)

/-- bfi: a bit field inserted into s[d] (R260). -/
def execBfi (d a : SReg) (pos lm : BitVec 6) (s : State) : Out :=
  s.scalar2 (.bfi d a pos lm) d d a (fun old x =>
    (old &&& ~~~ fieldMask pos lm) ||| ((x <<< pos.toNat) &&& fieldMask pos lm))

/-- movi: sext(IMM18) (R261). -/
def execMovi (d : SReg) (imm : BitVec 18) (s : State) : Out := s.scalarOp (.movi d imm) [] d 1 (fun _ => imm.signExtend 64)

/-- movhi: bits [16q+15:16q] of s[d] replaced (R261). -/
def execMovhi (d : SReg) (q : BitVec 2) (imm : BitVec 16) (s : State) : Out :=
  s.scalar1 (.movhi d q imm) d d (fun old =>
    (old &&& ~~~ (0xFFFF#64 <<< (16 * q.toNat))) ||| (imm.setWidth 64 <<< (16 * q.toNat)))

/-- li48: a 48-bit constant sign-extended (R261). -/
def execLi48 (d : SReg) (imm : BitVec 48) (s : State) : Out := s.scalarOp (.li48 d imm) [] d 1 (fun _ => imm.signExtend 64)

/-! ## Control registers, the port and clocks (R265 to R268) -/

/-- A read of WFL that sees a flag set observes the completion of the copies that name the flag (R36, R141, R161). -/
def State.joinFlags (s : State) (cr : CReg) (w : Word) : State :=
  if cr = .wfl then s.joinCopies 1 (fun k => k.cmd.flag.any (fun b => w.getLsbD b.toNat)) else s

/-- A control register read as it stood at issue, or, for one with late contributions, once they have arrived
(R36, R95, R265). -/
def State.readControl (s : State) (i : Instr) (d : SReg) (cr : CReg) : Out :=
  .next (s.operate ⟨i, [], [.ctl cr], (.s d, 1) :: (if cr = .wfl then [(.none, 1)] else []), false, s.ctlValue cr⟩ (.ok [])
    (fun _ t => (t.deliverS 1 d (t.ctlRead cr)).joinFlags cr (t.ctlRead cr)))

/-- mfc (R265). -/
def execMfc (d : SReg) (cr : CReg) (s : State) : Out := s.readControl (.mfc d cr) d cr

/-- The reserved bits of a control register that mtc writes (R35, R36, R119, R122, R178, R443, R451). -/
def reservedBits : CReg → Word
  | .dlw => 0xFFFFFF0000000000#64
  | .wst => 0xFFFFFFFF00F800F8#64
  | .civ => 0xFFFFFFFFFFF80000#64
  | .wfl => 0xFFFFFFFFFFFFFF00#64
  | .tcs => 0xFFFF00000000F8C0#64
  | .sfm => 0xFFFFFFFFFFFFFF00#64
  | .tvb => 0x00000000000000FF#64
  | .fpc => 0xFFFFFFFFFFFFF0F8#64
  | .fps => 0xFFFFFFFFFFFFFFF0#64
  | .dcf => 0xFFFFFFFFFFFFFFFE#64
  | .vovf => 0xFFFFFFFF00000000#64
  | _ => 0

/-- A value that mtc may write to a control register: no reserved bit, and a rounding mode that exists (R7, R35,
R266). -/
def ctlAdmits (cr : CReg) (w : Word) : Bool :=
  w &&& reservedBits cr == 0 && (cr != .fpc || decide ((w.extractLsb' 0 3).toNat ≤ 4))

/-- mtc: written at t + 1; a read-only register ignores it, a one in a reserved field raises ILL (R266), and the trap
registers need handler privilege (R235). -/
def execMtc (cr : CReg) (a : SReg) (s : State) : Out :=
  let i : Instr := .mtc cr a
  .next (s.operateNow ⟨i, [.s a], [], [], false, 0⟩
    (if privileged i && !s.handlerRights s.env.cid then .error ⟨.priv, 0, 0⟩
     else checkThat (ctlAdmits cr (s.rs a)) ⟨.ill, 0, 0⟩)
    (fun t => t.deliver 1 (.ctl cr) (ofWord (t.rs a))))

/-- bcast: the port of the bundle holds s[a] (R267). -/
def execBcast (a : SReg) (s : State) : Out :=
  .next (s.operate ⟨.bcast a, [.s a], [], [], false, 0⟩ (.ok [])
    (fun _ t => { t with env := { t.env with port := some (t.rs a) } }))

/-- rdclk: a clock as mfc samples it (R268). -/
def execRdclk (d : SReg) (clk : ClkSel) (s : State) : Out :=
  let cr : CReg := match clk with
    | .gcc => .gcc
    | .ctm => .ctm
    | .dtc => .dtc
  s.readControl (.rdclk d clk) d cr

end Sys2Proof.Machine
end

