-- ==== Sys2Proof/Machine/Float.lean ====
section
/-!
DEFINITION. Scalar floating point in the SA and SB slots (spec/09 R262 to R264): FP32 in bits [31:0] of a scalar
register, with flags and traps of spec/02.
-/
namespace Sys2Proof.Machine

/-- An FP32 result in the low bits of a scalar register, the rest zero, with its flags (R36, R37, R262). -/
def State.deliverFp (s : State) (lat : Nat) (d : SReg) (r : Lane × Flags) : State :=
  s.deliverF lat (.s d) (ofWord (r.1.setWidth 64)) (BitVec.allOnes 64) r.2

/-- The FP32 operand in a scalar register (R262). -/
def State.rf (s : State) (a : SReg) : Lane := (s.rs a).setWidth 32

/-- A scalar FP instruction of latency 4. -/
def State.floatOp (s : State) (i : Instr) (data : List Src) (d : SReg) (f : State → Lane × Flags) : Out :=
  .next (s.compute i [] data [(.s d, 4)] true (fun t => t.deliverFp 4 d (f t)))

/-- fadd (R262). -/
def execFadd (d a b : SReg) (s : State) : Out :=
  s.floatOp (.fadd d a b) [.s a, .s b] d (fun t => fadd32 t.rmode t.env.pfx.sat (t.rf a) (t.rf b))

/-- fsub (R262). -/
def execFsub (d a b : SReg) (s : State) : Out :=
  s.floatOp (.fsub d a b) [.s a, .s b] d (fun t => fsub32 t.rmode t.env.pfx.sat (t.rf a) (t.rf b))

/-- fmul (R262). -/
def execFmul (d a b : SReg) (s : State) : Out :=
  s.floatOp (.fmul d a b) [.s a, .s b] d (fun t => fmul32 t.rmode t.env.pfx.sat (t.rf a) (t.rf b))

/-- ffma: x·y + c with one rounding (R262). -/
def execFfma (d a b c : SReg) (s : State) : Out :=
  s.floatOp (.ffma d a b c) [.s a, .s b, .s c] d
    (fun t => ffma32 t.rmode t.env.pfx.sat (t.rf a) (t.rf b) (t.rf c))

/-- fmin (R28, R262). -/
def execFmin (d a b : SReg) (s : State) : Out :=
  s.floatOp (.fmin d a b) [.s a, .s b] d (fun t => (fmin32 (t.rf a) (t.rf b), Flags.none))

/-- fmax (R28, R262). -/
def execFmax (d a b : SReg) (s : State) : Out :=
  s.floatOp (.fmax d a b) [.s a, .s b] d (fun t => (fmax32 (t.rf a) (t.rf b), Flags.none))

/-- fcmp: 1 or 0, no flag (R263). -/
def execFcmp (cc : CmpOp) (d a b : SReg) (s : State) : Out :=
  s.scalarOp (.fcmp cc d a b) [.s a, .s b] d 4 (fun t => boolWord (cmpEval cc (t.rf a) (t.rf b)))

/-- fcvt: a conversion between two formats, latency 3 (R39, R40, R41, R264). -/
def execFcvt (d a : SReg) (src dst : Fmt) (s : State) : Out :=
  .next (s.compute (.fcvt d a src dst) [] [.s a] [(.s d, 3)] true (fun t =>
    let r := convert src dst t.rmode t.env.pfx.sat (t.rs a)
    t.deliverF 3 (.s d) (ofWord r.1) (BitVec.allOnes 64) r.2))

/-- fdiv, in the slot's divider (R258, R262). -/
def execFdiv (d a b : SReg) (s : State) : Out :=
  .next (s.divide (.fdiv d a b) [.s a, .s b] d 16 true
    (fun t => t.deliverFp 16 d (fdiv32 t.rmode t.env.pfx.sat (t.rf a) (t.rf b))))

/-- fsqrt, in the slot's divider (R258, R262). -/
def execFsqrt (d a : SReg) (s : State) : Out :=
  .next (s.divide (.fsqrt d a) [.s a] d 16 true
    (fun t => t.deliverFp 16 d (fsqrt32 t.rmode t.env.pfx.sat (t.rf a))))

end Sys2Proof.Machine
end

