-- ==== Sys2Proof/Machine/HostEvents.lean ====
section
/-!
DEFINITION. The host's registers and windows, invalidations, and the error records of storage (spec/18 R437, R453, R454;
spec/19 R477, R478; spec/20 R481 to R483, R493; spec/21 R507).
-/
namespace Sys2Proof.Machine

/-! ## Invalidation (R437) -/

/-- The range of an invalidation: SPAN 63 takes every page (R437). -/
def inSpanRange (val : Word) (va : BitVec 56) (bits : Nat) : Bool :=
  let span := (val.extractLsb' 0 6).toNat
  let lo := (val.extractLsb' 16 40).toNat * 65536
  span == 63 || (decide (va.toNat < lo + 2 ^ (16 + span)) && decide (lo < va.toNat + 2 ^ bits))

/-- A virtual range of an engine thread meets the range of an invalidation. -/
def Reach.meets (r : Reach) (val : Word) : Bool :=
  let span := (val.extractLsb' 0 6).toNat
  let lo := (val.extractLsb' 16 40).toNat * 65536
  let va := (r.va.setWidth 56 : BitVec 56).toNat
  span == 63 || (decide (va < lo + 2 ^ (16 + span)) && decide (lo < va + r.len))

/-- The access and the address at which a thread of an engine loses a translation to an invalidation: the first of its ranges that
the invalidation meets (R437, R438). -/
def revocation (val : Word) (l : List Reach) : Option (Access × Word) :=
  let lo : BitVec 56 := BitVec.ofNat 56 ((val.extractLsb' 16 40).toNat * 65536)
  (l.find? (·.meets val)).map (fun r =>
    (r.acc, if val.extractLsb' 0 6 = 63 ∨ lo.toNat ≤ (r.va.setWidth 56 : BitVec 56).toNat then r.va else sext56 (lo.setWidth 64)))

/-- The storage that a cached translation maps. -/
def Tlb.holds (t : Tlb) (key : Nat) : Bool :=
  let base := pteAddr t.pte
  let k := if pteAttr t.pte = 2 then hostKey base else physKey base
  decide (k ≤ key) && decide (key < k + 2 ^ t.bits)

/-- The waiting instructions of a context's task, those of the levels that a handler interrupts among them. -/
def Ctx.waitingAll (x : Ctx) : List SlipEntry := x.slip ++ x.frozen.flatMap (·.slip)

/-- The contexts of the tasks of a partition, on cores and as images of resume groups. -/
def State.partTasks (s : State) (p : BitVec 4) : List (Nat × Ctx) :=
  (allCtxs.map s.ctx ++ s.groups.flatMap (fun g => g.images.map (·.2))).filterMap (fun x =>
    match x.task with
    | some t => if t.part = p then some (t.serial, x) else none
    | none => none)

/-- The threads of a partition whose barrier or event object was translated through a dropped entry, and the conds that have begun
to write, which their attic ends (R437; notes/assumptions/54.md). -/
def State.objectUsers (s : State) (p : BitVec 4) (dropped : List Tlb) : List Nat :=
  let uses (k : Option Nat) : Bool := k.any (fun key => dropped.any (fun d => d.holds key))
  (s.copies.filter (fun k => k.part == p && k.st == .run && (uses k.cmd.barrier || uses k.cmd.event))).map (·.id) ++
  (s.conds.filter (fun k => k.part == p && k.st == .run && (uses k.event || !k.done.isEmpty))).map (·.id) ++
  (s.posts.filter (fun k => k.part == p && k.st == .run && uses (some k.event))).map (·.id)

/-- An invalidation is accepted: the cached translations of its range are dropped, the threads that hold one are revoked, and what
uses one without holding it is awaited (R437). -/
def State.invalidate (s : State) (p : BitVec 4) (val : Word) : State :=
  let gone (t : Tlb) : Bool := t.part == p && inSpanRange val t.va t.bits
  let dropped := s.tlb.filter gone
  let waits := (s.partTasks p).flatMap (fun c =>
    (c.2.waitingAll.filter (fun e => e.touch.any (fun t => dropped.any (fun d => d.holds t.key)))).map
      (fun e => (c.1, e.ctm, e.slot)))
  let s1 : State :=
    { s with
      tlb := s.tlb.filter (fun t => !gone t),
      copies := s.copies.map (fun k =>
        if k.part = p ∧ k.st = .run ∧ k.stopped = false ∧ k.revoked = none then { k with revoked := revocation val k.reach } else k),
      reds := s.reds.map (fun r =>
        if r.part = p ∧ r.st = .issued ∧ r.revoked = none then { r with revoked := revocation val r.reach } else r),
      conds := s.conds.map (fun k =>
        if k.part = p ∧ k.st = .run ∧ k.work.isSome ∧ k.done = [] ∧ k.revoked = none then { k with revoked := revocation val (s.condReach k) } else k) }
  s1.mapPart p (fun x => { x with tinvBusy := true, tinvWaits := waits, tinvThreads := s.objectUsers p dropped })

/-- A write of TINV: a reserved bit counts in HERR; one that comes while an invalidation is in progress is ignored (R437,
R482). -/
def State.writeTinv (s : State) (p : BitVec 4) (val : Word) : State :=
  if !(s.partOf p).registered then s
  else if val.extractLsb' 6 10 ≠ 0 ∨ val.extractLsb' 56 8 ≠ 0 then s.hostError p
  else if (s.partOf p).tinvBusy then s
  else s.invalidate p val

/-- TINV (R437). -/
def execTinv (p : BitVec 4) (val : Word) (s : State) : Out := .next (s.writeTinv p val)

/-- A waiting instruction stands in its buffer still. -/
def State.stillWaits (s : State) (w : Nat × Word × Pos) : Bool :=
  (s.ctxs.toList ++ s.groups.flatMap (fun g => g.images.map (·.2))).any (fun x =>
    x.runs w.1 && x.waitingAll.any (fun e => e.ctm == w.2.1 && e.slot == w.2.2))

/-- A thread still runs. -/
def State.stillRuns (s : State) (id : Nat) : Bool :=
  s.copies.any (fun k => k.id == id && k.st == .run) || s.conds.any (fun k => k.id == id && k.st == .run) ||
  s.posts.any (fun k => k.id == id && k.st == .run)

/-- No thread of a partition holds a translation that an invalidation has revoked, but a redo that is held behind another, which is
translated again when it goes on (R437; notes/assumptions/54.md). -/
def State.noneRevoked (s : State) (p : BitVec 4) : Bool :=
  s.copies.all (fun k => !(k.part == p && k.st == .run && k.revoked.isSome)) &&
  s.reds.all (fun r => !(r.part == p && r.revoked.isSome && !s.redoHeld r)) &&
  s.conds.all (fun k => !(k.part == p && k.st == .run && k.revoked.isSome))

/-- INVALIDATION_COMPLETION: once what used a dropped translation has been performed, and every thread that held one has
recorded a late fault, SEQ counts it and BUSY is clear (R437). -/
def execInvalidationCompletion (p : BitVec 4) (s : State) : Out :=
  let x := s.partOf p
  .next (if x.tinvBusy ∧ x.tinvWaits.all (fun w => !s.stillWaits w) ∧ x.tinvThreads.all (fun n => !s.stillRuns n) ∧
      s.noneRevoked p then
      s.mapPart p (fun y => { y with tinvBusy := false, tinvSeq := y.tinvSeq + 1, tinvWaits := [], tinvThreads := [] })
    else s)

/-! ## BAR0 (R482, R507) -/

/-- The mailbox knows a command code; any other gives BADCMD (R507). -/
def knownCommand (code : Nat) : Bool :=
  [0x01, 0x02, 0x03, 0x04, 0x05, 0x06, 0x07, 0x08, 0x10, 0x11, 0x12, 0x13, 0x14, 0x15, 0x16].contains code

/-- A command of the mailbox has run: its status, BUSY clear, SEQ one more (R507). -/
def State.mailboxDone (s : State) (st : BitVec 3) : State :=
  { s with mgmt := { s.mgmt with busy := false, mst := st, mseq := s.mgmt.mseq + 1 } }

/-- A write to a register of the physical function (R507): MBARG's buffer address; MBCMD starts a command unless one runs,
and a code not listed ends with BADCMD. Bits of MBCMD marked zero are not looked at (notes/assumptions/53.md). -/
def State.writeMailbox (s : State) (off : BitVec 16) (val : Word) : State :=
  if !s.mgmt.up then s
  else if off = 0x0008 then { s with mgmt := { s.mgmt with mbarg := val &&& ~~~ 0x3F#64 } }
  else if off = 0x0000 then
    if s.mgmt.busy then s
    else
      let t : State := { s with mgmt := { s.mgmt with busy := true, code := val.setWidth 8 } }
      if knownCommand t.mgmt.code.toNat then t else t.mailboxDone 3
  else s

/-- The register of a doorbell offset: its queue, when the offset is one of an array's (R412). -/
def doorbellQueue (off : BitVec 16) (base : Nat) : Option (BitVec 6) :=
  let o := off.toNat
  if base ≤ o ∧ o < base + 512 ∧ o % 8 = 0 then some (BitVec.ofNat 6 ((o - base) / 8)) else none

/-- The state of an outcome; this machine has no other outcome than a next state. -/
def Out.state (o : Out) (s : State) : State :=
  match o with
  | .next t => t
  | .fault _ => s
  | .refused _ => s

/-- REGISTER_WRITE: a host write to BAR0 of a function; one of a virtual function whose partition is not registered is
ignored (R481, R482, R507). -/
def execRegisterWrite (fn : BitVec 5) (off : BitVec 16) (val : Word) (s : State) : Out :=
  .next (if fn = 0 then s.writeMailbox off val
    else if 17 ≤ fn.toNat then s
    else
      let p : BitVec 4 := BitVec.ofNat 4 (fn.toNat - 1)
      if !(s.partOf p).registered then s
      else
        match doorbellQueue off 0, doorbellQueue off 0x0400 with
        | some q, _ => Out.state (execTail p q val s) s
        | none, some q => Out.state (execCancelDoorbell p q val s) s
        | none, none =>
          if off = 0x0800 then s.writeTinv p val
          else if off = 0x0810 then s.writeFres p val
          else if off = 0x0818 then
            if val &&& ~~~ 0x00FFFFF000000000#64 ≠ 0 then s.hostError p else s.mapPart p (fun x => { x with wbase := val })
          else s)

/-- What a host read of BAR0 of a function returns: mailbox registers, or TINVS, WBASE and HERR of a registered partition; a
write-only register, a doorbell and every other offset read as zero (R7, R412, R437, R481, R482, R507). The event list names no
such read: no step answers one (notes/assumptions/53.md). -/
def State.readRegister (s : State) (fn : BitVec 5) (off : BitVec 16) : Word :=
  if fn = 0 then
    if !s.mgmt.up then 0
    else if off = 0x0008 then s.mgmt.mbarg
    else if off = 0x0010 then (s.mgmt.mseq ++ 0#28 ++ s.mgmt.mst ++ BitVec.ofBool s.mgmt.busy : BitVec 64)
    else 0
  else if 17 ≤ fn.toNat then 0
  else
    let x := s.partOf (BitVec.ofNat 4 (fn.toNat - 1))
    if !x.registered then 0
    else if off = 0x0808 then (x.tinvSeq ++ 0#31 ++ BitVec.ofBool x.tinvBusy : BitVec 64)
    else if off = 0x0818 then x.wbase
    else if off = 0x0820 then x.herr.setWidth 64
    else 0

/-! ## BAR4 (R483) -/

/-- The virtual address of an offset in a partition's BAR4 window (R483). -/
def State.bar4Addr (s : State) (p : BitVec 4) (off : BitVec 36) : Word :=
  sext56 ((((s.partOf p).wbase.extractLsb' 36 20) ++ off : BitVec 56).setWidth 64)

/-- The storage of a host access through BAR4: pages WB or UC, permitted to master class 5 (R483). -/
def State.bar4Pieces (s : State) (p : BitVec 4) (off : BitVec 36) (a : Access) (n : Nat) : Option (List Piece) :=
  match s.translateAll none p a (s.bar4Addr p off) n with
  | .error _ => none
  | .ok rs =>
    if rs.all (fun r => r.attr != 2 && s.permitsRun (masterOf p 5) a r) then some (rs.map (·.piece)) else none

/-- BAR4_READ: the bytes, in a completion with the EP bit where a block of them is poisoned, Unsupported Request for a refusal,
zeros for a function that is not registered (R148, R479, R481, R483). -/
def execBar4Read (p : BitVec 4) (off : BitVec 36) (len : Nat) (s : State) : Out :=
  .next (if !(s.partOf p).registered then { s with hostOut := some (List.replicate len 0, false) :: s.hostOut }
    else
      match s.bar4Pieces p off .read len with
      | some ps =>
        let t := s.readErrors ⟨none, p, (s.partOf p).rcb, BitVec.allOnes 64, s.bar4Addr p off⟩ ps
        { t with hostOut := some (t.piecesBytes ps, (t.carriedBytes ps).any (·.2)) :: t.hostOut }
      | none => let t := s.hostError p; { t with hostOut := none :: t.hostOut })

/-- BAR4_WRITE: the bytes are written, and waits on what lies there are tested again, or they are dropped and counted (R290, R481,
R483). -/
def execBar4Write (p : BitVec 4) (off : BitVec 36) (bytes : List Byte) (s : State) : Out :=
  .next (if !(s.partOf p).registered then s
    else
      match s.bar4Pieces p off .write bytes.length with
      | some ps => (s.putPieces ps bytes).wakeOn ps
      | none => s.hostError p)

/-! ## Reads of HOST pages without completion (R493) -/

/-- A context's read of a HOST page completes with poisoned data, a free value: one whose value is on its way, or one that waits in
a slip buffer for nothing else (R451, R493). -/
def State.valueTimeout (s : State) (c : CtxId) (rid : Nat) : State :=
  let x := s.ctx c
  let fill (rs : List Nat) (pc : Word) (u : State) : State :=
    let p := (u.ctx c).consumeAt pc
    let v := ofLanes ((List.range 64).map (fun i => (Config.freeWord (u.free + i)).setWidth 32))
    let set (l : List Result) := l.map (fun r =>
      if rs.contains r.rid ∧ r.dest ≠ .wait ∧ r.dest ≠ .none then { r with val := v, preg := p.2, held := false }
      else r)
    let u1 := ({ u with free := u.free + 64 } : State).setCtx c { p.1 with
      results := set p.1.results, frozen := p.1.frozen.map (fun f => { f with results := set f.results }) }
    rs.foldl (fun w r => w.arrive c r) u1
  if !x.alive then s
  else
    match x.slip.find? (fun e => e.rids.any (fun p => p.2 == rid)) with
    | some e =>
      if e.need = [] ∧ e.wait = none ∧ e.touch.any (fun t => isHostKey t.key && !t.write) ∧
          (x.slotSlip e.slot).head? = some e then
        fill (e.rids.map (·.2)) e.pc (s.mapCtx c (fun y => y.dropSlip e.slot))
      else s
    | none =>
      match x.resultOf rid with
      | some r => if r.host && !r.arrived && !r.held then fill [rid] r.pc (s.settle c) else s
      | none => s

/-- A segment fetch from a HOST page completes with poisoned data: the segment that execution has reached raises POIS (R113, R493). -/
def State.fetchTimeout (s : State) (c : CtxId) : State :=
  let seg := bundleSeg (s.ctx c).flow.pc
  if (s.ctx c).run = .running ∧ (s.ctx c).loaded seg = none ∧
      (s.segmentPieces c.core (s.ctxPart c) seg).any (fun p => isHostKey p.key) then
    s.mapCtx c (fun x => { x with lbuf := ⟨seg, 0, 0, [], some (.pois, 0, segAddr seg)⟩ :: x.lbuf.take 1 })
  else s

/-- What a thread has still to read of HOST pages comes poisoned, with free bytes (R493). -/
def State.lostAhead (s : State) (ahead : List (Nat × Carried)) (ps : List Piece) : List (Nat × Carried) :=
  ahead ++ (((pieceKeys ps).filter (fun k => isHostKey k && !ahead.any (fun a => a.1 == k))).zipIdx.map
    (fun k => (k.1, (Config.freeByte (s.free + k.2), true))))

/-- The reads of HOST pages of an engine thread that a context has forked complete with poisoned data (R149, R493). -/
def State.engineTimeout (s : State) (c : CtxId) (e : EngRef) : State :=
  let t : State := { s with free := s.free + 2 ^ 40 }
  match e with
  | .copy id =>
    match s.copyOf id with
    | some k =>
      match s.copySources k with
      | some (src, _) => if k.works ∧ k.cid = c then t.mapCopy id (fun x => { x with ahead := s.lostAhead x.ahead src }) else s
      | none => s
    | none => s
  | .omnibus id =>
    match s.posts.find? (fun p => p.id == id) with
    | some p =>
      match s.postSource p with
      | some ps => if p.st = .run ∧ p.stepped = false ∧ p.cid = c then t.mapPost id (fun x => { x with ahead := s.lostAhead x.ahead ps }) else s
      | none => s
    | none => s
  | _ => s

/-- COMPLETION_TIMEOUT: a read of a HOST page that has had no completion within 50 ms, or whose completion bears the EP bit, completes
with poisoned data (R493). -/
def execCompletionTimeout (c : CtxId) (r : HostRead) (s : State) : Out :=
  .next (match r with
    | .value rid => s.valueTimeout c rid
    | .fetch => s.fetchTimeout c
    | .engine e => s.engineTimeout c e)

/-! ## Errors of storage (R453, R454, R477, R478) -/

/-- MDPW: the metadata of a block could not be fetched for a partial write: the write stands, the block is poisoned, and the
record names the context of the most recent store to it as it was then, MULTI when there were several (R453, R454). A block
already poisoned writes no further record. -/
def execMdpw (block : BitVec 44) (writers : List Writer) (s : State) : Out :=
  let pa := block.toNat * 256
  .next (if s.poison.contains pa then s
    else
      let s1 : State := { s with poison := keyAdd s.poison pa }
      match writers.getLast? with
      | none =>
        match s.ownerOf pa with
        | some p => s1.post p (s.partOf p).eq (errorRecord 1 0 0xFFFF 0xFF (BitVec.ofNat 64 pa) 0 0 s.gcc (BitVec.allOnes 64))
        | none => s1
      | some w =>
        let multi := if writers.any (fun x => x.core != w.core || x.num != w.num) then 1 else 0
        s1.post w.part (s.partOf w.part).eq
          (errorRecord 1 multi w.core.toNat w.num.toNat (BitVec.ofNat 64 pa) 0 w.rcb s.gcc w.lidx))

/-- An entry of a receive queue with an error: corrected and scored, or poisoned with an UNCOR record (R469, R477). -/
def State.queueError (s : State) (c : CtxId) (q : BitVec 3) (i : Nat) (correctable : Bool) : State :=
  if correctable then s.raiseScore .core c.core.toNat 1 0
  else
    let t := s.mapCtx c (fun x =>
      { x with rq := x.rq.set q.toNat ((x.queue q).zipIdx.map (fun e => if e.2 = i then (e.1.1, true) else e.1)) q.isLt })
    t.post (s.ctxPart c) (s.partOf (s.ctxPart c)).eq
      (errorRecord 3 0 c.core.toNat c.num.toNat 0 0 (((s.ctxRgn c).map (·.rcb)).getD 0) s.gcc
        (((s.ctx c).task.map (·.lidx)).getD (BitVec.allOnes 64)))

/-- An error of a word in a cellar slice or a landing: a corrected one belongs to no leasable unit (R469, R477). -/
def State.cellarError (s : State) (key : Nat) (correctable : Bool) : State :=
  if isHostKey key ∨ isLocalKey key then s
  else if correctable then { s with mgmt := { s.mgmt with otherErrors := s.mgmt.otherErrors + 1 } }
  else s.foundError key false none

/-- What an error in an array does (R469, R477): a word is corrected and scored, or poisoned; L1 fetches a clean line again and
writes a dirty one back poisoned; the half of a loop buffer is expanded again and a cached translation walked again; a register,
an accumulator, a bank or a ring entry keeps its error until an instruction reads it. Parity corrects nothing. -/
def State.arrayError (s : State) (ok : Bool) : ErrorAt → State
  | .word key => s.foundError key ok none
  | .cellar key => s.cellarError key ok
  | .l1 k key dirty =>
    if ok then s.raiseScore .core k.toNat 1 0
    else if dirty ∧ !isLocalKey key then { s with poison := keyAdd s.poison (poisonBase key) } else s
  | .queue c q i => s.queueError c q i ok
  | .loopBuffer c seg =>
    (s.mapCtx c (fun x => { x with lbuf := x.lbuf.filter (fun g => g.seg != seg) })).raiseScore .core c.core.toNat 8 1
  | .translation n =>
    match s.tlb[n]? with
    | some t =>
      let u : State := { s with tlb := s.tlb.eraseIdx n }
      (match t.holder with
       | .core k => u.raiseScore .core k.toNat 8 1
       | .cluster _ => u)
    | none => s
  | e => if s.parity.contains e then s else { s with parity := e :: s.parity }

/-- The islands of a domain that is held in reset are not scrubbed (R499, R505). -/
def State.scrubbed (s : State) (e : ErrorAt) : Bool :=
  s.mgmt.computeUp ||
  (match e with
   | .word key => !isLocalKey key
   | .cellar _ => true
   | _ => false)

/-- PATROL_SCRUBBING: a word is read and corrected: what error it held is found, and is there no more. An array that scrubbing does
not read comes by its errors in the same event, since the table has none for it (R148, R454, R477, R478; notes/assumptions/35.md). -/
def execPatrolScrubbing (e : ErrorAt) (correctable : Bool) (s : State) : Out :=
  .next (if s.scrubbed e then
      match e with
      | .word key => ({ s with damaged := s.damaged.filter (fun d => d.1 != poisonBase key) } : State).arrayError correctable e
      | _ => s.arrayError correctable e
    else s)

end Sys2Proof.Machine
end

