-- ==== Sys2Proof/Machine/Leases.lean ====
section
/-!
DEFINITION. The brake van (spec/19 R458 to R476; spec/15 R392): scheduled and forced leases, their ends and records, the
decay of scores, and the records of capacity notices that nobody acknowledges.
-/
namespace Sys2Proof.Machine

/-! ## Units (R458, R466) -/

/-- A unit has been retired (R466). -/
def State.isRetired (s : State) (cls : UnitClass) (unit : Nat) : Bool := (s.van.retired[classNo cls]).contains unit

/-- A class's running lease replaced. -/
def Van.setRunning (v : Van) (cls : UnitClass) (l : Option Lease) : Van :=
  { v with running := v.running.set (classNo cls).val l (classNo cls).isLt }

/-- The interval between scheduled leases of a class in ns (R459). -/
def leasePeriod (c : LeaseConfig) (cls : UnitClass) : Nat :=
  1000000 * (match cls with
    | .core => c.perc.toNat
    | .link => c.perl.toNat
    | .channel => c.perm.toNat)

/-- A core of a cluster has retired, so that an ISOLATED owner has no lease spare there (R476). -/
def State.spareLost (s : State) (k : ClusterId) : Bool :=
  allCores.any (fun c => c.cluster == k && (s.core c).service == .retired)

/-- Two core leases in one ISOLATED partition start at least PERC apart (R476). -/
def State.isoApart (s : State) (p : BitVec 4) : Bool :=
  match s.van.isoLast.find? (fun x => x.1 == p) with
  | some x => decide (leasePeriod s.van.cfg .core ≤ (s.gcc - x.2).toNat)
  | none => true

/-- Another port takes over the traffic of one: every chip that is reached by it is reached by the other too (R462). -/
def State.otherPort (s : State) (p : Nat) : Option Nat :=
  (List.range 12).find? (fun q =>
    q != p && (match s.portAt q with | some x => x.trained && x.service == .inService | none => false) &&
    s.porch.routes.toList.all (fun r => !r.getLsbD p || r.getLsbD q))

/-- A port carries channels of an ISOLATED partition (R476). -/
def State.isoPort (s : State) (p : Nat) : Bool :=
  ((List.range 16).map (BitVec.ofNat 4)).any (fun q =>
    (s.partOf q).registered &&
    (match s.partChain q with
     | some ch =>
       ch.any (fun x => (rcbField x.2 0x0A 1).testBit 1) &&
       (match (effChain ch).head? with
        | some e => e.2.lport.getLsbD p && e.2.lvc != 0
        | none => false)
     | none => false))

/-- A scheduled lease may take a unit now (R460, R476). -/
def State.leasable (s : State) (cls : UnitClass) (unit : Nat) : Bool :=
  !s.isRetired cls unit &&
  match cls with
  | .core =>
    let k : CoreId := BitVec.ofNat 9 unit
    (match s.isolatedOwner k.cluster with
     | some p => !s.spareLost k.cluster && s.isoApart p
     | none => true)
  | .link => !s.isoPort unit || (s.otherPort unit).isSome
  | .channel => true

/-- Units are leased only outside the safe state, by a controller that is up (R460, R502). -/
def State.vanRuns (s : State) : Bool := s.mgmt.up && !s.mgmt.safe

/-! ## The start of a lease (R461 to R463) -/

/-- A core changes its service state. -/
def State.setService (s : State) (k : CoreId) (v : Service) : State := s.mapCore k (fun c => { c with service := v })

/-- A core is withdrawn: the region with contexts on it is pre-empted whole, and it has a notice; each of its groups goes on by a
REGION_RESUME of its own (R392, R461, R473). The answer counts the regions pre-empted (R465). -/
def State.withdrawCore (s : State) (k : CoreId) : State × Nat :=
  match (coreCtxs k).findSome? (fun c => (s.ctx c).task.bind (fun t => s.rgnOf t.region)) with
  | none => (s.setService k .leased, 0)
  | some r =>
    (((s.preemptRegion r (some k)).setService k .leased).notice r.id, 1)

/-- The regions whose LPORT names a port have a notice (R473). -/
def State.noticePort (s : State) (p : Nat) : State :=
  (s.rgns.filter (fun r => r.lport.getLsbD p)).foldl (fun u r => u.notice r.id) s

/-- A control flit that a port sends its partner: HOLD or RESUME (R462, R495). -/
def State.sendControl (s : State) (p : Nat) (kind : BitVec 4) : State :=
  s.mapPort p (fun x =>
    { x with
      sent := x.sent ++ [⟨0, kind, s.chip, s.chip, false, true, 0, x.txSeq, 0⟩],
      txSeq := x.txSeq + 1 })

/-- What a port held goes by another port that reaches the same chips, in its order (R462, R496). -/
def State.moveHeld (s : State) (p : Nat) : State :=
  match s.portAt p with
  | none => s
  | some x => x.held.foldl State.sendFlit (s.mapPort p (fun y => { y with held := [] }))

/-- A port is withdrawn: its traffic goes by another port, or is held and the partner told to hold (R462, R473). -/
def State.withdrawPort (s : State) (p : Nat) : State :=
  let s1 := if (s.otherPort p).isSome then s else s.sendControl p 5
  let s2 := s1.mapPort p (fun x => { x with service := .leased })
  (if (s.otherPort p).isSome then s2.moveHeld p else s2).noticePort p

/-- A lease of a unit starts (R461 to R463). -/
def State.startLease (s : State) (cls : UnitClass) (unit : Nat) (forced : Bool) : State :=
  let r : State × Nat :=
    match cls with
    | .core => s.withdrawCore (BitVec.ofNat 9 unit)
    | .link => (s.withdrawPort unit, 0)
    | .channel => (s, 0)
  let iso : List (BitVec 4 × Word) :=
    match cls with
    | .core =>
      match s.isolatedOwner (CoreId.cluster (BitVec.ofNat 9 unit)) with
      | some p => (p, s.gcc) :: s.van.isoLast.filter (fun x => x.1 != p)
      | none => s.van.isoLast
    | _ => s.van.isoLast
  r.1.mapVan (fun v =>
    { v.setRunning cls (some ⟨unit, s.gcc, BitVec.ofNat 16 r.2, forced⟩) with isoLast := iso })

/-- The next unit of a class in ascending order from a place, round its end (R460). -/
def State.nextUnit (s : State) (cls : UnitClass) : Option Nat :=
  let l := unitsOf s.part cls
  let from' := s.van.next[classNo cls]
  (l.filter (fun u => decide (from' ≤ u)) ++ l.filter (fun u => decide (u < from'))).find? (s.leasable cls)

/-- A unit may be leased by force now: two core leases in one ISOLATED partition start apart (R471, R476). -/
def State.forceable (s : State) (cls : UnitClass) (unit : Nat) : Bool :=
  match cls with
  | .core => (s.isolatedOwner (CoreId.cluster (BitVec.ofNat 9 unit))).all s.isoApart
  | _ => true

/-- A forced lease of a class is due, and starts ahead of the schedule (R460, R471). -/
def State.forcedDue (s : State) (cls : UnitClass) : Bool :=
  ((s.van.forced[classNo cls]).find? (fun u => !s.isRetired cls u)).any (s.forceable cls)

/-- A scheduled lease of a class starts when it is enabled, its period has passed, none of the class runs and none is forced (R458
to R460). -/
def State.scheduledLease (s : State) (cls : UnitClass) (bit : Nat) : State :=
  let i := (classNo cls).val
  let v := s.van
  if s.vanRuns = false ∨ v.cfg.en.getLsbD bit = false ∨ (v.running[classNo cls]).isSome ∨ s.forcedDue cls ∨
      (s.gcc - v.due[classNo cls]).toNat < leasePeriod v.cfg cls then s
  else
    match s.nextUnit cls with
    | none => s
    | some u =>
      (s.startLease cls u false).mapVan (fun w =>
        { w with
          next := w.next.set i (u + 1) (classNo cls).isLt,
          due := w.due.set i s.gcc (classNo cls).isLt })

/-- CORE_LEASE (R460, R461). -/
def execCoreLease (s : State) : Out := .next (s.scheduledLease .core 0)
/-- LINK_PORT_LEASE (R460, R462). -/
def execLinkPortLease (s : State) : Out := .next (s.scheduledLease .link 1)
/-- MEMORY_CHANNEL_LEASE (R460, R463). -/
def execMemoryChannelLease (s : State) : Out := .next (s.scheduledLease .channel 2)

/-- FORCED_LEASE: the first unit of a class that crossed 512 is leased as soon as none of the class runs, whatever EN says
(R460, R471, R476). -/
def execForcedLease (cls : UnitClass) (s : State) : Out :=
  let v := s.van
  .next (match v.forced[classNo cls] with
    | [] => s
    | u :: rest =>
      let drop (t : State) : State :=
        t.mapVan (fun w => { w with forced := w.forced.set (classNo cls).val rest (classNo cls).isLt })
      if s.isRetired cls u then drop s
      else if s.vanRuns && (v.running[classNo cls]).isNone && s.forceable cls u then (drop s).startLease cls u true
      else s)

/-! ## The end of a lease (R464 to R467) -/

/-- OUTCOME codes (R464). -/
def outcomeCode (o : LeaseOutcome) : Nat :=
  match o with
  | .returned => 0 | .marginal => 1 | .retired => 2 | .aborted => 3

/-- A lease record (R465). -/
def leaseRecord (cls : UnitClass) (l : Lease) (o : LeaseOutcome) (gcc : Word) (score : BitVec 10) : BitVec 256 :=
  BitVec.ofNat 256 (leNat (leBytes 2 (classNo cls).val ++ leBytes 2 l.unit ++ leBytes 1 (outcomeCode o) ++ leBytes 3 0 ++
    leBytes 8 l.start.toNat ++ leBytes 8 gcc.toNat ++ leBytes 2 score.toNat ++ leBytes 2 l.npre.toNat ++ leBytes 4 0))

/-- A lease record appended: to the log, held while it is full, dropped with OVF when 256 are held; and among the 64 that
the controller keeps (R431, R465). -/
def State.logLease (s : State) (r : BitVec 256) : State :=
  let s1 := s.mapVan (fun v => { v with log := (v.log ++ [r]).drop (v.log.length + 1 - 64) })
  if s1.van.cfg.log = 0 then s1
  else
    let s2 := s1.flushLog 256
    if s2.van.logHeld.length ≥ 256 then s2.putBytes (physKey s2.van.cfg.log.toNat + 12) [1]
    else (s2.mapVan (fun v => { v with logHeld := v.logHeld ++ [r] })).flushLog 257

/-- A unit's event counter of a kind (R467). -/
def Van.histOf (v : Van) (cls : UnitClass) (unit ev : Nat) : Nat :=
  match v.hist.find? (fun h => h.1 == cls && h.2.1 == unit && h.2.2.1 == ev) with
  | some h => h.2.2.2.toNat
  | none => 0

/-- A retirement record (R467). -/
def State.retireRecord (s : State) (cls : UnitClass) (unit reason : Nat) (pat : BitVec 16) (fdet : Word) : BitVec 512 :=
  let bs := leBytes 1 (classNo cls).val ++ leBytes 1 reason ++ leBytes 2 unit ++ leBytes 4 s.mgmt.boot.toNat ++
    leBytes 8 s.gcc.toNat ++ leBytes 2 (s.van.score cls unit).toNat ++
    leBytes 2 (if cls = .core then pat.toNat else 0xFFFF) ++ leBytes 8 fdet.toNat ++
    (List.range 5).flatMap (fun e => leBytes 2 (s.van.histOf cls unit e)) ++ List.replicate 22 0
  BitVec.ofNat 512 (leNat (bs ++ leBytes 4 (crc32c bs).toNat))

/-- A retirement is recorded in the store, and then the unit is marked (R466, R467). -/
def State.recordRetirement (s : State) (cls : UnitClass) (unit reason : Nat) (pat : BitVec 16) (fdet : Word) : State :=
  let r := s.retireRecord cls unit reason pat fdet
  s.mapVan (fun v =>
    { v with
      store := if v.store.length < 1024 then v.store ++ [r] else v.store,
      retired := v.retired.set (classNo cls).val (unit :: v.retired[classNo cls]) (classNo cls).isLt })

/-- A retired core's cluster: the regions with cores there count it and have a notice (R472, R473). -/
def State.noticeRetired (s : State) (k : ClusterId) : State :=
  let here (r : Rgn) : Bool := s.occupied.any (fun o => o.region == r.id && o.cid.core.cluster == k)
  (s.rgns.filter here).foldl (fun u r =>
    (u.mapRgn r.id (fun x => { x with nret := if x.nret = 0xFF then 0xFF else x.nret + 1 })).notice r.id) s

/-- A retired link port leaves every porch route (R466). -/
def State.unroute (s : State) (p : Nat) : State :=
  { s with porch := { s.porch with routes := s.porch.routes.map (fun r => r &&& ~~~ (1#12 <<< p)) } }

/-- A port returns: what was held goes out in order as credits and the partner's own hold allow, and the partner may send again
(R462, R496). -/
def State.returnPort (s : State) (p : Nat) : State :=
  (s.sendControl p 6).mapPort p (fun x => ({ x with service := .inService } : Port).drain)

/-- The outstanding request of a local endpoint with a tag, toward a chip. -/
def State.outstandingOf (s : State) (f : Flit) : Option (BitVec 16 × BitVec 4 × BitVec 6 × LinkUse) :=
  s.porch.outstanding.find? (fun o => o.1 == f.tag && o.2.2.1 == f.schip)
/-- It is answered. -/
def State.closeRequest (s : State) (f : Flit) : State :=
  { s with porch := { s.porch with outstanding := s.porch.outstanding.filter (fun o => !(o.1 == f.tag && o.2.2.1 == f.schip)) } }

/-- The requester's operation ends with EPA or ERR: a collective fails at the member with PEER, a send counts as ended
(R500). -/
def State.failRequest (s : State) (f : Flit) : State :=
  match s.outstandingOf f with
  | none => s
  | some o =>
    let s1 := s.closeRequest f
    match o.2.2.2 with
    | .send id => s1.endSend id
    | .post id =>
      match s1.posts.find? (fun p => p.id == id) with
      | some p => if p.st = .run then s1.endInstance p .failed 2 else s1
      | none => s1
    | .other => s1

/-- A flit that its port can no longer carry goes by another port; without a route its request is answered with EPA (R466,
R497). -/
def State.rerouteFlit (s : State) (f : Flit) : State :=
  if s.routeMask f.dchip ≠ 0 then s.sendFlit f
  else if f.schip = s.chip then s.failRequest { f with schip := f.dchip }
  else s.answer f 7

/-- A port retires: it leaves the routes, and what it held goes by another (R462, R466). -/
def State.retirePort (s : State) (p : Nat) : State :=
  match s.portAt p with
  | none => s
  | some x =>
    x.held.foldl State.rerouteFlit
      ((s.mapPort p (fun y => { y with service := .retired, trained := false, held := [] })).unroute p)

/-- A unit comes back from a lease, or retires (R461, R462, R466, R473). -/
def State.closeLease (s : State) (cls : UnitClass) (unit : Nat) (retire : Bool) : State :=
  match cls with
  | .core =>
    let k : CoreId := BitVec.ofNat 9 unit
    let s1 := ((s.clearPm k).mapCore k (fun c => { c with region := none, service := if retire then .retired else .inService })).wakeScheduler
    if retire then s1.noticeRetired k.cluster else s1
  | .link =>
    if retire then (s.retirePort unit).noticePort unit
    else (s.returnPort unit).noticePort unit
  | .channel => s

/-- LEASE_END: the outcome of a running lease: a MARGINAL unit gains 128, a RETIRED one is recorded and leaves service, and
the record of the lease is written (R461 to R467, R469). -/
def execLeaseEnd (cls : UnitClass) (o : LeaseOutcome) (pat : BitVec 16) (fdet : Word) (s : State) : Out :=
  .next (match s.van.running[classNo cls] with
    | none => s
    | some l =>
      let i := (classNo cls).val
      let s0 := s.mapVan (fun v => v.setRunning cls none)
      let s1 := match o with
        | .marginal => s0.raiseScore cls l.unit 128 3
        | _ => s0
      let s2 := match o with
        | .retired => s1.recordRetirement cls l.unit 0 pat fdet
        | _ => s1
      let s3 := match o, l.forced with
        | .aborted, false => s2.mapVan (fun v => { v with next := v.next.set i l.unit (classNo cls).isLt })
        | _, _ => s2
      let s4 := s3.closeLease cls l.unit (decide (o = .retired))
      s4.logLease (leaseRecord cls l o s.gcc (s4.van.score cls l.unit)))

/-! ## Decay and unacknowledged notices (R470, R474) -/

/-- HOURLY_HALVING: every score is halved at each whole hour of GCC (R470). -/
def execHourlyHalving (s : State) : Out :=
  .next (if hourOf s.gcc ≤ s.van.lastHour then s else s.mapVan (fun v => v.halve s.gcc))

/-- CAPC_RECORD: a running context has left a notice unacknowledged for 10 ms of its DTC; the region has one record for a
notice (R431, R474). -/
def execCapcRecord (c : CtxId) (s : State) : Out :=
  .next (match s.ctxRgn c, (s.ctx c).ackSince, (s.ctx c).task with
    | some r, some t, some k =>
      if (s.ctx c).run = .running ∧ (s.ctx c).ack.toNat < r.seq.toNat ∧ 10000000 ≤ (s.dtc c - t).toNat ∧ r.posted ≠ r.seq then
        let cnt := (allCtxs.filter (fun d =>
          (s.ctx d).run == .running && decide ((s.ctx d).ack.toNat < r.seq.toNat) &&
          (match (s.ctx d).task with | some u => u.region == r.id | none => false))).length
        (s.mapRgn r.id (fun x => { x with posted := r.seq })).postEvent r 3 c.num.toNat c.core.toNat cnt
          ((k.lidx.setWidth 32 : BitVec 32) ++ r.seq : BitVec 64)
      else s
    | _, _, _ => s)

end Sys2Proof.Machine
end

