-- ==== Sys2Proof/Machine/Links.lean ====
section
/-!
DEFINITION. Link flits and the porch (spec/20 R494 to R501; spec/19 R462, R469): sequence numbers and replay, credits, transit,
requests and answers of local endpoints, and the resets of the compute and porch domains.
-/
namespace Sys2Proof.Machine

/-! ## Receiving (R494, R496, R497) -/

/-- A REPLAY request for the flits from a sequence number on (R495). -/
def State.requestReplay (s : State) (p : Nat) (seq : BitVec 16) : State :=
  s.mapPort p (fun x => { x with sent := x.sent ++ [⟨0, 9, s.chip, s.chip, false, true, 0, seq, 0⟩] })

/-- A flit received on a port of the porch: delivered once and in order; one ahead of its turn has a replay requested, one
behind it has been delivered already (R494). -/
def State.receive (s : State) (port : BitVec 4) (kind : BitVec 4) (f : Flit) (k : State → State) : State :=
  match s.portAt port.toNat with
  | none => s
  | some x =>
    if !s.porch.up || !x.trained || f.kind != kind then s
    else if f.seq = x.rxSeq then k (s.mapPort port.toNat (fun y => { y with rxSeq := y.rxSeq + 1 }))
    else if (f.seq - x.rxSeq).toNat < 0x8000 then s.requestReplay port.toNat x.rxSeq
    else s

/-- The credit of a flit that the chip has taken or sent on comes back (R350, R496; notes/assumptions/36.md). -/
def State.took (s : State) (f : Flit) : State := s.returnCredits f.vc f.schip 1

/-- A flit for this chip goes to a local endpoint; any other is transit, and one without a route is answered with EPA
(R497, R498). -/
def State.deliverFlit (s : State) (f : Flit) (mine : State → State) : State :=
  if f.dchip = s.chip then mine s
  else if s.routeMask f.dchip = 0 then (s.answer f 7).took f
  else (s.sendFlit f).took f

/-- The porch's access table lets link ingress receive a request on a channel of a port, for the partition whose job it was made
for (R484, R486; notes/assumptions/36.md). -/
def State.ingressAllowed (s : State) (port : BitVec 4) (f : Flit) : Bool :=
  let p := Config.requestPart f.schip f.pay
  (s.partOf p).registered && s.permitsKey .porch (masterOf p 6) .read (16 * port.toNat + f.vc.toNat)

/-- IDLE (R495). -/
def execIdle (port : BitVec 4) (f : Flit) (s : State) : Out := .next (s.receive port 0 f (fun t => t))

/-- REQ: for a local endpoint it is accepted and filed, answered with EPA while the endpoints are absent, and with ERR when the
access table denies it (R487, R497, R499). -/
def execReq (port : BitVec 4) (f : Flit) (s : State) : Out :=
  .next (s.receive port 1 f (fun t => t.deliverFlit f (fun u =>
    if u.porch.absent then (u.answer f 7).took f
    else if !u.ingressAllowed port f then (u.answer f 8).took f
    else State.fileFlit { u with porch := { u.porch with inbound := u.porch.inbound ++ [(port, f)] } } f)))

/-- A request of another chip with the flit's tag has been accepted and not answered (R499). -/
def State.inboundOpen (s : State) (f : Flit) : Bool := s.porch.inbound.any (fun x => x.2.tag == f.tag && x.2.schip == f.schip)

/-- DATA: filed for a local endpoint, with its mark of poison (R479, R494). Data of a request that has been refused, or that has had
its answer, is dropped: no request gets two answers (R487, R499). -/
def execData (port : BitVec 4) (f : Flit) (s : State) : Out :=
  .next (s.receive port 2 f (fun t => t.deliverFlit f (fun u => if u.inboundOpen f then u.fileFlit f else u.took f)))

/-- RSP: the request of its tag has been answered; a send has entered its queue; an orphan's answer is discarded (R171, R499). -/
def execRsp (port : BitVec 4) (f : Flit) (s : State) : Out :=
  .next (s.receive port 3 f (fun t => t.deliverFlit f (fun u =>
    match u.outstandingOf f with
    | none => u.took f
    | some o =>
      match o.2.2.2 with
      | .send id => ((u.closeRequest f).endSend id).took f
      | _ => (u.closeRequest f).took f)))

/-- CRED: one credit of the flit's channel comes back, and what is held may go on (R495, R496). -/
def execCred (port : BitVec 4) (f : Flit) (s : State) : Out :=
  .next (s.receive port 4 f (fun t => t.mapPort port.toNat (fun x => (x.addCredit f.vc 1).drain)))

/-- HOLD: the partner's port is under lease, and this port holds its traffic (R462). -/
def execHold (port : BitVec 4) (f : Flit) (s : State) : Out :=
  .next (s.receive port 5 f (fun t => t.mapPort port.toNat (fun x => { x with holding := true })))

/-- RESUME: what was held goes out in order (R462). -/
def execResume (port : BitVec 4) (f : Flit) (s : State) : Out :=
  .next (s.receive port 6 f (fun t => t.mapPort port.toNat (fun x => ({ x with holding := false } : Port).drain)))

/-- EPA: the endpoint is absent (R495, R500). -/
def execEpa (port : BitVec 4) (f : Flit) (s : State) : Out :=
  .next (s.receive port 7 f (fun t => t.deliverFlit f (fun u => (u.failRequest f).took f)))

/-- An entry on its way to a queue here that came with a tag from a chip. -/
def Send.isFrom (x : Send) (chip : BitVec 6) (tag : BitVec 16) : Bool :=
  match x.origin with
  | some o => o.2.1 == chip && o.2.2 == tag
  | none => false

/-- An inbound request that ends with ERR from its requester's porch: an orphan, for which nothing is held any more: neither
an entry that waits for its queue, nor flits of it that have come, nor their credits (R499). -/
def State.releaseInbound (s : State) (f : Flit) : State :=
  let t : State :=
    { s with
      sends := s.sends.filter (fun x => !x.isFrom f.schip f.tag),
      porch := { s.porch with
        inbound := s.porch.inbound.filter (fun x => !(x.2.tag == f.tag && x.2.schip == f.schip)),
        inbox := s.porch.inbox.filter (fun x => !(x.tag == f.tag && x.schip == f.schip)) } }
  t.returnCredits f.vc f.schip ((s.sends.filter (fun x => x.isFrom f.schip f.tag)).length +
    (s.porch.inbox.filter (fun x => x.tag == f.tag && x.schip == f.schip)).length)

/-- ERR: the error completion of TAG: it ends the requester's operation, or tells the partner that the requester is gone
(R495, R499, R500). -/
def execErr (port : BitVec 4) (f : Flit) (s : State) : Out :=
  .next (s.receive port 8 f (fun t => t.deliverFlit f (fun u =>
    (if (u.outstandingOf f).isSome then u.failRequest f else u.releaseInbound f).took f)))

/-- REPLAY: the flits from a sequence number on are sent again; the port has needed a replay (R469, R494, R495). -/
def execReplay (port : BitVec 4) (f : Flit) (s : State) : Out :=
  .next (match s.portAt port.toNat with
    | none => s
    | some x =>
      if !s.porch.up || !x.trained || f.kind != 9 then s
      else
        let again := x.sent.filter (fun g => g.kind != 9 && decide ((g.seq - f.seq).toNat < 0x8000))
        (s.mapPort port.toNat (fun y => { y with sent := y.sent ++ again })).raiseScore .link port.toNat 1 5)

/-- FLIT_CRC_FAILURE: a flit's CRC fails after correction, and a replay from its SEQ is requested (R494). -/
def execFlitCrcFailure (port : BitVec 4) (seq : BitVec 16) (s : State) : Out :=
  .next (match s.portAt port.toNat with
    | none => s
    | some x => if s.porch.up && x.trained then s.requestReplay port.toNat seq else s)

/-- DISCARDED_FLIT: a flit of kind 10 to 15 is discarded and counted (R495). -/
def execDiscardedFlit (port : BitVec 4) (f : Flit) (s : State) : Out :=
  .next (if 10 ≤ f.kind.toNat then s.mapPort port.toNat (fun x => { x with discards := x.discards + 1, rxSeq := if f.seq = x.rxSeq then x.rxSeq + 1 else x.rxSeq })
    else s)

/-- LOSS_OF_LOCK: under lease it is the outcome RETIRED, with a count of symbols that the model leaves free; the port is no
longer locked (R464, R467). -/
def execLossOfLock (port : BitVec 4) (s : State) : Out :=
  let s1 := s.mapPort port.toNat (fun x => { x with locked := false, lockLost := true })
  match s1.van.running[classNo .link] with
  | some l =>
    if l.unit = port.toNat then
      let d := s1.drawWord
      execLeaseEnd .link .retired 0xFFFF d.1 d.2
    else .next s1
  | none => .next s1

/-! ## Domain resets (R498 to R501) -/

/-- A context, core and cluster side as a compute reset leaves them: PM and halls zero with every tag full, no task, no engine
thread, no launch, no translation; retired cores stay retired and a leased one under lease, HBM4E keeps its bytes (R127, R461,
R498, R499). -/
def State.resetCompute (s : State) : State :=
  { s with
    stage := none,
    ctxs := Vector.replicate 2048 Ctx.reset,
    cores := s.cores.map (fun c => { Core.reset with service := c.service }),
    mem := s.mem.filter (fun c => decide (c.1 < 2 ^ 53)),
    empties := [],
    poison := s.poison.filter (fun k => decide (k < 2 ^ 53)),
    damaged := s.damaged.filter (fun d => decide (d.1 < 2 ^ 53)),
    parity := [],
    late := [],
    tlb := [], copies := [], reds := [], sends := [], sigs := [], rels := [], conds := [], posts := [], contribs := [],
    gidSeq := [], early := [], phases := [], writes := [], syms := [], symSerial := [], launches := [], rgns := [], groups := [],
    preempts := [], sched := ⟨false, [], false, false, 0⟩, faults := [], held := [], frames := [],
    parts := Vector.replicate 16 Part.reset, deviceRcb := 0, rcbCopies := [],
    access := s.access.filter (fun e => e.1 == .porch || e.1 == .pcie) }

/-- The credits of what a compute-domain reset drops: the flits that are filed, and the entries from other chips that wait for
their queues (R350, R498, R499). -/
def State.dropInbound (s : State) : State :=
  let s1 := s.porch.inbox.foldl State.took s
  s.sends.foldl (fun u x =>
    match x.origin with
    | some o => u.returnCredits o.1 o.2.1 1
    | none => u) s1

/-- COMPUTE_DOMAIN_RESET: the endpoints are marked absent; accepted requests receive ERR; the partner of each orphan receives
ERR with its tag; then the compute islands are reset, while transit goes on (R498, R499). -/
def execComputeDomainReset (s : State) : Out :=
  let s1 : State := { s with porch := { s.porch with absent := true } }
  let s2 := s1.porch.inbound.foldl (fun u x => u.answer x.2 8) s1
  let s3 := s2.porch.outstanding.foldl (fun u o =>
    u.sendFlit { vc := o.2.1, kind := 8, dchip := o.2.2.1, schip := u.chip, psn := false, last := true, tag := o.1, seq := 0, pay := 0 }) s2
  let s3' := s3.dropInbound
  let s4 : State := { s3' with porch := { s3'.porch with inbound := [], outstanding := [], inbox := [] } }
  .next { s4.resetCompute with mgmt := { s4.mgmt with computeUp := false } }

/-- COMPUTE_DOMAIN_BRING_UP: the compute domain is up again, and local endpoints receive requests (R499). -/
def execComputeDomainBringUp (s : State) : Out :=
  .next (if s.mgmt.safe then s
    else { s with mgmt := { s.mgmt with computeUp := true }, porch := { s.porch with absent := false } })

/-- PORCH_DOMAIN_RESET: every flit in the porch is discarded and every port trains again; local requests on their way end as
if answered with EPA (R501). -/
def execPorchDomainReset (s : State) : Out :=
  let s1 := s.porch.outstanding.foldl (fun u o =>
    u.failRequest { vc := o.2.1, kind := 7, dchip := u.chip, schip := o.2.2.1, psn := false, last := true, tag := o.1, seq := 0, pay := 0 }) s
  .next { s1 with porch := { s1.porch with
    up := false, inbound := [], inbox := [], outstanding := [],
    ports := s1.porch.ports.map (fun x => { Port.reset with service := x.service }) } }

/-- A port after training: the part has it and it has not retired (R1, R12, R502). -/
def Port.train (x : Port) (present : Bool) : Port :=
  let up := present && x.service != .retired
  { x with trained := up, locked := up }

/-- The self-test of the porch passed: no island of 13 to 15 in FAILM of the record (R502, R505, R506). -/
def State.porchPassed (s : State) : Bool := s.mgmt.up && s.mgmt.selfTest.extractLsb' 29 3 == 0#3

/-- PORCH_UP: every port of the part that has not retired has trained, and the porch is up, when its self-test has passed (R1, R12,
R501, R502, R505). -/
def execPorchUp (s : State) : Out :=
  .next (if s.porchPassed then
      { s with porch := { s.porch with
        up := true, ports := Vector.ofFn (fun i => (s.porch.ports[i]).train (decide (i.val < portCount s.part))) } }
    else s)

end Sys2Proof.Machine
end

