-- ==== Sys2Proof/Machine/Management.lean ====
section
/-!
DEFINITION. The management controller (spec/21 R502 to R512; spec/20 R481, R485, R488 to R491; spec/19 R459, R465 to R468;
spec/17 R411, R422): power-on and device reset, the mailbox's commands, clock bins, samples.
-/
namespace Sys2Proof.Machine

/-! ## Device reset and power-on (R466, R502 to R506) -/

/-- What survives a device reset: the part, the chip's place, the retirement store, the power-on count, the fused minimum SVN
and the serial number, with the model's own counters (R467, R502, R503). -/
def State.kept (s : State) : State :=
  { State.reset with
    part := s.part, chip := s.chip, chips := s.chips, free := s.free, nextId := s.nextId, agenda := s.agenda, hostOut := s.hostOut,
    van := { Van.reset with store := s.van.store },
    mgmt := { Mgmt.reset with boot := s.mgmt.boot, svnMin := s.mgmt.svnMin, serialNo := s.mgmt.serialNo } }

/-- A record of the retirement store has the CRC of its bytes; one that has not is ignored, and the mailbox's reading of the store
shows it (R467). -/
def recordCrcOk (r : BitVec 512) : Bool := crc32c (leBytes 60 r.toNat) == r.extractLsb' 480 32

/-- The units of a class that the store records. -/
def storedUnits (l : List (BitVec 512)) (cls : UnitClass) : List Nat :=
  (l.filter (fun r => recordCrcOk r && (r.extractLsb' 0 8).toNat == (classNo cls).val)).map (fun r => (r.extractLsb' 16 16).toNat)

/-- The running leases end ABORTED, each with its record (R464, R465). -/
def State.abortLeases (s : State) : State :=
  [UnitClass.core, .link, .channel].foldl (fun u cls => Out.state (execLeaseEnd cls .aborted 0 0 u) u) s

/-- DEVICE_RESET: the running leases end ABORTED, and the brake van keeps its scores, its places in the schedule and the
controller's lease records; else what is left is the non-volatile part, and retired memory channels leave the address map (R464 to
R466, R502, R505; notes/assumptions/53.md). -/
def execDeviceReset (s : State) : Out :=
  let v := s.abortLeases.van
  let k := s.kept
  .next { k with
    van := { k.van with next := v.next, scores := v.scores, hist := v.hist, lastHour := v.lastHour, log := v.log },
    mgmt := { k.mgmt with removed := storedUnits s.van.store .channel } }

/-- A unit that the store holds out of service at power-on (R467). -/
def State.holdOut (s : State) (cls : UnitClass) (unit : Nat) : State :=
  let s1 := s.mapVan (fun v =>
    if (v.retired[classNo cls]).contains unit then v
    else { v with retired := v.retired.set (classNo cls).val (unit :: v.retired[classNo cls]) (classNo cls).isLt })
  match cls with
  | .core => s1.setService (BitVec.ofNat 9 unit) .retired
  | .link => s1.mapPort unit (fun x => { x with service := .retired, trained := false })
  | .channel => s1

/-- Every unit of the store held out of service (R467, R502). -/
def State.holdStored (s : State) : State :=
  [UnitClass.core, .link, .channel].foldl (fun u cls =>
    (storedUnits u.van.store cls).foldl (fun w n => w.holdOut cls n) u) s

/-- A unit that fails self-test is retired with REASON 1 and what the test found, unless the store has it already (R467, R504). -/
def State.retireAtBoot (s : State) (cls : UnitClass) (unit : Nat) (pat : BitVec 16) (fdet : Word) : State :=
  if s.isRetired cls unit then s
  else (s.recordRetirement cls unit 1 pat fdet).holdOut cls unit

/-- A firmware image passes: its magic, its length and body digest match, both signatures verify, and its SVN is at or above the
fused minimum (R503). -/
def imagePasses (i : FirmwareImage) (least : BitVec 32) : Bool :=
  i.magic == 0x47524657#32 && i.bodyLength == i.foundLength && i.digest == i.foundDigest && i.rsa && i.slh &&
  decide (least.toNat ≤ i.svn.toNat)

/-- The slot that passes verification, with its image: A, then B (R502, R503). -/
def bootSlot (b : BootFindings) (least : BitVec 32) : Option (Nat × FirmwareImage) :=
  if imagePasses b.slotA least then some (0, b.slotA)
  else if imagePasses b.slotB least then some (1, b.slotB) else none

/-- The self-test record (R506); ICODE of a failing island is the number of its first failing test, which is left free. -/
def selfTestRecord (reason slot : Nat) (islands : BitVec 16) (boot svn : BitVec 32) (retired : Nat) (trained : BitVec 12)
    (n : Nat) : BitVec 512 :=
  let icode (k : Nat) : Nat :=
    if islands.getLsbD k then 1 + ((Config.freeWord (n + k)).setWidth 16 : BitVec 16).toNat % 65535 else 0
  BitVec.ofNat 512 (leNat (leBytes 1 reason ++ leBytes 1 slot ++ leBytes 2 islands.toNat ++ leBytes 4 boot.toNat ++
    leBytes 4 svn.toNat ++ leBytes 2 retired ++ leBytes 2 trained.toNat ++ (List.range 16).flatMap (fun k => leBytes 2 (icode k)) ++
    leBytes 16 0))

/-- A unit of a class that the part has (R1, R12). -/
def State.unitExists (s : State) (cls : UnitClass) (unit : Nat) : Bool := (unitsOf s.part cls).contains unit

/-- The physical function answers configuration requests with Configuration Request Retry Status: until bring-up has ended (R502). -/
def State.configRetry (s : State) : Bool := !s.mgmt.up

/-- Steps 3 of a power-on: the units of the store are held out, and where the firmware runs, single units that fail are retired
(R467, R502, R504). -/
def State.bootUnits (s : State) (b : BootFindings) (ran : Bool) : State :=
  let u := s.holdStored
  if ran then (b.failing.filter (fun x => u.unitExists x.1 x.2.1)).foldl (fun w x => w.retireAtBoot x.1 x.2.1 x.2.2.1 x.2.2.2) u
  else u

/-- Step 4 of a power-on: a porch whose self-test passes trains its ports, and a port that fails is retired (R502, R504). -/
def State.bootPorch (s : State) (b : BootFindings) (ok : Bool) : State :=
  if ok then
    (List.range (portCount s.part)).foldl (fun u p =>
      if b.trained.getLsbD p ∧ u.isRetired .link p = false then u.mapPort p (fun x => { x with trained := true })
      else u.retireAtBoot .link p 0xFFFF 0) s
  else s

/-- The ports that have trained (R506). -/
def State.trainedPorts (s : State) : BitVec 12 :=
  (List.range 12).foldl (fun (m : BitVec 12) p => if (s.portAt p).any (·.trained) then m ||| (1#12 <<< p) else m) 0

/-- POWER_ON in the order of R502: GCC starts at 0; the firmware is verified; self-test retires single units, and any other
failure gives the safe state; the porch trains its ports, and a chip that joins a job by one adopts its GCC; the mailbox comes up
with the self-test record. The islands of a step that did not start have not failed (R467, R502 to R506). -/
def execPowerOn (b : BootFindings) (s : State) : Out :=
  let s0 := s.kept
  let s1 : State := { s0 with mgmt := { s0.mgmt with boot := s0.mgmt.boot + 1, removed := storedUnits s0.van.store .channel } }
  let slot := bootSlot b s1.mgmt.svnMin
  let islands : BitVec 16 := if slot.isSome then b.islands else b.islands &&& 0xE000
  let porchOk := (islands.extractLsb' 13 3 : BitVec 3) == 0
  let s2 := s1.bootUnits b slot.isSome
  let s3 := s2.bootPorch b porchOk
  let newly := (s3.van.retired.toList.map (·.length)).sum - (s1.holdStored.van.retired.toList.map (·.length)).sum
  let reason := if slot.isNone then 1 else if islands ≠ 0 then 2 else 0
  let svn := (slot.map (·.2.svn)).getD 0
  let rec' := selfTestRecord reason ((slot.map (·.1)).getD 0xFF) islands s3.mgmt.boot svn newly s3.trainedPorts s3.free
  let gcc := if 1 < s3.chips ∧ porchOk ∧ s3.trainedPorts ≠ 0 then b.gcc else 0
  .next { s3 with
    gcc := gcc,
    free := s3.free + 16,
    van := { s3.van with lastHour := hourOf gcc },
    porch := { s3.porch with up := porchOk },
    mgmt := { s3.mgmt with
      up := true, safe := decide (reason ≠ 0), svn := svn, digest := (slot.map (·.2.digest)).getD 0, selfTest := rec',
      computeUp := decide (reason = 0), clockBin := Vector.replicate 8 1 } }

/-! ## The mailbox (R505, R507) -/

/-- The mailbox runs the command of a code: it is up, and MBCMD has started it (R507). -/
def State.runs (s : State) (code : BitVec 8) : Bool := s.mgmt.up && s.mgmt.busy && s.mgmt.code == code

/-- A command that changes the device: refused with SAFE in the safe state; else it answers OK or REFUSED (R505, R507). -/
def State.command (s : State) (code : BitVec 8) (k : State → Option State) : State :=
  if !s.runs code then s
  else if s.mgmt.safe then s.mailboxDone 2
  else
    match k s with
    | some t => t.mailboxDone 0
    | none => s.mailboxDone 1

/-- A command that returns bytes: they go to the command buffer, as many as it holds, and to the host (R507). -/
def State.replyWith (s : State) (code : BitVec 8) (bs : List Byte) : State :=
  if !s.runs code then s
  else
    let t := s.putBytes (hostKey s.mgmt.mbarg.toNat) (bs.take 4096)
    ({ t with hostOut := some (bs, false) :: t.hostOut } : State).mailboxDone 0

/-- A number of n bytes in physical memory. -/
def State.physNat (s : State) (a : Nat) (n : Nat) : Nat := s.natAt (physKey a) n

/-- An entry of a queue table obeys R411. -/
def State.queueEntryOk (s : State) (a : Nat) : Bool :=
  let ln := s.physNat (a + 8) 1
  let en := s.physNat (a + 9) 1
  decide (s.physNat a 8 % 128 = 0) && inRange 4 16 ln && decide (en < 2) && decide (s.physNat (a + 10) 6 = 0) &&
  decide (s.physNat (a + 0x14) 12 = 0)

/-- A queue as its table entry describes it; one that stays enabled keeps its records (R411). -/
def State.queueFrom (s : State) (old : Queue) (table q : Nat) : Queue :=
  let a := table + 32 * q
  let en := decide (s.physNat (a + 9) 1 = 1)
  let goOn := en && old.en
  { base := BitVec.ofNat 64 (s.physNat a 8), lnent := BitVec.ofNat 5 (s.physNat (a + 8) 1), en := en,
    head := if goOn then old.head else 0, tail := if goOn then old.tail else 0, table := BitVec.ofNat 64 table,
    deficit := if goOn then old.deficit else 0 }

/-- The effective values of a partition RCB under the device RCB (R409). -/
def partEff (p dev : BitVec 2048) : Eff := (ownEff dev).under p

/-- The effective values of the other registered partitions, and whether they are ISOLATED (R489). -/
def State.otherParts (s : State) (p : BitVec 4) (dev : BitVec 2048) : List (Eff × Bool) :=
  ((List.range 16).map (BitVec.ofNat 4)).filterMap (fun q =>
    if q = p ∨ !(s.partOf q).registered then none
    else (s.rcbCopies.find? (fun c => c.1 == (s.partOf q).rcb)).map
      (fun c => (partEff c.2 dev, (rcbField c.2 0x0A 1).testBit 1)))

/-- The masks of two partitions share a bit: ways, time slots, or channels of a common port (R489). -/
def masksMeet (a b : Eff) : Bool :=
  a.cways &&& b.cways != 0 || a.mslot &&& b.mslot != 0 || (a.lport &&& b.lport != 0 && a.lvc &&& b.lvc != 0)

/-- Two partitions hold cores of one cluster (R489). -/
def clustersMeet (a b : Eff) : Bool :=
  (List.range 8).any (fun c => a.cores.extractLsb' (8 * c) 8 != (0 : BitVec 8) && b.cores.extractLsb' (8 * c) 8 != (0 : BitVec 8))

/-- The conditions of R476 and R489 on a registration. -/
def isolationOk (own : BitVec 2048) (e : Eff) (others : List (Eff × Bool)) : Bool :=
  if (rcbField own 0x0A 1).testBit 1 then
    others.all (fun o => !clustersMeet e o.1 && !masksMeet e o.1) && e.clkb != 0 &&
    (List.range 8).all (fun c => decide (rcbField own (0x18 + c) 1 ≤ 63))
  else others.all (fun o => !o.2 || !masksMeet e o.1)

/-- The quotas of one omnibus sum to at most 64 MiB (R491). -/
def State.quotasOk (s : State) (p : BitVec 4) (l : List (BitVec 7)) : Bool :=
  (List.range 4).all (fun d =>
    let others := ((List.range 16).map (BitVec.ofNat 4)).filter (fun q => q != p && (s.partOf q).registered)
    decide ((l.getD d 0).toNat + (others.map (fun q => ((s.partOf q).quotas.toList.getD d 0).toNat)).sum ≤ 64))

/-- The clock bins of the clusters that an ISOLATED partition owns (R490). -/
def fixBins (e : Eff) (v : Vector (BitVec 2) 8) : Vector (BitVec 2) 8 :=
  (List.range 8).foldl (fun (w : Vector (BitVec 2) 8) c =>
    if h : c < 8 then (if e.cores.extractLsb' (8 * c) 8 != (0 : BitVec 8) then w.set c e.clkb h else w) else w) v

/-- The structures of a registration keep their reserved fields zero and name ports of the part: the queue table, the PTB and
the routes (R7, R20, R411, R435). -/
def State.registrationOk (s : State) (a : RegArgs) : Bool :=
  (List.range 64).all (fun q => s.queueEntryOk (a.queues.toNat + 32 * q)) &&
  decide (s.physNat (a.ptb.toNat + 0x28) 24 = 0) && a.routes.all (fun m => decide (m.toNat < 2 ^ portCount s.part))

/-- The ports that have retired: no route holds one (R466). -/
def State.retiredPorts (s : State) : BitVec 12 :=
  (List.range 12).foldl (fun (m : BitVec 12) p => if s.isRetired .link p then m ||| (1#12 <<< p) else m) 0

/-- A partition registered with its RCB, PTB, queue table, quotas and routes, or refused whole (R20, R406, R411, R435, R476,
R481, R489, R491, R497). -/
def State.registerPart (s : State) (a : RegArgs) : Option State :=
  let p := a.part
  let own : BitVec 2048 := BitVec.ofNat 2048 (s.physNat a.rcb.toNat 256)
  let devAt := rcbWord own 0
  let dev : BitVec 2048 := BitVec.ofNat 2048 (s.physNat devAt.toNat 256)
  let e := partEff own dev
  let isolated := (rcbField own 0x0A 1).testBit 1
  let anyOther := (List.range 16).any (fun q => BitVec.ofNat 4 q != p && (s.partOf (BitVec.ofNat 4 q)).registered)
  let mgmtTaken := (List.range 16).any (fun q => BitVec.ofNat 4 q != p && (s.partOf (BitVec.ofNat 4 q)).mgmt)
  if !s.registrationOk a ∨ (anyOther && s.deviceRcb != devAt) ∨
      (a.mgmt && mgmtTaken) ∨ !isolationOk own e (s.otherParts p dev) ∨ !s.quotasOk p a.quotas then none
  else
    let old := s.partOf p
    let w (off : Nat) : Word := BitVec.ofNat 64 (s.physNat (a.ptb.toNat + off) 8)
    let s1 := s.mapPart p (fun x =>
      { x with
        registered := true, mgmt := a.mgmt, rcb := a.rcb, root := w 0, fq := w 8, eq := w 0x10, rpd := w 0x18, rqm := w 0x20,
        queues := (List.range 64).foldl (fun (v : Vector Queue 64) q =>
          if h : q < 64 then v.set q (s.queueFrom (old.queues[q]'h) a.queues.toNat q) h else v) x.queues,
        quotas := (List.range 4).foldl (fun (v : Vector (BitVec 7) 4) d =>
          if h : d < 4 then v.set d (a.quotas.getD d 0) h else v) x.quotas })
    let s2 : State :=
      { s1 with
        deviceRcb := devAt,
        rcbCopies := (a.rcb, own) :: (devAt, dev) :: s1.rcbCopies.filter (fun c => c.1 != a.rcb && c.1 != devAt),
        porch := { s1.porch with
          routes := (List.range 64).foldl (fun (v : Vector (BitVec 12) 64) c =>
            if h : c < 64 then v.set c (a.routes.getD c (v[c]'h) &&& ~~~ s1.retiredPorts) h else v) s1.porch.routes },
        mgmt := { s1.mgmt with clockBin := if isolated then fixBins e s1.mgmt.clockBin else s1.mgmt.clockBin } }
    some (if (s2.partOf p).rpd = 0 then s2 else (s2.putReplica p 0 8 0).putReplica p 0x19 1 0)

/-- REGISTER_PARTITION (R481). -/
def execRegisterPartition (a : RegArgs) (s : State) : Out := .next (s.command 0x01 (fun t => t.registerPart a))

/-- DEREGISTER_PARTITION: the partition's launches end, its translations are dropped, and its function reads zero (R436,
R481, R507). -/
def execDeregisterPartition (p : BitVec 4) (s : State) : Out :=
  .next (s.command 0x02 (fun t =>
    if !(t.partOf p).registered then none
    else
      let t1 := (t.launches.filter (fun l => l.part == p && l.st != .ended)).foldl (fun u l => u.killLaunch l .cancelled) t
      let rcb := (t1.partOf p).rcb
      let t2 : State :=
        { t1 with
          tlb := t1.tlb.filter (fun x => x.part != p), rgns := t1.rgns.filter (fun r => r.part != p),
          launches := t1.launches.filter (fun l => l.part != p),
          rcbCopies := t1.rcbCopies.filter (fun c => c.1 != rcb) }
      some (t2.mapPart p (fun _ => Part.reset))))

/-- A range of an access-table entry obeys R485. -/
def rangeOk (r : AccRange) : Bool :=
  r.lo.setWidth 12 == (0 : BitVec 12) && r.hi.extractLsb' 4 8 == (0 : BitVec 8) && decide (r.lo.toNat / 4096 ≤ r.hi.toNat / 4096)

/-- ACCESS_TABLE_ENTRY: one entry of 8 ranges, written whole, or refused (R484, R485, R488). -/
def execAccessTableEntry (tg : Target) (master : BitVec 8) (ranges : List AccRange) (s : State) : Out :=
  .next (s.command 0x03 (fun t =>
    let grants := ranges.any (fun r => r.hi.getLsbD 3 && r.hi.extractLsb' 0 3 != (0 : BitVec 3))
    if 8 < ranges.length ∨ !(ranges.all rangeOk) ∨ (7 ≤ (master.setWidth 4 : BitVec 4).toNat ∧ grants) then none
    else some { t with access := (tg, master, ranges) :: t.access.filter (fun e => !(e.1 == tg && e.2.1 == master)) }))

/-- The lease configuration in an LCB (R459). -/
def leaseConfigOf (w : BitVec 512) : LeaseConfig :=
  { perc := w.extractLsb' 0 32, perl := w.extractLsb' 32 32, perm := w.extractLsb' 64 32, en := w.extractLsb' 96 3,
    log := w.extractLsb' 128 64, logn := w.extractLsb' 192 5 }

/-- The reserved bits of an LCB are zero (R459). -/
def lcbReservedOk (w : BitVec 512) : Bool :=
  w.extractLsb' 99 5 == (0 : BitVec 5) && w.extractLsb' 104 24 == (0 : BitVec 24) && w.extractLsb' 197 3 == (0 : BitVec 3) &&
  w.extractLsb' 200 312 == (0 : BitVec 312)

/-- A lease configuration obeys the ranges of R459. -/
def leaseConfigOk (c : LeaseConfig) : Bool :=
  inRange 1000 3600000 c.perc.toNat && inRange 1000 3600000 c.perl.toNat && inRange 1000 3600000 c.perm.toNat &&
  c.log.setWidth 12 == (0 : BitVec 12) && inRange 4 16 c.logn.toNat

/-- The command buffer's first n bytes as a number (R507). -/
def State.bufNat (s : State) (n : Nat) : Nat := s.natAt (hostKey s.mgmt.mbarg.toNat) n

/-- LEASE_CONFIGURATION: the LCB in the command buffer, which lies where MBARG says, is taken, or refused whole (R459, R507). -/
def execLeaseConfiguration (buf : Word) (s : State) : Out :=
  .next (if buf ≠ s.mgmt.mbarg then s
    else s.command 0x04 (fun t =>
      let w : BitVec 512 := BitVec.ofNat 512 (t.bufNat 64)
      if lcbReservedOk w && leaseConfigOk (leaseConfigOf w) then some (t.mapVan (fun v => { v with cfg := leaseConfigOf w })) else none))

/-- TRACE_CONFIGURATION of a partition (R510). -/
def execTraceConfiguration (p : BitVec 4) (cfg : TraceConfig) (s : State) : Out :=
  .next (s.command 0x05 (fun t =>
    if cfg.ring.setWidth 12 == (0 : BitVec 12) && inRange 4 16 cfg.logn.toNat && inRange 10 20 cfg.period.toNat then
      some (t.mapPart p (fun x => { x with trace := some cfg, traceDropped := 0 }))
    else none))

/-- PREEMPT_REGION: the supervisor asks for the pre-emption of the region of an RCB of a partition (R422). -/
def execPreemptRegion (r : RegionName) (s : State) : Out :=
  .next (s.command 0x06 (fun t =>
    (t.rgnAt r.part r.rcb).map (fun x => { t with preempts := t.preempts ++ [x.id] })))

/-- A pending CAPC goes with the notice mode 0 (R475). -/
def Ctx.quiet (x : Ctx) : Ctx := { x with btraps := x.btraps.filter (fun t => t.cause != .capc) }

/-- The notice mode of a region set: under mode 0 no CAPC is delivered (R475). -/
def State.setMode (s : State) (region : Nat) (mode : Bool) : State :=
  let u := s.mapRgn region (fun r => { r with mode := mode })
  if mode then u
  else
    let v := allCtxs.foldl (fun w c =>
      match (w.ctx c).task with
      | some t => if t.region = region then w.mapCtx c Ctx.quiet else w
      | none => w) u
    { v with groups := v.groups.map (fun g =>
        if g.region = region then { g with images := g.images.map (fun i => (i.1, i.2.quiet)) } else g) }

/-- NOTICE_MODE of the region of an RCB of a partition (R475). -/
def execNoticeMode (r : RegionName) (mode : Bool) (s : State) : Out :=
  .next (s.command 0x07 (fun t => (t.rgnAt r.part r.rcb).map (fun x => t.setMode x.id mode)))

/-- COMMIT: the fused minimum rises to the running image's SVN (R503). -/
def execCommit (s : State) : Out :=
  .next (s.command 0x08 (fun t =>
    some { t with mgmt := { t.mgmt with svnMin := if t.mgmt.svnMin.toNat < t.mgmt.svn.toNat then t.mgmt.svn else t.mgmt.svnMin } }))

/-- SELF_TEST_RECORD_READ (R506). -/
def execSelfTestRecordRead (s : State) : Out := .next (s.replyWith 0x10 (leBytes 64 s.mgmt.selfTest.toNat))

/-- SCORES_READ: the scores in index order, cores, ports, channels (R468). -/
def execScoresRead (s : State) : Out :=
  let of (cls : UnitClass) : List Byte :=
    (unitsOf s.part cls).flatMap (fun u => leBytes 2 (s.van.score cls u).toNat)
  .next (s.replyWith 0x11 (of .core ++ of .link ++ of .channel))

/-- LEASE_RECORDS_READ: the last 64 records (R465). -/
def execLeaseRecordsRead (s : State) : Out := .next (s.replyWith 0x12 (s.van.log.flatMap (fun r => leBytes 32 r.toNat)))

/-- RETIREMENT_STORE_READ (R467). -/
def execRetirementStoreRead (s : State) : Out := .next (s.replyWith 0x13 (s.van.store.flatMap (fun r => leBytes 64 r.toNat)))

/-- A cluster island's bin is fixed by an ISOLATED partition (R490, R509). -/
def State.binFixed (s : State) (c : ClusterId) : Bool := (s.isolatedOwner c).isSome

/-- ISLAND_CLOCKS_READ: a byte per island, its bin and bit 7 while that is fixed; islands 8 to 15 run at fixed clocks that
software cannot observe, so their bins are free values (R509). -/
def execIslandClocksRead (s : State) : Out :=
  let cluster (k : Nat) : Byte :=
    let c : ClusterId := BitVec.ofNat 3 k
    (s.mgmt.clockBin.toList.getD k 0).setWidth 8 ||| (if s.binFixed c then 0x80 else 0)
  let other (k : Nat) : Byte := Config.freeByte (s.free + k) ||| 0x80
  .next (({ s with free := s.free + 16 } : State).replyWith 0x14
    ((List.range 16).map (fun k => if k < 8 then cluster k else other k)))

/-- CERTS: both certificate chains, those of the device (R508). -/
def execCerts (s : State) : Out := .next (s.replyWith 0x15 (Config.certificates s.mgmt.serialNo))

/-- QUOTE: the nonce, the serial, CAPW, SVN and body digest, the self-test record, the number of store records, GCC, and both
signatures (R503, R508). -/
def execQuote (nonce : BitVec 256) (s : State) : Out :=
  .next (({ s with free := s.free + 16656 } : State).replyWith 0x16
    (leBytes 32 nonce.toNat ++ leBytes 8 s.mgmt.serialNo.toNat ++ leBytes 8 (capwOf s.part).toNat ++ leBytes 4 s.mgmt.svn.toNat ++
      leBytes 48 s.mgmt.digest.toNat ++ leBytes 64 s.mgmt.selfTest.toNat ++ leBytes 4 s.van.store.length ++ leBytes 8 s.gcc.toNat ++
      freeRun s.free (384 + 16224)))

/-! ## Power and tracing (R509 to R511) -/

/-- CLOCK_BIN_MOVE: power management moves a cluster island whose bin no ISOLATED partition fixes (R490, R509). -/
def execClockBinMove (c : ClusterId) (bin : BitVec 2) (s : State) : Out :=
  .next (if bin = 0 ∨ s.binFixed c then s
    else { s with mgmt := { s.mgmt with clockBin := s.mgmt.clockBin.set c.toNat bin c.isLt } })

/-- SAMPLE: a traced context that runs writes a sample record for the bundle that issues next; while a ret waits for its target,
the record of that branch comes first (R510, R511). -/
def execSample (c : CtxId) (s : State) : Out :=
  let x := s.ctx c
  .next (if x.run = .running ∧ !x.slip.any (fun e => e.ins.instr == .ret) then s.trace c 1 x.ctm x.flow.pc 0 else s)

end Sys2Proof.Machine
end

