-- ==== Sys2Proof/Machine/Relax.lean ====
section
/-!
DEFINITION. The relaxation unit (spec/03 R67 to R76; spec/12 R336 to R338): rlxb and rlx.
-/
namespace Sys2Proof.Machine

/-! ## rlxb (R67, R336) -/

/-- l and u of one element (R67). -/
def boundsOf (c s : Lane) : Lane × Lane :=
  if isFinite32 c && isFinite32 s then ((fsub32 .rd false c s).1, addW .ru c s) else (0xFF800000#32, 0x7F800000#32)

/-- Results of the active lanes into consecutive registers from vd on (R298). -/
def State.deliverTriple (t : State) (lat : Nat) (vd : VReg) (mask : Word) (l : List VecWord) : State :=
  (l.zip (List.range l.length)).foldl (fun u p =>
    u.deliverR lat { Result.base with dest := .v (vd + BitVec.ofNat 5 p.2), val := p.1, mask := mask }) t

/-- rlxb (R336). -/
def execRlxb (vd va : VReg) (vb : VOpd) (p : PReg) (s : State) : Out :=
  .next (s.compute (.rlxb vd va vb p) [] (.p p :: .v va :: VOpd.src vb) [(.v vd, 8), (.v (vd + 1), 8)] false (fun t =>
    let r := ((lanes (t.rv va)).zip (lanes (t.rvo vb))).map (fun x => boundsOf x.1 x.2)
    t.deliverTriple 8 vd (t.rp p) [ofLanes (r.map (·.1)), ofLanes (r.map (·.2))]))

/-! ## Rules (R68 to R71, R75) -/

/-- A valid rule of a slot (R69); `res` says that a reserved bit or byte is set. -/
structure Rule where
  cond : Nat
  kind : Nat
  useArg : Bool
  fn : Nat
  t1 : Lane
  p0 : Lane
  p1 : Lane
  res : Bool
deriving DecidableEq, Repr

/-- The rule in 16 bytes, if it is valid (R69). -/
def ruleOf (bs : List Byte) : Option Rule :=
  let b0 := (bs.headD 0).toNat
  let b1 : Byte := (bs.drop 1).headD 0
  if b1.getLsbD 0 then
    some {
      cond := b0 % 16, kind := b0 / 16, useArg := b1.getLsbD 1, fn := ((bs.drop 2).headD 0).toNat,
      t1 := BitVec.ofNat 32 (leNat ((bs.drop 4).take 4)), p0 := BitVec.ofNat 32 (leNat ((bs.drop 8).take 4)),
      p1 := BitVec.ofNat 32 (leNat ((bs.drop 12).take 4)),
      res := decide (b1.toNat / 4 ≠ 0) || (bs.drop 3).headD 0 != 0 }
  else none

/-- The valid rules of slot f of a table (R68). -/
def slotRules (tab : List Byte) (f : Nat) : List Rule :=
  (List.range 16).filterMap (fun k => ruleOf ((tab.drop (256 * f + 16 * k)).take 16))

/-- A ROM rule (R75). -/
def romRule (cond kind : Nat) (useArg : Bool) (fn : Nat) (t1 p0 p1 : Lane) : Rule :=
  ⟨cond, kind, useArg, fn, t1, p0, p1, false⟩

/-- The slots of the ROM table (R75). -/
def romSlot : Nat → List Rule
  | 0 => [romRule 1 0 false 0 0 0 0, romRule 2 1 false 0 0 0 0, romRule 0 2 false 0 0 0 0]
  | 1 => [romRule 1 6 true 1 0 0 0, romRule 2 1 false 1 0 0 0, romRule 0 2 true 1 0 0 0]
  | 2 => [romRule 0 2 false 2 0 0 0]
  | 3 => [romRule 0 2 false 3 0 0 0]
  | 4 => [romRule 4 5 false 4 0x41000000#32 0xBF800000#32 0x3F800000#32, romRule 0 2 false 4 0 0 0]
  | 5 => [romRule 4 5 false 5 0x41800000#32 0 0x3F800000#32, romRule 0 2 false 5 0 0 0]
  | 6 => [romRule 0 2 false 6 0 0 0]
  | _ => []

/-- The parameter a of a rule (R69). -/
def Rule.param (r : Rule) (arg : Lane) : Lane := if r.useArg then arg else r.p0

/-- The rule uses a in its evaluation: FN LEAKY, or KIND SCALE (R71). -/
def Rule.usesParam (r : Rule) : Bool := r.kind == 6 || r.fn == 1

/-- A valid rule passes the structure check of R71. -/
def Rule.ok (r : Rule) (arg : Lane) : Bool :=
  !r.res && decide (r.cond ≤ 4) && decide (r.kind ≤ 6) && decide (r.fn ≤ 6) &&
  !(f32 r.t1).isNan && !(f32 r.p0).isNan && !(f32 r.p1).isNan &&
  (!r.usesParam || isFinite32 (r.param arg)) &&
  (r.kind != 5 || (isFinite32 r.p0 && isFinite32 r.p1 && (f32 r.p0).le (f32 r.p1)))

/-- COND holds on (l, u) (R70). -/
def Rule.holds (r : Rule) (l u : Lane) : Bool :=
  let width := f32 (fsub32 .ru false u l).1
  match r.cond with
  | 0 => true
  | 1 => (f32 u).le (f32 r.t1)
  | 2 => (f32 r.t1).le (f32 l)
  | 3 => width.le (f32 r.t1)
  | _ => (f32 r.t1).lt width

/-! ## Evaluation (R72 to R74) -/

/-- x + y, x - y and x · y of exact values. -/
def nAdd (x y : Num) : Num := (x.add false y).1
/-- The exact difference. -/
def nSub (x y : Num) : Num := (x.add false y.negate).1
/-- The exact product. -/
def nMul (x y : Num) : Num := (x.mul y).1
/-- x · 2^k. -/
def nScale (x : Num) (k : Int) : Num :=
  match x with
  | .fin s m e => .fin s m (e + k)
  | y => y
/-- RoundF32 under RNE. -/
def rne (x : Num) : Lane := (roundF32 .rne false x).1
/-- RoundF32 under RU. -/
def rup (x : Num) : Lane := (roundF32 .ru false x).1
/-- RoundF32(x / y, RNE) of finite values, y not zero. -/
def rneQuot (x y : Num) : Lane :=
  match x, y with
  | .fin s m e, .fin t n g => BitVec.ofNat 32 (fp32Form.roundFrac .rne false (s != t) m n (e - g)).1
  | _, _ => f32NaN
/-- The greater of two values; NaN prevails. -/
def nMax (x y : Num) : Num := if x.isNan || y.isNan then .nan else if x.lt y then y else x

/-- An upward bound whose terms are not all finite is +∞ (R74). -/
def rupOrInf (x : Num) : Lane :=
  match x with
  | .fin .. => rup x
  | _ => 0x7F800000#32

/-- f of RELU and LEAKY(a) (R73). -/
def leakyF (a x : Num) : Num := if x.lt Num.zero then nMul a x else x

/-- |f(x) - (α·x + β)|. -/
def residual (f alpha beta x : Num) : Num := (nSub f (nAdd (nMul alpha x) beta)).abs

/-- δ of the vertex rule (R73). -/
def leakyDelta (a l u : Num) (alpha beta : Lane) : Lane :=
  let r (x : Num) : Num := residual (leakyF a x) (f32 alpha) (f32 beta) x
  let ends := nMax (r l) (r u)
  rupOrInf (if l.lt Num.zero ∧ Num.zero.lt u then nMax ends (r Num.zero) else ends)

/-- α and β of TANL or TANU for RELU and LEAKY(a) at an end, with its one-sided slope (R72). -/
def leakyTangent (a x slope : Num) : Lane × Lane :=
  let alpha := rne slope
  (alpha, rne (nSub (leakyF a x) (nMul (f32 alpha) x)))

/-- α and β of CHORD for RELU and LEAKY(a) with l < u, by the formulas of R73 on every interval. Where the interval does not
span 0 they differ from the slope that the table of R72 names; R73 is the rule for these functions (DEDUCED,
notes/assumptions/43.md). -/
def leakyChord (a l u : Num) : Lane × Lane :=
  let lam := rneQuot (nSub u (nMul a l)) (nSub u l)
  (lam, rne (nScale (nMul l (nSub a (f32 lam))) (-1)))

/-- RELU and LEAKY(a) under CHORD, TANL or TANU (R72, R73). -/
def evalLeaky (kind : Nat) (a l u : Num) : Lane × Lane × Lane :=
  let one := Num.ofNat 1
  let ab :=
    if kind = 4 then leakyTangent a u (if Num.zero.lt u then one else a)
    else if kind = 3 ∨ l.eqv u then leakyTangent a l (if l.lt Num.zero then a else one)
    else leakyChord a l u
  (ab.1, ab.2, leakyDelta a l u ab.1 ab.2)

/-- The certified function of an FN (R69, R74). -/
def certOf : Nat → Config.CertFn
  | 2 => .gelu | 3 => .silu | 4 => .tanh | 5 => .sigm | _ => .exp

/-- The midpoint of an interval (R74). -/
def midpoint (i : Lane × Lane) : Num := nScale (nAdd (f32 i.1) (f32 i.2)) (-1)

/-- The nine points of R74. -/
def certPoint (l u : Lane) (k : Nat) : Lane :=
  if k = 0 then l
  else if k = 8 then u
  else rne (nAdd (f32 l) (nScale (nMul (Num.ofNat k) (nSub (f32 u) (f32 l))) (-3)))

/-- H[k] of R74. -/
def certH (fn : Config.CertFn) (alpha beta x : Lane) : Num :=
  let i := Config.certF fn x
  let r (e : Lane) : Num := residual (f32 e) (f32 alpha) (f32 beta) (f32 x)
  f32 (rupOrInf (nMax (r i.1) (r i.2)))

/-- δ of R74. -/
def certDelta (fn : Config.CertFn) (l u alpha beta : Lane) : Lane :=
  let b (k : Nat) : Num :=
    let x := certPoint l u k
    let y := certPoint l u (k + 1)
    let w := nSub (f32 y) (f32 x)
    f32 (rupOrInf (nAdd (nMax (certH fn alpha beta x) (certH fn alpha beta y))
      (nScale (nMul (f32 (Config.certM2 fn x y)) (nMul w w)) (-3))))
  rupOrInf ((List.range 8).foldl (fun d k => nMax d (b k)) Num.zero)

/-- α and β at an end by its tangent (R72, R74). -/
def certTangent (fn : Config.CertFn) (x : Lane) : Lane × Lane :=
  let alpha := rne (midpoint (Config.certF' fn x))
  (alpha, rne (nSub (midpoint (Config.certF fn x)) (nMul (f32 alpha) (f32 x))))

/-- The functions with certified tables under CHORD, TANL or TANU (R72, R74); β of CHORD is a free value
(notes/assumptions/16.md). -/
def evalCert (kind : Nat) (fn : Config.CertFn) (l u : Lane) : Lane × Lane × Lane :=
  let ab :=
    if kind = 4 then certTangent fn u
    else if kind = 3 ∨ (f32 l).eqv (f32 u) then certTangent fn l
    else
      (rneQuot (nSub (midpoint (Config.certF fn u)) (midpoint (Config.certF fn l))) (nSub (f32 u) (f32 l)),
       Config.certBeta fn l u)
  (ab.1, ab.2, certDelta fn l u ab.1 ab.2)

/-- α, β and δ of BOX (R72). -/
def evalBox (p0 p1 : Lane) : Lane × Lane × Lane :=
  let beta := rup (nScale (nAdd (f32 p0) (f32 p1)) (-1))
  (0, beta, rupOrInf (nMax (nSub (f32 beta) (f32 p0)) (nSub (f32 p1) (f32 beta))))

/-- Eval of R338: the evaluator kinds (R72). -/
def Rule.eval (r : Rule) (arg l u : Lane) : Lane × Lane × Lane :=
  match r.kind with
  | 0 => (0, 0, 0)
  | 1 => (0x3F800000#32, 0, 0)
  | 5 => evalBox r.p0 r.p1
  | 6 => (r.param arg, 0, 0)
  | k =>
    if r.fn = 0 then evalLeaky k Num.zero (f32 l) (f32 u)
    else if r.fn = 1 then evalLeaky k (f32 (r.param arg)) (f32 l) (f32 u)
    else evalCert k (certOf r.fn) l u

/-- One lane of rlx; none when no rule matches (R71, R76, R338). -/
def rlxLane (rules : List Rule) (arg l u : Lane) : Option (Lane × Lane × Lane) :=
  if !isFinite32 l || !isFinite32 u || (f32 u).lt (f32 l) then some (0, 0, 0x7F800000#32)
  else (rules.find? (fun r => r.holds l u)).map (fun r => r.eval arg l u)

/-! ## rlx (R337, R338) -/

/-- The rules that rlx reads: the ROM slot, or the slot of the user table in PM (R68, R75). -/
def State.rlxRules (s : State) (ut : Bool) (fs : BitVec 3) (tc : List Touch) : List Rule :=
  if ut then slotRules (s.piecesBytes (piecesOf tc)) fs.toNat else romSlot fs.toNat

/-- RTV of CAPW (R18). -/
def rtvOf (p : PartNo) : BitVec 4 := (capwOf p).extractLsb' 44 4

/-- The trap RULE of R71 and R337. -/
def State.rlxFails (s : State) (ut : Bool) (fs : BitVec 3) (tc : List Touch) (vl : VReg) (p : PReg) (arg : Lane) : Bool :=
  let rules := s.rlxRules ut fs tc
  (!ut && (rtvOf s.part == 0 || rules.isEmpty)) || !rules.all (fun r => r.ok arg) ||
  ((lanes (s.rv vl)).zip ((lanes (s.rv (vl + 1))).zip (List.range 64))).any (fun x =>
    active (s.rp p) x.2.2 && (rlxLane rules arg x.1 x.2.1).isNone)

/-- rlx: a user table is read at the instruction's place in program order, so its bundle waits for older stores to it
(R151, R152). -/
def execRlx (vd vl : VReg) (p : PReg) (fs : BitVec 3) (ut : Bool) (ta ar : SReg) (s : State) : Out :=
  let sh : Shape :=
    ⟨.rlx vd vl p fs ut ta ar, [.v vl, .v (vl + 1), .p p, .s ar] ++ (if ut then [.s ta] else []), [],
      [(.v vd, 14), (.v (vd + 1), 14), (.v (vd + 2), 14)], false, 0⟩
  let arg (t : State) : Lane := (t.rs ar).setWidth 32
  let acc := if ut then s.checkAccess .pm .read 0 3 (s.rs ta) 2048 256 else .ok []
  let chk : Except IssueTrap (List Touch) :=
    match acc with
    | .error t => .error t
    | .ok tc => if s.rlxFails ut fs tc vl p (arg s) then .error ⟨.rule, 0, 0⟩ else .ok tc
  if s.env.slipped.isNone ∧ s.conflict sh.instr then .next (s.blockBehind (s.ahead sh.instr))
  else
    .next (s.operate sh chk (fun tc u =>
      let t := if ut then u.accessed .read (u.rs ta) (piecesOf tc) else u
      let rules := t.rlxRules ut fs tc
      let r := ((lanes (t.rv vl)).zip (lanes (t.rv (vl + 1)))).map (fun x => (rlxLane rules (arg t) x.1 x.2).getD (0, 0, 0))
      let q := t.consume (t.piecesPoisoned (piecesOf tc))
      let vals : List VecWord := [ofLanes (r.map (·.1)), ofLanes (r.map (·.2.1)), ofLanes (r.map (·.2.2))]
      (vals.zip (List.range 3)).foldl (fun u x =>
        u.deliverR 14 { Result.base with
          dest := .v (vd + BitVec.ofNat 5 x.2), val := x.1, mask := t.rp p, preg := q.2 && decide (x.2 = 0) }) q.1))

end Sys2Proof.Machine
end

