-- ==== Sys2Proof/Machine/Tile.lean ====
section
/-!
DEFINITION. The tile engine of the T slot (spec/12 R316 to R335; spec/02 R42 to R44; spec/03 R60). What an instruction
does to the bookkeeping that later checks at issue read (SEQ, KIND, operations in flight, bank formats and ready times,
ACT) happens at issue; its arithmetic happens when it executes, in issue order (R319).
-/
namespace Sys2Proof.Machine

/-! ## Products, trees and companion sums (R42, R43, R60, R326, R330) -/

/-- An element of an activation format (R25, R324). -/
def elemNum (f : Fmt) (w : Nat) : Num :=
  match fmtForm f with
  | some p => p.decode (w % 2 ^ (8 * f.bytes))
  | none => Num.ofInt (fmtInt f (BitVec.ofNat 64 w))

/-- A number of n bytes at an offset of a bank's image (R321). -/
def Bank.natAt (b : Bank) (off n : Nat) : Nat := b.img.toNat / 2 ^ (8 * off) % 2 ^ (8 * n)

/-- The delta of the block of weight index i (R321). -/
def Bank.delta (b : Bank) (i : Nat) : BitVec 4 :=
  let blk := i / 32
  let byte := b.natAt (4096 + blk / 2) 1
  BitVec.ofNat 4 (if blk % 2 = 0 then byte else byte / 16)

/-- The weight W[j][n] of a bank with an Eb (R31, R321, R324). -/
def Bank.weight (b : Bank) (eb : Int) (j n : Nat) : Num :=
  let i := 64 * j + n
  match b.fmt with
  | some .dpw8 => dpwValue eb (b.delta i) (BitVec.ofNat 8 (b.natAt i 1))
  | some f => elemNum f (b.natAt (f.bytes * i) f.bytes)
  | none => Num.zero

/-- The weight of an i8 bank (R321). -/
def Bank.weightInt (b : Bank) (j n : Nat) : Int := fmtInt .i8 (BitVec.ofNat 64 (b.natAt (64 * j + n) 1))

/-- A product as it enters a tree: exact, or rounded to FP32 (R42). -/
def product (rounded : Option RMode) (x w : Num) : Num × Flags :=
  let p := x.mul w
  match rounded with
  | some rm => let r := roundOp rm false p
               (f32 r.1, r.2)
  | none => (p.1, Flags.invIf p.2)

/-- The pass sum of a row against a column: 64 products in the tree of R43; one that the row does not supply is +0. -/
def columnSum (rm : RMode) (rounded : Option RMode) (xs : List (Option Num)) (w : Nat → Num) : Num × Flags :=
  treeSum rm ((xs.zip (List.range 64)).map (fun p =>
    match p.1 with
    | some x => product rounded x (w p.2)
    | none => (Num.zero, Flags.none)))

/-- One element of a floating pass (R43). -/
def passElem (f32pair : Bool) (xs : List (Option Num)) (w : Nat → Num) (old : Lane) : Lane × Flags :=
  let t := columnSum .rne (if f32pair then some .rne else none) xs w
  let r := roundOp .rne false ((f32 old).add false t.1)
  (r.1, t.2.or r.2)

/-- The upward sum t of R60 and R330 over magnitudes. -/
def columnAbs (rounded : Bool) (xs : List (Option Num)) (w : Nat → Num) : Num :=
  (columnSum .ru (if rounded then some .ru else none) (xs.map (·.map Num.abs)) (fun j => (w j).abs)).1

/-- Cerr after a row (R60, R326). -/
def cerrAfter (old : Lane) (t : Num) : Lane :=
  let u := (roundF32 .ru false (t.add false (.fin false 1 (-120))).1).1
  addW .ru old u

/-- Crem after an abs-weight row (R60, R330). -/
def cremAfter (old : Lane) (t : Num) : Lane := (roundF32 .ru false ((f32 old).add false t).1).1

/-- A vector of 64 columns, computed column by column. -/
def columns (f : Nat → Lane) : VecWord := ofLanes ((List.range 64).map f)

/-! ## Accumulators (R317, R318, R331) -/

/-- Row q of a tile. -/
def Acc.row (a : Acc) (q : BitVec 6) : VecWord := a.tile[q.toNat]'(q.isLt)
/-- Row q of a tile replaced. -/
def Acc.setRow (a : Acc) (q : BitVec 6) (v : VecWord) : Acc := { a with tile := a.tile.set q.toNat v q.isLt }

/-- The depths after a pass into row q (R44, R318). -/
def Acc.deepen (a : Acc) (q : BitVec 6) (base : Nat) : Acc :=
  let d := (lane a.rowdepth q.toNat).toNat
  let d' := max (min (d + 1) (2 ^ 32 - 1)) base
  { a with
    rowdepth := mergeLanes (1#64 <<< q.toNat) a.rowdepth (splat (BitVec.ofNat 32 d')),
    depth := BitVec.ofNat 32 (max a.depth.toNat d') }

/-- aclr's column of R317 without what issue keeps: KIND, SEQ and the operations in flight. -/
def Acc.cleared (a : Acc) : Acc := { Acc.reset with kind := a.kind, seq := a.seq, flight := a.flight }

/-- What a stream instruction does with its rows (R323 to R330). -/
structure Stream where
  pair : Pair
  enc : Bool
  abs : Bool
  eb : Int
deriving DecidableEq, Repr

/-- The depth base of a pair (R318, R323). -/
def Stream.base (st : Stream) : Nat := if st.pair = .f32 then 8 else 7

/-- One pass of a row of elements against a bank into tile row q, with its flags (R43, R318, R324, R326, R330). -/
def Stream.pass (st : Stream) (b : Bank) (q : BitVec 6) (a : Acc) (es : List (Option Nat)) : Acc × Flags :=
  if st.abs then
    let xs := es.map (·.map (elemNum .fp32))
    ({ a with crem := columns (fun n => cremAfter (lane a.crem n) (columnAbs true xs (fun j => b.weight st.eb j n))) },
     Flags.none)
  else if st.pair = .i8 then
    let xs := es.map (fun e => fmtInt .i8 (BitVec.ofNat 64 (e.getD 0)))
    let sum (n : Nat) : Int := ((xs.zip (List.range 64)).map (fun p => p.1 * b.weightInt p.2 n)).sum
    (a.setRow q (columns (fun n => lane (a.row q) n + BitVec.ofInt 32 (sum n))), Flags.none)
  else
    let xs := es.map (·.map (elemNum st.pair.acts))
    let wide := st.pair == .f32
    let r := (List.range 64).map (fun n => passElem wide xs (fun j => b.weight st.eb j n) (lane (a.row q) n))
    let a1 := (a.setRow q (ofLanes (r.map (·.1)))).deepen q st.base
    let a2 := if st.enc then
        { a1 with
          cerr := columns (fun n => cerrAfter (lane a1.cerr n) (columnAbs wide xs (fun j => b.weight st.eb j n))) }
      else a1
    (a2, Flags.union (r.map (·.2)))

/-- The passes of one row, each a bank and its elements (R329). -/
def Stream.row (st : Stream) (banks : Bool → Bank) (q : BitVec 6) (a : Acc × Flags) (ps : List (Bool × List (Option Nat))) :
    Acc × Flags :=
  ps.foldl (fun a p => let r := st.pass (banks p.1) q a.1 p.2
                       (r.1, a.2.or r.2)) a

/-- The rows of a stream instruction from the row cursor on, which moves past them except in ABS mode (R325, R330). -/
def Stream.rows (st : Stream) (banks : Bool → Bank) (a : Acc) (l : List (List (Bool × List (Option Nat)))) : Acc × Flags :=
  let r := (l.zip (List.range l.length)).foldl
    (fun x p => st.row banks (a.rc + BitVec.ofNat 6 p.2) x p.1) (a, Flags.none)
  (if st.abs then r.1 else { r.1 with rc := a.rc + BitVec.ofNat 6 l.length }, r.2)

/-! ## Bookkeeping at issue (R99, R317, R319, R322) -/

/-- A weight bank of a core. -/
def Core.bankAt (k : Core) (bk : Bool) : Bank := if bk then k.bank[1] else k.bank[0]
/-- A weight bank changed. -/
def Core.mapBank (k : Core) (bk : Bool) (f : Bank → Bank) : Core :=
  if bk then { k with bank := k.bank.set 1 (f k.bank[1]) } else { k with bank := k.bank.set 0 (f k.bank[0]) }

/-- A change made when the instruction of the environment issues: not when its bundle waits or a check has failed, nor
again when it leaves a slip buffer. `t` is the state after the issue. -/
def State.atIssue (s t : State) (f : State → State) : State :=
  if s.env.slipped.isSome ∨ t.env.block ∨ t.env.raised.isSome then t else f t

/-- The word that the instruction captured at issue. -/
def State.tag (t : State) (sh : Shape) : Word :=
  match t.view? with
  | some v => v.ctl
  | none => sh.ctl

/-- An instruction that names an accumulator has issued: SEQ counts it, and one that changes the accumulator is in
flight until its due time (R99, R317). -/
def State.countSeq (s : State) (ac : AReg) (due : Option Nat) (f : Acc → Acc) : State :=
  s.mapCx (fun x => x.mapAcc ac (fun a =>
    let live := a.flight.filter (fun p => decide (s.env.ctm.toNat < p.2.toNat))
    let a1 := { f a with seq := a.seq + 1 }
    match due with
    | some l => { a1 with flight := live ++ [(a.seq + 1, s.env.ctm + BitVec.ofNat 64 l)] }
    | none => { a1 with flight := live }))

/-- The oldest operation on an accumulator that is not due at a time (R99). -/
def Acc.undue (a : Acc) (ctm : Word) : Option (BitVec 16 × Word) :=
  a.flight.find? (fun p => decide (ctm.toNat < p.2.toNat))

/-! ## Checks at issue (R320) -/

/-- The first failing check of a list, then the rest. -/
def checksThen (l : List (Bool × IssueTrap)) (k : Except IssueTrap (List Touch)) : Except IssueTrap (List Touch) :=
  match l.find? (fun p => !p.1) with
  | some p => .error p.2
  | none => k

/-- Check 1: the context holds the banks. -/
def State.holderCheck (s : State) : Bool × IssueTrap :=
  ((s.core s.myCore).holder == some s.env.cid.num, ⟨.unit, 0, 0⟩)
/-- Check 2: the accumulator is granted. -/
def State.naccCheck (s : State) (ac : AReg) : Bool × IssueTrap :=
  ((match s.cx.task with | some t => decide (ac.toNat < t.nacc) | none => false), ⟨.ill, 0, 0⟩)
/-- Check 4: the bank holds the pair's weight format. -/
def State.formatCheck (s : State) (p : Pair) (bk : Bool) : Bool × IssueTrap :=
  (((s.core s.myCore).bankAt bk).fmt == some p.weights, ⟨.ill, 0, 0⟩)
/-- Check 5: the accumulator's KIND is none or the pair's. -/
def State.kindCheck (s : State) (ac : AReg) (kind : BitVec 2) : Bool × IssueTrap :=
  ((s.cx.ra ac).kind == 0 || (s.cx.ra ac).kind == kind, ⟨.ill, 0, 0⟩)
/-- Check 6: the bank is ready. -/
def State.readyCheck (s : State) (bk : Bool) : Bool × IssueTrap :=
  (decide (((s.core s.myCore).bankAt bk).ready.toNat ≤ s.env.ctm.toNat), ⟨.accb, if bk then 12 else 4, 0⟩)
/-- Check 7: the accumulator's operations are due. -/
def State.dueCheck (s : State) (ac : AReg) : Bool × IssueTrap :=
  match (s.cx.ra ac).undue s.env.ctm with
  | some (seq, _) => (false, ⟨.accb, (seq ++ 0#14 ++ ac : BitVec 32), 0⟩)
  | none => (true, ⟨.accb, 0, 0⟩)

/-- KIND of a pair (R317, R324). -/
def kindOf (p : Pair) : BitVec 2 := if p = .i8 then 2 else 1

/-- Checks 1, 2 and 4 to 6 of a stream instruction around its check 3 (R320). -/
def State.streamChecks (s : State) (ac : AReg) (p : Pair) (third : List (Bool × IssueTrap)) (bks : List Bool) :
    List (Bool × IssueTrap) :=
  [s.holderCheck, s.naccCheck ac] ++ third ++ bks.map (s.formatCheck p) ++ [s.kindCheck ac (kindOf p)] ++
    bks.map s.readyCheck

/-- The pair in force: FMT replaces its activation format (R215, R320). -/
def State.pairNow (s : State) (p : Pair) : Pair :=
  if s.env.pfx.fe then ((Fmt.ofCode s.env.pfx.fmt).bind (Pair.ofFormats p.weights)).getD p else p

/-! ## Stream instructions (R323 to R330) -/

/-- The banks of a core as a stream instruction reads them. -/
def State.banks (s : State) (bk : Bool) : Bank := (s.core s.myCore).bankAt bk

/-- The end of a stream instruction that executes: rows summed, flags and consumed poison due at its latency (R319,
R451). -/
def State.stream (t : State) (ac : AReg) (st : Stream) (rc0 : Bool) (ebInv poison : Bool) (lat : Nat)
    (l : List (List (Bool × List (Option Nat)))) : State :=
  let a := t.cx.ra ac
  let r := st.rows t.banks (if rc0 ∧ !st.abs then { a with rc := 0 } else a) l
  let p := (t.mapCx (fun x => x.mapAcc ac (fun _ => r.1))).consume poison
  p.1.deliverR lat { Result.base with flags := r.2.or (Flags.invIf ebInv), mayFlag := true, peng := p.2 }

/-- What a stream instruction leaves at issue: SEQ, KIND, its flight, and the banks that its beats read (R317, R322). -/
def State.streamIssued (s : State) (ac : AReg) (p : Pair) (bks : List Bool) (lat : Nat) : State :=
  let due := s.env.ctm + BitVec.ofNat 64 lat
  (bks.foldl (fun (u : State) bk =>
    u.mapCore u.myCore (fun k => k.mapBank bk (fun b => if b.busy.toNat < due.toNat then { b with busy := due } else b)))
    s).countSeq ac (some lat) (fun a => { a with kind := kindOf p })

/-- The Eb of an operand word and whether it was clamped (R31, R324); without Eb, 0. -/
def ebWord (p : Pair) (w : Word) : Int × Bool := if p.hasEb then ebOf (w.setWidth 8) else (0, false)

/-- The elements of a vector register as a streamed row (R324). -/
def rowOf (v : VecWord) : List (Option Nat) := (lanes v).map (fun l => some l.toNat)

/-- mma, mma.e and mma.d: k rows formed from vector registers against bank ACT (R325 to R327). -/
def State.mmaOp (s : State) (i : Instr) (pair : Pair) (ac : AReg) (k : Nat) (enc : Bool) (data : List Src)
    (eb : State → Word) (rows : State → List (List (Option Nat))) : Out :=
  let p := s.pairNow pair
  let lat := k + 10
  let act := (s.core s.myCore).act
  let sh : Shape := ⟨i, [], data, [(.none, lat)], true, if act then 1 else 0⟩
  .next (s.atIssue (s.operate sh (checksThen (s.streamChecks ac p [] [act]) (.ok [])) (fun _ t =>
      let e := ebWord p (eb t)
      let bk := (t.tag sh).getLsbD 0
      t.stream ac ⟨p, enc, false, e.1⟩ false e.2 false lat ((rows t).map (fun r => [(bk, r)]))))
    (fun t => t.streamIssued ac p [act] lat))

/-- The k vector registers from v on. -/
def vregs (v : VReg) (k : Nat) : List VReg := (List.range k).map (fun i => v + BitVec.ofNat 5 i)

/-- mma (R325). -/
def execMma (pair : Pair) (ac : AReg) (v : VReg) (km : BitVec 4) (eb : SOpd) (s : State) : Out :=
  let rs := vregs v (km.toNat + 1)
  s.mmaOp (.mma pair ac v km eb) pair ac (km.toNat + 1) false (rs.map Src.v ++ if pair.hasEb then SOpd.src eb else [])
    (fun t => t.rso eb) (fun t => rs.map (fun r => rowOf (t.rv r)))

/-- mma.e (R326). -/
def execMmaE (pair : Pair) (ac : AReg) (v : VReg) (km : BitVec 4) (s : State) : Out :=
  let rs := vregs v (km.toNat + 1)
  s.mmaOp (.mmaE pair ac v km) pair ac (km.toNat + 1) true (rs.map Src.v) (fun _ => 0)
    (fun t => rs.map (fun r => rowOf (t.rv r)))

/-- Row i of mma.d: the coefficient at its index; the row supplies no other product (R43, R327). -/
def diagRow (delta : VecWord) (idx : Lane) : List (Option Nat) :=
  (List.range 64).map (fun j =>
    if !idx.getLsbD 31 ∧ j = idx.toNat % 64 then some (lane delta j).toNat else none)

/-- mma.d (R327). -/
def execMmaD (pair : Pair) (ac : AReg) (v : VReg) (km : BitVec 4) (s : State) : Out :=
  s.mmaOp (.mmaD pair ac v km) pair ac (km.toNat + 1) true [.v v, .v (v + 1)] (fun _ => 0)
    (fun t => (List.range (km.toNat + 1)).map (fun i => diagRow (t.rv v) (lane (t.rv (v + 1)) i)))

/-- The offsets of the passes of mmas, row by row (R329). -/
def mmasOffsets (n rp tp : Nat) (rot : Bool) : List Nat :=
  (List.range n).flatMap (fun i => if rot then [i * rp, i * rp + tp] else [i * rp])

/-- Check 8 of mmas on a ring operand: every row within one of the slots required (R329, R135). -/
def State.checkMmasRing (s : State) (h : HReg) (rn : Nat) (offs : List Nat) (bytes : Nat) :
    Except IssueTrap (List Touch) :=
  match s.ringOf h with
  | none => .error ⟨.ill, 0, 0⟩
  | some (_, r) =>
    if offs.any (fun o => decide (rn ≤ o / r.slotSize) || decide (r.slotSize < o % r.slotSize + bytes)) then
      .error ⟨.ill, 0, 0⟩
    else s.checkRing h rn 0 4 .read 0

/-- Check 8 of mmas on PM rows: the earliest check in the order of R269 decides. -/
def State.checkRows (s : State) (base : Word) (offs : List Nat) (bytes : Nat) : Except IssueTrap (List Touch) :=
  let l := offs.map (fun o => s.checkAccess .pm .read 0 4 (base + BitVec.ofNat 64 o) bytes 8)
  match firstFault (l.filterMap (fun r => match r with | .error t => some t | .ok _ => none)) with
  | some t => .error t
  | none => .ok (l.flatMap (fun r => match r with | .ok x => x | .error _ => []))

/-- The ring operand lies in the hall (R329). -/
def State.hallRing (s : State) (h : HReg) : Bool :=
  match s.ringOf h with
  | some (_, r) => r.hall
  | none => false

/-- The passes of each row: one, or two with ROT (R329). -/
def rowPasses (rot bk : Bool) : List (List (Option Nat)) → List (List (Bool × List (Option Nat)))
  | [] => []
  | [e] => [[(bk, e)]]
  | e :: f :: l => if rot then [(bk, e), (!bk, f)] :: rowPasses rot bk l
                   else [(bk, e)] :: rowPasses rot bk (f :: l)

/-- A read of PM by the instruction in the environment finds its errors (R148). -/
def State.readsAt (s : State) (ps : List Piece) : State :=
  s.readErrors (s.readerAt s.env.cid (piecesVa ps)) ps

/-- mmas (R328 to R330). The flags of the copies that its ring operand joins fall due at the next bundle (R36). -/
def execMmas (ac : AReg) (a : SOpd) (b c : SReg) (rc0 : Bool) (nm : BitVec 6) (pair : Pair) (mode : MmasMode)
    (rot rg : Bool) (h : HReg) (rn : BitVec 6) (s : State) : Out :=
  let p := s.pairNow pair
  let n := nm.toNat + 1
  let lat := (if rot then 2 * n else n) + 14
  let abs := mode == .abs
  let esz := if abs then 4 else p.acts.bytes
  let act := (s.core s.myCore).act
  let bks := if rot then [act, !act] else [act]
  let pitch := s.rs b
  let rp := (pitch.extractLsb' 0 24).toNat
  let tp := (pitch.extractLsb' 24 24).toNat
  let third : List (Bool × IssueTrap) :=
    [(pitch.extractLsb' 48 16 == 0 && decide (rp % 8 = 0) && decide (tp % 8 = 0) && !(rg && s.hallRing h), ⟨.ill, 0, 0⟩)]
  let offs := mmasOffsets n rp tp rot
  let sh : Shape :=
    ⟨.mmas ac a b c rc0 nm pair mode rot rg h rn, .s b :: (if rg then [] else SOpd.src a),
      if pair.hasEb then [.s c] else [], (if rg then [(.none, 1)] else []) ++ [(.none, lat)], true, if act then 1 else 0⟩
  let last := if rg then s.checkMmasRing h rn.toNat offs (64 * esz) else s.checkRows (s.rso a) offs (64 * esz)
  .next (s.atIssue (s.operate sh (checksThen (s.streamChecks ac p third bks) last) (fun tc t =>
      t.implicitWait sh tc (!rg || t.ringReady h false rn.toNat) (fun v =>
        let e := ebWord p (v.rs c)
        let ps : List Piece :=
          if rg then
            match v.ringNamed h with
            | some (_, r) => offs.map (fun o => ⟨v.ringSlotKey h false (o / r.slotSize) + o % r.slotSize, 64 * esz⟩)
            | none => []
          else piecesOf tc
        let u := (if rg then v.joinRing 1 h else v).readsAt ps
        let els := ps.map (fun q => (elements 64 esz (u.bytesAt q.key q.len)).map some)
        u.stream ac ⟨p, mode != .plain, abs, e.1⟩ rc0 e.2 (u.piecesPoisoned ps) lat
          (rowPasses rot ((u.tag sh).getLsbD 0) els))))
    (fun t => t.streamIssued ac p bks lat))

/-! ## Weight banks (R316, R321, R322) -/

/-- The bytes of a weight image (R321). -/
def imageBytes : Fmt → Nat
  | .fp32 => 16384 | .bf16 => 8192 | .dpw8 => 4160 | _ => 4096

/-- wld (R321, R322): the format and ready time hold from issue on; while a beat still reads the bank it stands in the slip
buffer, without a limit, and the image is read when it leaves it. -/
def execWld (bk : Bool) (ty : Fmt) (a : SOpd) (s : State) : Out :=
  let f := s.accessFmt ty
  let busy := ((s.core s.myCore).bankAt bk).busy
  let sh : Shape := ⟨.wld bk ty a, SOpd.src a, [], [(.none, 36)], false, 0⟩
  .next (s.atIssue
    (s.operate sh (checksThen [s.holderCheck] (s.checkAccess .pm .read 0 4 (s.rso a) (imageBytes f) 8)) (fun tc t =>
      if t.env.slipped.isNone ∧ t.cx.ctm.toNat < busy.toNat then t.slipIn sh [] tc none
      else
        let ps := piecesOf tc
        let u := t.readsAt ps
        let q := (u.mapCore u.myCore (fun k => k.mapBank bk (fun b =>
          { b with img := BitVec.ofNat 131072 (leNat (u.piecesBytes ps)) }))).consume (u.piecesPoisoned ps)
        q.1.deliverR 36 { Result.base with peng := q.2 }))
    (fun t => t.mapCore t.myCore (fun k => k.mapBank bk (fun b =>
      { b with fmt := some f, ready := t.env.ctm + 36 }))))

/-- wswap: the new ACT governs the T instructions of later bundles (R322). -/
def execWswap (s : State) : Out :=
  .next (s.atIssue (s.operate ⟨.wswap, [], [], [], false, 0⟩ (checksThen [s.holderCheck] (.ok [])) (fun _ t => t))
    (fun t => t.mapCore t.myCore (fun k => { k with act := !k.act })))

/-! ## Draining and inspecting (R331 to R335) -/

/-- aclr (R331). -/
def execAclr (ac : AReg) (s : State) : Out :=
  .next (s.atIssue (s.operate ⟨.aclr ac, [], [], [], false, 0⟩ (checksThen [s.naccCheck ac] (.ok []))
      (fun _ t => t.mapCx (fun x => x.mapAcc ac Acc.cleared)))
    (fun t => t.countSeq ac (some 1) (fun a => { a with kind := 0 })))

/-- adrn: rows from the drain cursor on (R332). -/
def execAdrn (ac : AReg) (v : VReg) (nr : BitVec 5) (s : State) : Out :=
  let rows := nr.toNat + 1
  let lat := 6 * ((rows + 15) / 16)
  let ds := vregs v rows
  .next (s.atIssue
    (s.operate ⟨.adrn ac v nr, [], [], ds.map (fun d => (.v d, lat)), false, 0⟩
      (checksThen [s.naccCheck ac, s.dueCheck ac] (.ok [])) (fun _ t =>
        let a := t.cx.ra ac
        ((ds.zip (List.range rows)).foldl (fun u p => u.deliver lat (.v p.1) (a.row (a.dc + BitVec.ofNat 6 p.2))) t).mapCx
          (fun x => x.mapAcc ac (fun y => { y with dc := y.dc + BitVec.ofNat 6 rows }))))
    (fun t => t.countSeq ac none id))

/-- Every companion sum and tile element is finite (R333). -/
def Acc.allFinite (a : Acc) : Bool :=
  (lanes a.cerr).all isFinite32 && (lanes a.crem).all isFinite32 && a.tile.toList.all (fun r => (lanes r).all isFinite32)

/-- The remainder of every column (R60, R333). -/
def Acc.remainder (a : Acc) : VecWord :=
  if a.allFinite then
    let g := gamma a.depth.toNat
    columns (fun n => addW .ru (lane a.crem n) (mulW .ru g (lane a.cerr n)))
  else splat 0x7F800000#32

/-- adrn.c (R333). -/
def execAdrnC (ac : AReg) (v : VReg) (nr : BitVec 5) (s : State) : Out :=
  let ds : List (Dest × Nat) := (.v v, 6) :: if nr = 0 then [] else [(.v (v + 1), 6)]
  let notInt : Bool × IssueTrap := ((s.cx.ra ac).kind != 2, ⟨.ill, 0, 0⟩)
  .next (s.atIssue
    (s.operate ⟨.adrnC ac v nr, [], [], ds, false, 0⟩
      (checksThen [s.naccCheck ac, notInt, s.dueCheck ac] (.ok [])) (fun _ t =>
        let a := t.cx.ra ac
        let t1 := t.deliver 6 (.v v) a.remainder
        if nr = 0 then t1 else t1.deliver 6 (.v (v + 1)) (splat a.depth)))
    (fun t => t.countSeq ac none id))

/-- ast: the tile written to PM, row by row (R334). -/
def execAst (ac : AReg) (a : SOpd) (s : State) : Out :=
  .next (s.atIssue
    (s.operate ⟨.ast ac a, SOpd.src a, [], [], false, 0⟩
      (checksThen [s.naccCheck ac, s.dueCheck ac] (s.checkAccess .pm .write 0 4 (s.rso a) 16384 8)) (fun tc t =>
        (t.putWide t.env.cid 8 (t.rso a) (piecesOf tc) ((t.cx.ra ac).tile.toList.flatMap (bytesOfLanes .fp32))).wakeOn
          (piecesOf tc)))
    (fun t => t.countSeq ac none id))

/-- aqry: SEQ counts the aqry itself (R335). -/
def execAqry (d : SReg) (ac : AReg) (s : State) : Out :=
  let a := s.cx.ra ac
  let sh : Shape := ⟨.aqry d ac, [], [], [(.s d, 6)], false, ((a.seq + 1) ++ a.kind : BitVec 18).setWidth 64⟩
  .next (s.atIssue
    (s.operate sh (checksThen [s.naccCheck ac, s.dueCheck ac] (.ok [])) (fun _ t =>
      let x := t.cx.ra ac
      let w : BitVec 18 := (t.tag sh).setWidth 18
      t.deliverS 6 d (w.extractLsb' 2 16 ++ 0#2 ++ w.extractLsb' 0 2 ++ x.dc ++ x.rc ++ x.depth : BitVec 64)))
    (fun t => t.countSeq ac none id))

end Sys2Proof.Machine
end

