-- ==== Sys2Proof/Machine/Dispatch.lean ====
section
/-! DEFINITION. One arm per constructor of Instr: a call of its meaning. -/
namespace Sys2Proof.Machine

/-- The meaning of an instruction or event in a state. -/
def exec (i : Instr) (s : State) : Host.Outcome State Fault Refusal :=
  match i with
  | .nop => Sys2Proof.Machine.execNop s
  | .br a z sd ix => Sys2Proof.Machine.execBr a z sd ix s
  | .jmp sd ix => Sys2Proof.Machine.execJmp sd ix s
  | .jmpr a => Sys2Proof.Machine.execJmpr a s
  | .call sd ix => Sys2Proof.Machine.execCall sd ix s
  | .ret => Sys2Proof.Machine.execRet s
  | .loop lv a nm => Sys2Proof.Machine.execLoop lv a nm s
  | .loopi lv nm cnt => Sys2Proof.Machine.execLoopi lv nm cnt s
  | .lbrk lv => Sys2Proof.Machine.execLbrk lv s
  | .lstr lv target step => Sys2Proof.Machine.execLstr lv target step s
  | .gate lv fm lm => Sys2Proof.Machine.execGate lv fm lm s
  | .halt => Sys2Proof.Machine.execHalt s
  | .trap imm => Sys2Proof.Machine.execTrap imm s
  | .tret => Sys2Proof.Machine.execTret s
  | .sleep d a b => Sys2Proof.Machine.execSleep d a b s
  | .yield => Sys2Proof.Machine.execYield s
  | .waitf m => Sys2Proof.Machine.execWaitf m s
  | .cregOpen addr => Sys2Proof.Machine.execCregOpen addr s
  | .cregClose => Sys2Proof.Machine.execCregClose s
  | .chkerr d a => Sys2Proof.Machine.execChkerr d a s
  | .cmpt a b => Sys2Proof.Machine.execCmpt a b s
  | .capack d a => Sys2Proof.Machine.execCapack d a s
  | .jmpl addr => Sys2Proof.Machine.execJmpl addr s
  | .add d a b => Sys2Proof.Machine.execAdd d a b s
  | .sub d a b => Sys2Proof.Machine.execSub d a b s
  | .and d a b => Sys2Proof.Machine.execAnd d a b s
  | .or d a b => Sys2Proof.Machine.execOr d a b s
  | .xor d a b => Sys2Proof.Machine.execXor d a b s
  | .andn d a b => Sys2Proof.Machine.execAndn d a b s
  | .orn d a b => Sys2Proof.Machine.execOrn d a b s
  | .xnor d a b => Sys2Proof.Machine.execXnor d a b s
  | .shl d a b => Sys2Proof.Machine.execShl d a b s
  | .shr d a b => Sys2Proof.Machine.execShr d a b s
  | .sar d a b => Sys2Proof.Machine.execSar d a b s
  | .rol d a b => Sys2Proof.Machine.execRol d a b s
  | .seq d a b => Sys2Proof.Machine.execSeq d a b s
  | .sne d a b => Sys2Proof.Machine.execSne d a b s
  | .slt d a b => Sys2Proof.Machine.execSlt d a b s
  | .sle d a b => Sys2Proof.Machine.execSle d a b s
  | .sltw d a b => Sys2Proof.Machine.execSltw d a b s
  | .slew d a b => Sys2Proof.Machine.execSlew d a b s
  | .min d a b => Sys2Proof.Machine.execMin d a b s
  | .max d a b => Sys2Proof.Machine.execMax d a b s
  | .minw d a b => Sys2Proof.Machine.execMinw d a b s
  | .maxw d a b => Sys2Proof.Machine.execMaxw d a b s
  | .mul d a b => Sys2Proof.Machine.execMul d a b s
  | .mulh d a b => Sys2Proof.Machine.execMulh d a b s
  | .mulhw d a b => Sys2Proof.Machine.execMulhw d a b s
  | .div d a b => Sys2Proof.Machine.execDiv d a b s
  | .divw d a b => Sys2Proof.Machine.execDivw d a b s
  | .rem d a b => Sys2Proof.Machine.execRem d a b s
  | .remw d a b => Sys2Proof.Machine.execRemw d a b s
  | .popc d a => Sys2Proof.Machine.execPopc d a s
  | .clz d a => Sys2Proof.Machine.execClz d a s
  | .ctz d a => Sys2Proof.Machine.execCtz d a s
  | .brev d a => Sys2Proof.Machine.execBrev d a s
  | .bswap d a => Sys2Proof.Machine.execBswap d a s
  | .bfx d a pos lm => Sys2Proof.Machine.execBfx d a pos lm s
  | .bfi d a pos lm => Sys2Proof.Machine.execBfi d a pos lm s
  | .sel d a b c => Sys2Proof.Machine.execSel d a b c s
  | .lea d a b x => Sys2Proof.Machine.execLea d a b x s
  | .addi d a imm => Sys2Proof.Machine.execAddi d a imm s
  | .andi d a imm => Sys2Proof.Machine.execAndi d a imm s
  | .ori d a imm => Sys2Proof.Machine.execOri d a imm s
  | .xori d a imm => Sys2Proof.Machine.execXori d a imm s
  | .slti d a imm => Sys2Proof.Machine.execSlti d a imm s
  | .shli d a sh => Sys2Proof.Machine.execShli d a sh s
  | .shri d a sh => Sys2Proof.Machine.execShri d a sh s
  | .sari d a sh => Sys2Proof.Machine.execSari d a sh s
  | .movi d imm => Sys2Proof.Machine.execMovi d imm s
  | .movhi d q imm => Sys2Proof.Machine.execMovhi d q imm s
  | .li48 d imm => Sys2Proof.Machine.execLi48 d imm s
  | .fadd d a b => Sys2Proof.Machine.execFadd d a b s
  | .fsub d a b => Sys2Proof.Machine.execFsub d a b s
  | .fmul d a b => Sys2Proof.Machine.execFmul d a b s
  | .ffma d a b c => Sys2Proof.Machine.execFfma d a b c s
  | .fmin d a b => Sys2Proof.Machine.execFmin d a b s
  | .fmax d a b => Sys2Proof.Machine.execFmax d a b s
  | .fcmp cc d a b => Sys2Proof.Machine.execFcmp cc d a b s
  | .fcvt d a src dst => Sys2Proof.Machine.execFcvt d a src dst s
  | .fdiv d a b => Sys2Proof.Machine.execFdiv d a b s
  | .fsqrt d a => Sys2Proof.Machine.execFsqrt d a s
  | .mfc d cr => Sys2Proof.Machine.execMfc d cr s
  | .mtc cr a => Sys2Proof.Machine.execMtc cr a s
  | .bcast a => Sys2Proof.Machine.execBcast a s
  | .rdclk d clk => Sys2Proof.Machine.execRdclk d clk s
  | .ld sp ty d ba off => Sys2Proof.Machine.execLd sp ty d ba off s
  | .ldRing ty d r => Sys2Proof.Machine.execLdRing ty d r s
  | .st sp ty a ba off => Sys2Proof.Machine.execSt sp ty a ba off s
  | .stRing ty a r => Sys2Proof.Machine.execStRing ty a r s
  | .vld sp ty vd ba off => Sys2Proof.Machine.execVld sp ty vd ba off s
  | .vldRing ty vd r => Sys2Proof.Machine.execVldRing ty vd r s
  | .vst sp ty va ba off => Sys2Proof.Machine.execVst sp ty va ba off s
  | .vstRing ty va r => Sys2Proof.Machine.execVstRing ty va r s
  | .vlds sp ty vd ba sr => Sys2Proof.Machine.execVlds sp ty vd ba sr s
  | .vsts sp ty va ba sr => Sys2Proof.Machine.execVsts sp ty va ba sr s
  | .gath sp ty vd vi ba => Sys2Proof.Machine.execGath sp ty vd vi ba s
  | .scat sp ty va vi ba => Sys2Proof.Machine.execScat sp ty va vi ba s
  | .ldf sp d ba lim => Sys2Proof.Machine.execLdf sp d ba lim s
  | .ldfEmpty sp d ba lim => Sys2Proof.Machine.execLdfEmpty sp d ba lim s
  | .ste sp a ba lim => Sys2Proof.Machine.execSte sp a ba lim s
  | .fetag sp d ba => Sys2Proof.Machine.execFetag sp d ba s
  | .fetagSet sp a ba => Sys2Proof.Machine.execFetagSet sp a ba s
  | .rdef h a => Sys2Proof.Machine.execRdef h a s
  | .advp h n => Sys2Proof.Machine.execAdvp h n s
  | .advc h n => Sys2Proof.Machine.execAdvc h n s
  | .rqry d h wd => Sys2Proof.Machine.execRqry d h wd s
  | .copy d a b c ssp dsp kind sfmt dfmt h re ns tag zc => Sys2Proof.Machine.execCopy d a b c ssp dsp kind sfmt dfmt h re ns tag zc s
  | .cpqry d a => Sys2Proof.Machine.execCpqry d a s
  | .atom op sp d ba a => Sys2Proof.Machine.execAtom op sp d ba a s
  | .redo op sp ba a => Sys2Proof.Machine.execRedo op sp ba a s
  | .red op sp ba a => Sys2Proof.Machine.execRed op sp ba a s
  | .bararr sp d ba => Sys2Proof.Machine.execBararr sp d ba s
  | .barwait sp d ba lim => Sys2Proof.Machine.execBarwait sp d ba lim s
  | .baraw sp d ba lim => Sys2Proof.Machine.execBaraw sp d ba lim s
  | .barinit sp d ba a => Sys2Proof.Machine.execBarinit sp d ba a s
  | .evsig sp ba a => Sys2Proof.Machine.execEvsig sp ba a s
  | .evwait sp d ba lim => Sys2Proof.Machine.execEvwait sp d ba lim s
  | .fence d lim mask => Sys2Proof.Machine.execFence d lim mask s
  | .phase sp ba => Sys2Proof.Machine.execPhase sp ba s
  | .phend => Sys2Proof.Machine.execPhend s
  | .dgst sp ba a => Sys2Proof.Machine.execDgst sp ba a s
  | .pref hint ba off => Sys2Proof.Machine.execPref hint ba off s
  | .symNew d a b => Sys2Proof.Machine.execSymNew d a b s
  | .symSig a b c => Sys2Proof.Machine.execSymSig a b c s
  | .symQry d a b => Sys2Proof.Machine.execSymQry d a b s
  | .symRel a b c => Sys2Proof.Machine.execSymRel a b c s
  | .cond d a b c e h re => Sys2Proof.Machine.execCond d a b c e h re s
  | .condQry d a => Sys2Proof.Machine.execCondQry d a s
  | .vadd vd va vb p => Sys2Proof.Machine.execVadd vd va vb p s
  | .vsub vd va vb p => Sys2Proof.Machine.execVsub vd va vb p s
  | .vmul vd va vb p => Sys2Proof.Machine.execVmul vd va vb p s
  | .vfma vd va vb p => Sys2Proof.Machine.execVfma vd va vb p s
  | .vfms vd va vb p => Sys2Proof.Machine.execVfms vd va vb p s
  | .vmin vd va vb p => Sys2Proof.Machine.execVmin vd va vb p s
  | .vmax vd va vb p => Sys2Proof.Machine.execVmax vd va vb p s
  | .vabs vd va p => Sys2Proof.Machine.execVabs vd va p s
  | .vneg vd va p => Sys2Proof.Machine.execVneg vd va p s
  | .vcmp cc pd va vb p => Sys2Proof.Machine.execVcmp cc pd va vb p s
  | .vsel vd va vb p => Sys2Proof.Machine.execVsel vd va vb p s
  | .vand vd va vb p => Sys2Proof.Machine.execVand vd va vb p s
  | .vor vd va vb p => Sys2Proof.Machine.execVor vd va vb p s
  | .vxor vd va vb p => Sys2Proof.Machine.execVxor vd va vb p s
  | .vandn vd va vb p => Sys2Proof.Machine.execVandn vd va vb p s
  | .vshl vd va vb p => Sys2Proof.Machine.execVshl vd va vb p s
  | .vshr vd va vb p => Sys2Proof.Machine.execVshr vd va vb p s
  | .vsar vd va vb p => Sys2Proof.Machine.execVsar vd va vb p s
  | .viadd vd va vb p => Sys2Proof.Machine.execViadd vd va vb p s
  | .visub vd va vb p => Sys2Proof.Machine.execVisub vd va vb p s
  | .vimul vd va vb p => Sys2Proof.Machine.execVimul vd va vb p s
  | .vcvt vd va dst p => Sys2Proof.Machine.execVcvt vd va dst p s
  | .vqnt vd va vb p => Sys2Proof.Machine.execVqnt vd va vb p s
  | .vdqnt vd va vb p => Sys2Proof.Machine.execVdqnt vd va vb p s
  | .vred op vd va p => Sys2Proof.Machine.execVred op vd va p s
  | .vpart vd p => Sys2Proof.Machine.execVpart vd p s
  | .vperm vd va vb p => Sys2Proof.Machine.execVperm vd va vb p s
  | .vmov vd vb p => Sys2Proof.Machine.execVmov vd vb p s
  | .vfn f vd va p => Sys2Proof.Machine.execVfn f vd va p s
  | .vidx vd vb p => Sys2Proof.Machine.execVidx vd vb p s
  | .vcnt vd p => Sys2Proof.Machine.execVcnt vd p s
  | .rlxb vd va vb p => Sys2Proof.Machine.execRlxb vd va vb p s
  | .rlx vd vl p fs ut ta ar => Sys2Proof.Machine.execRlx vd vl p fs ut ta ar s
  | .vabsacc vd va vb p => Sys2Proof.Machine.execVabsacc vd va vb p s
  | .vcmpt va vb => Sys2Proof.Machine.execVcmpt va vb s
  | .pand pd pa pb => Sys2Proof.Machine.execPand pd pa pb s
  | .por pd pa pb => Sys2Proof.Machine.execPor pd pa pb s
  | .pxor pd pa pb => Sys2Proof.Machine.execPxor pd pa pb s
  | .pnot pd pa => Sys2Proof.Machine.execPnot pd pa s
  | .mma pair ac v km eb => Sys2Proof.Machine.execMma pair ac v km eb s
  | .mmaE pair ac v km => Sys2Proof.Machine.execMmaE pair ac v km s
  | .mmas ac a b c rc0 nm pair mode rot rg h rn => Sys2Proof.Machine.execMmas ac a b c rc0 nm pair mode rot rg h rn s
  | .wld bk ty a => Sys2Proof.Machine.execWld bk ty a s
  | .wswap => Sys2Proof.Machine.execWswap s
  | .aclr ac => Sys2Proof.Machine.execAclr ac s
  | .adrn ac v nr => Sys2Proof.Machine.execAdrn ac v nr s
  | .adrnC ac v nr => Sys2Proof.Machine.execAdrnC ac v nr s
  | .ast ac a => Sys2Proof.Machine.execAst ac a s
  | .mmaD pair ac v km => Sys2Proof.Machine.execMmaD pair ac v km s
  | .aqry d ac => Sys2Proof.Machine.execAqry d ac s
  | .send v a => Sys2Proof.Machine.execSend v a s
  | .recv v q => Sys2Proof.Machine.execRecv v q s
  | .recva v q => Sys2Proof.Machine.execRecva v q s
  | .recvm v q => Sys2Proof.Machine.execRecvm v q s
  | .sends a b => Sys2Proof.Machine.execSends a b s
  | .recvs d q => Sys2Proof.Machine.execRecvs d q s
  | .xqry d a => Sys2Proof.Machine.execXqry d a s
  | .xpost d a => Sys2Proof.Machine.execXpost d a s
  | .xcanc d a => Sys2Proof.Machine.execXcanc d a s
  | .bundleDecodeFailure c => Sys2Proof.Machine.execBundleDecodeFailure c s
  | .segmentExpansion c seg => Sys2Proof.Machine.execSegmentExpansion c seg s
  | .fetchFault c => Sys2Proof.Machine.execFetchFault c s
  | .fpx c => Sys2Proof.Machine.execFpx c s
  | .pmiss c => Sys2Proof.Machine.execPmiss c s
  | .swt c => Sys2Proof.Machine.execSwt c s
  | .capc c => Sys2Proof.Machine.execCapc c s
  | .containmentUnwinding c => Sys2Proof.Machine.execContainmentUnwinding c s
  | .pendingValueArrival c rid => Sys2Proof.Machine.execPendingValueArrival c rid s
  | .slipBufferRelease c slot => Sys2Proof.Machine.execSlipBufferRelease c slot s
  | .contextSwitch core => Sys2Proof.Machine.execContextSwitch core s
  | .waitExpiry c slot => Sys2Proof.Machine.execWaitExpiry c slot s
  | .sleepWake c => Sys2Proof.Machine.execSleepWake c s
  | .taskStart part q => Sys2Proof.Machine.execTaskStart part q s
  | .taskRetirement c => Sys2Proof.Machine.execTaskRetirement c s
  | .copyAcceptance c => Sys2Proof.Machine.execCopyAcceptance c s
  | .copyCompletion id => Sys2Proof.Machine.execCopyCompletion id s
  | .lateFault e => Sys2Proof.Machine.execLateFault e s
  | .reductionAcceptance id => Sys2Proof.Machine.execReductionAcceptance id s
  | .reductionApplication id => Sys2Proof.Machine.execReductionApplication id s
  | .phaseBookkeeping id => Sys2Proof.Machine.execPhaseBookkeeping id s
  | .significanceContribution id => Sys2Proof.Machine.execSignificanceContribution id s
  | .referenceUpdate id => Sys2Proof.Machine.execReferenceUpdate id s
  | .condensation id => Sys2Proof.Machine.execCondensation id s
  | .sendArrival id => Sys2Proof.Machine.execSendArrival id s
  | .omnibusStep id => Sys2Proof.Machine.execOmnibusStep id s
  | .earlyArrival die gid inst rank block entries data => Sys2Proof.Machine.execEarlyArrival die gid inst rank block entries data s
  | .instanceTimeout id => Sys2Proof.Machine.execInstanceTimeout id s
  | .peer die gid inst => Sys2Proof.Machine.execPeer die gid inst s
  | .collectiveCompletion id => Sys2Proof.Machine.execCollectiveCompletion id s
  | .cancellationReport die gid inst => Sys2Proof.Machine.execCancellationReport die gid inst s
  | .tail part q val => Sys2Proof.Machine.execTail part q val s
  | .cancelDoorbell part q val => Sys2Proof.Machine.execCancelDoorbell part q val s
  | .admission part q => Sys2Proof.Machine.execAdmission part q s
  | .holdTest part => Sys2Proof.Machine.execHoldTest part s
  | .aging part q => Sys2Proof.Machine.execAging part q s
  | .preemption region => Sys2Proof.Machine.execPreemption region s
  | .regionResume group => Sys2Proof.Machine.execRegionResume group s
  | .launchEnd launch => Sys2Proof.Machine.execLaunchEnd launch s
  | .teardown part fdom => Sys2Proof.Machine.execTeardown part fdom s
  | .tinv part val => Sys2Proof.Machine.execTinv part val s
  | .invalidationCompletion part => Sys2Proof.Machine.execInvalidationCompletion part s
  | .retry part val => Sys2Proof.Machine.execRetry part val s
  | .decline part val => Sys2Proof.Machine.execDecline part val s
  | .registerWrite fn off val => Sys2Proof.Machine.execRegisterWrite fn off val s
  | .bar4Read part off len => Sys2Proof.Machine.execBar4Read part off len s
  | .bar4Write part off bytes => Sys2Proof.Machine.execBar4Write part off bytes s
  | .completionTimeout c r => Sys2Proof.Machine.execCompletionTimeout c r s
  | .mdpw block writers => Sys2Proof.Machine.execMdpw block writers s
  | .patrolScrubbing e correctable => Sys2Proof.Machine.execPatrolScrubbing e correctable s
  | .stepDigest launch => Sys2Proof.Machine.execStepDigest launch s
  | .coreLease => Sys2Proof.Machine.execCoreLease s
  | .linkPortLease => Sys2Proof.Machine.execLinkPortLease s
  | .memoryChannelLease => Sys2Proof.Machine.execMemoryChannelLease s
  | .forcedLease cls => Sys2Proof.Machine.execForcedLease cls s
  | .leaseEnd cls outcome pat fdet => Sys2Proof.Machine.execLeaseEnd cls outcome pat fdet s
  | .hourlyHalving => Sys2Proof.Machine.execHourlyHalving s
  | .capcRecord c => Sys2Proof.Machine.execCapcRecord c s
  | .idle port f => Sys2Proof.Machine.execIdle port f s
  | .req port f => Sys2Proof.Machine.execReq port f s
  | .data port f => Sys2Proof.Machine.execData port f s
  | .rsp port f => Sys2Proof.Machine.execRsp port f s
  | .cred port f => Sys2Proof.Machine.execCred port f s
  | .hold port f => Sys2Proof.Machine.execHold port f s
  | .resume port f => Sys2Proof.Machine.execResume port f s
  | .epa port f => Sys2Proof.Machine.execEpa port f s
  | .err port f => Sys2Proof.Machine.execErr port f s
  | .replay port f => Sys2Proof.Machine.execReplay port f s
  | .computeDomainReset => Sys2Proof.Machine.execComputeDomainReset s
  | .porchDomainReset => Sys2Proof.Machine.execPorchDomainReset s
  | .powerOn b => Sys2Proof.Machine.execPowerOn b s
  | .clockBinMove cluster bin => Sys2Proof.Machine.execClockBinMove cluster bin s
  | .sample c => Sys2Proof.Machine.execSample c s
  | .registerPartition a => Sys2Proof.Machine.execRegisterPartition a s
  | .deregisterPartition part => Sys2Proof.Machine.execDeregisterPartition part s
  | .accessTableEntry t master ranges => Sys2Proof.Machine.execAccessTableEntry t master ranges s
  | .leaseConfiguration buf => Sys2Proof.Machine.execLeaseConfiguration buf s
  | .traceConfiguration part cfg => Sys2Proof.Machine.execTraceConfiguration part cfg s
  | .preemptRegion r => Sys2Proof.Machine.execPreemptRegion r s
  | .noticeMode r mode => Sys2Proof.Machine.execNoticeMode r mode s
  | .commit => Sys2Proof.Machine.execCommit s
  | .selfTestRecordRead => Sys2Proof.Machine.execSelfTestRecordRead s
  | .scoresRead => Sys2Proof.Machine.execScoresRead s
  | .leaseRecordsRead => Sys2Proof.Machine.execLeaseRecordsRead s
  | .retirementStoreRead => Sys2Proof.Machine.execRetirementStoreRead s
  | .islandClocksRead => Sys2Proof.Machine.execIslandClocksRead s
  | .certs => Sys2Proof.Machine.execCerts s
  | .quote nonce => Sys2Proof.Machine.execQuote nonce s
  | .deviceReset => Sys2Proof.Machine.execDeviceReset s
  | .flitCrcFailure port seq => Sys2Proof.Machine.execFlitCrcFailure port seq s
  | .discardedFlit port f => Sys2Proof.Machine.execDiscardedFlit port f s
  | .lossOfLock port => Sys2Proof.Machine.execLossOfLock port s
  | .computeDomainBringUp => Sys2Proof.Machine.execComputeDomainBringUp s
  | .porchUp => Sys2Proof.Machine.execPorchUp s

end Sys2Proof.Machine
end

