-- ==== Sys2Proof/Machine/Step.lean ====
section
/-!
DEFINITION. One step of the machine, and the placing of one instruction where step fetches it. Both only call
Machine/Issue.lean.
-/
namespace Sys2Proof.Machine

/-- One step: what engine threads have written by then, and a released slip-buffer entry, the next step of another agent, or
the turn of a core. -/
def step (s : State) : Host.Outcome State Fault Refusal := stepWith exec s.engines

/-- The state in which the next step fetches and runs the instruction of a table row: it stands alone in bundle 0 of
the segment at address 0, expanded in the loop buffer of context 0 of core 0, whose turn it is
(notes/assumptions/15.md). -/
def State.withFetchWord (s : State) (nbits w : Nat) : State :=
  let s1 := s.mapCtx 0 (fun x => x.placed (tableBundle nbits w))
  let s2 := s1.mapCore 0 (fun k => { k with cur := 0, burst := 0 })
  { s2 with
    agenda := [], stage := none, turn := 0,
    copies := s2.copies.map (fun k => if k.cid = 0 then { k with pms := true } else k) }

end Sys2Proof.Machine
end

