-- ==== Sys2Proof/Safety.lean ====
section
/-!
DEFINITION. The terms in which claims about the machine are stated: when an instruction stands ready to execute, what a
result adds to a context, which storage a step leaves alone, and which states are sound.
-/
namespace Sys2Proof.Machine

/-- The memory of the package stands in its canonical form. -/
def State.sound (s : State) : Prop := Memory.wf s.mem = true

/-- The instruction in the environment comes from its bundle, no operand of it is pending, nothing older waits in its slot's slip
buffer, and no array of the machine holds a parity error. One without a place in the total order then executes now (R96, R152,
R451, R513). -/
def State.issues (s : State) (l : List Src) : Prop :=
  s.env.slipped = none ∧ s.needs l = [] ∧ s.cx.slotSlip s.env.pos = [] ∧ s.parity = []

/-- An instruction with a place in the total order stands ready: it issues, and nothing older with such a place waits in
another slot (R96, R152). -/
def State.issuesInOrder (s : State) (i : Instr) (l : List Src) : Prop := s.issues l ∧ s.conflict i = false

/-- The issuing context with one result more in flight, due `lat` bundles after the bundle of the environment, and
nothing else changed (R93). -/
def State.gains (s : State) (lat : Nat) (r : Result) : State :=
  s.mapCx (fun x => { x with results := x.results ++ [r.issue s.env lat x.nextRid], nextRid := x.nextRid + 1 })

/-- A result for a register that has arrived and raises no flag (R93). -/
def State.gainsValue (s : State) (lat : Nat) (d : Dest) (v : VecWord) : State :=
  s.gains lat { Result.base with dest := d, val := v }

/-- A scalar result (R93). -/
def State.gainsWord (s : State) (lat : Nat) (d : SReg) (w : Word) : State := s.gainsValue lat (.s d) (ofWord w)

/-- A floating-point result with its flags, those that FPC traps suppressing the write (R36, R37). -/
def State.gainsFloat (s : State) (lat : Nat) (d : Dest) (v : VecWord) (mask : Word) (fl : Flags) : State :=
  s.gains lat { Result.base with
    dest := d, val := v, mask := mask, flags := fl, mayFlag := true,
    fpx := if (fl.and (fpcEnables s.cx.ctl.fpc)).any then some fl else none }

/-- A vector result: lane i gets `f i` where predicate p is set, the flags are those of the active lanes together, and an
enabled flag suppresses the write (R36, R37, R298). -/
def State.gainsLanes (s : State) (lat : Nat) (vd : VReg) (p : PReg) (mayFlag : Bool) (f : Nat → Lane × Flags) : State :=
  let fl := Flags.union ((List.range 64).map (fun i => if (s.cx.rp p).getLsbD i then (f i).2 else Flags.none))
  s.gains lat { Result.base with
    dest := .v vd, val := ofLanes ((List.range 64).map (fun i => (f i).1)), mask := s.cx.rp p, flags := fl,
    mayFlag := mayFlag, fpx := if (fl.and (fpcEnables s.cx.ctl.fpc)).any then some fl else none }

/-- The value of a vector operand: its register, or the broadcast port in every lane (R217). -/
def State.operandV (s : State) : VOpd → VecWord
  | .reg r => s.cx.rv r
  | .port => ofLanes (List.replicate 64 ((s.env.port.getD 0).setWidth 32))

/-- The value of a scalar operand: its register, or the broadcast port (R217). -/
def State.operandS (s : State) : SOpd → Word
  | .reg r => s.cx.rs r
  | .port => s.env.port.getD 0

/-- A value loaded from memory: it is late unless the access is static, and carries its poison, which inside a containment
region unwinds the bundle instead (R95, R252, R272, R451). -/
def State.gainsLoad (s : State) (lat : Nat) (d : Dest) (v : VecWord) (static poison : Bool) : State :=
  if poison = true ∧ s.cx.cregs ≠ [] then
    (s.mapCx (fun x => { x with unwind := some (x.unwind.getD s.env.pc) })).gains lat
      { Result.base with dest := d, val := v, arrived := static }
  else s.gains lat { Result.base with dest := d, val := v, arrived := static, preg := poison }

/-- The partition of the issuing context has no trace ring: no trace record is written (R510, R511). -/
def State.untraced (s : State) : Prop := (s.partOf (s.ctxPart s.env.cid)).trace = none

/-- The issuing context after a taken branch: two delay slots, then the target (R104). -/
def State.branches (s : State) (target : Word) : State :=
  s.mapCx (fun x => { x with flow := { x.flow with dsl := 2, dst := target } })

/-- A bundle address one segment distance and an index away (R224, R238). -/
def branchTarget (pc : Word) (distance : Int) (index : BitVec 8) : Word :=
  BitVec.ofInt 64 (((pc.toNat / 256 + distance) % 2 ^ 56) * 256 + index.toNat)

/-- A trap of the bundle's own instruction: the bundle takes no effect, the handler is entered (R220, R444). -/
def State.traps (s : State) (i : Instr) (c : Cause) (det : BitVec 32) (far : Word) : State :=
  s.raise (slotMask i s.env.pos.toNat) ⟨c, det, far⟩

/-- The M-slot access of n bytes passes the checks of R269 on the storage tc, none of which is out of service. -/
def State.reaches (s : State) (sp : Space) (a : Access) (va : Word) (n align : Nat) (tc : List Touch) : Prop :=
  s.frameOut sp va = false ∧ s.checkAccess sp a 0 1 va n align = .ok tc ∧ tc.any (·.away) = false

/-- The single accesses of a strided or indexed instruction pass the checks of R269 and R274 on the storage tc. -/
def State.reachesLanes (s : State) (sp : Space) (a : Access) (vas : List Word) (n : Nat) (tc : List Touch) : Prop :=
  vas.any (s.frameOut sp) = false ∧ s.checkLanes sp a 1 n vas = .ok tc

/-- The ring operand passes the checks of R133 to R136 for n bytes, its storage is in service, and it is satisfied. -/
def State.reachesRing (s : State) (a : Access) (r : RingOpd) (n : Nat) : Prop :=
  ∃ tc, s.checkRing r.h r.n.toNat n 1 a 0 = .ok tc ∧ tc.any (·.away) = false ∧
    s.ringReady r.h r.producer r.n.toNat = true

/-- The state in which an access acts on the storage of its checks: the errors of what it reads have been found (R148). -/
def State.reading (s : State) (a : Access) (va : Word) (tc : List Touch) : State := s.accessed a va (piecesOf tc)

/-- The same for an access through a ring operand, named by the window address of its first slot (R133, R148). -/
def State.readingRing (s : State) (a : Access) (r : RingOpd) (n : Nat) : State :=
  let ps := s.ringPieces r.h r.producer n
  s.accessed a (BitVec.ofNat 64 (windowVa ((ps.head?.map (·.key)).getD 0))) ps

/-- What an access of n bytes leaves behind beside its effect: the marks of HOST pages on its results, and the translations of its
pages in the caches, unless its bundle has been held or has trapped (R436, R493). -/
def State.accessDone (s : State) (sp : Space) (va : Word) (n : Nat) (tc : List Touch) (t : State) : State :=
  (t.markHost tc s.cx.nextRid).noteIssue s sp va n

/-- The same for the accesses of a strided or indexed instruction, of n bytes each. -/
def State.lanesDone (s : State) (sp : Space) (vas : List Word) (n : Nat) (tc : List Touch) (t : State) : State :=
  vas.foldl (fun u va => u.noteIssue s sp va n) (t.markHost tc s.cx.nextRid)

/-- The registers of a context that programs see between bundles are those it had: scalars, vectors, predicates,
accumulators, handles, control and trap registers (R14, R222, R235). -/
def Ctx.sameRegisters (x y : Ctx) : Prop :=
  y.s = x.s ∧ y.v = x.v ∧ y.p = x.p ∧ y.acc = x.acc ∧ y.h = x.h ∧ y.ctl = x.ctl ∧ y.trap = x.trap ∧
  y.shadow = x.shadow ∧ y.level = x.level ∧ y.ctm = x.ctm

/-- What an access leaves behind beside its effect touches no register, no slip buffer, no core, and, where no unit of storage holds an error for
the walks of its pages to find, no byte and no mark of poison (R148, R436, R493). -/
def State.leavesAlone (t u : State) : Prop :=
  (∀ c, (t.ctx c).sameRegisters (u.ctx c) ∧ (u.ctx c).slip = (t.ctx c).slip) ∧ u.cores = t.cores ∧
  (t.damaged = [] → u.mem = t.mem ∧ u.poison = t.poison)

/-- A status register and WST at the end of an M-slot wait (R119, R270). -/
def State.endsWait (s : State) (d : SReg) (st : WaitSt) : State :=
  (s.gainsWord 6 d (BitVec.ofNat 64 st.code)).gainsValue 6 .wait (ofWord (wstBits st 0 s.env.pos))

/-- A wait under a limit, clamped to DLWMAX, does not end at its first test (R118). -/
def State.mayWait (s : State) (limit : Word) : Prop := 0 < min limit.toNat (s.dlwMax s.env.cid).toNat

/-- The instruction has entered its slot's slip buffer as its newest entry, with a wait under the given limit clamped to
DLWMAX, and no byte of memory has changed (R96, R118). -/
def State.waitsUnder (s t : State) (i : Instr) (limit : Word) : Prop :=
  t.mem = s.mem ∧ ∃ e w, t.cx.slip = s.cx.slip ++ [e] ∧ e.slot = s.env.pos ∧ e.ins.instr = i ∧ e.wait = some w ∧
    w.limit.toNat = min limit.toNat (s.dlwMax s.env.cid).toNat

/-- The bytes at a run of storage as a number. -/
def State.valueAt (s : State) (tc : List Touch) : Nat := leNat (s.piecesBytes (piecesOf tc))

/-- No slot has held the bundle or raised a trap so far (R220). -/
def State.unraised (s : State) : Prop := s.env.block = false ∧ s.env.raised = none

/-- The accumulator is granted to the issuing context's task (R317, R320 check 2). -/
def State.hasAcc (s : State) (ac : AReg) : Prop := ∃ t, s.cx.task = some t ∧ ac.toNat < t.nacc

/-- Checks 1, 2 and 4 to 6 of R320 pass: the context holds the banks, the accumulator is granted and of the pair's kind,
and each bank that is read holds the pair's weight format and is ready. -/
def State.streamReady (s : State) (ac : AReg) (p : Pair) (bks : List Bool) : Prop :=
  s.unraised ∧ (s.core s.myCore).holder = some s.env.cid.num ∧ s.hasAcc ac ∧
  ((s.cx.ra ac).kind = 0 ∨ (s.cx.ra ac).kind = kindOf p) ∧
  ∀ bk ∈ bks, ((s.core s.myCore).bankAt bk).fmt = some p.weights ∧
    ((s.core s.myCore).bankAt bk).ready.toNat ≤ s.env.ctm.toNat

/-- Everything of an accumulator but its tile, sums, depths and row cursor: SEQ has counted one instruction, KIND is set,
and the instruction is the newest in flight (R99, R317). -/
def Acc.streamed (a b : Acc) (kind : BitVec 2) (due : Word) : Prop :=
  b.seq = a.seq + 1 ∧ b.kind = kind ∧ b.dc = a.dc ∧ b.flight.getLast? = some (a.seq + 1, due)

/-- Registers, memory and the other accumulators stand as they were. -/
def State.onlyAccumulator (s t : State) (ac : AReg) : Prop :=
  t.mem = s.mem ∧ t.cx.s = s.cx.s ∧ t.cx.v = s.cx.v ∧ t.cx.p = s.cx.p ∧ ∀ b, b ≠ ac → t.cx.ra b = s.cx.ra b

/-- No reduction of an exact-mode phase is on its way or buffered anywhere (R173). -/
def State.noReductions (s : State) : Prop := s.reds = []

/-- An element of a format extended to 64 bits: i8, i16 and i32 by sign, every other by zero (R272). -/
def extended (f : Fmt) (v : Nat) : Word :=
  match f with
  | .i8 => (BitVec.ofNat 8 v).signExtend 64
  | .i16 => (BitVec.ofNat 16 v).signExtend 64
  | .i32 => (BitVec.ofNat 32 v).signExtend 64
  | _ => BitVec.ofNat 64 v

/-! ## The certified tables of the relaxation unit (R74) -/

/-- An exact value is at most a real number. -/
def Num.atMost : Num → ℝ → Prop
  | .nan, _ => False
  | .inf neg, _ => neg = true
  | .fin neg m e, r => (if neg then -1 else 1) * (m : ℝ) * (2 : ℝ) ^ e ≤ r

/-- An exact value is at least a real number. -/
def Num.atLeast : Num → ℝ → Prop
  | .nan, _ => False
  | .inf neg, _ => neg = false
  | .fin neg m e, r => r ≤ (if neg then -1 else 1) * (m : ℝ) * (2 : ℝ) ^ e

/-- The real function that a certified table stands for (R69, R313). -/
def certFnIs (c : Config.CertFn) (f : ℝ → ℝ) : Prop :=
  match c with
  | .gelu => ∀ x, f x = x * ((Real.sqrt (2 * Real.pi))⁻¹ * ∫ t in Set.Iic x, Real.exp (-(t ^ 2) / 2))
  | .silu => ∀ x, f x = x / (1 + Real.exp (-x))
  | .tanh => ∀ x, f x = Real.tanh x
  | .sigm => ∀ x, f x = 1 / (1 + Real.exp (-x))
  | .exp => ∀ x, f x = Real.exp x

/-- What R74 says of the certified tables: at every FP32 value x the first contains f(x) and f'(x), and over every interval
the second bounds |f''|. The tables themselves are open (notes/assumptions/4.md), so a claim about the error that delta
bounds takes this as its premise. -/
def certTablesSound : Prop :=
  ∀ (c : Config.CertFn) (f : ℝ → ℝ), certFnIs c f → ∀ (x : Lane) (r : ℝ), (f32 x).atMost r → (f32 x).atLeast r →
    ((f32 (Config.certF c x).1).atMost (f r) ∧ (f32 (Config.certF c x).2).atLeast (f r)) ∧
    ((f32 (Config.certF' c x).1).atMost (deriv f r) ∧ (f32 (Config.certF' c x).2).atLeast (deriv f r)) ∧
    ∀ (y : Lane) (q : ℝ), (f32 y).atMost q → (f32 y).atLeast q →
      ∀ t, r ≤ t → t ≤ q → (f32 (Config.certM2 c x y)).atLeast |deriv (deriv f) t|

/-- A byte lies outside some pieces of storage. -/
def outsidePieces (l : List Piece) (k : Nat) : Prop := ∀ p ∈ l, k < p.key ∨ p.key + p.len ≤ k

/-- A byte lies outside every range that a list of global writes reaches. -/
def State.beyondWrites (s : State) (part cls : BitVec 4) (ws : List (Word × List Byte)) (k : Nat) : Prop :=
  ∀ w ∈ ws, ∀ ps, s.globalPieces part cls .write w.1 w.2.length = some ps → outsidePieces ps k

/-- A byte lies outside the destination and the event object of a post. -/
def State.beyondPost (s : State) (p : Post) (k : Nat) : Prop :=
  (∀ ps, writesDst p.block p.rank = true →
    s.globalPieces p.part 2 .write (blkAddr p.block 0x18) (dstBytes p.block p.entries.length) = some ps →
    outsidePieces ps k) ∧
  outsidePieces [⟨p.event, 16⟩] k

/-- A running post has ended at its member: its status and reason stand, the contributions of its instance are gone, and
memory has changed in its destination and its event object alone, where no error of the object has been found (R148, R366,
R368). -/
def State.postEnds (s t : State) (p : Post) (st : PostSt) (rsn : BitVec 3) : Prop :=
  (∃ done : List Nat, t.posts = s.posts.map (fun q =>
    if q.id = p.id then { q with st := st, rsn := rsn, done := q.done ++ done } else q)) ∧
  t.contribs = s.contribs.filter (fun c => !(c.die == p.die && c.gid == p.gid && c.inst == p.inst)) ∧
  (s.undamaged [⟨p.event, 16⟩] → ∀ k, s.beyondPost p k → memRead t.mem k = memRead s.mem k)

/-- No launch of a partition is held or awaits a verdict: the tests after a change of its queues find nothing (R415, R456). -/
def State.quiet (s : State) (p : BitVec 4) : Prop := ∀ l ∈ s.launches, l.part = p → l.st ≠ .held ∧ l.st ≠ .digest

/-- No engine thread belongs to a launch (R161, R429). -/
def State.threadless (s : State) (launch : Nat) : Prop :=
  (∀ k ∈ s.copies, k.launch ≠ launch) ∧ (∀ k ∈ s.conds, k.launch ≠ launch) ∧ (∀ k ∈ s.posts, k.launch ≠ launch) ∧
  (∀ k ∈ s.reds, k.launch ≠ launch) ∧ ∀ k ∈ s.phases, k.launch ≠ launch

/-- The launches of s with those of a number ended with a status (R414). -/
def State.withEnded (s : State) (id : Nat) (st : Rstat) : List Launch :=
  s.launches.map (fun x =>
    if x.id = id then { x with st := .ended, rstat := BitVec.ofNat 32 st.code, boost := 0, waitingSince := none } else x)

/-- Every context that ran a task of a launch is empty, but for its record of WESC, and every other is as it was (R429, R430). -/
def State.vacates (s t : State) (launch : Nat) : Prop :=
  ∀ c, t.ctx c =
    (match (s.ctx c).task with
     | some k => if k.launch = launch then (s.ctx c).vacated else s.ctx c
     | none => s.ctx c)

/-- A flit of a kind stands at a trained port of a porch that is up, and is the next in order (R494). -/
def State.takesFlit (s : State) (port kind : BitVec 4) (f : Flit) (x : Port) : Prop :=
  s.portAt port.toNat = some x ∧ s.porch.up = true ∧ x.trained = true ∧ f.kind = kind ∧ f.seq = x.rxSeq

/-- The port has received one flit more, and nothing else has changed (R494). -/
def State.advanced (s : State) (port : BitVec 4) : State :=
  s.mapPort port.toNat (fun y => { y with rxSeq := y.rxSeq + 1 })

/-- A flit of a transfer for this chip has been filed; the last one ends the transfer, and where its payload stands for a send
that the table of its queue permits, that entry is on its way to its queue, with the poison of its flits (R349, R352, R487,
R494). -/
def State.filed (s t : State) (f : Flit) : Prop :=
  let inbox := s.porch.inbox ++ [f]
  let l := inbox.filter (fun g => g.schip == f.schip && g.tag == f.tag && g.vc == f.vc)
  let what := Config.transferSend f.schip (l.map (·.pay))
  let part := Config.requestPart f.schip ((l.head?.map (·.pay)).getD 0)
  t.mem = s.mem ∧ t.ctxs = s.ctxs ∧
  (f.last = false → t.porch.inbox = inbox ∧ t.sends = s.sends) ∧
  (f.last = true → t.porch.inbox = inbox.filter (fun g => !l.contains g) ∧
    (what = none → t.sends = s.sends) ∧
    ∀ launch pidx q val, what = some (launch, pidx, q, val) →
      (s.arrivalPermitted part launch pidx q = false → t.sends = s.sends) ∧
      (s.arrivalPermitted part launch pidx q = true →
        ∃ x : Send, t.sends = s.sends ++ [x] ∧ x.chip = s.chip ∧ x.part = part ∧ x.q = q ∧ x.val = val ∧
          x.poison = l.any (·.psn) ∧ x.origin = some (f.vc, f.schip, f.tag) ∧
          ∀ c n, s.placedAt launch pidx = some (c, n) → x.dest = c ∧ x.dserial = n))

/-- A mailbox command has answered with bytes: in its buffer, as many as it holds, and to the host; no other byte and no
context has changed (R507). -/
def State.replies (s t : State) (bs : List Byte) : Prop :=
  t.hostOut = some (bs, false) :: s.hostOut ∧ t.bytesAt (hostKey s.mgmt.mbarg.toNat) (bs.take 4096).length = bs.take 4096 ∧
  (∀ a, a < hostKey s.mgmt.mbarg.toNat ∨ hostKey s.mgmt.mbarg.toNat + (bs.take 4096).length ≤ a →
    memRead t.mem a = memRead s.mem a) ∧
  t.ctxs = s.ctxs ∧ t.mgmt = { s.mgmt with busy := false, mst := 0, mseq := s.mgmt.mseq + 1 }

/-- Every byte outside a run of n bytes from a key reads in t as in s. -/
def sameOutside (s t : State) (key n : Nat) : Prop :=
  ∀ a, a < key ∨ key + n ≤ a → memRead t.mem a = memRead s.mem a

/-- Every byte of memory reads in t as in s. -/
def sameMemory (s t : State) : Prop := ∀ a, memRead t.mem a = memRead s.mem a

/-- The context has no granule of an earlier wide access still to perform: so it stands when an instruction with a place in the
total order executes (R154). -/
def State.settled (s : State) : Prop := ∀ l ∈ s.late, l.cid ≠ s.env.cid

/-- A wide store of the issuing context: each unit of a size in bytes holds in t what it held or what is stored, all of them
what is stored once the context's last accesses are performed, and no byte outside the storage changes (R154). -/
def State.storesWide (s t : State) (size : Nat) (ps : List Piece) (bs : List Byte) : Prop :=
  (∀ k, memRead (t.settle s.env.cid).mem k = memRead (s.putPieces ps bs).mem k) ∧
  (∀ g, (∀ k, k / size = g → memRead t.mem k = memRead s.mem k) ∨
    ∀ k, k / size = g → memRead t.mem k = memRead (s.putPieces ps bs).mem k) ∧
  ∀ k, outsidePieces ps k → memRead t.mem k = memRead s.mem k

/-- An entry with a destination word and a value has left the port: toward a queue of this chip, or of a chip with a route, it
is on its way; one for a chip without a route has ended. Nothing else that programs see has changed (R350, R354, R497). -/
def State.leaves (s t : State) (w : Word) (val : VecWord) : Prop :=
  t.mem = s.mem ∧ t.ctxs = s.ctxs ∧ t.cores = s.cores ∧ s.nextId < t.nextId ∧
  (w.setWidth 6 ≠ s.chip → s.routeMask (w.setWidth 6) = 0 → t.sends = s.sends) ∧
  (w.setWidth 6 = s.chip ∨ s.routeMask (w.setWidth 6) ≠ 0 →
    ∃ x : Send, t.sends = s.sends ++ [x] ∧ x.id = s.nextId ∧ x.cid = s.env.cid ∧ x.chip = w.setWidth 6 ∧
      x.q = w.extractLsb' 17 3 ∧ x.val = val ∧ x.poison = false ∧ x.origin = none ∧
      ∀ c n, w.setWidth 6 = s.chip →
        s.placedAt ((s.cx.task.map (·.launch)).getD 0) (w.extractLsb' 6 11).toNat = some (c, n) →
        x.dest = c ∧ x.dserial = n)

/-- Everything but the contexts is in t as in s, and so is every context but one. -/
def onlyContext (s t : State) (c : CtxId) : Prop :=
  (∀ d, d ≠ c → t.ctx d = s.ctx d) ∧ t = { s with ctxs := t.ctxs }

/-- The context runs a task that is alone in its coach, on a core whose turn it is, with nothing pending at the boundary:
the next step fetches its next bundle (R97, R98, R445). -/
def State.standsAtBundle (s : State) (c : CtxId) : Prop :=
  s.stage = none ∧ s.agenda = [] ∧ s.turn = c.core ∧ (s.core c.core).cur = c.num ∧ (s.core c.core).burst < 1024 ∧
  (s.ctx c).run = .running ∧ s.members c = [c] ∧ s.leadOf c = c ∧ s.coachWhole c = true ∧
  (s.ctx c).unwind = none ∧ (s.ctx c).btraps = [] ∧
  (∀ k ∈ s.copies, k.cid ≠ c) ∧ (s.ctx c).slotSlip 0 = []

end Sys2Proof.Machine
end

