-- ==== Sys2Proof/Certificates/Slice0/Obligations.lean ====
section
/-!
DEFINITION. The statements for the provers, one `Obligations.<Name> : Prop` each. A statement that ends in
`exec i s = .next t` says that the instruction completes and gives the whole next state t, its frame included.
-/

open Sys2Proof Sys2Proof.Machine

/-! ## The machine as a whole (spec/04, spec/08) -/

/-- R92, R93, R96 to R98, R219, R220: a step runs the released slip-buffer entry, else the next event of the agenda, else
the next bundle of the context whose turn it is; a bundle of one instruction (with the nop of an idle C slot) runs that
instruction, and then its context advances, waits, or takes the instruction's trap. -/
def Obligations.StepRunsDecodedBundle : Prop :=
  (∀ (s : State) (c : CtxId) (e : SlipEntry), s.engines.tick.stage = some (c, e) →
    step s = exec e.ins.instr { (s.engines.tick.settle c) with stage := none, env := e.env c }) ∧
  (∀ (s : State) (i : Instr) (l : List Instr), s.engines.tick.stage = none → s.engines.tick.agenda = i :: l →
    step s = exec i { s.engines.tick with agenda := l }) ∧
  (∀ (s : State) (c : CtxId) (g : Segment) (b : Bundle) (l : List SlotInstr),
    let v := s.engines.tick
    let u := (({ v with turn := v.turn + 1 } : State).stampReady c.core).settle c
    v.standsAtBundle c → (u.ctx c).unwind = none → (u.ctx c).flow.pastEnd = false → (u.ctx c).loaded (bundleSeg (u.ctx c).flow.pc) = some g →
    g.fault = none → g.bundles[bundleIdx (u.ctx c).flow.pc]? = some b → u.decodeChecked c b = .ok l →
    step s = issueBundle exec c b l u ∧
    (∀ (i : SlotInstr) (t : State), l = [i] ∨ l = [⟨0, none, .nop⟩, i] →
      exec i.instr { u with env := slotEnv (u.bundleEnv c l) i } = .next t →
      (t.env.block = false → t.env.raised = none →
        step s = .next (({ t.commitCtx c (u.ctx c).flow with env := Env.reset } : State).mapCore c.core (fun k =>
          { k with burst := if u.otherReady c then k.burst + 1 else 0 }))) ∧
      (t.env.block = true →
        step s = exec (.contextSwitch c.core) (u.mapCtx c (fun x =>
          { x with flow := { x.flow with waiting := (t.ctx c).flow.waiting, holds := t.env.holds } }))) ∧
      (∀ (cause : Cause) (det : BitVec 32) (far : Word) (m : BitVec 8), t.env.block = false →
        t.env.raised = some (cause, det, far, m) →
        step s = .next (u.enterHandler c ⟨cause, det, (u.ctx c).flow.pc, m, slotCauses m cause, far⟩))))

/-- R206 to R234: words written out from the encoding tables decode to the instructions they stand for. -/
def Obligations.DecodeWords : Prop :=
  ∀ p ∈ ([(.s, [0x01249100#32], .add 9 9 4), (.s, [0x10289000#32], .addi 10 9 0), (.s, [0x30780110#32], .mfc 30 .capn),
      (.s, [0x58109ABC#32, 0xC48D159E#32], .li48 4 0x123456789ABC#48), (.s, [0x32004000#32], .bcast 4),
      (.c, [0x0A000100#32], .gate 0 0 2), (.c, [0x09020A00#32], .lstr 0 4 5), (.c, [0x157DE000#32], .capack 31 30),
      (.c, [0x47000001#32, 0xC0000003#32], .loopi 0 1 3), (.m, [0x012C9041#32], .ld .pm .w64 9 (.reg 2) 1),
      (.m, [0x17871460#32], .baraw .hall 7 (.reg 5) 6), (.m, [0x12100EB8#32], .atom .minw .pm 0 58 56),
      (.m, [0x13C00970#32], .redo .add .glob 37 48), (.m, [0x09A51660#32], .ldfEmpty .hall 10 (.reg 11) 12),
      (.v, [0x01104000#32], .vadd 2 1 (.reg 0) 0), (.v, [0x07314020#32], .vmax 6 5 .port 0),
      (.v, [0x0B5A0022#32], .vxor 11 8 .port 0), (.v, [0x09610022#32], .vcmp .lt 3 1 .port 0),
      (.v, [0x124000C0#32], .vpart 8 3), (.t, [0x04140011#32], .wld true .bf16 (.reg 20)),
      (.t, [0x01506000#32], .mma .bf16 1 8 3 (.reg 0)), (.t, [0x0740A1C0#32], .adrn 1 20 7),
      (.x, [0x01292000#32], .send 5 (.reg 9)), (.x, [0x03304000#32], .recva 6 2), (.x, [0x0830D000#32], .xpost 12 13)]
      : List (SlotClass × List Lane × Instr)),
    decodeWords p.1 p.2.1 = some p.2.2

/-- R207, R211: a word with SEL 00 and major 0 that is not all zeros, a complete word with the major of a wide instruction
and a head with any other major fail decode with ILL at their positions, with their prefix's where it fails as well; a head
at position 2, 5 or 7 is a structural fault; the all-zero word is a NOP. -/
def Obligations.ReservedWordsAreRefused : Prop :=
  let wide : List (SlotClass × BitVec 6) :=
    [(.c, 0x07), (.c, 0x11), (.c, 0x16), (.s, 0x18), (.m, 0x10), (.m, 0x24), (.v, 0x19), (.t, 0x03)]
  (∀ (k : SlotClass) (w : Lane), selOf w = 0 → majOf w = 0 → w ≠ 0 → decodeWords k [w] = none) ∧
  (∀ (k : SlotClass) (w : Lane), selOf w = 0 → (k, majOf w) ∈ wide → decodeWords k [w] = none) ∧
  (∀ (k : SlotClass) (h t : Lane), selOf h = 1 → (k, majOf h) ∉ wide → decodeWords k [h, t] = none) ∧
  (∀ (b : Bundle) (k : Nat), k < 8 →
    (k ≠ 0 → b.word k = 0 → decodeAt b k = .ok none) ∧
    (selOf (b.word k) = 0 → (b.word k ≠ 0 ∨ k = 0) →
      decodeWords (SlotClass.ofPos (BitVec.ofNat 3 k)) [b.word k] = none →
      decodeAt b k = .error (mark k) ∨
      (k ≠ 0 ∧ selOf (b.word (k - 1)) = 2 ∧ decodeAt b k = .error (mark (k - 1) ||| mark k))) ∧
    (selOf (b.word k) = 1 → decodeWords (SlotClass.ofPos (BitVec.ofNat 3 k)) [b.word k, b.word (k + 1)] = none →
      decodeAt b k = .error (mark k ||| mark (k + 1)) ∨
      (k ≠ 0 ∧ selOf (b.word (k - 1)) = 2 ∧
        decodeAt b k = .error (mark (k - 1) ||| (mark k ||| mark (k + 1))))) ∧
    (∀ e : BitVec 8, decodeAt b k = .error e → structureCheck b = none → bcastCheck b = none →
      ∃ m : BitVec 8, decodeBundle b = .error (.ill, m) ∧ e &&& m = e) ∧
    (k = 2 ∨ k = 5 ∨ k = 7 → selOf (b.word k) = 1 → structureCheck b ≠ none)) ∧
  (∀ (b : Bundle) (e : Reject × BitVec 8), structureCheck b = some e → decodeBundle b = .error e) ∧
  (∀ w : Lane, selOf w = w.extractLsb' 30 2 ∧ majOf w = w.extractLsb' 24 6) ∧
  decodeWords .c [0] = some .nop

/-- R206 to R234: every well-formed slot instruction is read back from the words the encoder writes for it, words that
decode are the words of their instruction, and prefixes likewise: no bit of an encoding is dropped or added. -/
def Obligations.DecodeAndEncodeAgree : Prop :=
  (∀ (k : SlotClass) (i : Instr), i.cls = some k → i.wf = true → decodeWords k (encode i) = some i) ∧
  (∀ (k : SlotClass) (ws : List Lane) (i : Instr), decodeWords k ws = some i → encode i = ws ∧ i.cls = some k) ∧
  (∀ p : Prefix, decodePrefix (encodePrefix p) = (p, true)) ∧
  (∀ (w : Lane) (p : Prefix), selOf w = 2 → decodePrefix w = (p, true) → encodePrefix p = w)

/-- R498 to R505: after reset GCC is 0, no context runs a task, no partition is registered, no launch, thread or late fault
exists, and memory lists nothing (what empty memory reads as is the model's choice, notes/assumptions/6.md). -/
def Obligations.ResetState : Prop :=
  State.reset.sound ∧ State.reset.mem = [] ∧ State.reset.gcc = 0 ∧ State.reset.stage = none ∧ State.reset.agenda = [] ∧
  (∀ c, (State.reset.ctx c).run = .idle ∧ (State.reset.ctx c).task = none ∧ (State.reset.ctx c).level = 0 ∧
    (State.reset.ctx c).results = [] ∧ ∀ r, (State.reset.ctx c).rs r = 0) ∧
  (∀ p, (State.reset.partOf p).registered = false) ∧ State.reset.launches = [] ∧ State.reset.rgns = [] ∧
  State.reset.copies = [] ∧ State.reset.posts = [] ∧ State.reset.faults = [] ∧ State.reset.poison = [] ∧
  State.reset.empties = []

/-- The list of bytes that the machine holds stays in its one canonical form under every step, from every state that has
it, so that equal memories stay equal data. -/
def Obligations.MemoryStaysCanonical : Prop :=
  ∀ s s' : State, s.sound → step s = .next s' → s'.sound

/-- No step stops: every instruction and every event answers a next state in every state, since the manual gives each of
them an effect. -/
def Obligations.NoStepStops : Prop :=
  (∀ (i : Instr) (s : State), ∃ t : State, exec i s = .next t) ∧ ∀ s : State, ∃ t : State, step s = .next t

/-- Bytes that are written read back, no other byte changes, the canonical form is kept, and canonical memories that read
alike are equal. -/
def Obligations.MemoryReadsBack : Prop :=
  (∀ (m : List Host.Cell) (a : Nat) (b : Byte), Memory.wf m = true →
    Memory.wf (memWrite m a b) = true ∧ ∀ k, memRead (memWrite m a b) k = if k = a then b else memRead m k) ∧
  (∀ (s : State) (key : Nat) (bs : List Byte), s.sound →
    (s.putBytes key bs).sound ∧ (s.putBytes key bs).bytesAt key bs.length = bs ∧
    sameOutside s (s.putBytes key bs) key bs.length) ∧
  (∀ m n : List Host.Cell, Memory.wf m = true → Memory.wf n = true → (∀ k, memRead m k = memRead n k) → m = n)

/-- R14, R93: of two results for one register the one that is due later, or at the same CTM comes from the higher slot,
takes effect last; a result that is not yet due stays in flight; writes to s0 and p0 are discarded. -/
def Obligations.ResultsTakeEffectInOrder : Prop :=
  (∀ (s : State) (c : CtxId) (a b : Result) (d : SReg),
    let x := s.ctx c
    let y := (s.applyDue c).ctx c
    (x.results = [a, b] ∨ x.results = [b, a]) → a.dest = .s d → b.dest = .s d → a.arrived = true → b.arrived = true →
    a.fpx = none → b.fpx = none → a.due.toNat ≤ x.ctm.toNat → d ≠ 0 →
    (b.due.toNat ≤ x.ctm.toNat → (a.due.toNat < b.due.toNat ∨ (a.due = b.due ∧ a.pos.toNat < b.pos.toNat)) →
      y.results = [] ∧ y.rs d = toWord b.val + b.stride ∧ (∀ q, q ≠ d → y.rs q = x.rs q) ∧ y.v = x.v ∧ y.p = x.p) ∧
    (x.ctm.toNat < b.due.toNat →
      y.results = [b] ∧ y.rs d = toWord a.val + a.stride ∧ (∀ q, q ≠ d → y.rs q = x.rs q) ∧ y.v = x.v ∧ y.p = x.p)) ∧
  (∀ x : Ctx, x.rs 0 = 0 ∧ x.rp 0 = BitVec.allOnes 64 ∧ (∀ w : Word, x.ws 0 w = x ∧ x.wp 0 w = x))

/-- R124, R130, R269: the checks of an access fail in their order: a window address outside its space raises LWIN, a global
one that is not canonical PFLT, then a misaligned one ALIGN, then a failing translation PFLT, then a denied access ACCV;
nothing takes effect. -/
def Obligations.AccessChecksTrapInOrder : Prop :=
  (∀ (s : State) (sp : Space) (ty : Fmt) (d : SReg) (ba : SOpd) (off : BitVec 4) (i : Instr) (a : Access),
    (i, a) ∈ [(Instr.ld sp ty d ba off, Access.read), (.st sp ty d ba off, .write)] →
    s.env.slipped = none → s.needs (SOpd.src ba) = [] →
    let n := (s.accessFmt ty).bytes
    let va := s.operandS ba + BitVec.ofInt 64 (off.toInt * n)
    s.frameOut sp va = false →
    (sp ≠ .glob →
      (s.windowKey sp va n = none → exec i s = .next (s.traps i .lwin 0 va)) ∧
      (∀ k, s.windowKey sp va n = some k →
        (va.toNat % n ≠ 0 → exec i s = .next (s.traps i .align 0 va)) ∧
        (va.toNat % n = 0 → s.windowPermits sp 0 a va k n = false → exec i s = .next (s.traps i .accv 0 va)))) ∧
    (sp = .glob →
      (canonical va = false → exec i s = .next (s.traps i .pflt 4 va)) ∧
      (canonical va = true → va.toNat % n ≠ 0 → exec i s = .next (s.traps i .align 0 va)) ∧
      (canonical va = true → va.toNat % n = 0 → ∀ f, s.translateAll (some s.myCore) (s.ctxPart s.env.cid) a va n = .error f →
        exec i s = .next (s.traps i .pflt f.det f.va)))) ∧
  (∀ (s : State) (sp : Space) (a : Access) (m : BitVec 4) (cls : Nat) (va : Word) (n align : Nat),
    (sp ≠ .glob → s.windowKey sp va n = none → s.checkAccess sp a m cls va n align = .error ⟨.lwin, 0, va⟩) ∧
    (canonical va = false → s.checkAccess .glob a m cls va n align = .error ⟨.pflt, 4, va⟩)) ∧
  (∀ va : Word, canonical va = true ↔ ∀ k, 55 ≤ k → k < 64 → va.getLsbD k = va.getLsbD 63) ∧ Cause.lwin.code = 0x14 ∧
  (∀ (s : State) (va : Word) (n : Nat),
    ((s.windowKey .pm va n).isSome = true ↔ va.toNat < 0x100000 ∧ va.toNat + n ≤ 0x100000) ∧
    ((s.windowKey .hall va n).isSome = true ↔
      0x20000000 ≤ va.toNat ∧ va.toNat < 0x22000000 ∧ va.toNat + n ≤ 0x22000000) ∧
    ((s.windowKey .peer va n).isSome = true ↔
      0x10000000 ≤ va.toNat ∧ va.toNat < 0x14000000 ∧ (va.toNat - 0x10000000) % 0x100000 + n ≤ 0x100000))

/-! ## The scalar slots (spec/09) -/

/-- R257: the integer operations of the scalar slots write the value of the table at latency 1, mul, mulh and mulhw at 3,
and nothing else; they wrap, or under SAT add, sub, mul and addi clamp their exact signed result. -/
def Obligations.ScalarIntegerOperations : Prop :=
  (∀ p ∈ ([(.and, fun x y => x &&& y), (.or, fun x y => x ||| y), (.xor, fun x y => x ^^^ y),
       (.andn, fun x y => x &&& ~~~ y), (.orn, fun x y => x ||| ~~~ y), (.xnor, fun x y => ~~~ (x ^^^ y)),
       (.shl, fun x y => x <<< (y.toNat % 64)), (.shr, fun x y => x >>> (y.toNat % 64)),
       (.sar, fun x y => BitVec.ofInt 64 (x.toInt / 2 ^ (y.toNat % 64))),
       (.rol, fun x y => (x <<< (y.toNat % 64)) ||| (x >>> (64 - y.toNat % 64))),
       (.seq, fun x y => if x = y then 1 else 0), (.sne, fun x y => if x = y then 0 else 1),
       (.slt, fun x y => if x.toInt < y.toInt then 1 else 0), (.sle, fun x y => if x.toInt ≤ y.toInt then 1 else 0),
       (.sltw, fun x y => if x.toNat < y.toNat then 1 else 0), (.slew, fun x y => if x.toNat ≤ y.toNat then 1 else 0),
       (.min, fun x y => BitVec.ofInt 64 (min x.toInt y.toInt)), (.max, fun x y => BitVec.ofInt 64 (max x.toInt y.toInt)),
       (.minw, fun x y => BitVec.ofNat 64 (min x.toNat y.toNat)), (.maxw, fun x y => BitVec.ofNat 64 (max x.toNat y.toNat))]
       : List ((SReg → SReg → SReg → Instr) × (Word → Word → Word))),
     ∀ (s : State) (d a b : SReg), s.issues [.s a, .s b] →
       exec (p.1 d a b) s = .next (s.gainsWord 1 d (p.2 (s.cx.rs a) (s.cx.rs b)))) ∧
  ((∀ p ∈ ([(.andi, fun x i => x &&& i.signExtend 64), (.ori, fun x i => x ||| i.signExtend 64),
       (.xori, fun x i => x ^^^ i.signExtend 64), (.slti, fun x i => if x.toInt < i.toInt then 1 else 0)]
       : List ((SReg → SReg → BitVec 12 → Instr) × (Word → BitVec 12 → Word))),
     ∀ (s : State) (d a : SReg) (i : BitVec 12), s.issues [.s a] →
       exec (p.1 d a i) s = .next (s.gainsWord 1 d (p.2 (s.cx.rs a) i))) ∧
   (∀ p ∈ ([(.shli, fun x n => x <<< n), (.shri, fun x n => x >>> n),
       (.sari, fun x n => BitVec.ofInt 64 (x.toInt / 2 ^ n))]
       : List ((SReg → SReg → BitVec 6 → Instr) × (Word → Nat → Word))),
     ∀ (s : State) (d a : SReg) (n : BitVec 6), s.issues [.s a] →
       exec (p.1 d a n) s = .next (s.gainsWord 1 d (p.2 (s.cx.rs a) n.toNat))) ∧
   (∀ (s : State) (d a b : SReg) (x : BitVec 3), s.issues [.s a, .s b] →
     exec (.lea d a b x) s = .next (s.gainsWord 1 d (s.cx.rs a + s.cx.rs b * BitVec.ofNat 64 (2 ^ x.toNat)))) ∧
   (∀ (s : State) (d a b c : SReg), s.issues [.s a, .s b, .s c] →
     exec (.sel d a b c) s = .next (s.gainsWord 1 d (if s.cx.rs c = 0 then s.cx.rs b else s.cx.rs a)))) ∧
  ((∀ p ∈ ([(.add, 1, fun x y => x + y), (.sub, 1, fun x y => x - y), (.mul, 3, fun x y => x * y)]
       : List ((SReg → SReg → SReg → Instr) × Nat × (∀ {α : Type} [Add α] [Sub α] [Mul α], α → α → α))),
     ∀ (s : State) (d a b : SReg), s.issues [.s a, .s b] →
       exec (p.1 d a b) s = .next (s.gainsWord p.2.1 d
         (if s.env.pfx.sat then
           BitVec.ofInt 64 (max (-2 ^ 63) (min (2 ^ 63 - 1) (p.2.2 (s.cx.rs a).toInt (s.cx.rs b).toInt)))
          else p.2.2 (s.cx.rs a) (s.cx.rs b)))) ∧
   (∀ (s : State) (d a : SReg) (i : BitVec 12), s.issues [.s a] →
     exec (.addi d a i) s = .next (s.gainsWord 1 d
       (if s.env.pfx.sat then BitVec.ofInt 64 (max (-2 ^ 63) (min (2 ^ 63 - 1) ((s.cx.rs a).toInt + i.toInt)))
        else s.cx.rs a + i.signExtend 64))) ∧
   (∀ (s : State) (d a b : SReg), s.issues [.s a, .s b] →
     exec (.mulh d a b) s = .next (s.gainsWord 3 d
       (((s.cx.rs a).signExtend 128 * (s.cx.rs b).signExtend 128).extractLsb' 64 64)) ∧
     exec (.mulhw d a b) s = .next (s.gainsWord 3 d
       (((s.cx.rs a).setWidth 128 * (s.cx.rs b).setWidth 128).extractLsb' 64 64))))

/-- R258, R259: the four divisions, with their two corner cases, occupy the divider of their slot for 20 bundles; popc, clz,
ctz, brev and bswap, said bit by bit, and their words. -/
def Obligations.ScalarDivisionsAndBitCounts : Prop :=
  (∀ (s : State) (d a b : SReg), s.issues [.s a, .s b] → (s.cx.divFree.get s.divider).toNat ≤ s.cx.ctm.toNat →
     let x := s.cx.rs a
     let y := s.cx.rs b
     let busy := s.mapCx (fun c => { c with divFree := c.divFree.set s.divider (c.ctm + 20) })
     exec (.div d a b) s = .next (busy.gainsWord 20 d
       (if y = 0 then BitVec.allOnes 64 else BitVec.ofInt 64 (x.toInt.tdiv y.toInt))) ∧
     exec (.divw d a b) s = .next (busy.gainsWord 20 d (if y = 0 then BitVec.allOnes 64 else x / y)) ∧
     exec (.rem d a b) s = .next (busy.gainsWord 20 d (if y = 0 then x else BitVec.ofInt 64 (x.toInt.tmod y.toInt))) ∧
     exec (.remw d a b) s = .next (busy.gainsWord 20 d (if y = 0 then x else x % y))) ∧
  (∀ (s : State) (d a : SReg), s.issues [.s a] →
     let x := s.cx.rs a
     (∃ w : Word, exec (.popc d a) s = .next (s.gainsWord 1 d w) ∧
       w.toNat = ((List.range 64).map (fun i => (x.extractLsb' i 1).toNat)).sum) ∧
     (∃ w : Word, exec (.clz d a) s = .next (s.gainsWord 1 d w) ∧ w.toNat ≤ 64 ∧
       (∀ i, i < w.toNat → x.getLsbD (63 - i) = false) ∧ (w.toNat < 64 → x.getLsbD (63 - w.toNat) = true)) ∧
     (∃ w : Word, exec (.ctz d a) s = .next (s.gainsWord 1 d w) ∧ w.toNat ≤ 64 ∧
       (∀ i, i < w.toNat → x.getLsbD i = false) ∧ (w.toNat < 64 → x.getLsbD w.toNat = true)) ∧
     (∃ w : Word, exec (.brev d a) s = .next (s.gainsWord 1 d w) ∧ ∀ i, i < 64 → w.getLsbD (63 - i) = x.getLsbD i) ∧
     (∃ w : Word, exec (.bswap d a) s = .next (s.gainsWord 1 d w) ∧
       ∀ i, i < 8 → w.extractLsb' (8 * (7 - i)) 8 = x.extractLsb' (8 * i) 8)) ∧
  (∀ d a : SReg,
     [encode (.popc d a), encode (.clz d a), encode (.ctz d a), encode (.brev d a), encode (.bswap d a)] =
       [0#3, 1, 2, 3, 4].map (fun m => [(0#2 ++ 0x07#6 ++ d ++ a ++ 0#6 ++ m ++ 0#3 : BitVec 32)]))

/-- R260 and R261: bit fields, with their words and the words that fail decode, and constants. -/
def Obligations.ScalarFieldsAndConstants : Prop :=
  (∀ (s : State) (d a : SReg) (pos lm : BitVec 6), s.issues [.s a] → pos.toNat + lm.toNat ≤ 63 →
    exec (.bfx d a pos lm) s =
      .next (s.gainsWord 1 d (BitVec.ofNat 64 ((s.cx.rs a).toNat / 2 ^ pos.toNat % 2 ^ (lm.toNat + 1))))) ∧
  (∀ (s : State) (d a : SReg) (pos lm : BitVec 6), s.issues [.s d, .s a] → pos.toNat + lm.toNat ≤ 63 →
    ∃ w : Word, exec (.bfi d a pos lm) s = .next (s.gainsWord 1 d w) ∧
      ∀ i, i < 64 → w.getLsbD i =
        if pos.toNat ≤ i ∧ i ≤ pos.toNat + lm.toNat then (s.cx.rs a).getLsbD (i - pos.toNat) else (s.cx.rs d).getLsbD i) ∧
  (∀ (d a : SReg) (pos lm : BitVec 6),
    let bfx : Lane := (0#2 ++ 0x08#6 ++ d ++ a ++ pos ++ lm : BitVec 32)
    let bfi : Lane := (0#2 ++ 0x09#6 ++ d ++ a ++ pos ++ lm : BitVec 32)
    decodeWords .s [bfx] = some (.bfx d a pos lm) ∧ decodeWords .s [bfi] = some (.bfi d a pos lm) ∧
    (63 < pos.toNat + lm.toNat → ∀ (b : Bundle) (k : Nat), k = 1 ∨ k = 2 → b.word k = bfx ∨ b.word k = bfi →
      decodeAt b k = .error (mark k) ∨
      (selOf (b.word (k - 1)) = 2 ∧ decodeAt b k = .error (mark (k - 1) ||| mark k)))) ∧
  (∀ (s : State) (d : SReg) (i : BitVec 18), s.issues [] →
    exec (.movi d i) s = .next (s.gainsWord 1 d (BitVec.ofInt 64 i.toInt))) ∧
  (∀ (s : State) (d : SReg) (q : BitVec 2) (i : BitVec 16), s.issues [.s d] →
    ∃ w : Word, exec (.movhi d q i) s = .next (s.gainsWord 1 d w) ∧
      ∀ k : BitVec 2, w.extractLsb' (16 * k.toNat) 16 =
        if k = q then i else (s.cx.rs d).extractLsb' (16 * k.toNat) 16) ∧
  (∀ (s : State) (d : SReg) (i : BitVec 48), s.issues [] →
    exec (.li48 d i) s = .next (s.gainsWord 1 d (BitVec.ofInt 64 i.toInt)))

/-- R262 to R264: scalar floating point rounds under the mode in force and adds its flags; fmin and fmax add none, fcmp
writes 1 or 0. -/
def Obligations.ScalarFloatingPoint : Prop :=
  (∀ p ∈ ([(.fadd, fadd32), (.fsub, fsub32), (.fmul, fmul32)]
      : List ((SReg → SReg → SReg → Instr) × (RMode → Bool → Lane → Lane → Lane × Flags))),
    ∀ (s : State) (d a b : SReg), s.issues [.s a, .s b] →
      let r := p.2 (effMode s.env.pfx s.cx.ctl.fpc) s.env.pfx.sat ((s.cx.rs a).setWidth 32) ((s.cx.rs b).setWidth 32)
      exec (p.1 d a b) s =
        .next (s.gainsFloat 4 (.s d) (ofWord (r.1.setWidth 64)) (BitVec.allOnes 64) r.2)) ∧
  (∀ (s : State) (d a b c : SReg), s.issues [.s a, .s b, .s c] →
    let r := ffma32 (effMode s.env.pfx s.cx.ctl.fpc) s.env.pfx.sat ((s.cx.rs a).setWidth 32) ((s.cx.rs b).setWidth 32)
      ((s.cx.rs c).setWidth 32)
    exec (.ffma d a b c) s = .next (s.gainsFloat 4 (.s d) (ofWord (r.1.setWidth 64)) (BitVec.allOnes 64) r.2)) ∧
  (∀ p ∈ ([(.fmin, fmin32), (.fmax, fmax32)] : List ((SReg → SReg → SReg → Instr) × (Lane → Lane → Lane))),
    ∀ (s : State) (d a b : SReg), s.issues [.s a, .s b] →
      exec (p.1 d a b) s = .next (s.gainsFloat 4 (.s d)
        (ofWord ((p.2 ((s.cx.rs a).setWidth 32) ((s.cx.rs b).setWidth 32)).setWidth 64)) (BitVec.allOnes 64) Flags.none)) ∧
  (∀ (s : State) (cc : CmpOp) (d a b : SReg), s.issues [.s a, .s b] →
    exec (.fcmp cc d a b) s = .next (s.gainsWord 4 d
      (if cmpEval cc ((s.cx.rs a).setWidth 32) ((s.cx.rs b).setWidth 32) then 1 else 0))) ∧
  (∀ (s : State) (d a : SReg) (f g : Fmt), s.issues [.s a] →
    let r := convert f g (effMode s.env.pfx s.cx.ctl.fpc) s.env.pfx.sat (s.cx.rs a)
    exec (.fcvt d a f g) s = .next (s.gainsFloat 3 (.s d) (ofWord r.1) (BitVec.allOnes 64) r.2)) ∧
  (∀ (s : State) (d a b : SReg), s.issues [.s a, .s b] → (s.cx.divFree.get s.divider).toNat ≤ s.cx.ctm.toNat →
    let busy := s.mapCx (fun c => { c with divFree := c.divFree.set s.divider (c.ctm + 16) })
    let m := effMode s.env.pfx s.cx.ctl.fpc
    let q := fdiv32 m s.env.pfx.sat ((s.cx.rs a).setWidth 32) ((s.cx.rs b).setWidth 32)
    let r := fsqrt32 m s.env.pfx.sat ((s.cx.rs a).setWidth 32)
    exec (.fdiv d a b) s = .next (busy.gainsFloat 16 (.s d) (ofWord (q.1.setWidth 64)) (BitVec.allOnes 64) q.2) ∧
    exec (.fsqrt d a) s = .next (busy.gainsFloat 16 (.s d) (ofWord (r.1.setWidth 64)) (BitVec.allOnes 64) r.2))

/-- R265 to R268: mfc and rdclk write the register or clock as it stands at the bundle; mtc writes a value without
reserved bits one bundle later, and for a trap register needs handler privilege; bcast places s[a] on the port. -/
def Obligations.ControlRegistersAndPort : Prop :=
  (∀ (s : State) (d : SReg) (cr : CReg), s.issues [.ctl cr] →
    exec (.mfc d cr) s = .next ((s.gainsWord 1 d (s.ctlValue cr)).joinFlags cr (s.ctlValue cr)) ∧
    (cr ≠ .wfl → exec (.mfc d cr) s = .next (s.gainsWord 1 d (s.ctlValue cr)))) ∧
  (∀ (s : State) (d : SReg),
    (s.issues [.ctl .gcc] → exec (.rdclk d .gcc) s = .next (s.gainsWord 1 d s.gcc)) ∧
    (s.issues [.ctl .ctm] → exec (.rdclk d .ctm) s = .next (s.gainsWord 1 d s.env.ctm)) ∧
    (s.issues [.ctl .dtc] → exec (.rdclk d .dtc) s = .next (s.gainsWord 1 d (s.dtc s.env.cid)))) ∧
  (∀ (s : State) (cr : CReg) (a : SReg), s.issues [.s a] → ctlAdmits cr (s.cx.rs a) = true →
    (s.handlerRights s.env.cid = true ∨ (cr ≠ .tcs ∧ cr ≠ .tad ∧ cr ≠ .sfm ∧ cr ≠ .tvb)) →
    exec (.mtc cr a) s = .next (s.gainsValue 1 (.ctl cr) (ofWord (s.cx.rs a)))) ∧
  (∀ (s : State) (a : SReg), s.issues [.s a] →
    exec (.bcast a) s = .next { s with env := { s.env with port := some (s.cx.rs a) } })

/-! ## The C slot (spec/09) -/

/-- R238, R104: a taken transfer issues two delay slots and goes on at its target; an untaken br leaves two bundles in
which no branch may stand; call writes lk. R103: in a coach the members' ret goes to the lead's lk. No slot of the loop sequencer
stands in the way and no trace ring is set. -/
def Obligations.TransfersOfControl : Prop :=
  (∀ (s : State) (a : SReg) (z : Bool) (sd : BitVec 9) (ix : BitVec 8), s.issues [.s a] → s.untraced →
    let target := branchTarget s.env.pc sd.toInt ix
    let taken := if z then s.cx.rs a = 0 else s.cx.rs a ≠ 0
    (taken → s.branchBreaksLoop target = false →
      exec (.br a z sd ix) s = .next (({ s with env := { s.env with outcome := 1 } } : State).branches target)) ∧
    (¬ taken → exec (.br a z sd ix) s =
      .next (({ s with env := { s.env with outcome := 0 } } : State).mapCx (fun x =>
        { x with flow := { x.flow with shadowSlots := 2 } })))) ∧
  (∀ (s : State) (sd : BitVec 16) (ix : BitVec 8), s.issues [] → s.untraced →
    let target := branchTarget s.env.pc sd.toInt ix
    s.branchBreaksLoop target = false → exec (.jmp sd ix) s = .next (s.branches target)) ∧
  (∀ (s : State) (a : SReg), s.issues [.s a] → s.untraced → s.branchBreaksLoop (s.cx.rs a) = false →
    exec (.jmpr a) s = .next (({ s with env := { s.env with outcome := s.cx.rs a } } : State).branches (s.cx.rs a))) ∧
  (∀ (s : State) (a : BitVec 48), s.issues [] → s.untraced → s.branchBreaksLoop (BitVec.ofInt 64 a.toInt) = false →
    exec (.jmpl a) s = .next (s.branches (BitVec.ofInt 64 a.toInt))) ∧
  (∀ (s : State) (sd : BitVec 16) (ix : BitVec 8), s.issues [] → s.untraced → s.cx.innermost = none →
    let succ := fun a => (s.succ s.env.cid a).1
    exec (.call sd ix) s =
      .next ((s.branches (branchTarget s.env.pc sd.toInt ix)).gainsWord 1 63 (succ (succ (succ s.env.pc))))) ∧
  (∀ (s : State), s.issues [.s 63] → s.untraced → s.cx.innermost = none →
    let lk := s.cx.rs 63
    let lead := s.leadOf s.env.cid
    (lead = s.env.cid → s.members s.env.cid = [s.env.cid] → exec .ret s = .next (s.branches lk)) ∧
    (lead = s.env.cid → ∃ t : State, exec .ret s = .next t ∧ t.mem = s.mem ∧ t.cx = (s.branches lk).cx ∧
      ∀ d, d ≠ s.env.cid →
        t.ctx d = if d ∈ s.members s.env.cid ∧ (s.ctx d).flow.dsl = 2 then
          { s.ctx d with flow := { (s.ctx d).flow with dst := lk } } else s.ctx d) ∧
    (lead ≠ s.env.cid →
      exec .ret s = .next (s.branches (if (s.ctx lead).flow.dsl = 2 then (s.ctx lead).flow.dst else lk)))) ∧
  (∀ (s : State), exec .nop s = .next s)

/-- R106, R241, R242, R243, R244: a level starts with its count and its body's bounds, and a count of 0 goes on after
the body; lstr binds or rebinds a target; lbrk is a taken branch that ends the level; gate marks the slots left out.
R105, R109: a taken branch out of the innermost body, or whose delay slot ends a body, and a call or ret while a
level is active, raise LOOPE; so do a loop that its level or an enclosing body cannot take, lbrk, lstr and gate on an
inactive level, a binding of s0 and a fifth target. -/
def Obligations.LoopLevelsAndTheirRules : Prop :=
  let starts := fun (s t : State) (lv : BitVec 3) (nm : BitVec 12) (n : BitVec 32) =>
    t.mem = s.mem ∧
    (n ≠ 0 →
      let l := t.cx.level? lv
      l.active = true ∧ l.lc = n ∧ l.first = true ∧ l.strides = [] ∧
      l.start = (s.succ s.env.cid s.env.pc).1 ∧
      (l.body.map (fun p => p.hi - p.lo + 1)).sum + l.rest = nm.toNat + 1 ∧
      (l.rest = 0 → l.last = lastOf l.body ∧ l.after = (s.succ s.env.cid l.last).1) ∧
      (∀ k, k ≠ lv → t.cx.level? k = s.cx.level? k) ∧ t.cx.flow = s.cx.flow) ∧
    (n = 0 → t.cx = s.cx ∧ ∃ p, t.env.skip = some p ∧
      let l := s.loopLevel nm 0
      p = if l.rest = 0 then (l.after, l.afterEnd, some l.last) else (l.onward, l.afterEnd, none))
  ((∀ (s : State) (lv : BitVec 3) (nm : BitVec 12) (n : BitVec 16), s.issues [] → lv.toNat < 6 → s.loopOk lv nm = true →
     ∃ t : State, exec (.loopi lv nm n) s = .next t ∧ starts s t lv nm (n.setWidth 32)) ∧
   (∀ (s : State) (lv : BitVec 3) (a : SReg) (nm : BitVec 12), s.issues [.s a] → lv.toNat < 6 → s.loopOk lv nm = true →
     (s.cx.rs a).toNat < 2 ^ 32 →
     ∃ t : State, exec (.loop lv a nm) s = .next t ∧ starts s t lv nm ((s.cx.rs a).setWidth 32)) ∧
   (∀ (s : State) (lv : BitVec 3) (t st : SReg), s.issues [.s st] → (s.cx.level? lv).active = true → t ≠ 0 →
     ((∃ p ∈ (s.cx.level? lv).strides, p.1 = t) ∨ (s.cx.level? lv).strides.length < 4) →
     ∃ u : State, exec (.lstr lv t st) s = .next u ∧ u.mem = s.mem ∧
       (∃ p ∈ (u.cx.level? lv).strides, p = (t, s.cx.rs st)) ∧
       (∀ p ∈ (s.cx.level? lv).strides, p.1 ≠ t → p ∈ (u.cx.level? lv).strides) ∧
       (u.cx.level? lv).strides.length ≤ max 4 (s.cx.level? lv).strides.length ∧
       (∀ k, k ≠ lv → u.cx.level? k = s.cx.level? k)) ∧
   (∀ (s : State) (lv : BitVec 3), s.issues [] → s.untraced → (s.cx.level? lv).active = true →
     exec (.lbrk lv) s = .next ((s.branches (s.cx.level? lv).after).mapCx (fun x =>
       { x with flow := { x.flow with breaking := some lv } }))) ∧
   (∀ (s : State) (lv : BitVec 3) (fm lm : BitVec 7), s.issues [] → (s.cx.level? lv).active = true →
     ∃ t : State, exec (.gate lv fm lm) s = .next t ∧ t.ctxs = s.ctxs ∧ t.mem = s.mem ∧
       ∀ k, k < 7 → t.env.off.getLsbD (k + 1) =
         (s.env.off.getLsbD (k + 1) || (fm.getLsbD k && !(s.cx.level? lv).first) ||
           (lm.getLsbD k && decide ((s.cx.level? lv).lc ≠ 1))))) ∧
  ((∀ (s : State) (sd : BitVec 16) (ix : BitVec 8), s.issues [] →
     (s.branchBreaksLoop (branchTarget s.env.pc sd.toInt ix) = true →
       exec (.jmp sd ix) s = .next (s.traps (.jmp sd ix) .loope 0 0)) ∧
     (s.cx.innermost ≠ none → exec (.call sd ix) s = .next (s.traps (.call sd ix) .loope 0 0))) ∧
   (∀ (s : State), s.issues [.s 63] → s.cx.innermost ≠ none → exec .ret s = .next (s.traps .ret .loope 0 0)) ∧
   (∀ (s : State) (lv : BitVec 3) (nm : BitVec 12) (n : BitVec 16), s.issues [] → s.loopOk lv nm = false →
     exec (.loopi lv nm n) s = .next (s.traps (.loopi lv nm n) .loope 0 0)) ∧
   (∀ (s : State) (lv : BitVec 3) (fm lm : BitVec 7), s.issues [] → (s.cx.level? lv).active = false →
     exec (.lbrk lv) s = .next (s.traps (.lbrk lv) .loope 0 0) ∧
     exec (.gate lv fm lm) s = .next (s.traps (.gate lv fm lm) .loope 0 0)) ∧
   (∀ (s : State) (lv : BitVec 3) (t st : SReg), s.issues [.s st] →
     ((s.cx.level? lv).active = false ∨ t = 0 ∨
       (4 ≤ (s.cx.level? lv).strides.length ∧ ∀ p ∈ (s.cx.level? lv).strides, p.1 ≠ t)) →
     exec (.lstr lv t st) s = .next (s.traps (.lstr lv t st) .loope 0 0)))

/-- R90, R105, R245, R246, R249, R251, R253 to R255: halt, trap, yield, containment regions, and the checks of the C slot.
R216: a mismatch between a duplicate and its original counts against the core. -/
def Obligations.EndingsAndChecks : Prop :=
  (∀ (s : State), s.issues [] →
    (s.delayHitsLast = false →
      exec .halt s = .next (s.mapCx (fun x =>
        { x with flow := { x.flow with dsl := 2, dst := 0, halting := true } }))) ∧
    (s.delayHitsLast = true → exec .halt s = .next (s.traps .halt .loope 0 0)) ∧
    (∀ imm : BitVec 8, exec (.trap imm) s = .next (s.mapCx (fun x =>
      { x with btraps := addBTrap ⟨x.level, .user, s.env.pc, 1, imm.setWidth 32, s.env.ctm⟩ x.btraps }))) ∧
    (s.leadOf s.env.cid = s.env.cid →
      ∃ t : State, exec .yield s = .next t ∧ t.mem = s.mem ∧ t.cx = { s.cx with readySince := some s.nextId } ∧
        (t.core s.myCore).burst = 1024) ∧
    (s.leadOf s.env.cid ≠ s.env.cid → exec .yield s = .next s) ∧
    (∀ a : BitVec 48, s.cx.cregs.length < 4 →
      exec (.cregOpen a) s = .next (s.mapCx (fun x => { x with cregs := ⟨BitVec.ofInt 64 a.toInt, s.env.ctm⟩ :: x.cregs }))) ∧
    (∀ a : BitVec 48, 4 ≤ s.cx.cregs.length → exec (.cregOpen a) s = .next (s.traps (.cregOpen a) .crege 0 0)) ∧
    (s.cx.cregs ≠ [] → exec .cregClose s = .next (s.mapCx (fun x => { x with cregs := x.cregs.tail }))) ∧
    (s.cx.cregs = [] → exec .cregClose s = .next (s.traps .cregClose .crege 0 0))) ∧
  (∀ (s : State) (d a : SReg), s.issues [.s a, .ctl .civ] →
    exec (.chkerr d a) s = .next ((s.gainsWord 1 d s.cx.ctl.civ).gainsValue 1 (.ctl .civ)
      (ofWord (s.cx.ctl.civ &&& ~~~ s.cx.rs a)))) ∧
  (∀ (s : State) (a b : SReg), s.issues [.s a, .s b] →
    (s.cx.rs a = s.cx.rs b → exec (.cmpt a b) s = .next s) ∧
    (s.cx.rs a ≠ s.cx.rs b →
      let u := s.mapCx (fun x => { x with btraps := addBTrap ⟨x.level, .cmpm, s.env.pc, 1, 0, s.env.ctm⟩ x.btraps })
      exec (.cmpt a b) s =
        .next (if isPair (s.cx.makerS a) (s.cx.makerS b) then u.raiseScore .core s.myCore.toNat 64 2 else u))) ∧
  (∀ (s : State) (d a : SReg), s.issues [.s a] →
    let n : BitVec 32 := (s.cx.rs a).setWidth 32
    let seq : BitVec 32 := s.cx.ctl.capn.setWidth 32
    (n.toNat ≤ seq.toNat → ∃ t : State, exec (.capack d a) s = .next (t.gainsWord 1 d 0) ∧ t.mem = s.mem ∧
      t.cx.ack.toNat = max n.toNat s.cx.ack.toNat ∧
      (seq.toNat ≤ t.cx.ack.toNat → t.cx.ackSince = none) ∧
      (t.cx.ack.toNat < seq.toNat → t.cx.ackSince = s.cx.ackSince)) ∧
    (seq.toNat < n.toNat → exec (.capack d a) s = .next (s.gainsWord 1 d 1)))

/-- R115, R118, R119, R248, R250: sleep and waitf end at once when their condition holds and write WST, waitf in its bundle and
sleep, with its status, for the next one; otherwise the context waits, or with a limit of 0 times out. -/
def Obligations.CSlotWaits : Prop :=
  let ended := fun (s : State) (d : SReg) (st : WaitSt) =>
    (s.gainsWord 1 d (BitVec.ofNat 64 st.code)).gainsValue 1 .wait (ofWord (wstBits st 0 s.env.pos))
  (∀ (s : State) (d a b : SReg), s.issues [.s a, .s b] → (s.cx.rs a).getLsbD 63 = false →
    ((s.cx.rs a).toNat ≤ s.gcc.toNat → exec (.sleep d a b) s = .next (ended s d .ok)) ∧
    (s.gcc.toNat < (s.cx.rs a).toNat → s.mayWait (s.cx.rs b) →
      ∃ t : State, exec (.sleep d a b) s = .next t ∧ s.waitsUnder t (.sleep d a b) (s.cx.rs b)) ∧
    (s.gcc.toNat < (s.cx.rs a).toNat → ¬ s.mayWait (s.cx.rs b) →
      exec (.sleep d a b) s = .next (ended s d .timeout))) ∧
  (∀ (s : State) (d a b : SReg) (e : BitVec 6) (r : Ring), s.issuesInOrder (.sleep d a b) [.s a, .s b] →
    let w := s.cx.rs a
    let h : HReg := w.extractLsb' 48 4
    let n := (w.setWidth 13 : BitVec 13).toNat
    w.getLsbD 63 = true → w.extractLsb' 13 34 = 0 → w.extractLsb' 52 11 = 0 → s.ringOf h = some (e, r) →
    n ≤ r.nsl → r.cls.getLsbD 7 = true → r.satisfied (w.getLsbD 47) n = true →
    exec (.sleep d a b) s = .next (ended (s.joinRing 1 h) d .ok)) ∧
  (∀ (s : State), exec (.waitf 0) s = .next s) ∧
  (∀ (s : State) (m : BitVec 8), m ≠ 0 → (s.cx.ctl.wfl.setWidth 8 : BitVec 8) &&& m = m →
    exec (.waitf m) s = .next (((s.mapCx (fun x =>
      { x with ctl := { x.ctl with wfl := x.ctl.wfl &&& ~~~ (m.setWidth 64) } })).joinCopies 1
        (fun k => match k.cmd.flag with | some b => m.getLsbD b.toNat | none => false)).endWait s.env.cid
          (wstBits .ok 0 s.env.pos))) ∧
  (∀ (s : State) (m : BitVec 8), (s.cx.ctl.wfl.setWidth 8 : BitVec 8) &&& m ≠ m →
    let past := s.cx.flow.expired || s.holdPast (s.waitfHold m)
    (past = false →
      exec (.waitf m) s = .next ((s.mapCx (fun x =>
        { x with flow := { x.flow with waiting := some (s.waitfHold m) } })).block Holds.none)) ∧
    (past = true →
      ∃ t : State, exec (.waitf m) s = .next (t.endWait s.env.cid (wstBits .timeout 0 s.env.pos)) ∧
        t = { s with env := t.env } ∧
        ∀ k : BitVec 3, t.env.off.getLsbD k.toNat =
          (s.env.off.getLsbD k.toNat || (decide (k ≠ 0) && m.getLsbD k.toNat && !(s.cx.ctl.wfl.getLsbD k.toNat))))) ∧
  (∀ (s : State) (c : CtxId) (st : WaitSt) (cls : BitVec 8) (slot : Pos), s.ctxRgn c = none →
    ∃ w : Word, s.endWait c (wstBits st cls slot) = s.mapCtx c (fun x => { x with ctl := { x.ctl with wst := w } }) ∧
      w.extractLsb' 0 3 = BitVec.ofNat 3 st.code ∧ w.extractLsb' 8 8 = cls ∧ w.extractLsb' 16 3 = slot ∧
      (w.extractLsb' 24 8).toNat =
        (if st = .ok then 0
         else if st = .timeout ∨ st = .withdrawn ∨ st = .partly then
           min 255 (((s.ctx c).ctl.wst.extractLsb' 24 8).toNat + 1)
         else ((s.ctx c).ctl.wst.extractLsb' 24 8).toNat))

/-! ## The vector slots (spec/11) -/

/-- R301, R302: the vector floating-point operations, lane by lane under the predicate, latency 4. R307: the vector
integer, logic and shift operations, lane by lane under the predicate, latency 2. -/
def Obligations.VectorArithmetic : Prop :=
  ((∀ p ∈ ([(.vadd, fadd32), (.vsub, fsub32), (.vmul, fmul32), (.vmin, fun _ _ x y => (fmin32 x y, Flags.none)),
       (.vmax, fun _ _ x y => (fmax32 x y, Flags.none))]
       : List ((VReg → VReg → VOpd → PReg → Instr) × (RMode → Bool → Lane → Lane → Lane × Flags))),
     ∀ (s : State) (vd va : VReg) (vb : VOpd) (q : PReg), s.issues (.p q :: .v va :: VOpd.src vb) →
       exec (p.1 vd va vb q) s = .next (s.gainsLanes 4 vd q true (fun i =>
         p.2 (effMode s.env.pfx s.cx.ctl.fpc) s.env.pfx.sat (lane (s.cx.rv va) i) (lane (s.operandV vb) i)))) ∧
   (∀ p ∈ ([(.vfma, ffma32), (.vfms, ffms32), (.vabsacc, fun _ _ x y z => ffma32 .ru false (fabs32 x) (fabs32 y) z)]
       : List ((VReg → VReg → VOpd → PReg → Instr) × (RMode → Bool → Lane → Lane → Lane → Lane × Flags))),
     ∀ (s : State) (vd va : VReg) (vb : VOpd) (q : PReg), s.issues (.p q :: .v va :: .v vd :: VOpd.src vb) →
       exec (p.1 vd va vb q) s = .next (s.gainsLanes 4 vd q true (fun i =>
         p.2 (effMode s.env.pfx s.cx.ctl.fpc) s.env.pfx.sat (lane (s.cx.rv va) i) (lane (s.operandV vb) i)
           (lane (s.cx.rv vd) i)))) ∧
   (∀ p ∈ ([(.vabs, fabs32), (.vneg, fneg32)] : List ((VReg → VReg → PReg → Instr) × (Lane → Lane))),
     ∀ (s : State) (vd va : VReg) (q : PReg), s.issues [.p q, .v va] →
       exec (p.1 vd va q) s =
         .next (s.gainsLanes 4 vd q true (fun i => (p.2 (lane (s.cx.rv va) i), Flags.none))))) ∧
  (∀ p ∈ ([(.viadd, fun c x y => if c then BitVec.ofInt 32 (max (-2 ^ 31) (min (2 ^ 31 - 1) (x.toInt + y.toInt))) else x + y),
       (.visub, fun c x y => if c then BitVec.ofInt 32 (max (-2 ^ 31) (min (2 ^ 31 - 1) (x.toInt - y.toInt))) else x - y),
       (.vimul, fun c x y => if c then BitVec.ofInt 32 (max (-2 ^ 31) (min (2 ^ 31 - 1) (x.toInt * y.toInt))) else x * y),
       (.vand, fun _ x y => x &&& y), (.vor, fun _ x y => x ||| y), (.vxor, fun _ x y => x ^^^ y),
       (.vandn, fun _ x y => x &&& ~~~ y), (.vshl, fun _ x y => x <<< (y.toNat % 32)),
       (.vshr, fun _ x y => x >>> (y.toNat % 32)), (.vsar, fun _ x y => BitVec.ofInt 32 (x.toInt / 2 ^ (y.toNat % 32)))]
       : List ((VReg → VReg → VOpd → PReg → Instr) × (Bool → Lane → Lane → Lane))),
     ∀ (s : State) (vd va : VReg) (vb : VOpd) (q : PReg), s.issues (.p q :: .v va :: VOpd.src vb) →
       exec (p.1 vd va vb q) s = .next (s.gainsLanes 2 vd q false (fun i =>
         (p.2 s.env.pfx.sat (lane (s.cx.rv va) i) (lane (s.operandV vb) i), Flags.none))))

/-- R303 to R306, R308: comparisons into predicates, selection, movement and predicate logic. -/
def Obligations.VectorMovesAndPredicates : Prop :=
  (∀ (s : State) (cc : CmpOp) (pd : PReg) (va : VReg) (vb : VOpd) (q : PReg), s.issues (.p q :: .v va :: VOpd.src vb) →
    ∃ w : Word, exec (.vcmp cc pd va vb q) s =
        .next (s.gainsValue (match cc with | .eq | .ne | .lt | .le | .un => 4 | _ => 2) (.p pd) (ofWord w)) ∧
      ∀ i, i < 64 → w.getLsbD i = ((s.cx.rp q).getLsbD i && cmpEval cc (lane (s.cx.rv va) i) (lane (s.operandV vb) i))) ∧
  (∀ (s : State) (vd va : VReg) (vb : VOpd) (q : PReg), s.issues (.p q :: .v va :: VOpd.src vb) →
    ∃ v : VecWord, exec (.vsel vd va vb q) s = .next (s.gainsValue 2 (.v vd) v) ∧
      ∀ i, i < 64 → lane v i = if (s.cx.rp q).getLsbD i then lane (s.cx.rv va) i else lane (s.operandV vb) i) ∧
  (∀ (s : State) (vd va : VReg) (vb : VOpd) (q : PReg), s.issues (.p q :: .v va :: VOpd.src vb) →
    exec (.vperm vd va vb q) s = .next (s.gainsLanes 2 vd q false (fun i =>
      (if (lane (s.operandV vb) i).getLsbD 31 then 0
       else lane (s.cx.rv va) ((lane (s.operandV vb) i).extractLsb' 0 6).toNat, Flags.none)))) ∧
  (∀ (s : State) (vd : VReg) (vb : VOpd) (q : PReg), s.issues (.p q :: VOpd.src vb) →
    exec (.vmov vd vb q) s = .next (s.gainsLanes 2 vd q false (fun i => (lane (s.operandV vb) i, Flags.none))) ∧
    exec (.vidx vd vb q) s =
      .next (s.gainsLanes 2 vd q false (fun i => (lane (s.operandV vb) i + BitVec.ofNat 32 i, Flags.none)))) ∧
  (∀ (s : State) (vd : VReg) (q : PReg), s.issues [.p q] →
    (∃ v : VecWord, exec (.vcnt vd q) s = .next (s.gainsValue 2 (.v vd) v) ∧
      ∀ i, i < 64 → (lane v i).toNat = ((List.range (i + 1)).countP (fun k => (s.cx.rp q).getLsbD k))) ∧
    (∃ v : VecWord, exec (.vpart vd q) s = .next (s.gainsValue 10 (.v vd) v) ∧
      lanes v =
        ((List.range 64).filter (fun i => (s.cx.rp q).getLsbD i)).map (BitVec.ofNat 32) ++
        ((List.range 64).filter (fun i => !(s.cx.rp q).getLsbD i)).map (fun i => BitVec.ofNat 32 (2 ^ 31 + i)))) ∧
  (∀ (s : State) (pd pa pb : PReg), s.issues [.p pa, .p pb] →
    exec (.pand pd pa pb) s = .next (s.gainsValue 2 (.p pd) (ofWord (s.cx.rp pa &&& s.cx.rp pb))) ∧
    exec (.por pd pa pb) s = .next (s.gainsValue 2 (.p pd) (ofWord (s.cx.rp pa ||| s.cx.rp pb))) ∧
    exec (.pxor pd pa pb) s = .next (s.gainsValue 2 (.p pd) (ofWord (s.cx.rp pa ^^^ s.cx.rp pb)))) ∧
  (∀ (s : State) (pd pa : PReg), s.issues [.p pa] →
    exec (.pnot pd pa) s = .next (s.gainsValue 2 (.p pd) (ofWord (~~~ s.cx.rp pa))))

/-- R309 to R315: conversions, the quantiser, reductions, functions and the compare of duplicates. -/
def Obligations.VectorConversionsAndReductions : Prop :=
  (∀ (s : State) (vd va : VReg) (dst : Fmt) (q : PReg), s.issues [.p q, .v va] →
    let src := if s.env.pfx.fe then (Fmt.ofCode s.env.pfx.fmt).getD .fp32 else .fp32
    exec (.vcvt vd va dst q) s = .next (s.gainsLanes 6 vd q true (fun i =>
      let r := convert src dst (effMode s.env.pfx s.cx.ctl.fpc) s.env.pfx.sat ((lane (s.cx.rv va) i).setWidth 64)
      (r.1.setWidth 32, r.2)))) ∧
  (∀ (s : State) (f : VFun) (vd va : VReg) (q : PReg), s.issues [.p q, .v va] →
    exec (.vfn f vd va q) s =
      .next (s.gainsLanes 12 vd q true (fun i => vfnLane f s.env.pfx.sat (lane (s.cx.rv va) i)))) ∧
  (∀ (s : State) (vd va : VReg) (vb : VOpd) (q : PReg), s.issues (.p q :: .v va :: VOpd.src vb) →
    let act := (List.range 64).map (fun i => (s.cx.rp q).getLsbD i)
    let block := fun k => quantLanes s.quantForm ((act.drop (32 * k)).take 32)
      (((lanes (s.cx.rv va)).drop (32 * k)).take 32) (lane (s.operandV vb) (32 * k))
    exec (.vqnt vd va vb q) s = .next (s.gainsLanes 6 vd q true (fun i =>
      ((block (i / 32))[i % 32]?).getD (0, Flags.none))) ∧
    exec (.vdqnt vd va vb q) s = .next (s.gainsLanes 6 vd q true (fun i =>
      let e := ctlWord (lane (s.operandV vb) (32 * (i / 32)))
      let r := dequant s.quantForm (effMode s.env.pfx s.cx.ctl.fpc) s.env.pfx.sat e.1.1 e.2
        ((lane (s.cx.rv va) i).setWidth 8)
      (BitVec.ofNat 32 r.1, r.2.or (Flags.invIf e.1.2))))) ∧
  (∀ (s : State) (op : RedOp) (vd va : VReg) (q : PReg), s.issues [.p q, .v va] →
    let r := redValue op (effMode s.env.pfx s.cx.ctl.fpc) s.env.pfx.sat (s.cx.rp q) (s.cx.rv va)
    exec (.vred op vd va q) s =
      .next (s.gainsFloat 8 (.v vd) (ofLanes (List.replicate 64 r.1)) (BitVec.allOnes 64) r.2)) ∧
  (∀ (s : State) (va : VReg) (vb : VOpd), s.issues (.v va :: VOpd.src vb) →
    (s.cx.rv va = s.operandV vb → exec (.vcmpt va vb) s = .next s) ∧
    (s.cx.rv va ≠ s.operandV vb → ∃ t : State, exec (.vcmpt va vb) s = .next t ∧ t.mem = s.mem ∧
      (let trap : BTrap := ⟨s.cx.level, .cmpm, s.env.pc, 1#8 <<< s.env.pos.toNat, s.env.pos.setWidth 32, s.env.ctm⟩
       t.cx = { s.cx with btraps := addBTrap trap s.cx.btraps })))

/-! ## The M slot (spec/10): accesses -/

/-- R269, R272, R451: ld writes the extended element of memory; poison is marked on the result, or inside a containment
region unwinds it. R273, R274: the vector loads, whole, strided and gathered, whose granules may be read at two times
(R154). The errors of what they read are found first (R148). -/
def Obligations.LoadsFromMemory : Prop :=
  (∀ (s : State) (sp : Space) (ty : Fmt) (d : SReg) (ba : SOpd) (off : BitVec 4) (tc : List Touch),
     s.issuesInOrder (.ld sp ty d ba off) (SOpd.src ba) →
     let f := s.accessFmt ty
     let va := s.operandS ba + BitVec.ofInt 64 (off.toInt * f.bytes)
     let u := s.reading .read va tc
     s.reaches sp .read va f.bytes f.bytes tc → u.valueAt tc < 2 ^ (8 * f.bytes) →
     exec (.ld sp ty d ba off) s = .next (s.accessDone sp va f.bytes tc
       (u.gainsLoad 6 (.s d) (ofWord (extended f (u.valueAt tc))) (sp == .pm) (u.piecesPoisoned (piecesOf tc))))) ∧
  ((∀ (s : State) (sp : Space) (ty : Fmt) (vd : VReg) (ba : SOpd) (off : BitVec 5) (tc : List Touch),
     s.issuesInOrder (.vld sp ty vd ba off) (SOpd.src ba) →
     let f := s.accessFmt ty
     let va := s.operandS ba + BitVec.ofInt 64 (off.toInt * 256)
     let u := s.reading .read va tc
     s.reaches sp .read va (64 * f.bytes) 8 tc →
     ∃ v : VecWord, exec (.vld sp ty vd ba off) s = .next (s.accessDone sp va (64 * f.bytes) tc
         ((u.gainsLoad 8 (.v vd) v (sp == .pm) (u.piecesPoisoned (piecesOf tc))).readWide s.cx.nextRid 8 va f
           (laneKeys f.bytes (piecesOf tc)))) ∧
       ∀ i, i < 64 →
         lane v i = extLane f (leNat (((u.piecesBytes (piecesOf tc)).drop (i * f.bytes)).take f.bytes))) ∧
   (∀ (s : State) (sp : Space) (ty : Fmt) (vd : VReg) (ba : SOpd) (sr : SReg) (tc : List Touch),
     s.issuesInOrder (.vlds sp ty vd ba sr) (.s sr :: SOpd.src ba) →
     let f := s.accessFmt ty
     let vas := (List.range 64).map (fun i => s.operandS ba + BitVec.ofNat 64 i * s.cx.rs sr)
     let u := s.reading .read (vas.headD 0) tc
     let lanes' := (List.range 64).zip tc
     s.reachesLanes sp .read vas f.bytes tc →
     ∃ v : VecWord, exec (.vlds sp ty vd ba sr) s = .next (s.lanesDone sp vas f.bytes tc
         ((u.gainsLoad 8 (.v vd) v (sp == .pm) (u.piecesPoisoned (piecesOf (lanes'.map (·.2))))).readWide s.cx.nextRid
           f.bytes (s.operandS ba) f (lanes'.map (fun p => (p.1, p.2.key))))) ∧
       ∀ i t, i < 64 → tc[i]? = some t → lane v i = extLane f (u.natAt t.key t.len)) ∧
   (∀ (s : State) (sp : Space) (ty : Fmt) (vd vi : VReg) (ba : SOpd) (tc : List Touch),
     s.issuesInOrder (.gath sp ty vd vi ba) (.v vi :: SOpd.src ba) →
     let f := s.accessFmt ty
     let on := fun i => !(lane (s.cx.rv vi) i).getLsbD 31
     let vas := ((List.range 64).filter on).map (fun i =>
       s.operandS ba + (lane (s.cx.rv vi) i).signExtend 64 * BitVec.ofNat 64 f.bytes)
     let u := s.reading .read (vas.headD 0) tc
     let lanes' := ((List.range 64).filter on).zip tc
     s.reachesLanes sp .read vas f.bytes tc →
     ∃ v : VecWord, exec (.gath sp ty vd vi ba) s = .next (s.lanesDone sp vas f.bytes tc
         ((u.gainsLoad 8 (.v vd) v (sp == .pm) (u.piecesPoisoned (piecesOf (lanes'.map (·.2))))).readWide s.cx.nextRid
           f.bytes (vas.headD 0) f (lanes'.map (fun p => (p.1, p.2.key))))) ∧
       ∀ i, i < 64 →
         (on i = false → lane v i = 0) ∧
         (∀ t, on i = true → tc[(List.range i).countP on]? = some t → lane v i = extLane f (u.natAt t.key t.len))))

/-- R272, R273: st and vst store the low bytes of their operand over the storage that the checks fixed, lane 0 lowest, and
leave every other byte and every register alone. R274: vsts and scat store element by element, the highest of the lanes that
name one element last, and no byte outside the elements changes. R154: the granules or elements of a wide store are written
each whole, some of them later. R275: pref does nothing. R148, R436: what an access leaves behind beside its effect, the
translations of its pages and the errors that their walks meet, touches nothing else. -/
def Obligations.StoresAndTheirFrame : Prop :=
  let frame := fun (s t : State) =>
    t.cx.s = s.cx.s ∧ t.cx.v = s.cx.v ∧ t.cx.p = s.cx.p ∧ t.cx.acc = s.cx.acc ∧ t.cx.h = s.cx.h ∧ t.cx.trap = s.cx.trap ∧
    t.cx.results = s.cx.results ∧ t.cores = s.cores
  ((∀ (s : State) (sp : Space) (ty : Fmt) (a : SReg) (ba : SOpd) (off : BitVec 4) (tc : List Touch), s.sound →
     s.issuesInOrder (.st sp ty a ba off) (SOpd.src ba ++ [.s a]) →
     let f := s.accessFmt ty
     let va := s.operandS ba + BitVec.ofInt 64 (off.toInt * f.bytes)
     s.reaches sp .write va f.bytes f.bytes tc →
     ∃ t : State, exec (.st sp ty a ba off) s = .next (s.accessDone sp va f.bytes tc t) ∧ frame s t ∧
       (∀ k, memRead t.mem k = memRead (s.putPieces (piecesOf tc) (leBytes f.bytes (s.cx.rs a).toNat)).mem k) ∧
       (∀ k, outsidePieces (piecesOf tc) k → memRead t.mem k = memRead s.mem k) ∧
       ∀ key, tc = [⟨true, key, f.bytes⟩] → t.natAt key f.bytes = (s.cx.rs a).toNat % 2 ^ (8 * f.bytes)) ∧
   (∀ (s : State) (sp : Space) (ty : Fmt) (va : VReg) (ba : SOpd) (off : BitVec 5) (tc : List Touch), s.sound →
     s.settled → s.issuesInOrder (.vst sp ty va ba off) (SOpd.src ba ++ [.v va]) →
     let f := s.accessFmt ty
     let ea := s.operandS ba + BitVec.ofInt 64 (off.toInt * 256)
     s.reaches sp .write ea (64 * f.bytes) 8 tc →
     ∃ t : State, exec (.vst sp ty va ba off) s = .next (s.accessDone sp ea (64 * f.bytes) tc t) ∧ frame s t ∧
       s.storesWide t 8 (piecesOf tc) (bytesOfLanes f (s.cx.rv va)) ∧
       ∀ key, tc = [⟨true, key, 64 * f.bytes⟩] → ∀ i, i < 64 →
         (t.settle s.env.cid).natAt (key + i * f.bytes) f.bytes = (lane (s.cx.rv va) i).toNat % 2 ^ (8 * f.bytes))) ∧
  ((∀ (s : State) (sp : Space) (ty : Fmt) (va : VReg) (ba : SOpd) (sr : SReg) (tc : List Touch), s.sound →
     s.settled → s.issuesInOrder (.vsts sp ty va ba sr) (.s sr :: SOpd.src ba ++ [.v va]) →
     let f := s.accessFmt ty
     let vas := (List.range 64).map (fun i => s.operandS ba + BitVec.ofNat 64 i * s.cx.rs sr)
     s.reachesLanes sp .write vas f.bytes tc →
     ∃ t : State, exec (.vsts sp ty va ba sr) s = .next (s.lanesDone sp vas f.bytes tc t) ∧ frame s t ∧
       s.storesWide t f.bytes (piecesOf ((vas.zip tc).map (·.2))) (bytesOfLanes f (s.cx.rv va)) ∧
       ((∀ x ∈ tc, x.len = f.bytes) → ∀ i x, i < 64 → tc[i]? = some x →
         (∀ j y, i < j → j < 64 → tc[j]? = some y → y.key + y.len ≤ x.key ∨ x.key + x.len ≤ y.key) →
         (t.settle s.env.cid).natAt x.key x.len = (lane (s.cx.rv va) i).toNat % 2 ^ (8 * x.len))) ∧
   (∀ (s : State) (sp : Space) (ty : Fmt) (va vi : VReg) (ba : SOpd) (tc : List Touch), s.sound →
     s.settled → s.issuesInOrder (.scat sp ty va vi ba) (.v vi :: SOpd.src ba ++ [.v va]) →
     let f := s.accessFmt ty
     let on := fun i => !(lane (s.cx.rv vi) i).getLsbD 31
     let vas := ((List.range 64).filter on).map (fun i =>
       s.operandS ba + (lane (s.cx.rv vi) i).signExtend 64 * BitVec.ofNat 64 f.bytes)
     let vals := ((List.range 64).filter on).map (lane (s.cx.rv va))
     s.reachesLanes sp .write vas f.bytes tc →
     ∃ t : State, exec (.scat sp ty va vi ba) s = .next (s.lanesDone sp vas f.bytes tc t) ∧ frame s t ∧
       s.storesWide t f.bytes (piecesOf ((vas.zip tc).map (·.2))) (vals.flatMap (fun x => leBytes f.bytes x.toNat)) ∧
       ((∀ x ∈ tc, x.len = f.bytes) → ∀ i x v, tc[i]? = some x → vals[i]? = some v →
         (∀ j y, i < j → j < vals.length → tc[j]? = some y → y.key + y.len ≤ x.key ∨ x.key + x.len ≤ y.key) →
         (t.settle s.env.cid).natAt x.key x.len = v.toNat % 2 ^ (8 * x.len))) ∧
   (∀ (s : State) (hint : BitVec 6) (ba : SOpd) (off : BitVec 4), exec (.pref hint ba off) s = .next s)) ∧
  (∀ (s t : State) (sp : Space) (va : Word) (vas : List Word) (n : Nat) (tc : List Touch),
    t.leavesAlone (s.accessDone sp va n tc t) ∧ t.leavesAlone (s.lanesDone sp vas n tc t))

/-- R163, R276: full and empty words: a full word is taken, an empty one written, a tag read or set, and a change of a tag
tests the waits on it again; otherwise the instruction waits, or with a limit of 0 times out (R118). One that would change a tag
lets the tests of waits that an earlier change has made due come first, so that no wait misses a state that has passed. -/
def Obligations.FullEmptyWords : Prop :=
  (∀ (s : State) (sp : Space) (d : SReg) (ba : SOpd) (lim : SReg) (key : Nat) (i : Instr),
    i = .ldf sp d ba lim ∨ i = .ldfEmpty sp d ba lim → s.issuesInOrder i (.s lim :: SOpd.src ba) →
    let va := s.operandS ba
    let tc : List Touch := [⟨false, key, 8⟩]
    s.reaches sp .read va 8 8 tc →
    let u := s.reading .read va tc
    let word := (u.gainsLoad 6 (.s d) (ofWord (BitVec.ofNat 64 (u.natAt key 8))) (sp == .pm) (u.poisoned key 8)).gainsValue 6
      .wait (ofWord (wstBits .ok 0 s.env.pos))
    let due := i = .ldfEmpty sp d ba lim ∧ u.testsDue key = true
    (u.tagFull key = true → ¬ due →
      exec i s = .next (s.accessDone sp va 8 tc (if i = .ldf sp d ba lim then word else word.changeTag key false))) ∧
    (u.tagFull key = false ∨ due → s.mayWait (s.cx.rs lim) →
      ∃ t : State, exec i s = .next (s.accessDone sp va 8 tc t) ∧ u.waitsUnder t i (s.cx.rs lim)) ∧
    (u.tagFull key = false ∨ due → ¬ s.mayWait (s.cx.rs lim) →
      exec i s = .next (s.accessDone sp va 8 tc (u.gainsValue 6 .wait (ofWord (wstBits .timeout 0 s.env.pos)))))) ∧
  (∀ (s : State) (sp : Space) (a : SReg) (ba : SOpd) (lim : SReg) (key : Nat), s.sound →
    s.issuesInOrder (.ste sp a ba lim) (.s lim :: SOpd.src ba ++ [.s a]) →
    let va := s.operandS ba
    let tc : List Touch := [⟨true, key, 8⟩]
    s.reaches sp .write va 8 8 tc →
    (s.tagFull key = false → s.testsDue key = false →
      let t := ((s.putNat key 8 (s.cx.rs a).toNat).changeTag key true).gainsValue 6 .wait (ofWord (wstBits .ok 0 s.env.pos))
      exec (.ste sp a ba lim) s = .next (s.accessDone sp va 8 tc t) ∧ t.natAt key 8 = (s.cx.rs a).toNat ∧
        sameOutside s t key 8) ∧
    (s.tagFull key = true ∨ s.testsDue key = true → s.mayWait (s.cx.rs lim) →
      ∃ t : State, exec (.ste sp a ba lim) s = .next (s.accessDone sp va 8 tc t) ∧ s.waitsUnder t (.ste sp a ba lim) (s.cx.rs lim)) ∧
    (s.tagFull key = true ∨ s.testsDue key = true → ¬ s.mayWait (s.cx.rs lim) →
      exec (.ste sp a ba lim) s =
        .next (s.accessDone sp va 8 tc (s.gainsValue 6 .wait (ofWord (wstBits .timeout 0 s.env.pos)))))) ∧
  (∀ (s : State) (sp : Space) (d : SReg) (ba : SOpd) (key : Nat), s.issuesInOrder (.fetag sp d ba) (SOpd.src ba) →
    let tc : List Touch := [⟨false, key, 8⟩]
    s.reaches sp .read (s.operandS ba) 8 8 tc →
    let u := s.reading .read (s.operandS ba) tc
    exec (.fetag sp d ba) s = .next (s.accessDone sp (s.operandS ba) 8 tc
      (u.gainsLoad 6 (.s d) (ofWord (if u.tagFull key then 1 else 0)) (sp == .pm) false))) ∧
  (∀ (s : State) (sp : Space) (a : SReg) (ba : SOpd) (key : Nat),
    s.issuesInOrder (.fetagSet sp a ba) (SOpd.src ba ++ [.s a]) →
    let tc : List Touch := [⟨true, key, 8⟩]
    s.reaches sp .write (s.operandS ba) 8 8 tc →
    (s.testsDue key = false → exec (.fetagSet sp a ba) s =
      .next (s.accessDone sp (s.operandS ba) 8 tc (s.changeTag key ((s.cx.rs a).getLsbD 0)))) ∧
    (s.testsDue key = true → ∃ (t : State) (e : SlipEntry),
      exec (.fetagSet sp a ba) s = .next (s.accessDone sp (s.operandS ba) 8 tc t) ∧ t.mem = s.mem ∧ t.empties = s.empties ∧
        t.cx.slip = s.cx.slip ++ [e] ∧ e.ins.instr = .fetagSet sp a ba ∧ e.slot = s.env.pos ∧ e.touch = tc)) ∧
  (∀ (s : State) (key : Nat) (full : Bool),
    let t := s.changeTag key full
    let base := key - key % 8
    t.empties = (if full then keyDel s.empties base else keyAdd s.empties base) ∧ t.mem = s.mem ∧ t.ctxs = s.ctxs ∧
    ∀ (c : CtxId) (e : SlipEntry), e ∈ (s.ctx c).slip → (∃ w, e.wait = some w ∧ w.reader = false) →
      (∃ x ∈ e.touch, x.key = base ∧ 0 < x.len) → Instr.slipBufferRelease c e.slot ∈ t.agenda)

/-- R287 to R289: an arrival counts in ARR and answers its phase; the arrival that fills the target ends the phase; a
wait on a phase that is done, or on a malformed object, ends at once; barinit sets the target of an idle object. R118: a wait
with a limit of 0 ends at its first test, a baraw's arrival withdrawn (R166). R381: an arrival waits until the landings have
accepted the context's reductions. -/
def Obligations.BarrierObjects : Prop :=
  (∀ (s : State) (sp : Space) (d : SReg) (ba : SOpd) (lim : SReg) (key : Nat),
    let va := s.operandS ba
    let tc : List Touch := [⟨true, key, 16⟩]
    let u := s.reading .sync va tc
    let b := u.barrierAt key
    let r := u.barrierArrive key
    s.reaches sp .sync va 16 16 tc →
    (s.issuesInOrder (.bararr sp d ba) (SOpd.src ba) →
      (u.redsAccepted s.env.cid key = true →
        exec (.bararr sp d ba) s = .next (s.accessDone sp va 16 tc
          (if b.malformed then u.gainsWord 6 d (BitVec.allOnes 64) else r.2.gainsWord 6 d (r.1.setWidth 64)))) ∧
      (u.redsAccepted s.env.cid key = false → s.mayWait s.cx.ctl.dlw →
        ∃ t : State, exec (.bararr sp d ba) s = .next (s.accessDone sp va 16 tc t) ∧ u.waitsUnder t (.bararr sp d ba) s.cx.ctl.dlw)) ∧
    (s.issuesInOrder (.baraw sp d ba lim) (.s lim :: SOpd.src ba) →
      (b.malformed = true → exec (.baraw sp d ba lim) s = .next (s.accessDone sp va 16 tc (u.endsWait d .failed))) ∧
      (b.malformed = false → u.redsAccepted s.env.cid key = false →
        (s.mayWait (s.cx.rs lim) →
          ∃ t : State, exec (.baraw sp d ba lim) s = .next (s.accessDone sp va 16 tc t) ∧ u.waitsUnder t (.baraw sp d ba lim) (s.cx.rs lim)) ∧
        (¬ s.mayWait (s.cx.rs lim) →
          exec (.baraw sp d ba lim) s = .next (s.accessDone sp va 16 tc (u.endsWait d .withdrawn)))) ∧
      (b.malformed = false → u.redsAccepted s.env.cid key = true →
        ((r.2.barrierAt key).done r.1 = true →
          exec (.baraw sp d ba lim) s = .next (s.accessDone sp va 16 tc
            ((r.2.joinBarrier key r.1).endsWait d .ok))) ∧
        ((r.2.barrierAt key).done r.1 = false → s.mayWait (s.cx.rs lim) →
          ∃ (t : State) (e : SlipEntry) (w : Wait), exec (.baraw sp d ba lim) s = .next (s.accessDone sp va 16 tc t) ∧
            t.mem = r.2.mem ∧
            t.cx.slip = r.2.cx.slip ++ [e] ∧ e.ins.instr = .baraw sp d ba lim ∧ e.wait = some w ∧ w.q = some r.1 ∧
            w.limit.toNat = min (s.cx.rs lim).toNat (s.dlwMax s.env.cid).toNat) ∧
        ((r.2.barrierAt key).done r.1 = false → ¬ s.mayWait (s.cx.rs lim) →
          exec (.baraw sp d ba lim) s =
            .next (s.accessDone sp va 16 tc ((r.2.barrierWithdraw key r.1).endsWait d .withdrawn))))) ∧
    (s.issuesInOrder (.barwait sp d ba lim) (.s lim :: SOpd.src ba ++ [.s d]) →
      (b.malformed = true → exec (.barwait sp d ba lim) s = .next (s.accessDone sp va 16 tc (u.endsWait d .failed))) ∧
      (b.malformed = false → b.done ((s.cx.rs d).setWidth 32) = true →
        exec (.barwait sp d ba lim) s = .next (s.accessDone sp va 16 tc
          ((u.joinBarrier key ((s.cx.rs d).setWidth 32)).endsWait d .ok))) ∧
      (b.malformed = false → b.done ((s.cx.rs d).setWidth 32) = false →
        (s.mayWait (s.cx.rs lim) →
          ∃ t : State, exec (.barwait sp d ba lim) s = .next (s.accessDone sp va 16 tc t) ∧ u.waitsUnder t (.barwait sp d ba lim) (s.cx.rs lim)) ∧
        (¬ s.mayWait (s.cx.rs lim) →
          exec (.barwait sp d ba lim) s = .next (s.accessDone sp va 16 tc (u.endsWait d .timeout)))))) ∧
  (∀ (s : State) (sp : Space) (d : SReg) (ba : SOpd) (a : SReg) (key : Nat), s.sound →
    s.issuesInOrder (.barinit sp d ba a) (.s a :: SOpd.src ba) →
    let va := s.operandS ba
    let tc : List Touch := [⟨true, key, 16⟩]
    let u := s.reading .sync va tc
    let b := u.barrierAt key
    let idle := b.res = 0 ∧ b.arr = 0 ∧ b.pby = 0 ∧ ∀ r ∈ u.reds, ¬ (r.exact = true ∧ r.barrier = key ∧ r.st = .buffered)
    (s.cx.rs a = 0 ∨ 2 ^ 32 ≤ (s.cx.rs a).toNat →
      exec (.barinit sp d ba a) s = .next (s.traps (.barinit sp d ba a) .ill 0 0)) ∧
    (s.reaches sp .sync va 16 16 tc → s.cx.rs a ≠ 0 → (s.cx.rs a).toNat < 2 ^ 32 →
      (idle → ∃ v : State, exec (.barinit sp d ba a) s = .next (s.accessDone sp va 16 tc (v.gainsWord 6 d 0)) ∧
        v.barrierAt key = { b with tgt := (s.cx.rs a).setWidth 32 } ∧ sameOutside u v key 16 ∧ v.ctxs = u.ctxs) ∧
      (¬ idle → exec (.barinit sp d ba a) s = .next (s.accessDone sp va 16 tc (u.gainsWord 6 d 4))))) ∧
  (∀ (s : State) (key : Nat), s.sound →
    let b := s.barrierAt key
    let r := s.barrierArrive key
    b.malformed = false → b.arr.toNat + 1 < 2 ^ 32 →
    r.1 = b.ph + BitVec.ofNat 32 (b.arr.toNat / b.tgt.toNat) ∧
    (b.arr.toNat + 1 < b.tgt.toNat ∨ b.pby ≠ 0 →
      r.2.barrierAt key = { b with arr := b.arr + 1 } ∧ sameOutside s r.2 key 16) ∧
    (b.arr.toNat + 1 = b.tgt.toNat → b.pby = 0 → (∀ x ∈ s.reds, x.barrier ≠ key ∨ x.exact = false) →
      r.2.barrierAt key = { b with arr := 0, ph := b.ph + 1 } ∧ sameOutside s r.2 key 16)) ∧
  (∀ (b : Barrier) (q : BitVec 32), b.done q = true ↔ 1 ≤ (b.ph - q).toNat ∧ (b.ph - q).toNat < 2 ^ 31)

/-- R290, R291: evsig adds to a well-formed event object, saturating, and leaves a malformed one; evwait ends by the
object's status, or waits, or with a limit of 0 times out. -/
def Obligations.EventObjects : Prop :=
  (∀ (s : State) (sp : Space) (ba : SOpd) (a : SReg) (key : Nat), s.sound →
    s.issuesInOrder (.evsig sp ba a) (SOpd.src ba ++ [.s a]) →
    let va := s.operandS ba
    let tc : List Touch := [⟨true, key, 16⟩]
    let u := s.reading .sync va tc
    s.reaches sp .sync va 16 16 tc →
    let e := u.eventAt key
    let n := if a = 0 then 1 else (s.cx.rs a).toNat
    (e.malformed = false → ∃ t : State, exec (.evsig sp ba a) s = .next (s.accessDone sp va 16 tc t) ∧ sameOutside u t key 8 ∧ t.ctxs = s.ctxs ∧
      t.natAt key 8 = min (2 ^ 64 - 1) (e.cnt.toNat + n)) ∧
    (e.malformed = true → exec (.evsig sp ba a) s = .next (s.accessDone sp va 16 tc u))) ∧
  (∀ (s : State) (sp : Space) (d : SReg) (ba : SOpd) (lim : SReg) (key : Nat),
    s.issuesInOrder (.evwait sp d ba lim) (.s lim :: SOpd.src ba) →
    let va := s.operandS ba
    let tc : List Touch := [⟨true, key, 16⟩]
    let u := s.reading .sync va tc
    s.reaches sp .sync va 16 16 tc →
    let e := u.eventAt key
    let ends := fun (v : State) st => exec (.evwait sp d ba lim) s = .next (s.accessDone sp va 16 tc (v.endsWait d st))
    (e.malformed = true → ends u .failed) ∧
    (e.malformed = false → e.st = 4 → ends u .failed) ∧
    (e.malformed = false → e.st = 5 → ends u .cancelled) ∧
    (e.malformed = false → e.st = 0 → e.tgt.toNat ≤ e.cnt.toNat →
      ends (u.joinCopies 6 (fun c => c.cmd.event == some key)) .ok) ∧
    (e.malformed = false → e.st = 0 → e.cnt.toNat < e.tgt.toNat →
      (s.mayWait (s.cx.rs lim) →
        ∃ t : State, exec (.evwait sp d ba lim) s = .next (s.accessDone sp va 16 tc t) ∧ u.waitsUnder t (.evwait sp d ba lim) (s.cx.rs lim)) ∧
      (¬ s.mayWait (s.cx.rs lim) → ends u .timeout)))

/-- R171, R292 to R296: a fence whose classes have ended ends OK and otherwise waits, or at a limit of 0 ends PARTLY with the
classes that have; phase and phend open and close an exact-mode phase; dgst stores its operand and folds address and value
into DGA. -/
def Obligations.FencesPhasesAndDigest : Prop :=
  (∀ (s : State) (d lim : SReg) (mask : BitVec 8), s.issuesInOrder (.fence d lim mask) [.s lim] →
    ((∀ k, k < 8 → mask.getLsbD k = true → s.classEnded k = true) →
      exec (.fence d lim mask) s = .next ((s.joinFence mask).endsWait d .ok)) ∧
    (∀ k, k < 8 → mask.getLsbD k = true → s.classEnded k = false →
      (s.mayWait (s.cx.rs lim) →
        ∃ t : State, exec (.fence d lim mask) s = .next t ∧ s.waitsUnder t (.fence d lim mask) (s.cx.rs lim)) ∧
      (¬ s.mayWait (s.cx.rs lim) →
        exec (.fence d lim mask) s = .next (((s.joinFence (s.fenceCls mask)).gainsWord 6 d 3).gainsValue 6 .wait
          (ofWord (wstBits .partly (s.fenceCls mask) s.env.pos)))))) ∧
  (∀ (s : State) (sp : Space) (ba : SOpd) (tc : List Touch) (bk : Nat) (rd wr : List (Nat × Range)),
    s.issuesInOrder (.phase sp ba) (SOpd.src ba) → s.frameOut sp (s.operandS ba) = false →
    s.checkAccess sp .read 0 1 (s.operandS ba) 1088 64 = .ok tc →
    let u := s.reading .read (s.operandS ba) tc
    u.checkRecord (u.valueAt tc) = .ok (bk, rd, wr) →
    ∃ t : State, exec (.phase sp ba) s = .next t ∧ t.mem = (u.noteAccess sp (s.operandS ba) 1088).mem ∧
      (s.isExact s.env.cid = false → t.phases = s.phases ∧ t.cx = s.cx) ∧
      (s.isExact s.env.cid = true → t.cx = { s.cx with phase := some s.nextId, redSeq := 0 } ∧
        ∃ p : Phase, t.phases = s.phases ++ [p] ∧ p.id = s.nextId ∧ p.cid = s.env.cid ∧ p.barrier = bk ∧ p.rd = rd ∧
          p.wr = wr ∧ p.isOpen = true)) ∧
  (∀ (s : State), s.issuesInOrder .phend [] →
    (s.cx.phaseNow = none → exec .phend s = .next (s.traps .phend .ill 0 0)) ∧
    (∀ id, s.cx.phase = some id → (∀ e ∈ s.cx.slip, e.ins.instr ≠ .phend) →
      ∃ t : State, exec .phend s = .next t ∧ t.mem = s.mem ∧ t.cx = { s.cx with phase := none } ∧
        ∀ p ∈ t.phases, p.id = id → p.isOpen = false)) ∧
  (∀ (s : State) (sp : Space) (ba : SOpd) (a : SReg) (key : Nat), s.sound →
    s.issuesInOrder (.dgst sp ba a) (.s a :: SOpd.src ba) → s.unraised →
    s.reaches sp .write (s.operandS ba) 8 8 [⟨true, key, 8⟩] →
    ∃ t : State, exec (.dgst sp ba a) s =
        .next ((s.accessDone sp (s.operandS ba) 8 [⟨true, key, 8⟩] t).gainsValue 1 (.ctl .dga)
        (ofWord (dgaFold s.cx.ctl.dga (leBytes 8 (s.operandS ba).toNat ++ leBytes 8 (s.cx.rs a).toNat)))) ∧
      t.natAt key 8 = (s.cx.rs a).toNat ∧ sameOutside s t key 8 ∧ t.cx.results = s.cx.results)

/-- R131 to R136, R272, R273, R277 to R279: ring definition and binding, the pointer updates with their clamps, rqry, and
accesses through a satisfied operand, slot after slot; through one that is not satisfied they wait under DLW. -/
def Obligations.RingsAndTheirOperands : Prop :=
  (∀ (s : State) (h : HReg) (a : SReg) (tc : List Touch), s.issues [.s a] → s.cx.slip = [] →
    s.checkRdef h (s.cx.rs a) = .ok tc →
    ∃ t : State, exec (.rdef h a) s = .next t ∧ t.mem = s.mem ∧ (∀ g, g ≠ h → t.cx.rh g = s.cx.rh g) ∧
      ((s.cx.rs a).getLsbD 37 = true → t.cores = s.cores ∧ t.cx.rh h = some ((s.cx.rs a).setWidth 6)) ∧
      ((s.cx.rs a).getLsbD 37 = false →
        t.cx.rh h = some (s.ownEntry h) ∧ t.ringAt s.myCore (s.ownEntry h) = ringFrom (s.cx.rs a) s.myRegion ∧
        ∀ e, e ≠ s.ownEntry h → t.ringAt s.myCore e = s.ringAt s.myCore e)) ∧
  (∀ (s : State) (h : HReg) (n : BitVec 13) (e : BitVec 6) (r : Ring),
    s.ringOf h = some (e, r) → n.toNat ≤ 4096 → r.free.toNat + r.fill.toNat ≤ 4096 →
    (s.issuesInOrder (.advp h n) [] → ∃ t : State, exec (.advp h n) s = .next t ∧ t.mem = s.mem ∧ t.ctxs = s.ctxs ∧
      let q := t.ringAt s.myCore e
      let m := min n.toNat r.free.toNat
      q.free.toNat = r.free.toNat - m ∧ q.fill.toNat = r.fill.toNat + m ∧ q.pend = r.pend ∧ q.rptr = r.rptr ∧
      q.wptr.toNat = (r.wptr.toNat + m) % r.nsl ∧ q.err = (r.err || decide (r.free.toNat < n.toNat))) ∧
    (s.issuesInOrder (.advc h n) [] → ∃ t : State, exec (.advc h n) s = .next t ∧ t.mem = s.mem ∧ t.ctxs = s.ctxs ∧
      let q := t.ringAt s.myCore e
      let m := min n.toNat r.fill.toNat
      q.fill.toNat = r.fill.toNat - m ∧ q.free.toNat = r.free.toNat + m ∧ q.pend = r.pend ∧ q.wptr = r.wptr ∧
      q.rptr.toNat = (r.rptr.toNat + m) % r.nsl ∧ q.err = (r.err || decide (r.fill.toNat < n.toNat)))) ∧
  (∀ (s : State) (d : SReg) (h : HReg) (wd : Bool) (e : BitVec 6) (r : Ring), s.issuesInOrder (.rqry d h wd) [] →
    s.ringOf h = some (e, r) →
    exec (.rqry d h wd) s = .next ((s.joinRing 6 h).gainsWord 6 d (if wd then r.word1 else r.word0))) ∧
  (∀ (s : State) (ty : Fmt) (d : SReg) (vd : VReg) (r : RingOpd),
    let f := s.accessFmt ty
    (s.issuesInOrder (.ldRing ty d r) [] → s.reachesRing .read r f.bytes →
      let ps := s.ringPieces r.h r.producer f.bytes
      let u := s.readingRing .read r f.bytes
      exec (.ldRing ty d r) s =
        .next ((u.gainsLoad 6 (.s d) (ofWord (extScalar f (leNat (u.piecesBytes ps)))) false
          (u.piecesPoisoned ps)).joinRing 1 r.h)) ∧
    (s.issuesInOrder (.vldRing ty vd r) [] → s.reachesRing .read r (64 * f.bytes) →
      let ps := s.ringPieces r.h r.producer (64 * f.bytes)
      let u := s.readingRing .read r (64 * f.bytes)
      exec (.vldRing ty vd r) s =
        .next (((u.gainsLoad 8 (.v vd) (lanesOfBytes f (u.piecesBytes ps)) false (u.piecesPoisoned ps)).readWide
          s.cx.nextRid 8 (piecesVa ps) f (laneKeys f.bytes ps)).joinRing 1 r.h)) ∧
    (s.issuesInOrder (.ldRing ty d r) [] → s.mayWait s.cx.ctl.dlw →
      (∃ tc, s.checkRing r.h r.n.toNat f.bytes 1 .read 0 = .ok tc) → s.ringReady r.h r.producer r.n.toNat = false →
      ∃ t : State, exec (.ldRing ty d r) s = .next t ∧ s.waitsUnder t (.ldRing ty d r) s.cx.ctl.dlw)) ∧
  (∀ (s : State) (ty : Fmt) (a : SReg) (va : VReg) (r : RingOpd), s.sound →
    let f := s.accessFmt ty
    (s.issuesInOrder (.stRing ty a r) [.s a] → s.reachesRing .write r f.bytes →
      let ps := s.ringPieces r.h r.producer f.bytes
      exec (.stRing ty a r) s =
        .next (((s.putPieces ps (leBytes f.bytes (s.cx.rs a).toNat)).wakeOn ps).joinRing 1 r.h)) ∧
    (s.issuesInOrder (.vstRing ty va r) [.v va] → s.settled → s.reachesRing .write r (64 * f.bytes) →
      ∃ t : State, exec (.vstRing ty va r) s = .next (t.joinRing 1 r.h) ∧ t.ctxs = s.ctxs ∧
        s.storesWide t 8 (s.ringPieces r.h r.producer (64 * f.bytes)) (bytesOfLanes f (s.cx.rv va)))) ∧
  (∀ (s : State) (h : HReg) (producer : Bool) (n : Nat),
    let ps := s.ringPieces h producer n
    (ps.map (·.len)).sum = n ∧ ∀ i p, ps[i]? = some p → p.key = s.ringSlotKey h producer i ∧ p.len ≤ s.ringSlotSize h)

/-! ## The dray and the landings (spec/05, spec/06, spec/10) -/

/-- R137, R138, R280 to R283: a copy that passes its checks and finds room is accepted: it runs in the dray under the next
copy number, its promise is due in s[d] six bundles later; a PLAIN or CONV copy of no bytes completes at once; without room
a copy waits under DLW. -/
def Obligations.CopyAcceptance : Prop :=
  ∀ (s : State) (d a b c : SReg) (ssp dsp : Space) (kind : CopyKind) (sfmt dfmt : Fmt) (h : HReg) (re : Bool)
    (ns : BitVec 6) (tag : Bool) (zc : BitVec 2) (p : CopyPlan) (tc : List Touch),
    let i : Instr := .copy d a b c ssp dsp kind sfmt dfmt h re ns tag zc
    let m := cmdWord (s.cx.rs c)
    let q := p.tagged tc
    s.issuesInOrder i ([.s a, .s c] ++ (if re then [] else [.s b]) ++ (if m.bt then [.s m.br] else []) ++
      (if m.ev then [.s m.er] else []) ++ (if kind = .encb ∨ kind = .dxp then [.s m.xr] else [])) →
    s.frameOut ssp (s.cx.rs a) = false → (re = true ∨ s.frameOut dsp (s.cx.rs b) = false) →
    s.copyPlan a c b ssp dsp kind sfmt dfmt h re ns tag zc = some p → s.checkCopy h (some p) tag re = .ok tc →
    tc.any (·.away) = false →
    (s.copyReady h re q = true → ¬ (p.cmd.len = 0 ∧ (p.cmd.kind = .plain ∨ p.cmd.kind = .conv)) →
      ∃ (t : State) (k : Copy) (r : Result), exec i s = .next t ∧ t.copies = s.copies ++ [k] ∧ k.cid = s.env.cid ∧ k.num = s.cx.copyNum ∧
        k.st = .run ∧ k.cmd.src = p.cmd.src ∧ k.cmd.dst = p.cmd.dst ∧ k.cmd.len = p.cmd.len ∧ k.cmd.kind = p.cmd.kind ∧
        k.cmd.barrier = q.cmd.barrier ∧
        k.promise = s.gcc + BitVec.ofNat 64 (Config.promiseDelay s.free) ∧ t.cx.copyNum = s.cx.copyNum + 1 ∧
        t.cx.results = s.cx.results ++ [r] ∧ r.dest = .s d ∧ toWord r.val = k.promise ∧ r.due = s.env.ctm + 6 ∧
        (q.cmd.barrier = none → t.mem = s.mem)) ∧
    (s.copyReady h re q = true → p.cmd.len = 0 → (p.cmd.kind = .plain ∨ p.cmd.kind = .conv) →
      ∃ (t : State) (r : Result), exec i s = .next t ∧ (t.copyOf s.nextId).map (·.st) = some .ok ∧
        t.cx.copyNum = s.cx.copyNum + 1 ∧ t.cx.results = s.cx.results ++ [r] ∧ r.dest = .s d ∧ toWord r.val = s.gcc) ∧
    (s.copyReady h re q = false → s.mayWait s.cx.ctl.dlw →
      ∃ t : State, exec i s = .next t ∧ s.waitsUnder t i s.cx.ctl.dlw)

/-- R140, R160, R283: a PLAIN copy between two runs that do not overlap completes: the destination holds the source's bytes, those
that the copy had read ahead as it read them, and keeps what the copy had written before; no other byte changes, its status is
OK and its flag, where it names one, is set in WFL. R137, R284: COPY_ACCEPTANCE
hands the copy at the head of the M slip buffer to the next step; cpqry reports the promise and status of a recent
copy, and of any other number an open value with a status of 0 to 4. -/
def Obligations.CopyCompletesAndQueries : Prop :=
  (∀ (s : State) (id : Nat) (k : Copy) (src dst n : Nat), s.sound →
     s.copyOf id = some k → k.st = .run → k.stopped = false → k.revoked = none → k.cmd.kind = .plain →
     k.cmd.barrier = none → k.cmd.event = none → k.cmd.ring = none →
     s.copySources k = some ([⟨src, n⟩], []) → s.copyDest k = some [⟨dst, n⟩] → (src + n ≤ dst ∨ dst + n ≤ src) →
     let u := s.readErrors (s.ownerAt k.toOwner k.cmd.src) [⟨src, n⟩]
     ∃ t : State, exec (.copyCompletion id) s = .next t ∧ sameOutside u t dst n ∧
       (k.ahead = [] → k.done = [] → t.bytesAt dst n = u.bytesAt src n) ∧
       (∀ j, j < n → memRead t.mem (dst + j) =
         if k.done.contains ((dst + j) / 8) then memRead u.mem (dst + j)
         else match k.ahead.find? (fun a => a.1 == src + j) with
           | some a => a.2.1
           | none => memRead u.mem (src + j)) ∧
       ((t.copyOf id).map (fun x => x.st)) = some .ok ∧
       (∀ b task, k.cmd.flag = some b → (s.ctx k.cid).task = some task → task.serial = k.serial →
         (t.ctx k.cid).ctl.wfl.getLsbD b.toNat = true) ∧
       (∀ c, (t.ctx c).s = (s.ctx c).s ∧ (t.ctx c).v = (s.ctx c).v ∧ (t.ctx c).results = (s.ctx c).results)) ∧
  ((∀ (s : State) (c : CtxId) (e : SlipEntry) (l : List SlipEntry) (i : Instr), (s.ctx c).slotSlip 3 = e :: l →
     (∃ d a b r ssp dsp kind sfmt dfmt h re ns tag zc, i = .copy d a b r ssp dsp kind sfmt dfmt h re ns tag zc) →
     e.ins.instr = i → exec (.copyAcceptance c) s = .next { s with stage := some (c, e) }) ∧
   (∀ (s : State) (d a : SReg), s.issuesInOrder (.cpqry d a) [.s a] →
     (∀ k : Copy, s.recentCopy ((s.cx.rs a).setWidth 16) = some k →
       let w := (k.promise <<< 8) ||| (if k.pms then 8 else 0) |||
         (match k.st with | .run => 0 | .ok => 1 | .zfit => 2 | .fault => 3 | .cancelled => 4)
       exec (.cpqry d a) s =
         .next ((if k.st = .ok then s.joinCopies 6 (fun x => x.id == k.id) else s).gainsWord 6 d w)) ∧
     (s.recentCopy ((s.cx.rs a).setWidth 16) = none →
       ∃ w : Word, exec (.cpqry d a) s = .next (({ s with free := s.free + 1 } : State).gainsWord 6 d w) ∧
         w.extractLsb' 4 4 = 0 ∧ (w.extractLsb' 0 3).toNat ≤ 4)))

/-- R147: UNPK of what PACK makes of a block that fits its class is the block again. -/
def Obligations.PackThenUnpack : Prop :=
  ∀ (cls : Nat) (b p : List Byte), (cls = 64 ∨ cls = 128 ∨ cls = 256 ∨ cls = 512) → b.length = 512 →
    packBlock cls (carryAll false b) = some (carryAll false p) →
    p.length = cls ∧ unpackBlock cls (carryAll false p) = some (carryAll false b)

/-- R157, R285: atom writes the operation's value over the old one in one step, answers the old one, and touches no other
byte. -/
def Obligations.AtomicReadModifyWrite : Prop :=
  (∀ (s : State) (op : AtomOp) (sp : Space) (d ba a : SReg) (key : Nat), s.sound →
    s.issuesInOrder (.atom op sp d ba a) (.s ba :: .s a :: (if op = .cas then [.s d] else [])) →
    let f := if op = .fadd then .fp32 else s.accessFmt .w64
    let n := f.bytes
    let tc : List Touch := [⟨true, key, n⟩]
    s.reaches sp .atomic (s.cx.rs ba) n n tc →
    let u := s.reading .atomic (s.cx.rs ba) tc
    let new := atomApply op n (effMode s.env.pfx s.cx.ctl.fpc) (u.natAt key n) ((s.cx.rs a).toNat % 2 ^ (8 * n))
      ((s.cx.rs d).toNat % 2 ^ (8 * n))
    ∃ (t : State) (r : Result), exec (.atom op sp d ba a) s = .next (s.accessDone sp (s.cx.rs ba) n tc t) ∧ t.natAt key n = new.1 % 2 ^ (8 * n) ∧
      sameOutside u t key n ∧ t.cx.results = s.cx.results ++ [r] ∧ r.dest = .s d ∧ r.due = s.env.ctm + 6 ∧
      r.arrived = false ∧ r.flags = new.2 ∧
      toWord r.val = (if f = .i32 then extended .i32 (u.natAt key n) else BitVec.ofNat 64 (u.natAt key n)) ∧
      r.preg = (u.poisoned key n && decide (s.cx.cregs = [])) ∧
      (u.poisoned key n = true → s.cx.cregs ≠ [] → t.cx.unwind.isSome = true)) ∧
  (∀ (w old v e : Nat) (rm : RMode),
    (atomApply .add w rm old v e).1 = (old + v) % 2 ^ (8 * w) ∧ (atomApply .and w rm old v e).1 = old &&& v ∧
    (atomApply .or w rm old v e).1 = old ||| v ∧ (atomApply .xor w rm old v e).1 = old ^^^ v ∧
    (atomApply .exch w rm old v e).1 = v ∧ (atomApply .cas w rm old v e).1 = (if old = e then v else old) ∧
    (atomApply .minw w rm old v e).1 = min old v ∧ (atomApply .maxw w rm old v e).1 = max old v)

/-- R158, R159, R173, R286: red and redo fork a reduction and change no memory, once the landing can take it; in an EXACT
region without an open phase they raise DETOUT; outside exact mode its application changes its target alone and ends it; in
exact mode its landing buffers it; a closed phase whose threads have ended gives up its ranges. -/
def Obligations.ReductionsForkAndApply : Prop :=
  (∀ (s : State) (op : AtomOp) (sp : Space) (ba a : SReg) (ordered : Bool) (tc : List Touch),
    let f := if op = .fadd then .fp32 else s.accessFmt .w64
    let i : Instr := if ordered then .redo op sp ba a else .red op sp ba a
    s.issuesInOrder i [.s ba, .s a] →
    s.reaches sp .atomic (s.cx.rs ba) f.bytes f.bytes tc →
    (s.isExact s.env.cid = true → s.cx.phaseNow = none →
      exec i s = .next (s.traps i .detout 0 (s.cx.rs ba))) ∧
    ((s.isExact s.env.cid = false ∨ s.cx.phaseNow ≠ none) →
      (s.landingTakes (keyOf tc) = true →
        ∃ (t : State) (r : Red), exec i s = .next (t.noteIssue s sp (s.cx.rs ba) f.bytes) ∧ t.mem = s.mem ∧ t.reds = s.reds ++ [r] ∧ r.ordered = ordered ∧
          r.op = op ∧ r.val = s.cx.rs a ∧ r.va = s.cx.rs ba ∧ r.cid = s.env.cid ∧ r.seq = s.cx.redSeq ∧ r.st = .issued ∧
          t.cx = { s.cx with redSeq := s.cx.redSeq + 1 }) ∧
      (s.landingTakes (keyOf tc) = false → s.mayWait s.cx.ctl.dlw →
        ∃ t : State, exec i s = .next (t.noteIssue s sp (s.cx.rs ba) f.bytes) ∧ s.waitsUnder t i s.cx.ctl.dlw))) ∧
  (∀ (s : State) (r : Red) (key : Nat), s.sound → s.redOf r.id = some r → r.st = .issued → r.revoked = none →
    s.redTarget r = some key →
    (r.exact = false → s.redoHeld r = false →
      let w := if r.wide then 8 else 4
      let u := s.readErrors (s.ownerAt r.toOwner r.va) [⟨key, w⟩]
      ∃ t : State, exec (.reductionApplication r.id) s = .next t ∧
        t.natAt key w = (atomApply r.op w (RMode.ofCode r.rm) (u.natAt key w) (r.val.toNat % 2 ^ (8 * w)) 0).1 % 2 ^ (8 * w) ∧
        sameOutside u t key w ∧ t.reds = s.reds.filter (fun x => x.id != r.id) ∧ t.ctxs = s.ctxs) ∧
    (r.exact = true →
      ∃ t : State, exec (.reductionAcceptance r.id) s =
          .next (if r.bphase.isSome then t.settleBarrier r.barrier else t) ∧ t.mem = s.mem ∧
        (t.redOf r.id).map (fun x => (x.st, x.loc)) = some (.buffered, key))) ∧
  (∀ (s : State) (id : Nat), (∃ p ∈ s.phases, p.id = id ∧ p.isOpen = false) → s.phaseEnded id = true →
    exec (.phaseBookkeeping id) s = .next { s with phases := s.phases.filter (fun p => p.id != id) })

/-! ## The tile engine (spec/12) -/

/-- R317 to R319, R324 to R330: the stream instructions add their rows to the accumulator from the row cursor on, count in
SEQ, set KIND and stand in flight; no register changes, and of memory only the records of errors that mmas finds in its rows
(R148). -/
def Obligations.TileStreams : Prop :=
  (∀ (s : State) (pair : Pair) (ac : AReg) (v : VReg) (km : BitVec 4) (eb : SOpd),
    let rs := vregs v (km.toNat + 1)
    let p := s.pairNow pair
    let act := (s.core s.myCore).act
    s.issues (rs.map Src.v ++ if pair.hasEb then SOpd.src eb else []) → s.streamReady ac p [act] →
    let st : Stream := ⟨p, false, false, (ebWord p (s.operandS eb)).1⟩
    let sum := (st.rows s.banks (s.cx.ra ac) (rs.map (fun r => [(act, rowOf (s.cx.rv r))]))).1
    ∃ t : State, exec (.mma pair ac v km eb) s = .next t ∧ s.onlyAccumulator t ac ∧ (t.cx.ra ac).tile = sum.tile ∧
      (t.cx.ra ac).rc = (s.cx.ra ac).rc + BitVec.ofNat 6 (km.toNat + 1) ∧
      (s.cx.ra ac).streamed (t.cx.ra ac) (kindOf p) (s.env.ctm + BitVec.ofNat 64 (km.toNat + 11))) ∧
  (∀ (s : State) (pair : Pair) (ac : AReg) (v : VReg) (km : BitVec 4),
    let rs := vregs v (km.toNat + 1)
    let p := s.pairNow pair
    let act := (s.core s.myCore).act
    p.hasEb = false → s.streamReady ac p [act] →
    let st : Stream := ⟨p, true, false, 0⟩
    (s.issues (rs.map Src.v) →
      let sum := (st.rows s.banks (s.cx.ra ac) (rs.map (fun r => [(act, rowOf (s.cx.rv r))]))).1
      ∃ t : State, exec (.mmaE pair ac v km) s = .next t ∧ s.onlyAccumulator t ac ∧ (t.cx.ra ac).tile = sum.tile ∧
        (t.cx.ra ac).cerr = sum.cerr ∧
        (s.cx.ra ac).streamed (t.cx.ra ac) (kindOf p) (s.env.ctm + BitVec.ofNat 64 (km.toNat + 11))) ∧
    (s.issues [.v v, .v (v + 1)] →
      let sum := (st.rows s.banks (s.cx.ra ac) ((List.range (km.toNat + 1)).map (fun i =>
        [(act, diagRow (s.cx.rv v) (lane (s.cx.rv (v + 1)) i))]))).1
      ∃ t : State, exec (.mmaD pair ac v km) s = .next t ∧ s.onlyAccumulator t ac ∧ (t.cx.ra ac).tile = sum.tile ∧
        (t.cx.ra ac).cerr = sum.cerr ∧
        (s.cx.ra ac).streamed (t.cx.ra ac) (kindOf p) (s.env.ctm + BitVec.ofNat 64 (km.toNat + 11)))) ∧
  (∀ (s : State) (ac : AReg) (a : SOpd) (b c : SReg) (rc0 : Bool) (nm : BitVec 6) (pair : Pair) (mode : MmasMode)
    (rot rg : Bool) (h : HReg) (rn : BitVec 6) (tc : List Touch) (ps : List Piece),
    let p := s.pairNow pair
    let act := (s.core s.myCore).act
    let esz := if mode = .abs then 4 else p.acts.bytes
    let n := nm.toNat + 1
    let pitch := s.cx.rs b
    let offs := mmasOffsets n (pitch.extractLsb' 0 24).toNat (pitch.extractLsb' 24 24).toNat rot
    let i : Instr := .mmas ac a b c rc0 nm pair mode rot rg h rn
    s.issuesInOrder i ((.s b :: if rg then [] else SOpd.src a) ++ if pair.hasEb then [.s c] else []) →
    s.streamReady ac p (if rot then [act, !act] else [act]) →
    pitch.extractLsb' 48 16 = 0 → (pitch.extractLsb' 0 24).toNat % 8 = 0 → (pitch.extractLsb' 24 24).toNat % 8 = 0 →
    (rg = false → s.checkRows (s.operandS a) offs (64 * esz) = .ok tc ∧ ps = piecesOf tc) →
    (rg = true → s.hallRing h = false ∧ s.checkMmasRing h rn.toNat offs (64 * esz) = .ok tc ∧
      s.ringReady h false rn.toNat = true ∧
      ∃ (e : BitVec 6) (r : Ring), s.ringOf h = some (e, r) ∧
        ps = offs.map (fun o => ⟨s.ringSlotKey h false (o / r.slotSize) + o % r.slotSize, 64 * esz⟩)) →
    tc.any (·.away) = false →
    let u := (if rg then s.joinRing 1 h else s).readsAt ps
    let st : Stream := ⟨p, mode != .plain, mode == .abs, (ebWord p (s.cx.rs c)).1⟩
    let a0 := if rc0 = true ∧ mode ≠ .abs then { s.cx.ra ac with rc := 0 } else s.cx.ra ac
    let sum := (st.rows s.banks a0 (rowPasses rot act (ps.map (fun q => (elements 64 esz (u.bytesAt q.key q.len)).map some)))).1
    ∃ t : State, exec i s = .next t ∧ u.onlyAccumulator t ac ∧
      (t.cx.ra ac).tile = sum.tile ∧ (t.cx.ra ac).cerr = sum.cerr ∧ (t.cx.ra ac).crem = sum.crem ∧
      (t.cx.ra ac).rc = sum.rc ∧
      (s.cx.ra ac).streamed (t.cx.ra ac) (kindOf p)
        (s.env.ctm + BitVec.ofNat 64 ((if rot then 2 * n else n) + 14)))

/-- R43, R324, R325: an int8 pass adds to each column the exact sum of 64 products modulo 2^32, into the row at the cursor
and no other; the cursor moves on. -/
def Obligations.IntegerPassIsExact : Prop :=
  ∀ (banks : Bool → Bank) (bk : Bool) (a : Acc) (es : List Nat), es.length = 64 →
    let r := (Stream.rows ⟨.i8, false, false, 0⟩ banks a [[(bk, es.map some)]]).1
    r.rc = a.rc + 1 ∧ (∀ q, q ≠ a.rc → r.row q = a.row q) ∧
    ∀ n, n < 64 → lane (r.row a.rc) n = lane (a.row a.rc) n +
      BitVec.ofInt 32 (((List.range 64).map (fun j =>
        ((BitVec.ofNat 8 (es[j]?.getD 0)).toInt * ((banks bk).img.extractLsb' (8 * (64 * j + n)) 8 : BitVec 8).toInt))).sum)

/-- R320: the checks of the T slot fail in order: banks held by another context raise UNIT, an accumulator that is not
granted ILL, and an accumulator whose operations are not due raises ACCB for the draining instructions. -/
def Obligations.TileChecksTrap : Prop :=
  (∀ (s : State) (pair : Pair) (ac : AReg) (v : VReg) (km : BitVec 4) (eb : SOpd) (bk : Bool) (ty : Fmt),
    s.env.slipped = none → (s.core s.myCore).holder ≠ some s.env.cid.num →
    (s.issues [] → exec .wswap s = .next (s.traps .wswap .unit 0 0)) ∧
    (exec (.mma pair ac v km eb) s = .next (s.traps (.mma pair ac v km eb) .unit 0 0)) ∧
    (s.needs (SOpd.src eb) = [] → exec (.wld bk ty eb) s = .next (s.traps (.wld bk ty eb) .unit 0 0))) ∧
  (∀ (s : State) (ac : AReg) (v : VReg) (nr : BitVec 5) (d : SReg) (t : Task), s.env.slipped = none →
    s.cx.task = some t → t.nacc ≤ ac.toNat →
    exec (.adrn ac v nr) s = .next (s.traps (.adrn ac v nr) .ill 0 0) ∧
    exec (.adrnC ac v nr) s = .next (s.traps (.adrnC ac v nr) .ill 0 0) ∧
    exec (.aclr ac) s = .next (s.traps (.aclr ac) .ill 0 0) ∧
    exec (.aqry d ac) s = .next (s.traps (.aqry d ac) .ill 0 0)) ∧
  (∀ (s : State) (ac : AReg) (v : VReg) (nr : BitVec 5) (a : SOpd) (d : SReg) (seq : BitVec 16) (due : Word)
    (old later : List (BitVec 16 × Word)), s.env.slipped = none →
    s.hasAcc ac → (s.cx.ra ac).flight = old ++ (seq, due) :: later → (∀ p ∈ old, p.2.toNat ≤ s.env.ctm.toNat) →
    s.env.ctm.toNat < due.toNat →
    let det : BitVec 32 := seq ++ 0#14 ++ ac
    exec (.adrn ac v nr) s = .next (s.traps (.adrn ac v nr) .accb det 0) ∧
    ((s.cx.ra ac).kind ≠ 2 → exec (.adrnC ac v nr) s = .next (s.traps (.adrnC ac v nr) .accb det 0)) ∧
    (s.needs (SOpd.src a) = [] → exec (.ast ac a) s = .next (s.traps (.ast ac a) .accb det 0)) ∧
    exec (.aqry d ac) s = .next (s.traps (.aqry d ac) .accb det 0)) ∧
  Cause.accb.code = 0x18

/-- R321, R322, R331 to R335: loading and swapping banks, clearing, draining, storing and inspecting accumulators. A wld into a
bank that beats still read stands in the slip buffer without a limit (R322); the rows that ast writes reach memory granule by
granule (R154). -/
def Obligations.TileBanksAndDrains : Prop :=
  (∀ (s : State) (bk : Bool) (ty : Fmt) (a : SOpd) (tc : List Touch), s.issuesInOrder (.wld bk ty a) (SOpd.src a) →
    s.unraised → (s.core s.myCore).holder = some s.env.cid.num →
    s.checkAccess .pm .read 0 4 (s.operandS a) (imageBytes (s.accessFmt ty)) 8 = .ok tc →
    let bank := (s.core s.myCore).bankAt bk
    let u := s.readsAt (piecesOf tc)
    ∃ t : State, exec (.wld bk ty a) s = .next t ∧
      ((t.core s.myCore).bankAt bk).fmt = some (s.accessFmt ty) ∧
      ((t.core s.myCore).bankAt bk).ready = s.env.ctm + 36 ∧
      (t.core s.myCore).bankAt (!bk) = (s.core s.myCore).bankAt (!bk) ∧ (t.core s.myCore).act = (s.core s.myCore).act ∧
      t.cx.s = s.cx.s ∧ t.cx.v = s.cx.v ∧ t.cx.p = s.cx.p ∧ t.cx.acc = s.cx.acc ∧
      (bank.busy.toNat ≤ s.cx.ctm.toNat → t.mem = u.mem ∧
        ((t.core s.myCore).bankAt bk).img = BitVec.ofNat 131072 (leNat (u.piecesBytes (piecesOf tc)))) ∧
      (s.cx.ctm.toNat < bank.busy.toNat → t.mem = s.mem ∧ ((t.core s.myCore).bankAt bk).img = bank.img ∧
        ∃ e, t.cx.slip = s.cx.slip ++ [e] ∧ e.slot = s.env.pos ∧ e.ins.instr = .wld bk ty a ∧ e.wait = none)) ∧
  (∀ (s : State), s.issues [] → s.unraised → (s.core s.myCore).holder = some s.env.cid.num →
    exec .wswap s = .next (s.mapCore s.myCore (fun k => { k with act := !k.act }))) ∧
  (∀ (s : State) (ac : AReg), s.issues [] → s.unraised → s.hasAcc ac →
    ∃ t : State, exec (.aclr ac) s = .next t ∧ s.onlyAccumulator t ac ∧ (t.cx.ra ac).tile = Vector.replicate 64 0 ∧
      (t.cx.ra ac).cerr = 0 ∧ (t.cx.ra ac).crem = 0 ∧ (t.cx.ra ac).rowdepth = 0 ∧ (t.cx.ra ac).depth = 0 ∧
      (t.cx.ra ac).rc = 0 ∧ (t.cx.ra ac).dc = 0 ∧ (t.cx.ra ac).kind = 0 ∧
      (t.cx.ra ac).seq = (s.cx.ra ac).seq + 1) ∧
  (∀ (s : State) (ac : AReg) (v : VReg) (nr : BitVec 5), s.issues [] → s.unraised → s.hasAcc ac →
    (s.cx.ra ac).undue s.env.ctm = none →
    (∃ t : State, exec (.adrn ac v nr) s = .next t ∧ t.mem = s.mem ∧
      (t.cx.ra ac).tile = (s.cx.ra ac).tile ∧
      (t.cx.ra ac).dc = (s.cx.ra ac).dc + BitVec.ofNat 6 (nr.toNat + 1) ∧
      ∀ i, i ≤ nr.toNat → ∃ r ∈ t.cx.results, r.dest = .v (v + BitVec.ofNat 5 i) ∧
        r.val = (s.cx.ra ac).row ((s.cx.ra ac).dc + BitVec.ofNat 6 i) ∧
        r.due = s.env.ctm + BitVec.ofNat 64 (6 * ((nr.toNat + 16) / 16))) ∧
    ((s.cx.ra ac).kind ≠ 2 → nr.toNat ≤ 1 →
      ∃ t : State, exec (.adrnC ac v nr) s = .next t ∧ t.mem = s.mem ∧ (t.cx.ra ac).tile = (s.cx.ra ac).tile ∧
        (∃ r ∈ t.cx.results, r.dest = .v v ∧ r.val = (s.cx.ra ac).remainder) ∧
        (nr = 1 → ∃ r ∈ t.cx.results, r.dest = .v (v + 1) ∧
          r.val = ofLanes (List.replicate 64 (s.cx.ra ac).depth)))) ∧
  (∀ (s : State) (ac : AReg) (a : SOpd) (key : Nat), s.sound → s.settled → s.issuesInOrder (.ast ac a) (SOpd.src a) →
    s.unraised → s.hasAcc ac → (s.cx.ra ac).undue s.env.ctm = none →
    s.checkAccess .pm .write 0 4 (s.operandS a) 16384 8 = .ok [⟨true, key, 16384⟩] →
    ∃ t : State, exec (.ast ac a) s = .next t ∧ sameOutside s t key 16384 ∧
      t.cx.s = s.cx.s ∧ t.cx.v = s.cx.v ∧ t.cx.p = s.cx.p ∧ (t.cx.ra ac).tile = (s.cx.ra ac).tile ∧
      ∀ (q : BitVec 6) (n : Nat), n < 64 →
        (t.settle s.env.cid).natAt (key + 256 * q.toNat + 4 * n) 4 = (lane ((s.cx.ra ac).row q) n).toNat) ∧
  (∀ (s : State) (d : SReg) (ac : AReg), s.issues [] → s.unraised → s.hasAcc ac →
    (s.cx.ra ac).undue s.env.ctm = none →
    ∃ (t : State) (r : Result), exec (.aqry d ac) s = .next t ∧ t.mem = s.mem ∧ t.cx.results = s.cx.results ++ [r] ∧ r.dest = .s d ∧
      let w := toWord r.val
      let x := s.cx.ra ac
      w.extractLsb' 48 16 = x.seq + 1 ∧ w.extractLsb' 44 2 = x.kind ∧ w.extractLsb' 38 6 = x.dc ∧
      w.extractLsb' 32 6 = x.rc ∧ w.extractLsb' 0 32 = x.depth)

/-! ## Relaxation and exchange (spec/12, spec/13) -/

/-- R67, R336 to R338: rlxb and rlx write their consecutive registers in the active lanes; a rule table that fails its
checks, or a lane without a matching rule, raises RULE. A poisoned word of a table in PM marks the first result, or unwinds a
containment region (R149, R451). -/
def Obligations.RelaxationResults : Prop :=
  (∀ (s : State) (vd va : VReg) (vb : VOpd) (q : PReg), s.issues (.p q :: .v va :: VOpd.src vb) →
    let b := fun i => boundsOf (lane (s.cx.rv va) i) (lane (s.operandV vb) i)
    exec (.rlxb vd va vb q) s =
      .next ((s.gainsLanes 8 vd q false (fun i => ((b i).1, Flags.none))).gainsLanes 8 (vd + 1) q false
        (fun i => ((b i).2, Flags.none)))) ∧
  (∀ (s : State) (vd vl : VReg) (q : PReg) (fs : BitVec 3) (ut : Bool) (ta ar : SReg) (tc : List Touch),
    let i : Instr := .rlx vd vl q fs ut ta ar
    s.issuesInOrder i ([.v vl, .v (vl + 1), .p q, .s ar] ++ if ut then [.s ta] else []) →
    (ut = true → s.checkAccess .pm .read 0 3 (s.cx.rs ta) 2048 256 = .ok tc) → (ut = false → tc = []) →
    let arg : Lane := (s.cx.rs ar).setWidth 32
    let u := if ut then s.reading .read (s.cx.rs ta) tc else s
    let r := fun n =>
      (rlxLane (u.rlxRules ut fs tc) arg (lane (s.cx.rv vl) n) (lane (s.cx.rv (vl + 1)) n)).getD (0, 0, 0)
    (s.rlxFails ut fs tc vl q arg = true → exec i s = .next (s.traps i .rule 0 0)) ∧
    (s.rlxFails ut fs tc vl q arg = false → u.piecesPoisoned (piecesOf tc) = false →
      exec i s =
        .next (((u.gainsLanes 14 vd q false (fun n => ((r n).1, Flags.none))).gainsLanes 14 (vd + 1) q false
          (fun n => ((r n).2.1, Flags.none))).gainsLanes 14 (vd + 2) q false (fun n => ((r n).2.2, Flags.none)))) ∧
    (s.rlxFails ut fs tc vl q arg = false → u.piecesPoisoned (piecesOf tc) = true →
      ∃ t : State, exec i s = .next t ∧ t.mem = u.mem ∧ t.cx.s = s.cx.s ∧ t.cx.v = s.cx.v ∧ t.cx.p = s.cx.p ∧
        (s.cx.cregs = [] → ∃ x ∈ t.cx.results, x.dest = .v vd ∧ x.due = s.env.ctm + 14 ∧ x.preg = true) ∧
        (s.cx.cregs ≠ [] → t.cx.unwind.isSome = true))) ∧
  (∀ (rules : List Rule) (arg l u : Lane), (isFinite32 l = false ∨ isFinite32 u = false ∨ (f32 u).lt (f32 l) = true) →
    rlxLane rules arg l u = some (0, 0, 0x7F800000#32))

/-- R348, R350, R353, R354: a send or sends that passes its checks and is granted leaves an entry on its way, to the queue of a
task of this chip or by a link, and otherwise waits under DLW; a malformed descriptor raises ILL. R168, R349, R352: an
arriving entry joins the tail of its queue, the oldest of its source first, and its thread ends; one for a full queue or a
task out of service stays, and one for a retired task is discarded. -/
def Obligations.SendsLeaveAndArrive : Prop :=
  (∀ (s : State) (v : VReg) (a : SOpd) (ra b : SReg),
     (s.issuesInOrder (.send v a) (SOpd.src a ++ [.v v]) →
       let w := s.operandS a
       (w.extractLsb' 20 44 ≠ 0 → exec (.send v a) s = .next (s.traps (.send v a) .ill 0 0)) ∧
       (∀ tc, s.checkSend w = .ok tc →
         (s.sendReady w = false → s.mayWait s.cx.ctl.dlw →
           ∃ t : State, exec (.send v a) s = .next t ∧ s.waitsUnder t (.send v a) s.cx.ctl.dlw) ∧
         (s.sendReady w = true → ∃ t : State, exec (.send v a) s = .next t ∧ s.leaves t w (s.cx.rv v)))) ∧
     (s.issuesInOrder (.sends ra b) [.s ra, .s b] →
       let w := s.cx.rs ra
       (w.extractLsb' 20 44 ≠ 0 → exec (.sends ra b) s = .next (s.traps (.sends ra b) .ill 0 0)) ∧
       (∀ tc, s.checkSend w = .ok tc →
         (s.sendReady w = false → s.mayWait s.cx.ctl.dlw →
           ∃ t : State, exec (.sends ra b) s = .next t ∧ s.waitsUnder t (.sends ra b) s.cx.ctl.dlw) ∧
         (s.sendReady w = true →
           ∃ t : State, exec (.sends ra b) s = .next t ∧ s.leaves t w (ofWord (s.cx.rs b)))))) ∧
  (∀ (s : State) (x : Send), s.sends.find? (fun y => y.id == x.id) = some x →
     (s.sendBehind x = true → exec (.sendArrival x.id) s = .next s) ∧
     (s.sendBehind x = false → x.chip ≠ s.chip →
       ∃ t : State, exec (.sendArrival x.id) s = .next t ∧ t.mem = s.mem ∧ t.ctxs = s.ctxs ∧
         t.sends = s.sends.filter (fun y => y.id != x.id)) ∧
     (s.sendBehind x = false → x.chip = s.chip →
       (s.destOut x = true → exec (.sendArrival x.id) s = .next s) ∧
       (s.destOut x = false → s.runsTask x.dserial = none →
         ∃ t : State, exec (.sendArrival x.id) s = .next t ∧ t.mem = s.mem ∧ t.ctxs = s.ctxs ∧
           t.sends = s.sends.filter (fun y => y.id != x.id)) ∧
       (∀ c, s.destOut x = false → s.runsTask x.dserial = some c →
         (64 ≤ ((s.ctx c).queue x.q).length → exec (.sendArrival x.id) s = .next s) ∧
         (((s.ctx c).queue x.q).length < 64 → ∃ t : State, exec (.sendArrival x.id) s = .next t ∧ t.mem = s.mem ∧
           (t.ctx c).queue x.q = (s.ctx c).queue x.q ++ [(x.val, x.poison)] ∧
           (∀ q, q ≠ x.q → (t.ctx c).queue q = (s.ctx c).queue q) ∧ (∀ d, d ≠ c → t.ctx d = s.ctx d) ∧
           t.sends = s.sends.filter (fun y => y.id != x.id)))))

/-- R355: the pops take the oldest entry of a queue and wait while it is empty; recva and recvm combine it lane by lane
with the register. An entry's poison marks the result, or unwinds a containment region (R352, R451). -/
def Obligations.PopsOfReceiveQueues : Prop :=
  ∀ (s : State) (v : VReg) (d : SReg) (q : BitVec 3), s.issues [.v v] → (∀ i : Instr, s.conflict i = false) →
    (∀ (e : VecWord) (poison : Bool) (l : List (VecWord × Bool)), s.cx.queue q = (e, poison) :: l →
      let u := s.mapCx (fun x => x.setQueue q l)
      let add := fun i => popAdd s.env.pfx (lane (s.cx.rv v) i) (lane e i)
      let fl := Flags.union ((List.range 64).map (fun i => (add i).2))
      exec (.recv v q) s = .next (u.gainsLoad 4 (.v v) e true poison) ∧
      exec (.recvs d q) s = .next (u.gainsLoad 4 (.s d) (ofWord (e.setWidth 64)) true poison) ∧
      (poison = false → exec (.recva v q) s =
        .next (u.gainsFloat 6 (.v v) (ofLanes ((List.range 64).map (fun i => (add i).1))) (BitVec.allOnes 64) fl)) ∧
      (poison = true → ∃ (t : State) (r : Result), exec (.recva v q) s = .next t ∧ t.mem = s.mem ∧ t.cx.queue q = l ∧
        t.cx.results = s.cx.results ++ [r] ∧ r.dest = .v v ∧ r.due = s.env.ctm + 6 ∧ r.flags = fl ∧
        r.preg = decide (s.cx.cregs = []) ∧ (s.cx.cregs ≠ [] → t.cx.unwind.isSome = true)) ∧
      exec (.recvm v q) s =
        .next (u.gainsLoad 6 (.v v)
          (ofLanes ((List.range 64).map (fun i => popMax s.env.pfx (lane (s.cx.rv v) i) (lane e i)))) true poison)) ∧
    (s.cx.queue q = [] → s.mayWait s.cx.ctl.dlw →
      (∃ t : State, exec (.recv v q) s = .next t ∧ s.waitsUnder t (.recv v q) s.cx.ctl.dlw) ∧
      (∃ t : State, exec (.recvs d q) s = .next t ∧ s.waitsUnder t (.recvs d q) s.cx.ctl.dlw) ∧
      (∃ t : State, exec (.recva v q) s = .next t ∧ s.waitsUnder t (.recva v q) s.cx.ctl.dlw) ∧
      (∃ t : State, exec (.recvm v q) s = .next t ∧ s.waitsUnder t (.recvm v q) s.cx.ctl.dlw))

/-! ## The pantry and the attics (spec/03, spec/12) -/

/-- R81, R339 to R343: sym.new answers the status of a broken or full tensor, raises SYMX where a capacity is exceeded, and
else mints a slab; sym.sig and sym.rel leave a job for the pantry; sym.qry reads an entry, in STATE 2 while a cond that has
chosen it writes (R78). A bad operand raises ILL, a pantry whose access table denies the command ACCV (R487). The errors of the
tensor that sym.new reads are found first (R148). -/
def Obligations.PantryCommands : Prop :=
  (∀ (s : State) (d a b : SReg), s.issuesInOrder (.symNew d a b) [.s a, .s b] → s.pantryAdmits .write = false →
    exec (.symNew d a b) s = .next (s.traps (.symNew d a b) .accv 0 0)) ∧
  (∀ (s : State) (d a b : SReg) (t : Tensor), s.sound → s.issuesInOrder (.symNew d a b) [.s a, .s b] →
    s.pantryAdmits .write = true →
    s.pantryReach .read (s.cx.rs a) 64 64 = none → s.pantryReach .write (s.cx.rs a) 64 64 = none →
    readTensor s.pantryRead (s.cx.rs a) = some t →
    let i : Instr := .symNew d a b
    let job := s.jobOf s.myRegion
    let slab := s.cx.rs b
    let base := s.nextBase job
    let v := s.tensorErrors t
    (s.tensorStatus job t ≠ .ok →
      exec i s = .next (v.gainsWord 6 d (symNewWord 0 (s.tensorStatus job t).newCode 0))) ∧
    (s.tensorStatus job t = .ok → t.atd.nslab = t.atd.slcap → exec i s = .next (v.gainsWord 6 d (symNewWord 0 6 0))) ∧
    (s.tensorStatus job t = .ok → t.atd.nslab ≠ t.atd.slcap → slab.toNat % t.atd.esize = 0 →
      s.pantryReach .write t.atd.sladdr (16 * (t.atd.nslab + 1)) 16 = none →
      s.pantryReach .write (liveMapAddr slab t.atd.n t.atd.esize) (liveMapLen t.atd.n) 1 = none →
      (1048576 < s.symCount + t.atd.n → exec i s = .next (s.traps i .symx 0 0)) ∧
      (s.symCount + t.atd.n ≤ 1048576 → s.symBudget s.myRegion t.atd.n = false →
        exec i s = .next (s.traps i .symx 1 0)) ∧
      (s.symCount + t.atd.n ≤ 1048576 → s.symBudget s.myRegion t.atd.n = true → 2 ^ 26 < s.nextSerial job + t.atd.n →
        exec i s = .next (s.traps i .symx 2 0)) ∧
      (s.symCount + t.atd.n ≤ 1048576 → s.symBudget s.myRegion t.atd.n = true → s.nextSerial job + t.atd.n ≤ 2 ^ 26 →
        ∃ (u : State) (r : Result), exec i s = .next u ∧ u.syms = s.syms ++ mintEntries t job s.myRegion base ∧
          u.nextSerial job = s.nextSerial job + t.atd.n ∧ (∀ j, j ≠ job → u.nextSerial j = s.nextSerial j) ∧
          u.cx = { s.cx with results := s.cx.results ++ [r], nextRid := s.cx.nextRid + 1 } ∧ r.dest = .s d ∧
          r.due = s.env.ctm + 6 ∧ toWord r.val = mintResult t base ∧
          ∀ k, v.beyondWrites (s.ctxPart s.env.cid) 3 (mintWrites t slab base) k →
            memRead u.mem k = memRead v.mem k))) ∧
  (∀ (s : State) (a b c : SReg), s.issuesInOrder (.symSig a b c) [.s a, .s b, .s c] →
    let i : Instr := .symSig a b c
    let w := s.cx.rs c
    let first : BitVec 32 := (s.cx.rs a).setWidth 32
    let n := (w.extractLsb' 32 26).toNat + 1
    let job := s.jobOf s.myRegion
    (w.extractLsb' 24 8 ≠ 0 ∨ w.extractLsb' 58 6 ≠ 0 → exec i s = .next (s.traps i .ill 0 0)) ∧
    (∀ tc, w.extractLsb' 24 8 = 0 → w.extractLsb' 58 6 = 0 →
      s.checkAccess .pm .read 3 1 (s.cx.rs b) (4 * n) 4 = .ok tc →
      (s.pantryAdmits .write = false → exec i s = .next (s.traps i .accv 0 0)) ∧
      (s.pantryAdmits .write = true → oneChip first n = false → exec i s = .next (s.traps i .symx 6 0)) ∧
      (s.pantryAdmits .write = true → oneChip first n = true → (∃ id ∈ idRange first n, s.symAlive job id = false) →
        exec i s = .next (s.traps i .symx 3 0)) ∧
      (s.pantryAdmits .write = true → oneChip first n = true → (∀ id ∈ idRange first n, s.symAlive job id = true) →
        (∃ id ∈ idRange first n, s.etDiffers job (w.extractLsb' 0 16) (w.extractLsb' 16 8) id = true) →
        exec i s = .next (s.traps i .symx 4 0)) ∧
      (s.pantryAdmits .write = true → oneChip first n = true → (∀ id ∈ idRange first n, s.symAlive job id = true) →
        (∀ id ∈ idRange first n, s.etDiffers job (w.extractLsb' 0 16) (w.extractLsb' 16 8) id = false) →
        exec i s = .next { s with
          nextId := s.nextId + 1,
          sigs := s.sigs ++ [{ s.owner with
            id := s.nextId, job := job, first := first, src := (s.cx.rs b).toNat, n := n, group := w.extractLsb' 0 16,
            et := w.extractLsb' 16 8 }] }))) ∧
  (∀ (s : State) (d a b : SReg), s.issuesInOrder (.symQry d a b) [.s a, .s b] →
    (3 < (s.cx.rs b).toNat → exec (.symQry d a b) s = .next (s.traps (.symQry d a b) .ill 0 0)) ∧
    ((s.cx.rs b).toNat ≤ 3 → s.pantryAdmits .read = false →
      exec (.symQry d a b) s = .next (s.traps (.symQry d a b) .accv 0 0)) ∧
    ((s.cx.rs b).toNat ≤ 3 → s.pantryAdmits .read = true → exec (.symQry d a b) s = .next (s.gainsWord 6 d
      (match s.symSeen (s.jobOf s.myRegion) ((s.cx.rs a).setWidth 32) with
       | some e => (if e.st ≠ .free ∧ s.condensing e = true then { e with st := .condensing } else e).word (s.cx.rs b)
       | none => 0)))) ∧
  (∀ (s : State) (a b c : SReg), s.issuesInOrder (.symRel a b c) [.s a, .s b, .s c] →
    let i : Instr := .symRel a b c
    let first : BitVec 32 := (s.cx.rs a).setWidth 32
    let n := (s.cx.rs b).toNat
    let job := s.jobOf s.myRegion
    (1 < (s.cx.rs c).toNat ∨ n = 0 ∨ 2 ^ 26 ≤ n → exec i s = .next (s.traps i .ill 0 0)) ∧
    ((s.cx.rs c).toNat ≤ 1 → 1 ≤ n → n < 2 ^ 26 →
      (s.pantryAdmits .write = false → exec i s = .next (s.traps i .accv 0 0)) ∧
      (s.pantryAdmits .write = true → oneChip first n = false → exec i s = .next (s.traps i .symx 6 0)) ∧
      (s.pantryAdmits .write = true → oneChip first n = true → (∃ id ∈ idRange first n, s.symAlive job id = false) →
        exec i s = .next (s.traps i .symx 3 0)) ∧
      (s.pantryAdmits .write = true → oneChip first n = true → (∀ id ∈ idRange first n, s.symAlive job id = true) →
        (s.cx.rs c = 1 → (∃ id ∈ idRange first n, 65535 ≤ s.refsComing job id) →
          exec i s = .next (s.traps i .symx 5 0)) ∧
        ((s.cx.rs c = 0 ∨ ∀ id ∈ idRange first n, s.refsComing job id < 65535) →
          exec i s = .next { s with
            nextId := s.nextId + 1,
            rels := s.rels ++ [{ s.owner with
              id := s.nextId, job := job, first := first, n := n, add := decide (s.cx.rs c = 1) }] })))) ∧
  Cause.symx.code = 0x26

/-- R79, R80, R341, R343, R344 to R347: the pantry applies a sym.sig and a sym.rel to every entry of its range; a cond is
accepted by its attic, with a reserved slot of its ring, or waits; its condensation ends with the report of a broken tensor, or
chooses its symbols and its writes, and then writes them and releases what it has selected; cond.qry reports. -/
def Obligations.PantryEventsAndCondensation : Prop :=
  (∀ (s : State) (j : SigJob) (ps : List Piece), s.sigs.find? (fun x => x.id == j.id) = some j →
    s.enginePieces j.toOwner 3 .read .pm (BitVec.ofNat 64 j.src) (4 * j.n) = some ps →
    ∃ u : State, exec (.significanceContribution j.id) s = .next u ∧
      u.mem = (s.readErrors (s.ownerAt j.toOwner (BitVec.ofNat 64 j.src)) ps).mem ∧ u.ctxs = s.ctxs ∧
      u.sigs = s.sigs.filter (fun x => x.id != j.id) ∧ u.syms.length = s.syms.length ∧
      (∀ e ∈ s.syms, e.job ≠ j.job ∨ e.id ∉ idRange j.first j.n ∨ e.st = .free → e ∈ u.syms) ∧
      ∀ k, k < j.n → j.n ≤ 2 ^ 32 → ∀ e ∈ s.syms, e.job = j.job → e.id = j.first + BitVec.ofNat 32 k → e.st ≠ .free →
        e.contribute j.group j.et (f32 (BitVec.ofNat 32 ((elements j.n 4 (s.piecesBytes ps)).getD k 0))) ∈ u.syms) ∧
  (∀ (s : State) (j : RelJob), s.rels.find? (fun x => x.id == j.id) = some j → j.n ≤ 2 ^ 32 →
    exec (.referenceUpdate j.id) s = .next { s with
      rels := s.rels.filter (fun x => x.id != j.id),
      syms := s.syms.map (fun e =>
        if e.job = j.job ∧ e.id ∈ idRange j.first j.n ∧ e.st ≠ .free then
          (if j.add then { e with refs := e.refs + 1 } else e.release) else e) }) ∧
  (∀ (s : State) (d a b c e : SReg) (h : HReg) (re : Bool) (tc : List Touch),
    let i : Instr := .cond d a b c e h re
    let ready := s.atticUse s.myCore.cluster < 16 ∧ (re = true → s.ringReady h true 1 = true)
    s.issuesInOrder i [.s a, .s b, .s c, .s e] →
    let noted := fun (u : State) => (u.noteIssue s .glob (s.cx.rs a) 64).noteIssue s .glob (s.cx.rs e) (if e = 0 then 0 else 16)
    s.checkCond a e h re = .ok tc → tc.any (·.away) = false →
    (ready → ∃ (u : State) (k : Cond) (r : Result), exec i s = .next (noted u) ∧
      u.mem = s.mem ∧ u.conds = s.conds ++ [k] ∧ k.cid = s.env.cid ∧ k.num = s.cx.condNum ∧
      k.cluster = s.myCore.cluster ∧ k.atd = s.cx.rs a ∧ k.m = (s.cx.rs b).toNat % 2 ^ 32 ∧
      k.vec = (if c = 0 then none else some (s.cx.rs c)) ∧ k.event = (if e = 0 then none else some (keyOf tc)) ∧
      k.ring = (if re = true then (s.ringOf h).map (·.1) else none) ∧ k.st = .run ∧ k.work = none ∧
      (re = false → u.cores = s.cores) ∧
      (∀ n y, re = true → s.ringOf h = some (n, y) → u.ringAt s.myCore n = y.reserve 1) ∧
      u.cx = { s.cx with
        condNum := s.cx.condNum + 1, results := s.cx.results ++ [r], nextRid := s.cx.nextRid + 1 } ∧
      r.dest = .s d ∧ r.due = s.env.ctm + 6 ∧ toWord r.val = s.cx.condNum.setWidth 64) ∧
    (¬ ready → s.mayWait s.cx.ctl.dlw → ∃ u : State, exec i s = .next (noted u) ∧ s.waitsUnder u i s.cx.ctl.dlw)) ∧
  (∀ (s : State) (d a : SReg), s.issuesInOrder (.condQry d a) [.s a] →
    (∀ k : Cond, s.recentCond ((s.cx.rs a).setWidth 16) = some k → exec (.condQry d a) s =
      .next (s.gainsWord 6 d (((if k.st = .ok then k.mc else 0#32) ++ 0#5 ++ k.st.code : BitVec 40).setWidth 64))) ∧
    (s.recentCond ((s.cx.rs a).setWidth 16) = none →
      ∃ w : Word, exec (.condQry d a) s = .next (({ s with free := s.free + 1 } : State).gainsWord 6 d w))) ∧
  (∀ (s : State) (k : Cond), s.conds.find? (fun x => x.id == k.id) = some k → k.st = .run →
    let job := s.jobOf k.region
    let read := (s.readErrors (s.ownerAt k.toOwner k.atd) (s.condPieces k)).noteReach k.toOwner (s.condReach k)
    (s.condBehind k = true → exec (.condensation k.id) s = .next s) ∧
    (s.condBehind k = false → k.revoked = none → k.work = none → k.stopped = false → s.isOut k.toOwner = false →
      s.atticAdmitted k = false → exec (.condensation k.id) s = .next (s.finishCond k .fault 0)) ∧
    (∀ r : CondRead, s.condBehind k = false → k.revoked = none → k.work = none → k.stopped = false →
      s.isOut k.toOwner = false → s.atticAdmitted k = true → s.condReads k = some r →
      (s.tensorStatus job r.t ≠ .ok →
        exec (.condensation k.id) s = .next (read.finishCond k (s.tensorStatus job r.t).condSt 0)) ∧
      (s.tensorStatus job r.t = .ok → ∀ l, s.reachWrites k (if k.m = 0 then [] else condWrites r (s.condSelect k r)) = some l →
        ∃ u : State, exec (.condensation k.id) s = .next u ∧ u.mem = read.mem ∧ u.ctxs = s.ctxs ∧ u.syms = s.syms ∧
          u.conds = s.conds.map (fun x =>
            if x.id = k.id then { x with work := some ((s.condSelect k r).map (·.sym), l) } else x))) ∧
    (∀ w, s.condBehind k = false → k.revoked = none → k.work = some w →
      ∃ u : State, exec (.condensation k.id) s = .next u ∧
        (∀ e ∈ s.syms, e.job ≠ job ∨ e.id ∉ w.1 → e ∈ u.syms) ∧
        (w.1.Nodup → ∀ e ∈ s.syms, e.job = job → e.id ∈ w.1 → e.release ∈ u.syms) ∧
        (∃ x ∈ u.conds, x.id = k.id ∧ x.st = .ok ∧ x.mc = BitVec.ofNat 32 w.1.length ∧ x.work = none) ∧
        (k.event = none → k.ring = none → k.phase = none →
          u.mem = (s.putCells ((condCells w.2).filter (fun c => !k.done.contains (c.1 / 8)))).mem ∧ u.ctxs = s.ctxs ∧
          u.conds = s.conds.map (fun x => if x.id = k.id then
            { x with st := .ok, mc := BitVec.ofNat 32 w.1.length, stopped := false, revoked := none, work := none } else x)))) ∧
  (∀ (s : State) (k : Cond) (st : CondSt) (mc : Nat), k.event = none → k.ring = none →
    s.finishCond k st mc = { s with conds := s.conds.map (fun x =>
      if x.id = k.id then { x with st := st, mc := BitVec.ofNat 32 mc, stopped := false, revoked := none, work := none } else x) })

/-! ## Collectives (spec/13, spec/20) -/

/-- R356 to R359, R364 to R368: xpost reads the block, and answers the status of the first check that fails or accepts the
post, which ends at once where its instance has ended before; xqry reports, xcanc cancels; a timeout, a failure or a
cancellation seen elsewhere ends a running post. What the post leaves in its destination is unspecified, and no byte outside
destination and event changes. -/
def Obligations.CollectivePostsAndEnds : Prop :=
  (∀ (s : State) (d a : SReg) (tc : List Touch), s.issues [.s a] →
    s.checkAccess .glob .read 2 5 (s.cx.rs a) 128 128 = .ok tc → s.postBehind tc ≠ [] →
    exec (.xpost d a) s = .next (s.blockBehind (s.postBehind tc))) ∧
  (∀ (s : State) (d a : SReg) (t : IssueTrap), s.issues [.s a] →
    s.checkAccess .glob .read 2 5 (s.cx.rs a) 128 128 = .error t →
    exec (.xpost d a) s = .next (s.traps (.xpost d a) t.cause t.det t.far)) ∧
  (∀ (s : State) (d a : SReg) (tc : List Touch), s.issues [.s a] →
    s.checkAccess .glob .read 2 5 (s.cx.rs a) 128 128 = .ok tc → s.postBehind tc = [] →
    let v := (s.reading .read (s.cx.rs a) tc).noteAccess .glob (s.cx.rs a) 128
    let b : BitVec 1024 := BitVec.ofNat 1024 (v.valueAt tc)
    let die := s.myCore.cluster.die
    let gid : BitVec 16 := BitVec.ofNat 16 (blk b 4 2)
    let inst := s.nextInst die gid
    let noted := fun (e : BitVec 2 × BitVec 16 × Nat × Bool) => e.1 == die && e.2.1 == gid && e.2.2.1 == inst
    (∀ (st : Nat), v.checkPost s.env.cid b = .error st → exec (.xpost d a) s = .next (v.gainsWord 6 d (postWord 0 st))) ∧
    (∀ (es : List (BitVec 16)) (rank : Nat), v.checkPost s.env.cid b = .ok (es, rank) →
      ∃ (u : State) (p : Post) (r : Result), exec (.xpost d a) s = .next u ∧ p ∈ u.posts ∧
        p.cid = s.env.cid ∧ p.num = s.cx.postNum ∧ p.die = die ∧ p.gid = gid ∧ p.inst = inst ∧
        p.rank = rank ∧ p.block = b ∧ p.entries = es ∧ p.limit = s.postLimit s.env.cid b ∧
        u.nextInst die gid = inst + 1 ∧ r ∈ u.cx.results ∧
        (s.phases = [] → u.cx = { s.cx with
          postNum := s.cx.postNum + 1, results := s.cx.results ++ [r], nextRid := s.cx.nextRid + 1 }) ∧
        r.dest = .s d ∧ r.due = s.env.ctm + 6 ∧ toWord r.val = postWord s.cx.postNum 0 ∧
        (s.early.find? noted = none → s.contribsAt die gid inst = [] →
          u.mem = v.mem ∧ u.posts = s.posts ++ [p] ∧ p.st = .run) ∧
        (∀ e, s.early.find? noted = some e →
          (e.2.2.2 = true → p.st = .cancelled ∧ p.rsn = 6) ∧
          (e.2.2.2 = false → p.st = .failed ∧ p.rsn = 2)))) ∧
  (∀ (s : State) (d a : SReg), s.issuesInOrder (.xqry d a) [.s a] →
    let w := s.cx.rs a
    (queryOk w = false → exec (.xqry d a) s = .next (s.traps (.xqry d a) .ill 0 0)) ∧
    (queryOk w = true →
      (w.extractLsb' 62 2 = 0 → exec (.xqry d a) s =
        .next (s.gainsWord 6 d (BitVec.ofNat 64 (s.cx.queue (w.setWidth 3)).length))) ∧
      (w.extractLsb' 62 2 = 1 → s.env.pos = 7 → ∀ t : Task, s.cx.task = some t → exec (.xqry d a) s =
        .next (s.gainsWord 6 d (BitVec.ofNat 64
          ((s.sends.countP (fun x => x.origin.isNone && x.cid == s.env.cid && x.serial == t.serial)) % 64)))) ∧
      (w.extractLsb' 62 2 = 2 →
        (∀ (p : Post), s.recentPost (w.setWidth 16) = some p →
          exec (.xqry d a) s = .next (s.gainsWord 6 d (postReport p))) ∧
        (s.recentPost (w.setWidth 16) = none →
          ∃ x : Word, exec (.xqry d a) s = .next (({ s with free := s.free + 1 } : State).gainsWord 6 d x) ∧
            x.extractLsb' 0 3 ∈ [0#3, 1#3, 4#3, 5#3])))) ∧
  (∀ (s : State) (d a : SReg), s.sound → s.issuesInOrder (.xcanc d a) [.s a] →
    ((s.cx.rs a).extractLsb' 16 48 ≠ 0 → exec (.xcanc d a) s = .next (s.traps (.xcanc d a) .ill 0 0)) ∧
    ((s.cx.rs a).extractLsb' 16 48 = 0 →
      (s.recentPost ((s.cx.rs a).setWidth 16) = none → exec (.xcanc d a) s = .next (s.gainsWord 6 d 2)) ∧
      (∀ (p : Post), s.recentPost ((s.cx.rs a).setWidth 16) = some p →
        (p.st ≠ .run → exec (.xcanc d a) s = .next (s.gainsWord 6 d 1)) ∧
        (p.st = .run →
          ∃ (u : State) (r : Result), exec (.xcanc d a) s = .next u ∧
            (∃ q ∈ u.posts, q.id = p.id ∧ q.st = .cancelled ∧ q.rsn = 6) ∧ r ∈ u.cx.results ∧
            (s.phases = [] → u.cx = { s.cx with results := s.cx.results ++ [r], nextRid := s.cx.nextRid + 1 }) ∧ r.dest = .s d ∧
            toWord r.val = 0 ∧ (s.localDies p.entries = [p.die] → s.postEnds u p .cancelled 6))))) ∧
  (∀ (s : State) (p : Post), s.sound → s.posts.find? (fun q => q.id == p.id) = some p →
    (p.st ≠ .run ∨ s.postFrozen p = true ∨ (s.gcc - p.started).toNat < p.limit.toNat →
      exec (.instanceTimeout p.id) s = .next s) ∧
    (p.st = .run → s.postFrozen p = false → p.limit.toNat ≤ (s.gcc - p.started).toNat →
      ∃ u : State, exec (.instanceTimeout p.id) s = .next u ∧ (s.phases = [] → u.ctxs = s.ctxs) ∧
        (∃ q ∈ u.posts, q.id = p.id ∧ q.st = .failed) ∧
        (s.localDies p.entries = [p.die] → s.postEnds u p .failed 1)) ∧
    (s.postAt p.die p.gid p.inst = some p → p.st ≠ .run →
      exec (.peer p.die p.gid p.inst) s = .next s ∧ exec (.cancellationReport p.die p.gid p.inst) s = .next s) ∧
    (s.postAt p.die p.gid p.inst = some p → p.st = .run →
      (∃ u : State, exec (.peer p.die p.gid p.inst) s = .next u ∧ (s.phases = [] → u.ctxs = s.ctxs) ∧
        (∃ q ∈ u.posts, q.id = p.id ∧ q.st = .failed) ∧
        (s.localDies p.entries = [p.die] → s.postEnds u p .failed 2)) ∧
      (∃ u : State, exec (.cancellationReport p.die p.gid p.inst) s = .next u ∧ s.postEnds u p .cancelled 6 ∧
        (s.phases = [] → u.ctxs = s.ctxs)))) ∧
  (∀ (s : State) (die : BitVec 2) (gid : BitVec 16) (inst : Nat), s.postAt die gid inst = none →
    (∀ e ∈ s.early, ¬ (e.1 = die ∧ e.2.1 = gid ∧ e.2.2.1 = inst)) →
    exec (.peer die gid inst) s =
      .next { s.dropContribs die gid inst with early := (die, gid, inst, false) :: s.early } ∧
    exec (.cancellationReport die gid inst) s =
      .next { s.dropContribs die gid inst with early := (die, gid, inst, true) :: s.early })

/-- R360 to R367, R486, R497, R501: a member asks the other chips of its group for space before its data goes out, and waits while
the porch is down; its data goes to every member of the chip, and stays there until the post needs it; a completed collective writes
its destination, reports OK with the flags of the combination, and touches no other byte but its event. -/
def Obligations.CollectiveDataAndCompletion : Prop :=
  (∀ (s : State) (p : Post), s.posts.find? (fun q => q.id == p.id) = some p → p.st = .run → p.stepped = false →
    (∀ f ∈ s.faults, f.eng ≠ .omnibus p.id) → s.olderWaits p.toOwner = false → s.postWaits p = false →
    s.remoteChips p.entries ≠ [] →
    let far := s.remoteChips p.entries
    (s.porch.up = false → exec (.omnibusStep p.id) s = .next s) ∧
    (s.porch.up = true → (∃ c ∈ far, s.routeMask c = 0) →
      ∃ u : State, exec (.omnibusStep p.id) s = .next u ∧ ∃ q ∈ u.posts, q.id = p.id ∧ q.st = .failed ∧ q.rsn = 2) ∧
    (s.porch.up = true → (∀ c ∈ far, s.routeMask c ≠ 0) → (∃ c ∈ far, s.stepPermitted p c = false) →
      ∃ u : State, exec (.omnibusStep p.id) s = .next u ∧ ∃ q ∈ u.posts, q.id = p.id ∧ q.st = .failed ∧ q.rsn = 5) ∧
    (s.porch.up = true → (∀ c ∈ far, s.routeMask c ≠ 0 ∧ s.stepPermitted p c = true) → p.asked = false →
      ∃ u : State, exec (.omnibusStep p.id) s = .next u ∧ u.mem = s.mem ∧ u.ctxs = s.ctxs ∧ u.contribs = s.contribs ∧
        u.posts = s.posts.map (fun q => if q.id = p.id then { q with asked := true } else q) ∧
        ∀ c ∈ far, ∃ tag, (tag, s.postChannel p, c, LinkUse.post p.id) ∈ u.porch.outstanding)) ∧
  (∀ (s : State) (p : Post) (ps : List Piece), s.posts.find? (fun q => q.id == p.id) = some p → p.st = .run →
    p.stepped = false → (∀ f ∈ s.faults, f.eng ≠ .omnibus p.id) → s.postSource p = some ps → s.olderWaits p.toOwner = false →
    s.postWaits p = false →
    (s.remoteChips p.entries = [] ∨ (s.porch.up = true ∧ p.asked = true ∧
      ∀ c ∈ s.remoteChips p.entries, s.routeMask c ≠ 0 ∧ s.stepPermitted p c = true)) →
    let v := s.readErrors (s.ownerAt p.toOwner (blkAddr p.block 0x10)) ps
    let outs := (s.localDies p.entries).map (fun d =>
      (⟨d, p.gid, p.inst, p.rank, p.block, p.entries, v.carriedFrom p.ahead ps⟩ : Contrib))
    ((∃ c ∈ outs, s.contribFits c = false) → exec (.omnibusStep p.id) s = .next s) ∧
    ((∀ c ∈ outs, s.contribFits c = true) →
      (∃ u : State, exec (.omnibusStep p.id) s = .next u ∧ ∃ q ∈ u.posts, q.id = p.id ∧ q.stepped = true) ∧
      (let u : State := { v with
         posts := s.posts.map (fun q => if q.id = p.id then { q with stepped := true } else q),
         contribs := s.contribs ++ outs }
       (∀ e ∈ p.entries, entryChip e = s.chip) → (∀ d ∈ s.localDies p.entries, s.memberEnded d p.gid p.inst = false) →
       (∀ d ∈ s.localDies p.entries, ∀ q, u.postAt d p.gid p.inst = some q → u.postBad q = none) →
       exec (.omnibusStep p.id) s = .next u))) ∧
  (∀ (s : State) (c : Contrib),
    let i : Instr := .earlyArrival c.die c.gid c.inst c.rank c.block c.entries c.data
    let u : State := { s with contribs := s.contribs ++ [c] }
    (s.contribFits c = false → exec i s = .next s) ∧
    ((∀ e ∈ s.early, ¬ (e.1 = c.die ∧ e.2.1 = c.gid ∧ e.2.2.1 = c.inst)) →
      (s.postAt c.die c.gid c.inst = none → s.contribFits c = true → exec i s = .next u) ∧
      (∀ p, s.postAt c.die c.gid c.inst = some p →
        (p.st ≠ .run → exec i s = .next s) ∧
        (p.st = .run → u.postBad p = none → exec i s = .next u)))) ∧
  (∀ (s : State) (p : Post) (dst : List Piece), s.sound → s.posts.find? (fun q => q.id == p.id) = some p →
    p.st = .run → p.stepped = true → s.haveAll p = true → (∀ f ∈ s.faults, f.eng ≠ .omnibus p.id) →
    (∀ o ∈ s.porch.outstanding, o.2.2.2 ≠ .post p.id) →
    (writesDst p.block p.rank = true →
      s.globalPieces p.part 2 .write (blkAddr p.block 0x18) (dstBytes p.block p.entries.length) = some dst) →
    let r := collect p (2 ^ 32 * p.gid.toNat + p.inst) (s.inRankOrder p)
    let inPlace := blkAddr p.block 0x10 = blkAddr p.block 0x18 ∧ (blkOp p.block = 0 ∨ blkOp p.block = 1 ∨ blkOp p.block = 4)
    ∃ (u : State) (fl : Flags) (done : List Nat), exec (.collectiveCompletion p.id) s = .next u ∧
      (p.phase = none → u.ctxs = s.ctxs) ∧ (writesDst p.block p.rank = true → fl = r.2) ∧
      u.posts = s.posts.map (fun q => if q.id = p.id then { q with st := .ok, flags := fl, done := q.done ++ done } else q) ∧
      (s.undamaged [⟨p.event, 16⟩] → ∀ k, s.beyondPost p k → memRead u.mem k = memRead s.mem k) ∧
      ∀ key n, writesDst p.block p.rank = true → dst = [⟨key, n⟩] → r.1.length = n → p.done = [] →
        (inPlace ∨ piecesOverlap ((s.postSource p).getD []) dst = false) → s.undamaged [⟨p.event, 16⟩] →
        (∀ k, key ≤ k → k < key + n → outsidePieces [⟨p.event, 16⟩] k) → u.bytesAt key n = r.1.map (·.1)) ∧
  (∀ (p : Post) (key : Nat) (l : List Contrib), blkOp p.block = 3 →
    (collect p key l).1 = l.flatMap (fun x => x.data.take (blkCount p.block * (blkDt p.block).bytes)) ∧
    (collect p key l).2 = Flags.none) ∧
  (∀ (dt : Fmt) (a b : Summand), dt.isFloat = false →
    (combine dt 3 a b).1 = a.1 &&& b.1 ∧ (combine dt 4 a b).1 = a.1 ||| b.1 ∧ (combine dt 5 a b).1 = a.1 ^^^ b.1)

/-! ## Traps (spec/18, spec/09) -/

/-- R100, R247, R443, R447, R448, R450: a trap writes the trap registers and the frame, saves them in the shadow set and starts the
handler at its vector, one level up, with no loop and no result of the interrupted code, whose due times it keeps as distances; a bad
stack or a fifth level stops the context. tret outside a handler raises PRIV; while an older access of the handler waits it holds its
bundle (R152); with a stack pointer in range it completes: the shadow set becomes PSH of the frame and TCS, TAD and SFM the shadow
set, the context resumes at the frame's return point one level down, and the interrupted work goes on. -/
def Obligations.TrapEntryAndReturn : Prop :=
  (∀ (s : State) (c : CtxId) (t : Trap), s.sound →
    let x := s.ctx c
    let a := x.s[62] - 128
    let u := s.enterHandler c t
    let y := u.ctx c
    y.trap = ⟨t.tcs, t.tad, t.sfm.setWidth 64⟩ ∧
    (0xFFF80 < a.toNat ∨ a.toNat % 128 ≠ 0 ∨ x.level = 4 →
      y.run = .hflt ∧ y.s = x.s ∧ y.level = x.level ∧ y.flow = x.flow) ∧
    (a.toNat ≤ 0xFFF80 → a.toNat % 128 = 0 → x.level ≠ 4 → (s.partOf (s.ctxPart c)).trace = none →
      y.run = x.run ∧ y.shadow = y.trap ∧ y.s = x.s.set 62 a ∧ y.level = x.level + 1 ∧ y.results = [] ∧ y.slip = [] ∧
      y.loops = Vector.replicate 6 Loop.idle ∧ y.flow.dsl = 0 ∧
      y.flow.pc = (x.ctl.tvb &&& ~~~ 0xFF#64) + BitVec.ofNat 64 (64 * t.cause.code.toNat) ∧
      y.v = x.v ∧ y.p = x.p ∧ y.acc = x.acc.map (fun b => b.hold x.ctm) ∧ y.h = x.h ∧ y.ctl = x.ctl ∧ y.ctm = x.ctm ∧
      (∃ f : Frozen, y.frozen = f :: x.frozen ∧ f.loops = x.loops ∧
        f.results = x.results.map (fun r => { r with due := r.due - x.ctm }) ∧ f.slip.length = x.slip.length ∧
        (f.pastEnd.isSome = x.flow.pastEnd)) ∧
      (∀ d, d ≠ c → u.ctx d = s.ctx d) ∧ (∀ k, k ≠ c.core → u.core k = s.core k) ∧
      (u.core c.core).holder = (s.core c.core).holder ∧ (u.core c.core).rings = (s.core c.core).rings ∧
      u.bytesAt (pmKey c.core a.toNat) 128 = frameBytes x t (x.level + 1) ∧
      sameOutside s u (pmKey c.core a.toNat) 128)) ∧
  (∀ (s : State),
    (s.cx.level = 0 → s.env.pos = 0 → exec .tret s = .next (s.traps .tret .priv 0 0)) ∧
    (s.cx.level ≠ 0 → s.cx.tretBehind ≠ [] → exec .tret s = .next (s.blockBehind s.cx.tretBehind)) ∧
    (s.cx.level ≠ 0 → s.cx.tretBehind = [] → (0xFFF80 < s.cx.s[62].toNat ∨ s.cx.s[62].toNat % 128 ≠ 0) →
      s.members s.env.cid = [s.env.cid] →
      ∃ u : State, exec .tret s = .next u ∧ u.cx.run = .hflt ∧ u.cx.s = s.cx.s ∧ u.cx.level = s.cx.level)) ∧
  (∀ (s : State), s.cx.level ≠ 0 → s.cx.tretBehind = [] → s.cx.s[62].toNat ≤ 0xFFF80 → s.cx.s[62].toNat % 128 = 0 →
    exec .tret s = .next { s.returnHandler s.env.cid with env := { s.env with redirect := true } }) ∧
  (∀ (s : State) (c : CtxId), (s.ctx c).s[62].toNat ≤ 0xFFF80 → (s.ctx c).s[62].toNat % 128 = 0 →
    let x := s.ctx c
    let key := pmKey c.core x.s[62].toNat
    let w := fun (off : Nat) => BitVec.ofNat 64 (s.natAt (key + off) 8)
    let u := s.returnHandler c
    let y := u.ctx c
    ((s.partOf (s.ctxPart c)).trace = none → u.mem = s.mem) ∧ (∀ d, d ≠ c → u.ctx d = s.ctx d) ∧
    (∀ k, k ≠ c.core → u.core k = s.core k) ∧
    y.shadow = ⟨w 0x38 &&& 0xFFFFFFFF073F#64, w 0x40, w 0x48 &&& 0xFF#64⟩ ∧ y.trap = y.shadow ∧
    y.s = x.s.set 62 (x.s[62] + 128) ∧ y.level = x.level - 1 ∧ y.flow.pc = w 0 ∧ y.flow.dsl = (w 8).setWidth 2 ∧
    y.flow.dst = ((w 8 &&& ~~~ 0xFF#64) ||| BitVec.ofNat 64 (s.natAt (key + 0x51) 1)) ∧
    (∀ f, x.frozen.head? = some f → y.loops = f.loops ∧
      y.results = x.results ++ f.results.map (fun r => { r with due := r.due + (x.ctm + 1) }) ∧
      y.flow.pastEnd = (f.pastEnd == some (w 0))) ∧
    y.frozen = x.frozen.tail ∧ (∃ l, y.slip = l ++ x.slip) ∧ y.v = x.v ∧ y.p = x.p ∧
    (∀ ac : AReg, y.ra ac = { x.ra ac with flight := (y.ra ac).flight }) ∧
    y.h = x.h ∧ y.ctl = x.ctl ∧ y.task = x.task ∧ y.run = x.run ∧ y.ctm = x.ctm)

/-- R447, R448, R450: a return straight after the entry of its handler gives back the return point, the delay-slot state,
the stack pointer, the level, the loops and the shadow set; TCS, TAD and SFM are then those of the shadow set, so of the trap whose
handler runs (R449). -/
def Obligations.ReturnUndoesEntry : Prop :=
  ∀ (s : State) (c : CtxId) (t : Trap), s.sound →
    let x := s.ctx c
    let a := x.s[62] - 128
    a.toNat ≤ 0xFFF80 → a.toNat % 128 = 0 → x.level.toNat < 4 → (s.partOf (s.ctxPart c)).trace = none →
    x.shadow.tcs &&& 0xFFFFFFFF073F#64 = x.shadow.tcs → x.shadow.sfm &&& 0xFF#64 = x.shadow.sfm →
    let y := ((s.enterHandler c t).returnHandler c).ctx c
    y.flow.pc = x.flow.pc ∧ y.flow.dsl = x.flow.dsl ∧ (x.flow.dsl ≠ 0 → y.flow.dst = x.flow.dst) ∧ y.s = x.s ∧
    y.level = x.level ∧ y.loops = x.loops ∧ y.shadow = x.shadow ∧ y.frozen = x.frozen ∧
    y.trap = x.shadow ∧ y.v = x.v ∧ y.p = x.p ∧ y.h = x.h ∧ y.ctl = x.ctl ∧
    (∀ ac : AReg, y.ra ac = { x.ra ac with flight := (y.ra ac).flight }) ∧ y.results.length = x.results.length ∧
    y.slip.length = x.slip.length ∧ y.flow.pastEnd = x.flow.pastEnd

/-- R37, R102, R110 to R114, R120, R139, R219, R220, R252, R445, R475: the traps of a boundary and of a bundle that cannot be
fetched or decoded, in a context alone in its coach; the expansion of a segment, which finds the errors of its storage (R148);
the unwinding of a containment region. -/
def Obligations.BoundaryAndFetchTraps : Prop :=
  (∀ (s : State) (c : CtxId) (t : BTrap), (s.ctx c).run = .running → s.members c = [c] →
    let taken (cause : Cause) : State :=
      (s.mapCtx c (fun x => { x with btraps := x.btraps.erase t })).enterHandler c
        ⟨cause, t.det, t.tad, t.sfm, slotCauses t.sfm cause, 0⟩
    (s.boundary c = .trap .fpx → (s.ctx c).pendingTrap .fpx = some t → exec (.fpx c) s = .next (taken .fpx)) ∧
    (s.boundary c = .trap .swt → (s.ctx c).pendingTrap .swt = some t → exec (.swt c) s = .next (taken .swt)) ∧
    ((∀ k ∈ s.copies, s.missed c k = false) → s.boundary c = .trap .pmiss → (s.ctx c).pendingTrap .pmiss = some t →
      exec (.pmiss c) s = .next (taken .pmiss))) ∧
  (∀ (s : State) (c : CtxId) (k : Copy), k ∈ s.copies → s.missed c k = true →
    (∃ t ∈ ((s.noteMissed c).ctx c).btraps, t.cause = .pmiss ∧ t.det = k.num.setWidth 32) ∧
    ∀ q ∈ (s.noteMissed c).copies, q.id = k.id → s.missed c q = false) ∧
  (∀ (s : State) (c : CtxId) (t : BTrap), (s.ctx c).run = .running → s.members c = [c] → (s.ctx c).unwind = none →
    (s.ctx c).btraps = [t] → t.cause = .capc → t.level = (s.ctx c).level →
    let seq : BitVec 32 := (s.ctx c).ctl.capn.setWidth 32
    let clear := s.mapCtx c (fun x => { x with btraps := [] })
    (seq.toNat ≤ (s.ctx c).ack.toNat → exec (.capc c) s = .next clear) ∧
    ((s.ctx c).ack.toNat < seq.toNat →
      exec (.capc c) s = .next (clear.enterHandler c ⟨.capc, seq, (s.ctx c).flow.pc, 0, 0, 0⟩))) ∧
  (∀ (s : State) (c : CtxId) (r : Region) (rs : List Region) (lk : Word), (s.ctx c).run = .running →
    s.members c = [c] → (s.ctx c).unwind = some lk → (s.ctx c).cregs = r :: rs → (∀ l ∈ s.late, l.cid ≠ c) →
    ∃ u : State, exec (.containmentUnwinding c) s = .next u ∧ u.mem = s.mem ∧ onlyContext s u c ∧
      (let x := s.ctx c
       let y := u.ctx c
       y.flow.pc = r.handler ∧ y.flow.dsl = 0 ∧ y.rs 63 = lk ∧ y.cregs = rs ∧ y.unwind = none ∧
       (∀ q, q ≠ 63 → y.rs q = x.rs q) ∧ y.v = x.v ∧ y.p = x.p ∧ y.acc = x.acc ∧ y.ctl = x.ctl ∧
       y.results = x.results.filter (fun e => decide (e.issued.toNat ≤ r.opened.toNat)) ∧
       y.slip = x.slip.filter (fun e => decide (e.ctm.toNat ≤ r.opened.toNat)))) ∧
  (∀ (s : State) (c : CtxId), s.members c = [c] → (s.ctx c).run = .running → s.boundary c = .clear →
    let x := s.ctx c
    (∀ (g : Segment) (b : Bundle) (cause : Cause) (m : BitVec 8), x.loaded (bundleSeg x.flow.pc) = some g →
      g.bundles[bundleIdx x.flow.pc]? = some b → s.decodeChecked c b = .error (cause, m) →
      exec (.bundleDecodeFailure c) s =
        .next (s.enterHandler c ⟨cause, 0, x.flow.pc, m, slotCauses m cause, 0⟩)) ∧
    (∀ (cause : Cause) (det : BitVec 32) (far : Word), x.fetchFaultOf = some (cause, det, far) →
      (x.flow.entering = none ∨ firstFetchFault cause = false →
        exec (.fetchFault c) s =
          .next ((s.mapCtx c Ctx.dropFaulty).enterHandler c ⟨cause, det, x.flow.pc, 0, 0, far⟩)) ∧
      (∀ entered, x.flow.entering = some entered → firstFetchFault cause = true →
        ∃ u : State, exec (.fetchFault c) s = .next u ∧ (u.ctx c).run = .hflt ∧ (u.ctx c).s = x.s))) ∧
  (∀ (s : State) (c : CtxId) (seg : BitVec 56), (s.ctx c).run = .running →
    let v := (s.readErrors (s.readerAt c (segAddr seg)) (s.segmentPieces c.core (s.ctxPart c) seg)).noteTlb c.core
      (s.readerAt c (segAddr seg))
    ∃ u : State, exec (.segmentExpansion c seg) s = .next u ∧ u.mem = v.mem ∧ onlyContext v u c ∧
      (u.ctx c).loaded seg = some (v.expandSegment c.core (s.ctxPart c) seg) ∧ (u.ctx c).lbuf.length ≤ 2 ∧
      (seg ≠ bundleSeg (s.ctx c).flow.pc →
        (u.ctx c).loaded (bundleSeg (s.ctx c).flow.pc) = (s.ctx c).loaded (bundleSeg (s.ctx c).flow.pc)) ∧
      (u.ctx c) = { s.ctx c with lbuf := (u.ctx c).lbuf })

/-- R95 to R98, R115, R118, R248, R493: a value that arrives, or times out, is written when it is due; what waits is tried
again; a limit that has passed marks what waits for it; a core goes on with the context that has been ready longest. -/
def Obligations.ArrivalsWaitsAndSwitches : Prop :=
  (∀ (s : State) (c : CtxId) (r : Result), (s.ctx c).alive = true → (s.ctx c).results = [r] → (s.ctx c).slip = [] →
    (∀ l ∈ s.late, l.cid ≠ c) → (s.ctx c).frozen = [] → r.held = false → r.arrived = false →
    let x := s.ctx c
    (x.ctm.toNat < r.due.toNat →
      exec (.pendingValueArrival c r.rid) s =
        .next (s.mapCtx c (fun x => { x with results := [{ r with arrived := true }] })) ∧
      (r.host = true → r.dest ≠ .wait → r.dest ≠ .none → x.cregs = [] →
        ∃ (u : State) (q : Result), exec (.completionTimeout c (.value r.rid)) s = .next u ∧ u.mem = s.mem ∧
          u.ctx c = { x with results := [q] } ∧ q.dest = r.dest ∧ q.arrived = true ∧ q.preg = true ∧ q.due = r.due)) ∧
    (r.due.toNat ≤ x.ctm.toNat → ∀ d : SReg, d ≠ 0 → r.dest = .s d → r.fpx = none → r.noFps = false →
      ∃ u : State, exec (.pendingValueArrival c r.rid) s = .next u ∧ u.mem = s.mem ∧ onlyContext s u c ∧
        (u.ctx c).results = [] ∧ (u.ctx c).rs d = toWord r.val + r.stride ∧
        (∀ q, q ≠ d → (u.ctx c).rs q = x.rs q) ∧ (u.ctx c).v = x.v ∧ (u.ctx c).p = x.p ∧
        (u.ctx c).ctl.fps = x.ctl.fps ||| r.flags.toWord)) ∧
  (∀ (s : State) (c : CtxId) (p : Pos) (e : SlipEntry) (l : List SlipEntry), (s.ctx c).alive = true →
    (s.ctx c).slotSlip p = e :: l →
    exec (.slipBufferRelease c p) s = .next { s with stage := some (c, e) } ∧
    (p = 0 → exec (.sleepWake c) s = .next { s with stage := some (c, e) }) ∧
    (∀ w : Wait, e.wait = some w →
      (w.limit.toNat ≤ (s.dtc c - w.t0).toNat →
        ∃ u : State, exec (.waitExpiry c p) s = .next u ∧ u.stage = some (c, { e with expired := true }) ∧
          u.mem = s.mem ∧ ∀ d, (u.ctx d).sameRegisters (s.ctx d)) ∧
      ((s.dtc c - w.t0).toNat < w.limit.toNat → exec (.waitExpiry c p) s = .next s))) ∧
  (∀ (s : State) (c : CtxId) (w : Hold), (s.ctx c).alive = true → (s.ctx c).slotSlip 0 = [] →
    (s.ctx c).flow.waiting = some w →
    (w.limit.toNat ≤ (s.dtc c - w.t0).toNat →
      exec (.waitExpiry c 0) s = .next (s.mapCtx c (fun x => { x with flow := { x.flow with expired := true } }))) ∧
    ((s.dtc c - w.t0).toNat < w.limit.toNat → exec (.waitExpiry c 0) s = .next s)) ∧
  (∀ (s : State) (k : CoreId), ∃ u : State, exec (.contextSwitch k) s = .next u ∧ u.mem = s.mem ∧
    (u.core k).burst = 0 ∧ (∀ c, (u.ctx c).sameRegisters (s.ctx c)) ∧ (∀ j, j ≠ k → u.core j = s.core j) ∧
    ((∀ d ∈ coreCtxs k, s.ready d = false) → (u.core k).cur = (s.core k).cur) ∧
    (let since := fun d => (s.ctx d).readySince.getD s.nextId
     ∀ d, d ∈ coreCtxs k → d ≠ CtxId.of k (s.core k).cur → s.ready d = true → since d ≤ s.nextId →
      (∀ e ∈ coreCtxs k, e ≠ d → e ≠ CtxId.of k (s.core k).cur → s.ready e = true →
        since d < since e ∨ (since d = since e ∧ d.num.toNat < e.num.toNat)) →
      (u.core k).cur = d.num))

/-! ## The scheduler (spec/17) -/

/-- R88 to R90, R162, R316, R348, R414, R417 to R421, R429, R452, R456: the start of a task on one context, its retirement,
and the end of its launch: OK once every thread has ended, FAILED or CANCELLED without an image. -/
def Obligations.TasksStartAndEnd : Prop :=
  (∀ (s s1 : State) (l : Launch) (r : Rgn) (place : List (List Occ)), s.roundNext 4096 = (some (l, r, place), s1) →
    let n := (place.map (·.length)).sum
    ∃ u : State, exec (.taskStart l.part l.q) s = .next u ∧
      u.launches = s1.launches.map (fun x =>
        if x.id = l.id then
          { x with started := x.started + n, boost := if x.tasks ≤ x.started + n then 0 else x.boost,
                   waitingSince := if x.tasks ≤ x.started + n then none else some s.gcc }
        else x)) ∧
  (∀ (s s1 : State) (p : BitVec 4) (q : BitVec 6), s.roundNext 4096 = (none, s1) → exec (.taskStart p q) s = .next s1) ∧
  (∀ (s s1 : State) (l : Launch) (r : Rgn) (place : List (List Occ)) (p : BitVec 4) (q : BitVec 6),
    s.roundNext 4096 = (some (l, r, place), s1) → ¬ (l.part = p ∧ l.q = q) → exec (.taskStart p q) s = .next s1) ∧
  (∀ (s s1 : State) (l : Launch) (r : Rgn) (o : Occ), s.roundNext 4096 = (some (l, r, [[o]]), s1) →
    l.started < 2 ^ 64 →
    ∃ (u : State) (t : Task), exec (.taskStart l.part l.q) s = .next u ∧
      (∀ d, d ≠ o.cid → u.ctx d = s1.ctx d) ∧
      (let x := u.ctx o.cid
       x.run = .running ∧ x.task = some t ∧ t.launch = l.id ∧ t.lidx = BitVec.ofNat 64 l.started ∧ t.region = r.id ∧
       t.part = l.part ∧ t.lead = o.cid ∧ t.nacc = l.nacc ∧
       x.rs 1 = BitVec.ofNat 64 (l.field 0x18 8) ∧ x.rs 62 = BitVec.ofNat 64 (0x100000 - 0x4000 * o.cid.num.toNat) ∧
       (∀ q, q ≠ 1 → q ≠ 62 → x.rs q = 0) ∧ x.v = Ctx.reset.v ∧ x.p = Ctx.reset.p ∧ x.acc = Ctx.reset.acc ∧
       x.h = Ctx.reset.h ∧ x.ctm = 0 ∧ x.level = 0 ∧ x.flow.pc = BitVec.ofNat 64 (l.field 0 8) ∧
       x.ctl.tx = BitVec.ofNat 64 (l.coord l.started).1 ∧ x.ctl.ty = BitVec.ofNat 64 (l.coord l.started).2.1 ∧
       x.ctl.tz = BitVec.ofNat 64 (l.coord l.started).2.2 ∧ x.ctl.dlw = r.dlwmax ∧ x.ctl.tvb = r.tvb ∧
       x.dtc = .running s1.gcc)) ∧
  (∀ (s : State) (c : CtxId) (t : Task), (s.ctx c).task = some t →
    ((s.ctx c).drained = false → exec (.taskRetirement c) s = .next s) ∧
    ((s.ctx c).drained = true → ∃ u : State, exec (.taskRetirement c) s = .next u ∧ (u.ctx c).vacated = u.ctx c ∧
      (u.core c.core).holder ≠ some c.num) ∧
    ((s.ctx c).drained = true → (s.ctx c).results = [] → (s.ctx c).phase = none → (s.ctx c).ctl.civ = 0 →
      (∀ l ∈ s.late, l.cid ≠ c) →
      ∃ u : State, exec (.taskRetirement c) s = .next u ∧ u.mem = s.mem ∧ u.ctx c = (s.ctx c).vacated ∧
        (∀ d, d ≠ c → u.ctx d = s.ctx d) ∧ (u.core c.core).holder ≠ some c.num ∧
        u.launches = s.launches.map (fun l =>
          if l.id = t.launch then
            { l with
              retired := l.retired + 1,
              digest := l.digest ^^^ dgaFold 0 (leBytes 8 t.lidx.toNat ++ leBytes 8 (s.ctx c).ctl.dga.toNat),
              retiredOn := if l.retiredOn.contains c.core then l.retiredOn else l.retiredOn ++ [c.core] }
          else l))) ∧
  (∀ (s : State) (l : Launch), s.launchOf l.id = some l → s.quiet l.part →
    (s.launchDone l = true → s.replicated l.part l.q = false →
      ∃ u : State, exec (.launchEnd l.id) s = .next u ∧ u.launches = s.withEnded l.id .ok ∧ u.ctxs = s.ctxs) ∧
    (s.launchDone l = true → s.replicated l.part l.q = true →
      ∃ u : State, exec (.stepDigest l.id) s = .next u ∧ u.ctxs = s.ctxs ∧
        u.launches = s.launches.map (fun x => if x.id = l.id then { x with st := .digest } else x)) ∧
    (s.launchDone l = false → l.st ≠ .ended → s.launchStuck l = true → s.threadless l.id →
      ∃ u : State, exec (.launchEnd l.id) s = .next u ∧ u.launches = s.withEnded l.id .failed ∧ s.vacates u l.id) ∧
    (s.launchDone l = false → s.launchStuck l = false → exec (.launchEnd l.id) s = .next s) ∧
    (∀ fdom : BitVec 16, s.threadless l.id →
      s.launches.filter (fun x => x.part == l.part && x.st != .ended && s.fdomOf x == some fdom) = [l] →
      ∃ u : State, exec (.teardown l.part fdom) s = .next u ∧ u.launches = s.withEnded l.id .cancelled ∧
        s.vacates u l.id))

/-- R411 to R416, R421, R429: a doorbell submits the records up to the value written; an admitted launch is released, held
or ended with the status of its first failing check; holds are tested; waiting raises a launch; a doorbell cancels one. -/
def Obligations.DoorbellsAdmissionAndHolds : Prop :=
  (∀ (s : State) (p : BitVec 4) (q : BitVec 6) (val : Word), s.quiet p →
    let x := s.queueOf p q
    let tail : BitVec 32 := val.setWidth 32
    let n := (tail - x.head).toNat - (x.tail - x.head).toNat
    ((s.partOf p).registered = false ∨ x.en = false →
      exec (.tail p q val) s = .next s ∧ exec (.cancelDoorbell p q val) s = .next s) ∧
    ((s.partOf p).registered = true → x.en = true →
      ((x.tail - x.head).toNat ≤ (tail - x.head).toNat → (tail - x.head).toNat ≤ 2 ^ x.lnent.toNat →
        ∃ u : State, exec (.tail p q val) s = .next u ∧ u.mem = s.mem ∧ u.ctxs = s.ctxs ∧ (u.queueOf p q).tail = tail ∧
          (u.queueOf p q).head = x.head ∧ u.launches.length = s.launches.length + n ∧
          (∀ l ∈ s.launches, l ∈ u.launches) ∧
          ∀ i, i < n → ∃ l ∈ u.launches, l.part = p ∧ l.q = q ∧ l.st = .submitted ∧ l.index = x.tail + BitVec.ofNat 32 i ∧
            l.recAddr = x.base + BitVec.ofNat 64 (128 * ((x.tail + BitVec.ofNat 32 i).toNat % 2 ^ x.lnent.toNat))) ∧
      (∀ l : Launch, (s.liveOf p q).find? (fun l => l.index == tail) = some l → s.threadless l.id →
        ∃ u : State, exec (.cancelDoorbell p q val) s = .next u ∧ u.launches = s.withEnded l.id .cancelled ∧
          s.vacates u l.id))) ∧
  (∀ (s : State) (l : Launch), s.headLaunch l.part l.q = some l → l.st = .submitted → s.quiet l.part →
    s.replicated l.part l.q = false →
    (l.recordOk = false → ∃ u : State, exec (.admission l.part l.q) s = .next u ∧
      u.launches = s.withEnded l.id .badrec ∧ u.ctxs = s.ctxs) ∧
    (l.recordOk = true → s.rcbChain l.part 6 (BitVec.ofNat 64 (l.field 0x48 8)) = none →
      ∃ u : State, exec (.admission l.part l.q) s = .next u ∧ u.launches = s.withEnded l.id .badrcb ∧ u.ctxs = s.ctxs) ∧
    (∀ (ch : List (Word × BitVec 2048)) (r : Rgn), l.recordOk = true →
      s.rcbChain l.part 6 (BitVec.ofNat 64 (l.field 0x48 8)) = some ch → s.chainOk l.part ch = true →
      let old := s.rgnAt l.part (BitVec.ofNat 64 (l.field 0x48 8))
      let id := (old.map (·.id)).getD (s.nextId + 1)
      regionFrom l.part ch old id = some r → l.field 0 8 ≠ 0 → l.field 0x13 1 = 0 →
      let held : Launch := { l with region := id, st := .held }
      let v : State := { s with
        nextId := s.nextId + 1, rgns := r :: s.rgns.filter (fun x => x.id != id),
        launches := s.launches.map (fun x => if x.id = l.id then held else x) }
      v.couldFit held r = true →
      ∃ u : State, exec (.admission l.part l.q) s = .next u ∧ u.ctxs = s.ctxs ∧ u.mem = s.mem ∧ u.rgns = v.rgns ∧
        u.launches = s.launches.map (fun x =>
          if x.id = l.id then { held with st := .released, waitingSince := some s.gcc } else x))) ∧
  (∀ (s : State) (l : Launch), l ∈ s.launches → l.st = .held → (s.launches.filter (fun x => x.id == l.id)) = [l] →
    (∀ x ∈ s.launches, x.part = l.part → x.st ≠ .digest ∧ (x.st = .held → x = l)) →
    let objs := l.waits.map (s.awaited l.part)
    ((∀ o ∈ objs, ∃ e, o = some e ∧ e.st = 0) → (∃ o ∈ objs, ∃ e, o = some e ∧ e.signalled = false) →
      exec (.holdTest l.part) s = .next s) ∧
    ((∀ o ∈ objs, ∃ e, o = some e ∧ e.st = 0 ∧ e.signalled = true) →
      ∃ u : State, exec (.holdTest l.part) s = .next u ∧ u.mem = s.mem ∧ u.ctxs = s.ctxs ∧
        u.launches = s.launches.map (fun x =>
          if x.id = l.id then { x with st := .released, waitingSince := some s.gcc } else x)) ∧
    ((∃ o ∈ objs, o = none ∨ ∃ e, o = some e ∧ e.st ≠ 0) →
      ∃ u : State, exec (.holdTest l.part) s = .next u ∧ u.launches = s.withEnded l.id .depfail ∧ u.ctxs = s.ctxs)) ∧
  (∀ (s : State) (l : Launch) (t : Word), s.headLaunch l.part l.q = some l → l.st = .released → l.waitingSince = some t →
    1000000 ≤ (s.gcc - t).toNat → l.started < l.tasks → l.boost.toNat < 6 →
    exec (.aging l.part l.q) s = .next { s with
      launches := s.launches.map (fun x =>
        if x.id = l.id then { x with boost := x.boost + 1, waitingSince := some (t + 1000000) } else x),
      sched := { s.sched with again := true } })

/-- R392, R422 to R428: a region with one context on a core, pre-empted at the supervisor's request, becomes a resume group
that keeps the context's registers with its deadline clock still, and leaves the context empty; a group that a core takes
goes on there with its registers, its clock running from where it stood; groups that resume together all do or none does; a group one
of whose images carries the tag of another part is refused, and its region stays pre-empted. -/
def Obligations.PreemptionAndResume : Prop :=
  (∀ (s : State) (r : Rgn) (c : CtxId), s.rgnOf r.id = some r → s.preempts = [r.id] →
    (∀ d, ((s.ctx d).task.map (·.region)) = some r.id ↔ d = c) → (s.ctx c).run = .running → s.leadOf c = c →
    s.members c = [c] → s.boundary c = .clear → (∀ k ∈ s.copies, k.cid ≠ c) → (∀ k ∈ s.conds, k.region ≠ r.id) →
    (∀ k ∈ s.posts, k.region ≠ r.id) → (∀ k ∈ s.copies, k.region ≠ r.id) → (∀ l ∈ s.late, l.cid ≠ c) →
    ∃ (u : State) (g : Group) (x : Ctx), exec (.preemption r.id) s = .next u ∧ u.groups.getLast? = some g ∧
      u.groups.length = s.groups.length + 1 ∧ g.region = r.id ∧ g.core = c.core ∧ g.withdrawn = false ∧
      g.images = [(c.num, x)] ∧ x.s = (s.ctx c).s ∧ x.v = (s.ctx c).v ∧ x.p = (s.ctx c).p ∧ x.acc = (s.ctx c).acc ∧
      x.ctl = (s.ctx c).ctl ∧ x.flow = (s.ctx c).flow ∧ x.level = (s.ctx c).level ∧ x.ctm = (s.ctx c).ctm ∧
      x.dtc = .frozen (s.dtc c) ∧ (u.ctx c).task = none ∧ (u.ctx c).run = .idle ∧ u.preempts = []) ∧
  (∀ (s : State) (g : Group) (r : Rgn) (k : CoreId) (n : BitVec 2) (x : Ctx) (t : Task) (v : Word)
      (pm : List (Byte × Bool)) (tags tgs : List Byte),
    s.groups.find? (fun y => y.id == g.id) = some g → s.rgnOf g.region = some r →
    (∀ y ∈ s.groups, y.region = g.region → y.refused = false) → g.withdrawn = false → s.topLevel = none → s.resumeWith g = [g] → s.resumeCore r g = some k →
    s.slotTags r g = some tgs → (∀ b ∈ tgs, b = gtagOf s.part) → s.readSlot r g.slot = some (pm, tags) →
    g.images = [(n, x)] → x.task = some t → x.dtc = .frozen v → (s.partOf t.part).trace = none →
    ∃ u : State, exec (.regionResume g.id) s = .next u ∧ (∀ y ∈ u.groups, y.id ≠ g.id) ∧
      (let y := u.ctx (CtxId.of k n)
       y.s = x.s ∧ y.v = x.v ∧ y.p = x.p ∧ y.acc = x.acc ∧ y.ctl = x.ctl ∧ y.flow = x.flow ∧ y.level = x.level ∧
       y.ctm = x.ctm ∧ y.run = x.run ∧ y.dtc = .running (s.gcc - v)) ∧ u.gcc = s.gcc) ∧
  (∀ (s : State) (g : Group) (r : Rgn), s.groups.find? (fun y => y.id == g.id) = some g → s.rgnOf g.region = some r →
    ((∃ y ∈ s.groups, y.region = g.region ∧ y.refused = true) → exec (.regionResume g.id) s = .next s) ∧
    (s.topLevel = none → (∀ y ∈ s.groups, y.region = g.region → y.refused = false) →
      (∀ y ∈ s.resumeWith g, s.strangeTag r y = false) → s.resumeAll r (s.resumeWith g) = none →
      exec (.regionResume g.id) s = .next s)) ∧
  (∀ (s : State) (g : Group) (r : Rgn) (tgs : List Byte),
    s.groups.find? (fun y => y.id == g.id) = some g → s.rgnOf g.region = some r →
    (∀ y ∈ s.groups, y.region = g.region → y.refused = false) → s.topLevel = none → s.resumeWith g = [g] →
    s.slotTags r g = some tgs → (∃ b ∈ tgs, b ≠ gtagOf s.part) →
    ∃ u : State, exec (.regionResume g.id) s = .next u ∧ u.ctxs = s.ctxs ∧ u.cores = s.cores ∧
      u.groups = s.groups.map (fun y => if y.id = g.id then { y with refused := true } else y)) ∧
  (∀ (s : State) (id : Nat), s.rgnOf id = none → exec (.preemption id) s = .next s) ∧
  (∀ (s : State) (id : Nat), (∀ g ∈ s.groups, g.id ≠ id) → exec (.regionResume id) s = .next s)

/-! ## Late faults, the host and storage errors (spec/18, spec/19, spec/20) -/

/-- R437 to R440, R482: a copy that meets a late fault stops and is recorded, and a write of FRES retries or declines it; an
invalidation drops the translations of its range, and ends, counted in SEQ, once nothing that used one is left. -/
def Obligations.LateFaultsAndInvalidation : Prop :=
  (∀ (s : State) (k : Copy) (a : Access) (f : TransFault), s.copyOf k.id = some k → k.st = .run → k.stopped = false →
    s.awaiting (.copy k.id) = false → s.lateStop (some k.cid.core) k.part 1 k.revoked k.reach = some (.fault a f) →
    s.faultRoom k.part = true →
    ∃ u : State, exec (.lateFault (.copy k.id)) s = .next u ∧ (k.phase = none → u.ctxs = s.ctxs) ∧
      u.faults = s.faults ++ [⟨(s.partOf k.part).nextFault, k.part, .copy k.id⟩] ∧
      (u.partOf k.part).nextFault = (s.partOf k.part).nextFault + 1 ∧
      u.copies = s.copies.map (fun x =>
        if x.id = k.id then { x with stopped := true, revoked := none, ahead := [], done := [] } else x)) ∧
  (∀ (s : State) (r : Red) (a : Access) (f : TransFault), s.redOf r.id = some r → r.st = .issued → s.redoHeld r = false →
    s.awaiting (.red r.id) = false → s.lateStop (some r.cid.core) r.part 0 r.revoked r.reach = some (.fault a f) →
    s.faultRoom r.part = true →
    ∃ u : State, exec (.lateFault (.red r.id)) s = .next u ∧ u.ctxs = s.ctxs ∧
      u.faults = s.faults ++ [⟨(s.partOf r.part).nextFault, r.part, .red r.id⟩] ∧
      (u.redOf r.id).map (fun x => x.st) = some .faulted) ∧
  (∀ (s : State) (r : Red), s.redOf r.id = some r → (r.st = .issued ∧ s.redoHeld r = true) ∨
      (r.st = .buffered ∧ s.bufferDue r = false) → exec (.lateFault (.red r.id)) s = .next s) ∧
  (∀ (s : State) (p : BitVec 4) (val : Word), s.sound → (s.partOf p).registered = true →
    (val.extractLsb' 33 31 ≠ 0 → (s.partOf p).herr ≠ BitVec.allOnes 32 →
      exec (.retry p val) s = .next (s.mapPart p (fun x => { x with herr := x.herr + 1 })) ∧
      exec (.decline p val) s = .next (s.mapPart p (fun x => { x with herr := x.herr + 1 }))) ∧
    (val.extractLsb' 33 31 = 0 → (∀ f ∈ s.faults, ¬ (f.part = p ∧ f.id = val.setWidth 32)) →
      exec (.retry p val) s = .next s ∧ exec (.decline p val) s = .next s) ∧
    (∀ (f : Fault438) (k : Copy), val.extractLsb' 33 31 = 0 → f.part = p → f.id = val.setWidth 32 →
      s.faults.find? (fun x => x.part == p && x.id == val.setWidth 32) = some f → f.eng = .copy k.id →
      s.copyOf k.id = some k →
      (s.isOut k.toOwner = true →
        exec (.retry p val) s = .next { s with
          faults := s.faults.filter (fun x => !(x.part == p && x.id == f.id)) }) ∧
      (s.isOut k.toOwner = false →
        exec (.retry p val) s = .next { s with
          faults := s.faults.filter (fun x => !(x.part == p && x.id == f.id)), free := s.free + 1,
          copies := s.copies.map (fun x =>
            if x.id = k.id then
              { x with stopped := false, promise := s.gcc + BitVec.ofNat 64 (Config.promiseDelay s.free), pms := false }
            else x) }) ∧
      (k.cmd.ring = none → k.cmd.barrier = none →
        ∃ u : State, exec (.decline p val) s = .next u ∧ (k.phase = none → u.ctxs = s.ctxs) ∧
          u.faults = s.faults.filter (fun x => !(x.part == p && x.id == f.id)) ∧
          (u.copyOf k.id).map (fun x => x.st) = some .fault ∧
          (s.damaged = [] →
            ∀ key, (∀ ps, s.copyDest k = some ps → outsidePieces ps key) → memRead u.mem key = memRead s.mem key)))) ∧
  (∀ (s : State) (p : BitVec 4) (val : Word),
    ((s.partOf p).registered = false → exec (.tinv p val) s = .next s) ∧
    ((s.partOf p).registered = true → val.extractLsb' 6 10 ≠ 0 ∨ val.extractLsb' 56 8 ≠ 0 → (s.partOf p).herr ≠ BitVec.allOnes 32 →
      exec (.tinv p val) s = .next (s.mapPart p (fun x => { x with herr := x.herr + 1 }))) ∧
    ((s.partOf p).registered = true → val.extractLsb' 6 10 = 0 → val.extractLsb' 56 8 = 0 →
      ((s.partOf p).tinvBusy = true → exec (.tinv p val) s = .next s) ∧
      ((s.partOf p).tinvBusy = false →
        ∃ u : State, exec (.tinv p val) s = .next u ∧ u.mem = s.mem ∧ u.ctxs = s.ctxs ∧ (u.partOf p).tinvBusy = true ∧
          u.tlb = s.tlb.filter (fun t => !(t.part == p && inSpanRange val t.va t.bits)) ∧
          ∀ k ∈ s.copies, k.part = p → k.st = .run → k.stopped = false → (∃ x ∈ k.reach, x.meets val = true) →
            ∃ q ∈ u.copies, q.id = k.id ∧ q.revoked.isSome = true)) ∧
    ((s.partOf p).tinvBusy = true → (∀ w ∈ (s.partOf p).tinvWaits, s.stillWaits w = false) →
      (∀ n ∈ (s.partOf p).tinvThreads, s.stillRuns n = false) → s.noneRevoked p = true →
      exec (.invalidationCompletion p) s = .next (s.mapPart p (fun y =>
        { y with tinvBusy := false, tinvSeq := y.tinvSeq + 1, tinvWaits := [], tinvThreads := [] }))) ∧
    ((s.partOf p).tinvBusy = false ∨ (∃ w ∈ (s.partOf p).tinvWaits, s.stillWaits w = true) ∨
      (∃ n ∈ (s.partOf p).tinvThreads, s.stillRuns n = true) ∨ s.noneRevoked p = false →
      exec (.invalidationCompletion p) s = .next s))

/-- R7, R148, R149, R412, R437, R453, R454, R477, R478, R481 to R483, R507: the host's registers, what they read as, and its
memory window, and the errors that storage reports: a poisoned block or word, and a score for a correctable error. -/
def Obligations.HostAccessAndStorageErrors : Prop :=
  (∀ (s : State) (fn : BitVec 5) (off : BitVec 16) (val : Word),
    (17 ≤ fn.toNat → exec (.registerWrite fn off val) s = .next s) ∧
    (fn = 0 → s.mgmt.up = true →
      (off = 0x0008 →
        exec (.registerWrite fn off val) s = .next { s with mgmt := { s.mgmt with mbarg := val &&& ~~~ 0x3F#64 } }) ∧
      (off = 0x0000 → s.mgmt.busy = false → knownCommand (val.setWidth 8 : BitVec 8).toNat = true →
        exec (.registerWrite fn off val) s = 
          .next { s with mgmt := { s.mgmt with busy := true, code := val.setWidth 8 } }) ∧
      (off = 0x0000 → s.mgmt.busy = false → knownCommand (val.setWidth 8 : BitVec 8).toNat = false →
        exec (.registerWrite fn off val) s =
          .next { s with mgmt := { s.mgmt with busy := false, mst := 3, mseq := s.mgmt.mseq + 1, code := val.setWidth 8 } }) ∧
      (off = 0x0000 → s.mgmt.busy = true → exec (.registerWrite fn off val) s = .next s)) ∧
    (∀ p : BitVec 4, fn.toNat = p.toNat + 1 →
      ((s.partOf p).registered = false → exec (.registerWrite fn off val) s = .next s) ∧
      ((s.partOf p).registered = true →
        (∀ q : BitVec 6, off.toNat = 8 * q.toNat → exec (.registerWrite fn off val) s = exec (.tail p q val) s) ∧
        (∀ q : BitVec 6, off.toNat = 0x400 + 8 * q.toNat →
          exec (.registerWrite fn off val) s = exec (.cancelDoorbell p q val) s) ∧
        (off = 0x0800 → exec (.registerWrite fn off val) s = exec (.tinv p val) s) ∧
        (off = 0x0810 → exec (.registerWrite fn off val) s = .next (s.writeFres p val)) ∧
        (off = 0x0818 → val &&& ~~~ 0x00FFFFF000000000#64 = 0 →
          exec (.registerWrite fn off val) s = .next (s.mapPart p (fun x => { x with wbase := val }))) ∧
        (off = 0x0818 → val &&& ~~~ 0x00FFFFF000000000#64 ≠ 0 → (s.partOf p).herr ≠ BitVec.allOnes 32 →
          exec (.registerWrite fn off val) s = .next (s.mapPart p (fun x => { x with herr := x.herr + 1 })))))) ∧
  (∀ (s : State) (p : BitVec 4) (fn : BitVec 5), fn.toNat = p.toNat + 1 → (s.partOf p).registered = true →
    (∀ q : BitVec 6, s.readRegister fn (BitVec.ofNat 16 (8 * q.toNat)) = 0 ∧
      s.readRegister fn (BitVec.ofNat 16 (0x400 + 8 * q.toNat)) = 0) ∧
    s.readRegister fn 0x0800 = 0 ∧ s.readRegister fn 0x0810 = 0 ∧
    (s.readRegister fn 0x0808).getLsbD 0 = (s.partOf p).tinvBusy ∧
    (s.readRegister fn 0x0808).extractLsb' 1 31 = 0 ∧ (s.readRegister fn 0x0808).extractLsb' 32 32 = (s.partOf p).tinvSeq ∧
    s.readRegister fn 0x0818 = (s.partOf p).wbase ∧
    s.readRegister fn 0x0820 = (s.partOf p).herr.setWidth 64) ∧
  (∀ (s : State) (p : BitVec 4) (off : BitVec 36),
    (∀ len, (s.partOf p).registered = false →
      exec (.bar4Read p off len) s = .next { s with hostOut := some (List.replicate len 0, false) :: s.hostOut }) ∧
    (∀ (len : Nat) (ps : List Piece), (s.partOf p).registered = true → s.bar4Pieces p off .read len = some ps →
      let t := s.readErrors ⟨none, p, (s.partOf p).rcb, BitVec.allOnes 64, s.bar4Addr p off⟩ ps
      exec (.bar4Read p off len) s =
        .next { t with hostOut := some (t.piecesBytes ps, (t.carriedBytes ps).any (·.2)) :: s.hostOut }) ∧
    (∀ len : Nat, (s.partOf p).registered = true → s.bar4Pieces p off .read len = none →
      (s.partOf p).herr ≠ BitVec.allOnes 32 →
      exec (.bar4Read p off len) s = .next { s.mapPart p (fun x => { x with herr := x.herr + 1 }) with
        hostOut := none :: s.hostOut }) ∧
    (∀ bytes : List Byte, (s.partOf p).registered = false → exec (.bar4Write p off bytes) s = .next s) ∧
    (∀ (bytes : List Byte) (key : Nat), s.sound → (s.partOf p).registered = true →
      s.bar4Pieces p off .write bytes.length = some [⟨key, bytes.length⟩] →
      ∃ u : State, exec (.bar4Write p off bytes) s = .next u ∧ u.bytesAt key bytes.length = bytes ∧
        sameOutside s u key bytes.length ∧ u.ctxs = s.ctxs) ∧
    (∀ bytes : List Byte, (s.partOf p).registered = true → s.bar4Pieces p off .write bytes.length = none →
      (s.partOf p).herr ≠ BitVec.allOnes 32 →
      exec (.bar4Write p off bytes) s = .next (s.mapPart p (fun x => { x with herr := x.herr + 1 })))) ∧
  (∀ (s : State) (block : BitVec 44) (writers : List Writer),
    (block.toNat * 256 ∈ s.poison → exec (.mdpw block writers) s = .next s) ∧
    (block.toNat * 256 ∉ s.poison → ∃ u : State, exec (.mdpw block writers) s = .next u ∧ u.ctxs = s.ctxs ∧
      (s.ownerOf (block.toNat * 256) = none → writers = [] →
        u = { s with poison := keyAdd s.poison (block.toNat * 256) }))) ∧
  (∀ (s : State) (e : ErrorAt) (ok : Bool), s.scrubbed e = false → exec (.patrolScrubbing e ok) s = .next s) ∧
  (∀ (s : State) (key : Nat), isHostKey key = false → key < 2 ^ 55 → s.mgmt.computeUp = true →
    let t : State := { s with damaged := s.damaged.filter (fun d => d.1 != poisonBase key) }
    (∃ u : State, exec (.patrolScrubbing (.word key) true) s = .next u ∧ u.mem = s.mem ∧ u.poison = s.poison ∧
      u.ctxs = s.ctxs ∧
      (2 ^ 53 ≤ key → key < 2 ^ 54 → u = t.raiseScore .core ((key - 2 ^ 53) / 2 ^ 20) 1 0) ∧
      (key < 2 ^ 52 → u = t.raiseScore .channel (s.channelAt key) 1 0)) ∧
    (∃ u : State, exec (.patrolScrubbing (.word key) false) s = .next u ∧ u.ctxs = s.ctxs ∧
      (s.localOwner key = none → s.ownerOf key = none → u = { t with poison := keyAdd s.poison (poisonBase key) }))) ∧
  (∀ (s : State) (e : ErrorAt) (ok : Bool), s.mgmt.computeUp = true → e ∉ s.parity →
    (∃ c r, e = .s c r) ∨ (∃ c r, e = .v c r) ∨ (∃ c r, e = .p c r) ∨ (∃ c a, e = .acc c a) ∨ (∃ k, e = .bank k) ∨ (∃ k n, e = .ring k n) →
    exec (.patrolScrubbing e ok) s = .next { s with parity := e :: s.parity })

/-- R458 to R474: a due lease takes its unit out of service and stands among the running ones; its end returns or retires the
unit and leaves a record; scores rise by the events and are halved every hour; an unacknowledged notice is recorded. -/
def Obligations.LeasesScoresAndNotices : Prop :=
  (∀ (s : State) (u : Nat), s.vanRuns = true →
    (s.van.cfg.en.getLsbD 0 = true → s.van.running[0] = none → s.forcedDue .core = false → u < 512 →
      leasePeriod s.van.cfg .core ≤ (s.gcc - s.van.due[0]).toNat → s.nextUnit .core = some u →
      (∀ c ∈ coreCtxs (BitVec.ofNat 9 u), (s.ctx c).task = none) →
      ∃ t : State, exec .coreLease s = .next t ∧ t.mem = s.mem ∧ t.ctxs = s.ctxs ∧
        t.van.running[0] = some ⟨u, s.gcc, 0, false⟩ ∧ (t.core (BitVec.ofNat 9 u)).service = .leased ∧
        t.van.next[0] = u + 1 ∧ t.van.due[0] = s.gcc) ∧
    (s.van.cfg.en.getLsbD 1 = true → s.van.running[1] = none → s.forcedDue .link = false → u < 12 →
      leasePeriod s.van.cfg .link ≤ (s.gcc - s.van.due[1]).toNat → s.nextUnit .link = some u → s.rgns = [] →
      ∃ t : State, exec .linkPortLease s = .next t ∧ t.mem = s.mem ∧ t.ctxs = s.ctxs ∧
        t.van.running[1] = some ⟨u, s.gcc, 0, false⟩ ∧ (t.portAt u).map (fun x => x.service) = some .leased ∧
        t.van.due[1] = s.gcc) ∧
    (s.van.cfg.en.getLsbD 2 = true → s.van.running[2] = none → s.forcedDue .channel = false →
      leasePeriod s.van.cfg .channel ≤ (s.gcc - s.van.due[2]).toNat → s.nextUnit .channel = some u →
      ∃ t : State, exec .memoryChannelLease s = .next t ∧ t.mem = s.mem ∧ t.ctxs = s.ctxs ∧
        t.van.running[2] = some ⟨u, s.gcc, 0, false⟩ ∧ t.van.due[2] = s.gcc ∧
        t.van.next[2] = u + 1) ∧
    (∀ rest, s.van.forced[2] = u :: rest → s.van.running[2] = none → s.isRetired .channel u = false →
      ∃ t : State, exec (.forcedLease .channel) s = .next t ∧ t.mem = s.mem ∧ t.ctxs = s.ctxs ∧
        t.van.running[2] = some ⟨u, s.gcc, 0, true⟩ ∧ t.van.forced[2] = rest)) ∧
  (∀ (s : State),
    (s.vanRuns = false ∨ s.forcedDue .core = true → exec .coreLease s = .next s) ∧
    (s.vanRuns = false ∨ s.forcedDue .link = true → exec .linkPortLease s = .next s) ∧
    (s.vanRuns = false ∨ s.forcedDue .channel = true → exec .memoryChannelLease s = .next s)) ∧
  (∀ (s : State) (l : Lease) (pat : BitVec 16) (fdet : Word), s.van.cfg.log = 0 → s.van.running[2] = some l →
    s.van.log.length ≤ 64 →
    (∃ t : State, exec (.leaseEnd .channel .returned pat fdet) s = .next t ∧ t.mem = s.mem ∧ t.ctxs = s.ctxs ∧
      t.van.running[2] = none ∧ t.van.scores = s.van.scores ∧ t.van.retired = s.van.retired ∧
      t.van.log.getLast? = some (leaseRecord .channel l .returned s.gcc (s.van.score .channel l.unit))) ∧
    (l.unit < 512 → ∃ t : State, exec (.leaseEnd .channel .marginal pat fdet) s = .next t ∧ t.mem = s.mem ∧
      t.van.running[2] = none ∧
      (t.van.score .channel l.unit).toNat = min 1023 (((s.van.halve s.gcc).score .channel l.unit).toNat + 128)) ∧
    (∃ t : State, exec (.leaseEnd .channel .retired pat fdet) s = .next t ∧ t.mem = s.mem ∧
      t.van.running[2] = none ∧ l.unit ∈ t.van.retired[2] ∧
      (s.van.store.length < 1024 → t.van.store = s.van.store ++ [s.retireRecord .channel l.unit 0 pat fdet]))) ∧
  (∀ (s : State) (cls : UnitClass) (o : LeaseOutcome) (pat : BitVec 16) (fdet : Word) (l : Lease),
    s.van.running[classNo cls] = some l →
    ∃ t : State, exec (.leaseEnd cls o pat fdet) s = .next t ∧ t.van.running[classNo cls] = none ∧
      (cls = .core → (t.core (BitVec.ofNat 9 l.unit)).service = if o = .retired then .retired else .inService) ∧
      (cls = .link → l.unit < 12 →
        (t.portAt l.unit).map (fun x => x.service) = some (if o = .retired then .retired else .inService))) ∧
  (∀ (s : State) (cls : UnitClass) (unit inc ev : Nat), unit < 512 →
    ((s.raiseScore cls unit inc ev).van.score cls unit).toNat = min 1023 (((s.van.halve s.gcc).score cls unit).toNat + inc) ∧
    (s.raiseScore cls unit inc ev).mem = s.mem) ∧
  (∀ (s : State),
    (s.gcc.toNat / 3600000000000 ≤ s.van.lastHour → exec .hourlyHalving s = .next s) ∧
    (s.van.lastHour < s.gcc.toNat / 3600000000000 →
      ∃ t : State, exec .hourlyHalving s = .next t ∧ t.mem = s.mem ∧ t.ctxs = s.ctxs ∧
        ∀ (cls : UnitClass) (unit : Nat), unit < 512 →
          (t.van.score cls unit).toNat =
            (s.van.score cls unit).toNat / 2 ^ (s.gcc.toNat / 3600000000000 - s.van.lastHour))) ∧
  (∀ (s : State) (c : CtxId) (r : Rgn) (t0 : Word), s.ctxRgn c = some r → (s.ctx c).run = .running →
    (s.ctx c).ackSince = some t0 → (s.ctx c).ack.toNat < r.seq.toNat → 10000000 ≤ (s.dtc c - t0).toNat →
    (r.posted = r.seq → exec (.capcRecord c) s = .next s) ∧
    (r.posted ≠ r.seq → ∃ t : State, exec (.capcRecord c) s = .next t ∧ t.ctxs = s.ctxs ∧
      t.rgns = s.rgns.map (fun x => if x.id = r.id then { x with posted := r.seq } else x)))

/-! ## Links and the porch (spec/20) -/

/-- R469, R494, R495, R499: a flit in order is taken, one ahead of its turn has a replay requested, one behind it is dropped;
requests and data for this chip are accepted, denied or refused, and an answer closes its request. -/
def Obligations.LinkTraffic : Prop :=
  (∀ (s : State) (port : BitVec 4) (f : Flit) (x : Port) (k : BitVec 4) (i : Instr),
    (k, i) ∈ [(0#4, Instr.idle port f), (1, .req port f), (2, .data port f), (3, .rsp port f), (4, .cred port f),
      (5, .hold port f), (6, .resume port f), (7, .epa port f), (8, .err port f)] →
    s.portAt port.toNat = some x →
    (s.porch.up = false ∨ x.trained = false ∨ f.kind ≠ k → exec i s = .next s) ∧
    (s.porch.up = true → x.trained = true → f.kind = k → f.seq ≠ x.rxSeq →
      ((f.seq - x.rxSeq).toNat < 0x8000 → exec i s = .next (s.requestReplay port.toNat x.rxSeq)) ∧
      (0x8000 ≤ (f.seq - x.rxSeq).toNat → exec i s = .next s))) ∧
  (∀ (s : State) (port : BitVec 4) (f : Flit) (x : Port),
    (s.takesFlit port 0 f x → exec (.idle port f) s = .next (s.advanced port)) ∧
    (s.takesFlit port 1 f x → f.dchip = s.chip →
      (s.porch.absent = true → exec (.req port f) s = .next (((s.advanced port).answer f 7).took f)) ∧
      (s.porch.absent = false → s.ingressAllowed port f = false →
        exec (.req port f) s = .next (((s.advanced port).answer f 8).took f)) ∧
      (s.porch.absent = false → s.ingressAllowed port f = true →
        ∃ u : State, exec (.req port f) s = .next u ∧ s.filed u f ∧
          (f.last = false → u.porch.inbound = s.porch.inbound ++ [(port, f)]))) ∧
    (s.takesFlit port 2 f x → f.dchip = s.chip →
      (s.inboundOpen f = false → exec (.data port f) s = .next ((s.advanced port).took f)) ∧
      (s.inboundOpen f = true →
        ∃ u : State, exec (.data port f) s = .next u ∧ s.filed u f)) ∧
    (s.takesFlit port 3 f x → f.dchip = s.chip →
      (s.outstandingOf f = none → exec (.rsp port f) s = .next ((s.advanced port).took f)) ∧
      (∀ o id, s.outstandingOf f = some o → o.2.2.2 = .send id →
        ∃ u : State, exec (.rsp port f) s = .next u ∧ u.mem = s.mem ∧ u.ctxs = s.ctxs ∧
          u.sends = s.sends.filter (fun y => y.id != id) ∧ u.outstandingOf f = none) ∧
      (∀ o, s.outstandingOf f = some o → (∀ id, o.2.2.2 ≠ .send id) →
        exec (.rsp port f) s = .next (((s.advanced port).closeRequest f).took f))) ∧
    (f.dchip ≠ s.chip →
      let onward : Host.Outcome State Fault Refusal := .next ((if s.routeMask f.dchip = 0 then (s.advanced port).answer f 7
        else (s.advanced port).sendFlit f).took f)
      (s.takesFlit port 1 f x → exec (.req port f) s = onward) ∧
      (s.takesFlit port 2 f x → exec (.data port f) s = onward) ∧
      (s.takesFlit port 3 f x → exec (.rsp port f) s = onward) ∧
      (s.takesFlit port 7 f x → exec (.epa port f) s = onward) ∧ (s.takesFlit port 8 f x → exec (.err port f) s = onward))) ∧
  (∀ (s : State) (f : Flit) (kind : BitVec 4) (p : Nat) (x : Port),
    let g : Flit := ⟨f.vc, kind, f.schip, s.chip, false, true, f.tag, 0, 0⟩
    s.portFor g = some p → s.portAt p = some x → x.held = [] →
    (x.open = true → x.credit f.vc ≠ 0 →
      ((s.answer f kind).portAt p).map (fun y => (y.sent, y.held)) = some (x.sent ++ [{ g with seq := x.txSeq }], [])) ∧
    (x.open = false ∨ x.credit f.vc = 0 →
      ((s.answer f kind).portAt p).map (fun y => (y.sent, y.held)) = some (x.sent, [g])))

/-- R462, R464, R469, R494, R495, R499, R500: credits, HOLD and RESUME, the failures of requests, replays, discarded flits
and the loss of lock. -/
def Obligations.LinkControlAndFailures : Prop :=
  (∀ (s : State) (port : BitVec 4) (f : Flit) (x : Port), x.held = [] →
    (s.takesFlit port 4 f x → ∃ u : State, exec (.cred port f) s = .next u ∧ u.mem = s.mem ∧ u.ctxs = s.ctxs ∧
      (u.portAt port.toNat).map (fun y => y.credit f.vc) = some (x.credit f.vc + 1)) ∧
    (s.takesFlit port 5 f x → ∃ u : State, exec (.hold port f) s = .next u ∧ u.mem = s.mem ∧ u.ctxs = s.ctxs ∧
      (u.portAt port.toNat).map (fun y => y.holding) = some true) ∧
    (s.takesFlit port 6 f x → ∃ u : State, exec (.resume port f) s = .next u ∧ u.mem = s.mem ∧ u.ctxs = s.ctxs ∧
      (u.portAt port.toNat).map (fun y => y.holding) = some false)) ∧
  (∀ (s : State) (port : BitVec 4) (f : Flit) (x : Port) (o : BitVec 16 × BitVec 4 × BitVec 6 × LinkUse), s.sound →
    s.outstandingOf f = some o → f.dchip = s.chip →
    (∀ id, o.2.2.2 = .send id →
      (s.takesFlit port 7 f x → ∃ u : State, exec (.epa port f) s = .next u ∧ u.ctxs = s.ctxs ∧ u.mem = s.mem ∧
        u.sends = s.sends.filter (fun y => y.id != id)) ∧
      (s.takesFlit port 8 f x → ∃ u : State, exec (.err port f) s = .next u ∧ u.ctxs = s.ctxs ∧ u.mem = s.mem ∧
        u.sends = s.sends.filter (fun y => y.id != id))) ∧
    (∀ p : Post, o.2.2.2 = .post p.id → s.posts.find? (fun q => q.id == p.id) = some p → p.st = .run →
      s.localDies p.entries = [p.die] →
      (s.takesFlit port 7 f x → ∃ u : State, exec (.epa port f) s = .next u ∧ (s.phases = [] → u.ctxs = s.ctxs) ∧
        s.postEnds u p .failed 2) ∧
      (s.takesFlit port 8 f x → ∃ u : State, exec (.err port f) s = .next u ∧ (s.phases = [] → u.ctxs = s.ctxs) ∧
        s.postEnds u p .failed 2))) ∧
  (∀ (s : State) (port : BitVec 4) (f : Flit) (x : Port), s.takesFlit port 8 f x → f.dchip = s.chip →
    s.outstandingOf f = none →
    ∃ u : State, exec (.err port f) s = .next u ∧ u.ctxs = s.ctxs ∧ u.mem = s.mem ∧
      u.sends = s.sends.filter (fun y => !y.isFrom f.schip f.tag) ∧
      u.porch.inbound = s.porch.inbound.filter (fun y => !(y.2.tag == f.tag && y.2.schip == f.schip))) ∧
  (∀ (s : State) (port : BitVec 4) (f : Flit) (x : Port) (seq : BitVec 16), s.portAt port.toNat = some x →
    s.porch.up = true → x.trained = true →
    exec (.flitCrcFailure port seq) s = .next (s.requestReplay port.toNat seq) ∧
    (f.kind = 9 → ∃ u : State, exec (.replay port f) s = .next u ∧ u.mem = s.mem ∧ u.ctxs = s.ctxs ∧
      (u.portAt port.toNat).map (fun y => y.sent) =
        some (x.sent ++ x.sent.filter (fun g => g.kind != 9 && decide ((g.seq - f.seq).toNat < 0x8000))) ∧
      (u.van.score .link port.toNat).toNat = min 1023 (((s.van.halve s.gcc).score .link port.toNat).toNat + 1))) ∧
  (∀ (s : State) (port : BitVec 4) (f : Flit) (x : Port), s.portAt port.toNat = some x →
    (f.kind.toNat < 10 → exec (.discardedFlit port f) s = .next s) ∧
    (10 ≤ f.kind.toNat → ∃ u : State, exec (.discardedFlit port f) s = .next u ∧ u.mem = s.mem ∧ u.ctxs = s.ctxs ∧
      (u.portAt port.toNat).map (fun y => y.discards) = some (x.discards + 1)) ∧
    (s.van.running[1] = none → exec (.lossOfLock port) s =
      .next (s.mapPort port.toNat (fun y => { y with locked := false, lockLost := true }))) ∧
    (∀ l : Lease, s.van.running[1] = some l → l.unit = port.toNat →
      ∃ u : State, exec (.lossOfLock port) s = .next u ∧ port.toNat ∈ u.van.retired[1] ∧
        (u.portAt port.toNat).map (fun y => (y.locked, y.service)) = some (false, .retired)))

/-- R466, R467, R498 to R505: what the resets of the compute domain, the porch domain and the device leave, and what power-on
decides. -/
def Obligations.ResetsAndPowerOn : Prop :=
  (∀ s : State, ∃ u : State, exec .computeDomainReset s = .next u ∧ u.ctxs = State.reset.ctxs ∧ u.launches = [] ∧
    u.copies = [] ∧ u.posts = [] ∧ u.tlb = [] ∧ u.empties = [] ∧ u.porch.absent = true ∧ u.porch.inbound = [] ∧
    u.porch.outstanding = [] ∧ u.porch.inbox = [] ∧ u.porch.routes = s.porch.routes ∧ u.mgmt.computeUp = false ∧
    u.van = s.van ∧ u.gcc = s.gcc ∧ (∀ k, k < 2 ^ 53 → memRead u.mem k = memRead s.mem k) ∧
    ∀ k, 2 ^ 53 ≤ k → memRead u.mem k = 0) ∧
  (∀ s : State,
    (s.mgmt.safe = true → exec .computeDomainBringUp s = .next s) ∧
    (s.mgmt.safe = false → exec .computeDomainBringUp s = .next { s with
      mgmt := { s.mgmt with computeUp := true },
      porch := { s.porch with absent := false } })) ∧
  (∀ s : State, ∃ u : State, exec .porchDomainReset s = .next u ∧ u.porch.up = false ∧ u.porch.inbound = [] ∧
    u.porch.inbox = [] ∧ u.porch.outstanding = [] ∧ u.porch.routes = s.porch.routes ∧ (s.phases = [] → u.ctxs = s.ctxs) ∧
    (∀ p, (u.portAt p).map (fun x => (x.trained, x.held, x.sent, x.txSeq, x.rxSeq)) =
      (s.portAt p).map (fun _ => (false, [], [], 0, 0))) ∧
    (s.porch.outstanding = [] → u = { s with porch := u.porch })) ∧
  (∀ s : State, s.porchPassed = false → exec .porchUp s = .next s) ∧
  (∀ s : State, s.porchPassed = true → ∃ u : State, exec .porchUp s = .next u ∧ u = { s with porch := u.porch } ∧ u.porch.up = true ∧
    ∀ p x, s.portAt p = some x → (u.portAt p).map (fun y => y.trained) = some (decide (p < portCount s.part ∧ x.service ≠ .retired))) ∧
  (∀ s : State, ∃ u : State, exec .deviceReset s = .next u ∧ u.gcc = 0 ∧ u.ctxs = State.reset.ctxs ∧
    u.cores = State.reset.cores ∧ u.mem = [] ∧ u.parts = State.reset.parts ∧ u.launches = [] ∧ u.access = [] ∧
    u.van.store = s.van.store ∧ u.van.scores = s.van.scores ∧ u.van.cfg = Van.reset.cfg ∧ u.van.running = Van.reset.running ∧
    ((∀ cls, s.van.running[classNo cls] = none) → u.van.log = s.van.log) ∧
    (∀ l, s.van.running[2] = some l →
      u.van.log.getLast? = some (leaseRecord .channel l .aborted s.gcc (s.van.score .channel l.unit))) ∧
    u.mgmt.boot = s.mgmt.boot ∧ u.mgmt.svnMin = s.mgmt.svnMin ∧ u.mgmt.serialNo = s.mgmt.serialNo ∧
    u.mgmt.up = false ∧ u.mgmt.safe = false ∧ u.part = s.part) ∧
  (∀ (s : State) (b : BootFindings), ∃ u : State, exec (.powerOn b) s = .next u ∧ u.ctxs = State.reset.ctxs ∧
    u.mem = [] ∧ u.mgmt.up = true ∧ u.mgmt.boot = s.mgmt.boot + 1 ∧ u.mgmt.svnMin = s.mgmt.svnMin ∧
    u.gcc = (if 1 < s.chips ∧ u.porch.up = true ∧ u.trainedPorts ≠ 0 then b.gcc else 0) ∧ u.van.lastHour = hourOf u.gcc ∧
    (u.mgmt.safe = true ↔ bootSlot b s.mgmt.svnMin = none ∨ b.islands ≠ 0) ∧
    (∀ p x, u.portAt p = some x → x.trained = true → p < portCount s.part ∧ b.trained.getLsbD p = true) ∧
    u.mgmt.computeUp = !u.mgmt.safe ∧ (u.porch.up = true ↔ (b.islands.extractLsb' 13 3 : BitVec 3) = 0) ∧
    ∀ n v, bootSlot b s.mgmt.svnMin = some (n, v) → u.mgmt.svn = v.svn ∧ u.mgmt.digest = v.digest ∧
      s.mgmt.svnMin.toNat ≤ v.svn.toNat ∧ v.digest = v.foundDigest ∧ v.rsa = true ∧ v.slh = true)

/-! ## The management controller (spec/21) -/

/-- R407, R422, R436, R459, R475, R481, R484, R485, R488, R503, R505, R507, R510: every command that changes the device runs when
MBCMD has started it; it is refused with SAFE in the safe state, refused when its operands break a rule, and otherwise has its
effect and ends OK. -/
def Obligations.MailboxCommands : Prop :=
  (∀ (s : State) (a : RegArgs) (p : BitVec 4) (tg : Target) (m : BitVec 8) (rs : List AccRange)
      (tc : TraceConfig) (rcb : Word) (mode : Bool) (code : BitVec 8) (i : Instr),
    (code, i) ∈ [(1#8, Instr.registerPartition a), (2, .deregisterPartition p), (3, .accessTableEntry tg m rs),
      (4, .leaseConfiguration s.mgmt.mbarg), (5, .traceConfiguration p tc), (6, .preemptRegion ⟨p, rcb⟩),
      (7, .noticeMode ⟨p, rcb⟩ mode),
      (8, .commit)] →
    (s.runs code = false → exec i s = .next s) ∧
    (s.runs code = true → s.mgmt.safe = true → exec i s = .next (s.mailboxDone 2))) ∧
  (∀ (s : State) (buf : Word), buf ≠ s.mgmt.mbarg → exec (.leaseConfiguration buf) s = .next s) ∧
  (∀ (s : State), s.mgmt.safe = false →
    (∀ a : RegArgs, s.runs 1 = true → s.registerPart a = none → exec (.registerPartition a) s = .next (s.mailboxDone 1)) ∧
    (∀ (a : RegArgs) (t : State), s.runs 1 = true → s.registerPart a = some t →
      exec (.registerPartition a) s = .next (t.mailboxDone 0) ∧ t.ctxs = s.ctxs ∧ t.van = s.van ∧
      (t.partOf a.part).registered = true ∧ (t.partOf a.part).rcb = a.rcb ∧ (t.partOf a.part).mgmt = a.mgmt ∧
      (t.partOf a.part).root = BitVec.ofNat 64 (s.physNat a.ptb.toNat 8) ∧
      (t.partOf a.part).fq = BitVec.ofNat 64 (s.physNat (a.ptb.toNat + 8) 8) ∧
      (∀ q, q ≠ a.part → t.partOf q = s.partOf q)) ∧
    (∀ p : BitVec 4, s.runs 2 = true →
      ((s.partOf p).registered = false → exec (.deregisterPartition p) s = .next (s.mailboxDone 1)) ∧
      ((s.partOf p).registered = true → (∀ l ∈ s.launches, l.part ≠ p) →
        ∃ u : State, exec (.deregisterPartition p) s = .next u ∧ u.mem = s.mem ∧ u.ctxs = s.ctxs ∧
          u.partOf p = Part.reset ∧ (∀ q, q ≠ p → u.partOf q = s.partOf q) ∧
          u.tlb = s.tlb.filter (fun x => x.part != p) ∧ u.mgmt.mst = 0)) ∧
    (∀ (tg : Target) (m : BitVec 8) (rs : List AccRange), s.runs 3 = true →
      (rs.length ≤ 8 → (∀ r ∈ rs, rangeOk r = true) → (m.setWidth 4 : BitVec 4).toNat < 7 →
        exec (.accessTableEntry tg m rs) s = .next (State.mailboxDone
          { s with access := (tg, m, rs) :: s.access.filter (fun e => !(e.1 == tg && e.2.1 == m)) } 0)) ∧
      (8 < rs.length ∨ (∃ r ∈ rs, rangeOk r = false) → exec (.accessTableEntry tg m rs) s = .next (s.mailboxDone 1))) ∧
    (s.runs 4 = true →
      let w : BitVec 512 := BitVec.ofNat 512 (s.bufNat 64)
      (lcbReservedOk w = true → leaseConfigOk (leaseConfigOf w) = true → exec (.leaseConfiguration s.mgmt.mbarg) s =
        .next (State.mailboxDone { s with van := { s.van with cfg := leaseConfigOf w } } 0)) ∧
      (lcbReservedOk w = false ∨ leaseConfigOk (leaseConfigOf w) = false →
        exec (.leaseConfiguration s.mgmt.mbarg) s = .next (s.mailboxDone 1))) ∧
    (∀ (p : BitVec 4) (c : TraceConfig), s.runs 5 = true → c.ring.setWidth 12 = (0 : BitVec 12) → 4 ≤ c.logn.toNat →
      c.logn.toNat ≤ 16 → 10 ≤ c.period.toNat → c.period.toNat ≤ 20 → exec (.traceConfiguration p c) s =
        .next ((s.mapPart p (fun x => { x with trace := some c, traceDropped := 0 })).mailboxDone 0)) ∧
    (∀ (p : BitVec 4) (rcb : Word),
      (s.runs 6 = true →
        (s.rgnAt p rcb = none → exec (.preemptRegion ⟨p, rcb⟩) s = .next (s.mailboxDone 1)) ∧
        (∀ r, s.rgnAt p rcb = some r → exec (.preemptRegion ⟨p, rcb⟩) s =
          .next (State.mailboxDone { s with preempts := s.preempts ++ [r.id] } 0))) ∧
      (s.runs 7 = true →
        (s.rgnAt p rcb = none → ∀ mode, exec (.noticeMode ⟨p, rcb⟩ mode) s = .next (s.mailboxDone 1)) ∧
        (∀ r, s.rgnAt p rcb = some r →
          exec (.noticeMode ⟨p, rcb⟩ true) s = .next (State.mailboxDone
            { s with rgns := s.rgns.map (fun x => if x.id = r.id then { x with mode := true } else x) } 0) ∧
          ∃ u : State, exec (.noticeMode ⟨p, rcb⟩ false) s = .next u ∧ u.mem = s.mem ∧ u.mgmt = (s.mailboxDone 0).mgmt ∧
            u.rgns = s.rgns.map (fun x => if x.id = r.id then { x with mode := false } else x) ∧
            ∀ c t, (s.ctx c).task = some t → t.region = r.id → ∀ b ∈ (u.ctx c).btraps, b.cause ≠ .capc))) ∧
    (s.runs 8 = true → ∃ u : State, exec .commit s = .next u ∧ u.mem = s.mem ∧ u.ctxs = s.ctxs ∧ u.van = s.van ∧
      u.mgmt.svnMin.toNat = max s.mgmt.svnMin.toNat s.mgmt.svn.toNat ∧ u.mgmt.mst = 0 ∧
      u.mgmt.mseq = s.mgmt.mseq + 1))

/-- R465, R467, R468, R490, R503, R506 to R511: what the reading commands answer, the moves of clock bins, and samples. -/
def Obligations.MailboxReadsClocksAndSamples : Prop :=
  (∀ (s : State) (code : BitVec 8) (i : Instr), s.runs code = false →
    (code, i) ∈ [(0x10#8, Instr.selfTestRecordRead), (0x11, .scoresRead), (0x12, .leaseRecordsRead), (0x13, .retirementStoreRead),
      (0x15, .certs)] → exec i s = .next s) ∧
  (∀ s : State, s.sound →
    (s.runs 0x10 = true → ∃ u : State, exec .selfTestRecordRead s = .next u ∧ s.replies u (leBytes 64 s.mgmt.selfTest.toNat)) ∧
    (s.runs 0x11 = true → ∃ u : State, exec .scoresRead s = .next u ∧ s.replies u
      ([UnitClass.core, .link, .channel].flatMap (fun cls =>
        (unitsOf s.part cls).flatMap (fun n => leBytes 2 (s.van.score cls n).toNat)))) ∧
    (s.runs 0x12 = true →
      ∃ u : State, exec .leaseRecordsRead s = .next u ∧ s.replies u (s.van.log.flatMap (fun r => leBytes 32 r.toNat))) ∧
    (s.runs 0x13 = true → ∃ u : State, exec .retirementStoreRead s = .next u ∧
      s.replies u (s.van.store.flatMap (fun r => leBytes 64 r.toNat))) ∧
    (s.runs 0x14 = true → ∃ (u : State) (bs : List Byte), exec .islandClocksRead s = .next u ∧ s.replies u bs ∧ bs.length = 16 ∧
      (∀ c : ClusterId, bs[c.toNat]? =
        some ((s.mgmt.clockBin[c.toNat]'(c.isLt)).setWidth 8 ||| (if s.binFixed c then 0x80 else 0))) ∧
      ∀ k b, 8 ≤ k → bs[k]? = some b → b.getLsbD 7 = true) ∧
    (s.runs 0x15 = true → ∃ u : State, exec .certs s = .next u ∧ s.replies u (Config.certificates s.mgmt.serialNo)) ∧
    (∀ nonce : BitVec 256, s.runs 0x16 = true →
      ∃ (u : State) (bs : List Byte), exec (.quote nonce) s = .next u ∧ s.replies u bs ∧
      bs.take 32 = leBytes 32 nonce.toNat ∧ (bs.drop 32).take 8 = leBytes 8 s.mgmt.serialNo.toNat ∧
      (bs.drop 40).take 8 = leBytes 8 (capwOf s.part).toNat ∧ (bs.drop 48).take 4 = leBytes 4 s.mgmt.svn.toNat ∧
      (bs.drop 52).take 48 = leBytes 48 s.mgmt.digest.toNat ∧ (bs.drop 100).take 64 = leBytes 64 s.mgmt.selfTest.toNat ∧
      (bs.drop 168).take 8 = leBytes 8 s.gcc.toNat)) ∧
  (∀ (s : State) (c : ClusterId) (bin : BitVec 2),
    (bin = 0 ∨ s.binFixed c = true → exec (.clockBinMove c bin) s = .next s) ∧
    (bin ≠ 0 → s.binFixed c = false → exec (.clockBinMove c bin) s = .next { s with
      mgmt := { s.mgmt with clockBin := s.mgmt.clockBin.set c.toNat bin c.isLt } })) ∧
  (∀ (s : State) (c : CtxId), s.sound →
    ((s.ctx c).run ≠ .running ∨ (s.partOf (s.ctxPart c)).trace = none ∨ (∃ e ∈ (s.ctx c).slip, e.ins.instr = .ret) →
      exec (.sample c) s = .next s) ∧
    (∀ cfg : TraceConfig, (s.ctx c).run = .running → (∀ e ∈ (s.ctx c).slip, e.ins.instr ≠ .ret) → (s.partOf (s.ctxPart c)).trace = some cfg →
      cfg.mask.getLsbD c.num.toNat = true → (s.partOf (s.ctxPart c)).traceDropped = 0 → s.traceRoom cfg = true →
      let q := physKey cfg.ring.toNat
      let slot := q + 16 + 32 * (s.natAt (q + 8) 4 % 2 ^ cfg.logn.toNat)
      ∃ u : State, exec (.sample c) s = .next u ∧ u.ctxs = s.ctxs ∧
        u.bytesAt slot 32 = traceBytes 1 c true 0 (s.ctx c).ctm s.gcc (s.ctx c).flow.pc ∧
        u.natAt (q + 8) 4 = (s.natAt (q + 8) 4 + 1) % 2 ^ 32 ∧
        ∀ k, (k < slot ∨ slot + 32 ≤ k) → (k < q + 8 ∨ q + 12 ≤ k) → memRead u.mem k = memRead s.mem k))
end

