-- ==== Sys2Proof/Laws/Issue.lean ====
section
/-!
SUPPORT. What the shared operations of an issuing instruction do when it stands ready: `operate` and `compute` run its
action, `deliver` adds one result.
-/
namespace Sys2Proof.Machine

/-- An instruction without a place in the total order waits for nothing in another slot. -/
theorem conflict_of_unordered (s : State) {i : Instr} (h : s.follows i = false) : s.conflict i = false := by
  simp [State.conflict, State.ahead, h]

/-- Nor does any instruction when no slip buffer holds one. -/
theorem conflict_of_empty {s : State} (h : s.cx.slip = []) (i : Instr) : s.conflict i = false := by
  simp [State.conflict, State.ahead, h]

/-- Pending operands of two lists are those of each. -/
theorem needs_append (s : State) (a b : List Src) : s.needs (a ++ b) = s.needs a ++ s.needs b := by
  simp [State.needs]

/-- An instruction that stands ready with the operands of two lists stands ready with each. -/
theorem issues_append {s : State} {a b : List Src} (h : s.issues (a ++ b)) : s.issues a ∧ s.issues b := by
  obtain ⟨h1, h2, h3⟩ := h
  rw [needs_append, List.append_eq_nil_iff] at h2
  exact ⟨⟨h1, h2.1, h3⟩, ⟨h1, h2.2, h3⟩⟩

/-- Where no array holds an error, an instruction reads none (R451). -/
theorem parityRead_of_none {s : State} (h : s.parity = []) (i : Instr) (l : List Src) (n : Nat) :
    s.parityRead i l n = s := by
  simp [State.parityRead, h]

/-- `operate` on an instruction that stands ready in its order and whose check passes. -/
theorem operate_ok {s : State} {sh : Shape} {touch : List Touch} {k : List Touch → State → State}
    (h : s.issues (sh.gates ++ sh.data)) (hc : s.conflict sh.instr = false) :
    s.operate sh (.ok touch) k = k touch s := by
  obtain ⟨⟨h1, h2, h3, h4⟩, -, h5, -⟩ := issues_append h
  simp [State.operate, h1, h2, h3, h5, hc, parityRead_of_none h4]

/-- `operate` on an instruction that stands ready and whose check fails raises the trap of the check. -/
theorem operate_error {s : State} {sh : Shape} {t : IssueTrap} {k : List Touch → State → State}
    (h1 : s.env.slipped = none) (h2 : s.needs sh.gates = []) :
    s.operate sh (.error t) k = s.raise (slotMask sh.instr s.env.pos.toNat) t := by
  simp [State.operate, h1, h2]

/-- `operate` with a pending gating operand holds the bundle. -/
theorem operate_gated {s : State} {sh : Shape} {c : Except IssueTrap (List Touch)} {k : List Touch → State → State}
    (h1 : s.env.slipped = none) (h2 : s.needs sh.gates ≠ []) :
    s.operate sh c k = s.blockFor (s.needs sh.gates) := by
  simp [State.operate, h1, h2]

/-- `compute` on an instruction that stands ready. -/
theorem compute_issues {s : State} {i : Instr} {g d : List Src} {ds : List (Dest × Nat)} {m : Bool} {k : State → State}
    (h : s.issues (g ++ d)) (hc : s.conflict i = false) : s.compute i g d ds m k = k s :=
  operate_ok (sh := ⟨i, g, d, ds, m, 0⟩) h hc

/-- `operateNow` on an instruction that stands ready. -/
theorem operateNow_ok {s : State} {sh : Shape} {touch : List Touch} {k : State → State} {l : List Src}
    (h : s.issues (sh.gates ++ l)) : s.operateNow sh (.ok touch) k = k s := by
  obtain ⟨⟨h1, h2, h3, h4⟩, -⟩ := issues_append h
  simp [State.operateNow, h1, h2, h3, parityRead_of_none h4]

/-- `issueOrBlock` on an instruction that stands ready in its order. -/
theorem issueOrBlock_ok {s : State} {i : Instr} {l : List Src} {k : State → State} (h : s.issuesInOrder i l) :
    s.issueOrBlock i l (.ok k) = k s := by
  obtain ⟨⟨-, h2, h3, h5⟩, h4⟩ := h
  simp [State.issueOrBlock, h2, h3, h4, parityRead_of_none h5]

/-- Operands of an instruction that comes from its bundle are the context's registers. -/
theorem rs_of_bundle {s : State} (h : s.env.slipped = none) (r : SReg) : s.rs r = s.cx.rs r := by
  simp [State.rs, State.view?, h]
theorem rv_of_bundle {s : State} (h : s.env.slipped = none) (r : VReg) : s.rv r = s.cx.rv r := by
  simp [State.rv, State.view?, h]
theorem rp_of_bundle {s : State} (h : s.env.slipped = none) (r : PReg) : s.rp r = s.cx.rp r := by
  simp [State.rp, State.view?, h]
theorem fpc_of_bundle {s : State} (h : s.env.slipped = none) : s.fpc = s.cx.ctl.fpc := by
  simp [State.fpc, State.view?, h]
theorem rmode_of_bundle {s : State} (h : s.env.slipped = none) : s.rmode = effMode s.env.pfx s.cx.ctl.fpc := by
  simp [State.rmode, fpc_of_bundle h]
theorem ctlRead_of_bundle {s : State} (h : s.env.slipped = none) (c : CReg) : s.ctlRead c = s.ctlValue c := by
  simp [State.ctlRead, State.view?, h]

/-- A result delivered by an instruction that comes from its bundle joins the results in flight. -/
theorem deliverR_of_bundle {s : State} (h : s.env.slipped = none) (lat : Nat) (r : Result) :
    s.deliverR lat r = s.gains lat r := by
  simp [State.deliverR, h, State.gains]

theorem deliver_of_bundle {s : State} (h : s.env.slipped = none) (lat : Nat) (d : Dest) (v : VecWord) :
    s.deliver lat d v = s.gainsValue lat d v := deliverR_of_bundle h ..

theorem deliverS_of_bundle {s : State} (h : s.env.slipped = none) (lat : Nat) (d : SReg) (w : Word) :
    s.deliverS lat d w = s.gainsWord lat d w := deliver_of_bundle h ..

theorem deliverF_of_bundle {s : State} (h : s.env.slipped = none) (lat : Nat) (d : Dest) (v : VecWord) (m : Word)
    (fl : Flags) : s.deliverF lat d v m fl = s.gainsFloat lat d v m fl := by
  simp [State.deliverF, deliverR_of_bundle h, State.gainsFloat, State.fpxOf, fpc_of_bundle h]

/-- The environment and memory stand as they were after a change of the issuing context. -/
@[simp] theorem mapCx_env (s : State) (f : Ctx → Ctx) : (s.mapCx f).env = s.env := rfl
@[simp] theorem mapCx_mem (s : State) (f : Ctx → Ctx) : (s.mapCx f).mem = s.mem := rfl
@[simp] theorem gains_env (s : State) (n : Nat) (r : Result) : (s.gains n r).env = s.env := rfl
@[simp] theorem gains_mem (s : State) (n : Nat) (r : Result) : (s.gains n r).mem = s.mem := rfl

end Sys2Proof.Machine
end

