-- ==== Sys2Proof/Laws/State.lean ====
section
/-!
SUPPORT. One lemma per field of State for each named update, and the reads of what an update wrote, so that no proof
unfolds a record update.
-/
namespace Sys2Proof.Machine

/-! ## setCtx -/

@[simp] theorem setCtx_part (s : State) (c : CtxId) (x : Ctx) : (s.setCtx c x).part = s.part := rfl
@[simp] theorem setCtx_chip (s : State) (c : CtxId) (x : Ctx) : (s.setCtx c x).chip = s.chip := rfl
@[simp] theorem setCtx_chips (s : State) (c : CtxId) (x : Ctx) : (s.setCtx c x).chips = s.chips := rfl
@[simp] theorem setCtx_gcc (s : State) (c : CtxId) (x : Ctx) : (s.setCtx c x).gcc = s.gcc := rfl
@[simp] theorem setCtx_free (s : State) (c : CtxId) (x : Ctx) : (s.setCtx c x).free = s.free := rfl
@[simp] theorem setCtx_agenda (s : State) (c : CtxId) (x : Ctx) : (s.setCtx c x).agenda = s.agenda := rfl
@[simp] theorem setCtx_stage (s : State) (c : CtxId) (x : Ctx) : (s.setCtx c x).stage = s.stage := rfl
@[simp] theorem setCtx_turn (s : State) (c : CtxId) (x : Ctx) : (s.setCtx c x).turn = s.turn := rfl
@[simp] theorem setCtx_env (s : State) (c : CtxId) (x : Ctx) : (s.setCtx c x).env = s.env := rfl
@[simp] theorem setCtx_cores (s : State) (c : CtxId) (x : Ctx) : (s.setCtx c x).cores = s.cores := rfl
@[simp] theorem setCtx_mem (s : State) (c : CtxId) (x : Ctx) : (s.setCtx c x).mem = s.mem := rfl
@[simp] theorem setCtx_empties (s : State) (c : CtxId) (x : Ctx) : (s.setCtx c x).empties = s.empties := rfl
@[simp] theorem setCtx_poison (s : State) (c : CtxId) (x : Ctx) : (s.setCtx c x).poison = s.poison := rfl
@[simp] theorem setCtx_damaged (s : State) (c : CtxId) (x : Ctx) : (s.setCtx c x).damaged = s.damaged := rfl
@[simp] theorem setCtx_parity (s : State) (c : CtxId) (x : Ctx) : (s.setCtx c x).parity = s.parity := rfl
@[simp] theorem setCtx_late (s : State) (c : CtxId) (x : Ctx) : (s.setCtx c x).late = s.late := rfl
@[simp] theorem setCtx_tlb (s : State) (c : CtxId) (x : Ctx) : (s.setCtx c x).tlb = s.tlb := rfl
@[simp] theorem setCtx_nextId (s : State) (c : CtxId) (x : Ctx) : (s.setCtx c x).nextId = s.nextId := rfl
@[simp] theorem setCtx_copies (s : State) (c : CtxId) (x : Ctx) : (s.setCtx c x).copies = s.copies := rfl
@[simp] theorem setCtx_reds (s : State) (c : CtxId) (x : Ctx) : (s.setCtx c x).reds = s.reds := rfl
@[simp] theorem setCtx_sends (s : State) (c : CtxId) (x : Ctx) : (s.setCtx c x).sends = s.sends := rfl
@[simp] theorem setCtx_sigs (s : State) (c : CtxId) (x : Ctx) : (s.setCtx c x).sigs = s.sigs := rfl
@[simp] theorem setCtx_rels (s : State) (c : CtxId) (x : Ctx) : (s.setCtx c x).rels = s.rels := rfl
@[simp] theorem setCtx_conds (s : State) (c : CtxId) (x : Ctx) : (s.setCtx c x).conds = s.conds := rfl
@[simp] theorem setCtx_posts (s : State) (c : CtxId) (x : Ctx) : (s.setCtx c x).posts = s.posts := rfl
@[simp] theorem setCtx_contribs (s : State) (c : CtxId) (x : Ctx) : (s.setCtx c x).contribs = s.contribs := rfl
@[simp] theorem setCtx_gidSeq (s : State) (c : CtxId) (x : Ctx) : (s.setCtx c x).gidSeq = s.gidSeq := rfl
@[simp] theorem setCtx_early (s : State) (c : CtxId) (x : Ctx) : (s.setCtx c x).early = s.early := rfl
@[simp] theorem setCtx_phases (s : State) (c : CtxId) (x : Ctx) : (s.setCtx c x).phases = s.phases := rfl
@[simp] theorem setCtx_writes (s : State) (c : CtxId) (x : Ctx) : (s.setCtx c x).writes = s.writes := rfl
@[simp] theorem setCtx_syms (s : State) (c : CtxId) (x : Ctx) : (s.setCtx c x).syms = s.syms := rfl
@[simp] theorem setCtx_symSerial (s : State) (c : CtxId) (x : Ctx) : (s.setCtx c x).symSerial = s.symSerial := rfl
@[simp] theorem setCtx_launches (s : State) (c : CtxId) (x : Ctx) : (s.setCtx c x).launches = s.launches := rfl
@[simp] theorem setCtx_rgns (s : State) (c : CtxId) (x : Ctx) : (s.setCtx c x).rgns = s.rgns := rfl
@[simp] theorem setCtx_groups (s : State) (c : CtxId) (x : Ctx) : (s.setCtx c x).groups = s.groups := rfl
@[simp] theorem setCtx_preempts (s : State) (c : CtxId) (x : Ctx) : (s.setCtx c x).preempts = s.preempts := rfl
@[simp] theorem setCtx_sched (s : State) (c : CtxId) (x : Ctx) : (s.setCtx c x).sched = s.sched := rfl
@[simp] theorem setCtx_faults (s : State) (c : CtxId) (x : Ctx) : (s.setCtx c x).faults = s.faults := rfl
@[simp] theorem setCtx_held (s : State) (c : CtxId) (x : Ctx) : (s.setCtx c x).held = s.held := rfl
@[simp] theorem setCtx_frames (s : State) (c : CtxId) (x : Ctx) : (s.setCtx c x).frames = s.frames := rfl
@[simp] theorem setCtx_parts (s : State) (c : CtxId) (x : Ctx) : (s.setCtx c x).parts = s.parts := rfl
@[simp] theorem setCtx_deviceRcb (s : State) (c : CtxId) (x : Ctx) : (s.setCtx c x).deviceRcb = s.deviceRcb := rfl
@[simp] theorem setCtx_rcbCopies (s : State) (c : CtxId) (x : Ctx) : (s.setCtx c x).rcbCopies = s.rcbCopies := rfl
@[simp] theorem setCtx_access (s : State) (c : CtxId) (x : Ctx) : (s.setCtx c x).access = s.access := rfl
@[simp] theorem setCtx_van (s : State) (c : CtxId) (x : Ctx) : (s.setCtx c x).van = s.van := rfl
@[simp] theorem setCtx_porch (s : State) (c : CtxId) (x : Ctx) : (s.setCtx c x).porch = s.porch := rfl
@[simp] theorem setCtx_mgmt (s : State) (c : CtxId) (x : Ctx) : (s.setCtx c x).mgmt = s.mgmt := rfl
@[simp] theorem setCtx_hostOut (s : State) (c : CtxId) (x : Ctx) : (s.setCtx c x).hostOut = s.hostOut := rfl

/-! ## mapCtx -/

@[simp] theorem mapCtx_part (s : State) (c : CtxId) (f : Ctx → Ctx) : (s.mapCtx c f).part = s.part := rfl
@[simp] theorem mapCtx_chip (s : State) (c : CtxId) (f : Ctx → Ctx) : (s.mapCtx c f).chip = s.chip := rfl
@[simp] theorem mapCtx_chips (s : State) (c : CtxId) (f : Ctx → Ctx) : (s.mapCtx c f).chips = s.chips := rfl
@[simp] theorem mapCtx_gcc (s : State) (c : CtxId) (f : Ctx → Ctx) : (s.mapCtx c f).gcc = s.gcc := rfl
@[simp] theorem mapCtx_free (s : State) (c : CtxId) (f : Ctx → Ctx) : (s.mapCtx c f).free = s.free := rfl
@[simp] theorem mapCtx_agenda (s : State) (c : CtxId) (f : Ctx → Ctx) : (s.mapCtx c f).agenda = s.agenda := rfl
@[simp] theorem mapCtx_stage (s : State) (c : CtxId) (f : Ctx → Ctx) : (s.mapCtx c f).stage = s.stage := rfl
@[simp] theorem mapCtx_turn (s : State) (c : CtxId) (f : Ctx → Ctx) : (s.mapCtx c f).turn = s.turn := rfl
@[simp] theorem mapCtx_env (s : State) (c : CtxId) (f : Ctx → Ctx) : (s.mapCtx c f).env = s.env := rfl
@[simp] theorem mapCtx_cores (s : State) (c : CtxId) (f : Ctx → Ctx) : (s.mapCtx c f).cores = s.cores := rfl
@[simp] theorem mapCtx_mem (s : State) (c : CtxId) (f : Ctx → Ctx) : (s.mapCtx c f).mem = s.mem := rfl
@[simp] theorem mapCtx_empties (s : State) (c : CtxId) (f : Ctx → Ctx) : (s.mapCtx c f).empties = s.empties := rfl
@[simp] theorem mapCtx_poison (s : State) (c : CtxId) (f : Ctx → Ctx) : (s.mapCtx c f).poison = s.poison := rfl
@[simp] theorem mapCtx_damaged (s : State) (c : CtxId) (f : Ctx → Ctx) : (s.mapCtx c f).damaged = s.damaged := rfl
@[simp] theorem mapCtx_parity (s : State) (c : CtxId) (f : Ctx → Ctx) : (s.mapCtx c f).parity = s.parity := rfl
@[simp] theorem mapCtx_late (s : State) (c : CtxId) (f : Ctx → Ctx) : (s.mapCtx c f).late = s.late := rfl
@[simp] theorem mapCtx_tlb (s : State) (c : CtxId) (f : Ctx → Ctx) : (s.mapCtx c f).tlb = s.tlb := rfl
@[simp] theorem mapCtx_nextId (s : State) (c : CtxId) (f : Ctx → Ctx) : (s.mapCtx c f).nextId = s.nextId := rfl
@[simp] theorem mapCtx_copies (s : State) (c : CtxId) (f : Ctx → Ctx) : (s.mapCtx c f).copies = s.copies := rfl
@[simp] theorem mapCtx_reds (s : State) (c : CtxId) (f : Ctx → Ctx) : (s.mapCtx c f).reds = s.reds := rfl
@[simp] theorem mapCtx_sends (s : State) (c : CtxId) (f : Ctx → Ctx) : (s.mapCtx c f).sends = s.sends := rfl
@[simp] theorem mapCtx_sigs (s : State) (c : CtxId) (f : Ctx → Ctx) : (s.mapCtx c f).sigs = s.sigs := rfl
@[simp] theorem mapCtx_rels (s : State) (c : CtxId) (f : Ctx → Ctx) : (s.mapCtx c f).rels = s.rels := rfl
@[simp] theorem mapCtx_conds (s : State) (c : CtxId) (f : Ctx → Ctx) : (s.mapCtx c f).conds = s.conds := rfl
@[simp] theorem mapCtx_posts (s : State) (c : CtxId) (f : Ctx → Ctx) : (s.mapCtx c f).posts = s.posts := rfl
@[simp] theorem mapCtx_contribs (s : State) (c : CtxId) (f : Ctx → Ctx) : (s.mapCtx c f).contribs = s.contribs := rfl
@[simp] theorem mapCtx_gidSeq (s : State) (c : CtxId) (f : Ctx → Ctx) : (s.mapCtx c f).gidSeq = s.gidSeq := rfl
@[simp] theorem mapCtx_early (s : State) (c : CtxId) (f : Ctx → Ctx) : (s.mapCtx c f).early = s.early := rfl
@[simp] theorem mapCtx_phases (s : State) (c : CtxId) (f : Ctx → Ctx) : (s.mapCtx c f).phases = s.phases := rfl
@[simp] theorem mapCtx_writes (s : State) (c : CtxId) (f : Ctx → Ctx) : (s.mapCtx c f).writes = s.writes := rfl
@[simp] theorem mapCtx_syms (s : State) (c : CtxId) (f : Ctx → Ctx) : (s.mapCtx c f).syms = s.syms := rfl
@[simp] theorem mapCtx_symSerial (s : State) (c : CtxId) (f : Ctx → Ctx) : (s.mapCtx c f).symSerial = s.symSerial := rfl
@[simp] theorem mapCtx_launches (s : State) (c : CtxId) (f : Ctx → Ctx) : (s.mapCtx c f).launches = s.launches := rfl
@[simp] theorem mapCtx_rgns (s : State) (c : CtxId) (f : Ctx → Ctx) : (s.mapCtx c f).rgns = s.rgns := rfl
@[simp] theorem mapCtx_groups (s : State) (c : CtxId) (f : Ctx → Ctx) : (s.mapCtx c f).groups = s.groups := rfl
@[simp] theorem mapCtx_preempts (s : State) (c : CtxId) (f : Ctx → Ctx) : (s.mapCtx c f).preempts = s.preempts := rfl
@[simp] theorem mapCtx_sched (s : State) (c : CtxId) (f : Ctx → Ctx) : (s.mapCtx c f).sched = s.sched := rfl
@[simp] theorem mapCtx_faults (s : State) (c : CtxId) (f : Ctx → Ctx) : (s.mapCtx c f).faults = s.faults := rfl
@[simp] theorem mapCtx_held (s : State) (c : CtxId) (f : Ctx → Ctx) : (s.mapCtx c f).held = s.held := rfl
@[simp] theorem mapCtx_frames (s : State) (c : CtxId) (f : Ctx → Ctx) : (s.mapCtx c f).frames = s.frames := rfl
@[simp] theorem mapCtx_parts (s : State) (c : CtxId) (f : Ctx → Ctx) : (s.mapCtx c f).parts = s.parts := rfl
@[simp] theorem mapCtx_deviceRcb (s : State) (c : CtxId) (f : Ctx → Ctx) : (s.mapCtx c f).deviceRcb = s.deviceRcb := rfl
@[simp] theorem mapCtx_rcbCopies (s : State) (c : CtxId) (f : Ctx → Ctx) : (s.mapCtx c f).rcbCopies = s.rcbCopies := rfl
@[simp] theorem mapCtx_access (s : State) (c : CtxId) (f : Ctx → Ctx) : (s.mapCtx c f).access = s.access := rfl
@[simp] theorem mapCtx_van (s : State) (c : CtxId) (f : Ctx → Ctx) : (s.mapCtx c f).van = s.van := rfl
@[simp] theorem mapCtx_porch (s : State) (c : CtxId) (f : Ctx → Ctx) : (s.mapCtx c f).porch = s.porch := rfl
@[simp] theorem mapCtx_mgmt (s : State) (c : CtxId) (f : Ctx → Ctx) : (s.mapCtx c f).mgmt = s.mgmt := rfl
@[simp] theorem mapCtx_hostOut (s : State) (c : CtxId) (f : Ctx → Ctx) : (s.mapCtx c f).hostOut = s.hostOut := rfl

/-! ## mapCx -/

@[simp] theorem mapCx_part (s : State) (f : Ctx → Ctx) : (s.mapCx f).part = s.part := rfl
@[simp] theorem mapCx_chip (s : State) (f : Ctx → Ctx) : (s.mapCx f).chip = s.chip := rfl
@[simp] theorem mapCx_chips (s : State) (f : Ctx → Ctx) : (s.mapCx f).chips = s.chips := rfl
@[simp] theorem mapCx_gcc (s : State) (f : Ctx → Ctx) : (s.mapCx f).gcc = s.gcc := rfl
@[simp] theorem mapCx_free (s : State) (f : Ctx → Ctx) : (s.mapCx f).free = s.free := rfl
@[simp] theorem mapCx_agenda (s : State) (f : Ctx → Ctx) : (s.mapCx f).agenda = s.agenda := rfl
@[simp] theorem mapCx_stage (s : State) (f : Ctx → Ctx) : (s.mapCx f).stage = s.stage := rfl
@[simp] theorem mapCx_turn (s : State) (f : Ctx → Ctx) : (s.mapCx f).turn = s.turn := rfl
@[simp] theorem mapCx_cores (s : State) (f : Ctx → Ctx) : (s.mapCx f).cores = s.cores := rfl
@[simp] theorem mapCx_empties (s : State) (f : Ctx → Ctx) : (s.mapCx f).empties = s.empties := rfl
@[simp] theorem mapCx_poison (s : State) (f : Ctx → Ctx) : (s.mapCx f).poison = s.poison := rfl
@[simp] theorem mapCx_damaged (s : State) (f : Ctx → Ctx) : (s.mapCx f).damaged = s.damaged := rfl
@[simp] theorem mapCx_parity (s : State) (f : Ctx → Ctx) : (s.mapCx f).parity = s.parity := rfl
@[simp] theorem mapCx_late (s : State) (f : Ctx → Ctx) : (s.mapCx f).late = s.late := rfl
@[simp] theorem mapCx_tlb (s : State) (f : Ctx → Ctx) : (s.mapCx f).tlb = s.tlb := rfl
@[simp] theorem mapCx_nextId (s : State) (f : Ctx → Ctx) : (s.mapCx f).nextId = s.nextId := rfl
@[simp] theorem mapCx_copies (s : State) (f : Ctx → Ctx) : (s.mapCx f).copies = s.copies := rfl
@[simp] theorem mapCx_reds (s : State) (f : Ctx → Ctx) : (s.mapCx f).reds = s.reds := rfl
@[simp] theorem mapCx_sends (s : State) (f : Ctx → Ctx) : (s.mapCx f).sends = s.sends := rfl
@[simp] theorem mapCx_sigs (s : State) (f : Ctx → Ctx) : (s.mapCx f).sigs = s.sigs := rfl
@[simp] theorem mapCx_rels (s : State) (f : Ctx → Ctx) : (s.mapCx f).rels = s.rels := rfl
@[simp] theorem mapCx_conds (s : State) (f : Ctx → Ctx) : (s.mapCx f).conds = s.conds := rfl
@[simp] theorem mapCx_posts (s : State) (f : Ctx → Ctx) : (s.mapCx f).posts = s.posts := rfl
@[simp] theorem mapCx_contribs (s : State) (f : Ctx → Ctx) : (s.mapCx f).contribs = s.contribs := rfl
@[simp] theorem mapCx_gidSeq (s : State) (f : Ctx → Ctx) : (s.mapCx f).gidSeq = s.gidSeq := rfl
@[simp] theorem mapCx_early (s : State) (f : Ctx → Ctx) : (s.mapCx f).early = s.early := rfl
@[simp] theorem mapCx_phases (s : State) (f : Ctx → Ctx) : (s.mapCx f).phases = s.phases := rfl
@[simp] theorem mapCx_writes (s : State) (f : Ctx → Ctx) : (s.mapCx f).writes = s.writes := rfl
@[simp] theorem mapCx_syms (s : State) (f : Ctx → Ctx) : (s.mapCx f).syms = s.syms := rfl
@[simp] theorem mapCx_symSerial (s : State) (f : Ctx → Ctx) : (s.mapCx f).symSerial = s.symSerial := rfl
@[simp] theorem mapCx_launches (s : State) (f : Ctx → Ctx) : (s.mapCx f).launches = s.launches := rfl
@[simp] theorem mapCx_rgns (s : State) (f : Ctx → Ctx) : (s.mapCx f).rgns = s.rgns := rfl
@[simp] theorem mapCx_groups (s : State) (f : Ctx → Ctx) : (s.mapCx f).groups = s.groups := rfl
@[simp] theorem mapCx_preempts (s : State) (f : Ctx → Ctx) : (s.mapCx f).preempts = s.preempts := rfl
@[simp] theorem mapCx_sched (s : State) (f : Ctx → Ctx) : (s.mapCx f).sched = s.sched := rfl
@[simp] theorem mapCx_faults (s : State) (f : Ctx → Ctx) : (s.mapCx f).faults = s.faults := rfl
@[simp] theorem mapCx_held (s : State) (f : Ctx → Ctx) : (s.mapCx f).held = s.held := rfl
@[simp] theorem mapCx_frames (s : State) (f : Ctx → Ctx) : (s.mapCx f).frames = s.frames := rfl
@[simp] theorem mapCx_parts (s : State) (f : Ctx → Ctx) : (s.mapCx f).parts = s.parts := rfl
@[simp] theorem mapCx_deviceRcb (s : State) (f : Ctx → Ctx) : (s.mapCx f).deviceRcb = s.deviceRcb := rfl
@[simp] theorem mapCx_rcbCopies (s : State) (f : Ctx → Ctx) : (s.mapCx f).rcbCopies = s.rcbCopies := rfl
@[simp] theorem mapCx_access (s : State) (f : Ctx → Ctx) : (s.mapCx f).access = s.access := rfl
@[simp] theorem mapCx_van (s : State) (f : Ctx → Ctx) : (s.mapCx f).van = s.van := rfl
@[simp] theorem mapCx_porch (s : State) (f : Ctx → Ctx) : (s.mapCx f).porch = s.porch := rfl
@[simp] theorem mapCx_mgmt (s : State) (f : Ctx → Ctx) : (s.mapCx f).mgmt = s.mgmt := rfl
@[simp] theorem mapCx_hostOut (s : State) (f : Ctx → Ctx) : (s.mapCx f).hostOut = s.hostOut := rfl

/-! ## mapCore -/

@[simp] theorem mapCore_part (s : State) (k : CoreId) (f : Core → Core) : (s.mapCore k f).part = s.part := rfl
@[simp] theorem mapCore_chip (s : State) (k : CoreId) (f : Core → Core) : (s.mapCore k f).chip = s.chip := rfl
@[simp] theorem mapCore_chips (s : State) (k : CoreId) (f : Core → Core) : (s.mapCore k f).chips = s.chips := rfl
@[simp] theorem mapCore_gcc (s : State) (k : CoreId) (f : Core → Core) : (s.mapCore k f).gcc = s.gcc := rfl
@[simp] theorem mapCore_free (s : State) (k : CoreId) (f : Core → Core) : (s.mapCore k f).free = s.free := rfl
@[simp] theorem mapCore_agenda (s : State) (k : CoreId) (f : Core → Core) : (s.mapCore k f).agenda = s.agenda := rfl
@[simp] theorem mapCore_stage (s : State) (k : CoreId) (f : Core → Core) : (s.mapCore k f).stage = s.stage := rfl
@[simp] theorem mapCore_turn (s : State) (k : CoreId) (f : Core → Core) : (s.mapCore k f).turn = s.turn := rfl
@[simp] theorem mapCore_env (s : State) (k : CoreId) (f : Core → Core) : (s.mapCore k f).env = s.env := rfl
@[simp] theorem mapCore_ctxs (s : State) (k : CoreId) (f : Core → Core) : (s.mapCore k f).ctxs = s.ctxs := rfl
@[simp] theorem mapCore_mem (s : State) (k : CoreId) (f : Core → Core) : (s.mapCore k f).mem = s.mem := rfl
@[simp] theorem mapCore_empties (s : State) (k : CoreId) (f : Core → Core) : (s.mapCore k f).empties = s.empties := rfl
@[simp] theorem mapCore_poison (s : State) (k : CoreId) (f : Core → Core) : (s.mapCore k f).poison = s.poison := rfl
@[simp] theorem mapCore_damaged (s : State) (k : CoreId) (f : Core → Core) : (s.mapCore k f).damaged = s.damaged := rfl
@[simp] theorem mapCore_parity (s : State) (k : CoreId) (f : Core → Core) : (s.mapCore k f).parity = s.parity := rfl
@[simp] theorem mapCore_late (s : State) (k : CoreId) (f : Core → Core) : (s.mapCore k f).late = s.late := rfl
@[simp] theorem mapCore_tlb (s : State) (k : CoreId) (f : Core → Core) : (s.mapCore k f).tlb = s.tlb := rfl
@[simp] theorem mapCore_nextId (s : State) (k : CoreId) (f : Core → Core) : (s.mapCore k f).nextId = s.nextId := rfl
@[simp] theorem mapCore_copies (s : State) (k : CoreId) (f : Core → Core) : (s.mapCore k f).copies = s.copies := rfl
@[simp] theorem mapCore_reds (s : State) (k : CoreId) (f : Core → Core) : (s.mapCore k f).reds = s.reds := rfl
@[simp] theorem mapCore_sends (s : State) (k : CoreId) (f : Core → Core) : (s.mapCore k f).sends = s.sends := rfl
@[simp] theorem mapCore_sigs (s : State) (k : CoreId) (f : Core → Core) : (s.mapCore k f).sigs = s.sigs := rfl
@[simp] theorem mapCore_rels (s : State) (k : CoreId) (f : Core → Core) : (s.mapCore k f).rels = s.rels := rfl
@[simp] theorem mapCore_conds (s : State) (k : CoreId) (f : Core → Core) : (s.mapCore k f).conds = s.conds := rfl
@[simp] theorem mapCore_posts (s : State) (k : CoreId) (f : Core → Core) : (s.mapCore k f).posts = s.posts := rfl
@[simp] theorem mapCore_contribs (s : State) (k : CoreId) (f : Core → Core) : (s.mapCore k f).contribs = s.contribs :=
  rfl
@[simp] theorem mapCore_gidSeq (s : State) (k : CoreId) (f : Core → Core) : (s.mapCore k f).gidSeq = s.gidSeq := rfl
@[simp] theorem mapCore_early (s : State) (k : CoreId) (f : Core → Core) : (s.mapCore k f).early = s.early := rfl
@[simp] theorem mapCore_phases (s : State) (k : CoreId) (f : Core → Core) : (s.mapCore k f).phases = s.phases := rfl
@[simp] theorem mapCore_writes (s : State) (k : CoreId) (f : Core → Core) : (s.mapCore k f).writes = s.writes := rfl
@[simp] theorem mapCore_syms (s : State) (k : CoreId) (f : Core → Core) : (s.mapCore k f).syms = s.syms := rfl
@[simp] theorem mapCore_symSerial (s : State) (k : CoreId) (f : Core → Core) : (s.mapCore k f).symSerial = s.symSerial :=
  rfl
@[simp] theorem mapCore_launches (s : State) (k : CoreId) (f : Core → Core) : (s.mapCore k f).launches = s.launches :=
  rfl
@[simp] theorem mapCore_rgns (s : State) (k : CoreId) (f : Core → Core) : (s.mapCore k f).rgns = s.rgns := rfl
@[simp] theorem mapCore_groups (s : State) (k : CoreId) (f : Core → Core) : (s.mapCore k f).groups = s.groups := rfl
@[simp] theorem mapCore_preempts (s : State) (k : CoreId) (f : Core → Core) : (s.mapCore k f).preempts = s.preempts :=
  rfl
@[simp] theorem mapCore_sched (s : State) (k : CoreId) (f : Core → Core) : (s.mapCore k f).sched = s.sched := rfl
@[simp] theorem mapCore_faults (s : State) (k : CoreId) (f : Core → Core) : (s.mapCore k f).faults = s.faults := rfl
@[simp] theorem mapCore_held (s : State) (k : CoreId) (f : Core → Core) : (s.mapCore k f).held = s.held := rfl
@[simp] theorem mapCore_frames (s : State) (k : CoreId) (f : Core → Core) : (s.mapCore k f).frames = s.frames := rfl
@[simp] theorem mapCore_parts (s : State) (k : CoreId) (f : Core → Core) : (s.mapCore k f).parts = s.parts := rfl
@[simp] theorem mapCore_deviceRcb (s : State) (k : CoreId) (f : Core → Core) : (s.mapCore k f).deviceRcb = s.deviceRcb :=
  rfl
@[simp] theorem mapCore_rcbCopies (s : State) (k : CoreId) (f : Core → Core) : (s.mapCore k f).rcbCopies = s.rcbCopies :=
  rfl
@[simp] theorem mapCore_access (s : State) (k : CoreId) (f : Core → Core) : (s.mapCore k f).access = s.access := rfl
@[simp] theorem mapCore_van (s : State) (k : CoreId) (f : Core → Core) : (s.mapCore k f).van = s.van := rfl
@[simp] theorem mapCore_porch (s : State) (k : CoreId) (f : Core → Core) : (s.mapCore k f).porch = s.porch := rfl
@[simp] theorem mapCore_mgmt (s : State) (k : CoreId) (f : Core → Core) : (s.mapCore k f).mgmt = s.mgmt := rfl
@[simp] theorem mapCore_hostOut (s : State) (k : CoreId) (f : Core → Core) : (s.mapCore k f).hostOut = s.hostOut := rfl

/-! ## mapPart -/

@[simp] theorem mapPart_part (s : State) (p : BitVec 4) (f : Part → Part) : (s.mapPart p f).part = s.part := rfl
@[simp] theorem mapPart_chip (s : State) (p : BitVec 4) (f : Part → Part) : (s.mapPart p f).chip = s.chip := rfl
@[simp] theorem mapPart_chips (s : State) (p : BitVec 4) (f : Part → Part) : (s.mapPart p f).chips = s.chips := rfl
@[simp] theorem mapPart_gcc (s : State) (p : BitVec 4) (f : Part → Part) : (s.mapPart p f).gcc = s.gcc := rfl
@[simp] theorem mapPart_free (s : State) (p : BitVec 4) (f : Part → Part) : (s.mapPart p f).free = s.free := rfl
@[simp] theorem mapPart_agenda (s : State) (p : BitVec 4) (f : Part → Part) : (s.mapPart p f).agenda = s.agenda := rfl
@[simp] theorem mapPart_stage (s : State) (p : BitVec 4) (f : Part → Part) : (s.mapPart p f).stage = s.stage := rfl
@[simp] theorem mapPart_turn (s : State) (p : BitVec 4) (f : Part → Part) : (s.mapPart p f).turn = s.turn := rfl
@[simp] theorem mapPart_env (s : State) (p : BitVec 4) (f : Part → Part) : (s.mapPart p f).env = s.env := rfl
@[simp] theorem mapPart_ctxs (s : State) (p : BitVec 4) (f : Part → Part) : (s.mapPart p f).ctxs = s.ctxs := rfl
@[simp] theorem mapPart_cores (s : State) (p : BitVec 4) (f : Part → Part) : (s.mapPart p f).cores = s.cores := rfl
@[simp] theorem mapPart_mem (s : State) (p : BitVec 4) (f : Part → Part) : (s.mapPart p f).mem = s.mem := rfl
@[simp] theorem mapPart_empties (s : State) (p : BitVec 4) (f : Part → Part) : (s.mapPart p f).empties = s.empties :=
  rfl
@[simp] theorem mapPart_poison (s : State) (p : BitVec 4) (f : Part → Part) : (s.mapPart p f).poison = s.poison := rfl
@[simp] theorem mapPart_damaged (s : State) (p : BitVec 4) (f : Part → Part) : (s.mapPart p f).damaged = s.damaged :=
  rfl
@[simp] theorem mapPart_parity (s : State) (p : BitVec 4) (f : Part → Part) : (s.mapPart p f).parity = s.parity := rfl
@[simp] theorem mapPart_late (s : State) (p : BitVec 4) (f : Part → Part) : (s.mapPart p f).late = s.late := rfl
@[simp] theorem mapPart_tlb (s : State) (p : BitVec 4) (f : Part → Part) : (s.mapPart p f).tlb = s.tlb := rfl
@[simp] theorem mapPart_nextId (s : State) (p : BitVec 4) (f : Part → Part) : (s.mapPart p f).nextId = s.nextId := rfl
@[simp] theorem mapPart_copies (s : State) (p : BitVec 4) (f : Part → Part) : (s.mapPart p f).copies = s.copies := rfl
@[simp] theorem mapPart_reds (s : State) (p : BitVec 4) (f : Part → Part) : (s.mapPart p f).reds = s.reds := rfl
@[simp] theorem mapPart_sends (s : State) (p : BitVec 4) (f : Part → Part) : (s.mapPart p f).sends = s.sends := rfl
@[simp] theorem mapPart_sigs (s : State) (p : BitVec 4) (f : Part → Part) : (s.mapPart p f).sigs = s.sigs := rfl
@[simp] theorem mapPart_rels (s : State) (p : BitVec 4) (f : Part → Part) : (s.mapPart p f).rels = s.rels := rfl
@[simp] theorem mapPart_conds (s : State) (p : BitVec 4) (f : Part → Part) : (s.mapPart p f).conds = s.conds := rfl
@[simp] theorem mapPart_posts (s : State) (p : BitVec 4) (f : Part → Part) : (s.mapPart p f).posts = s.posts := rfl
@[simp] theorem mapPart_contribs (s : State) (p : BitVec 4) (f : Part → Part) : (s.mapPart p f).contribs = s.contribs :=
  rfl
@[simp] theorem mapPart_gidSeq (s : State) (p : BitVec 4) (f : Part → Part) : (s.mapPart p f).gidSeq = s.gidSeq := rfl
@[simp] theorem mapPart_early (s : State) (p : BitVec 4) (f : Part → Part) : (s.mapPart p f).early = s.early := rfl
@[simp] theorem mapPart_phases (s : State) (p : BitVec 4) (f : Part → Part) : (s.mapPart p f).phases = s.phases := rfl
@[simp] theorem mapPart_writes (s : State) (p : BitVec 4) (f : Part → Part) : (s.mapPart p f).writes = s.writes := rfl
@[simp] theorem mapPart_syms (s : State) (p : BitVec 4) (f : Part → Part) : (s.mapPart p f).syms = s.syms := rfl
@[simp] theorem mapPart_symSerial (s : State) (p : BitVec 4) (f : Part → Part) : (s.mapPart p f).symSerial = s.symSerial :=
  rfl
@[simp] theorem mapPart_launches (s : State) (p : BitVec 4) (f : Part → Part) : (s.mapPart p f).launches = s.launches :=
  rfl
@[simp] theorem mapPart_rgns (s : State) (p : BitVec 4) (f : Part → Part) : (s.mapPart p f).rgns = s.rgns := rfl
@[simp] theorem mapPart_groups (s : State) (p : BitVec 4) (f : Part → Part) : (s.mapPart p f).groups = s.groups := rfl
@[simp] theorem mapPart_preempts (s : State) (p : BitVec 4) (f : Part → Part) : (s.mapPart p f).preempts = s.preempts :=
  rfl
@[simp] theorem mapPart_sched (s : State) (p : BitVec 4) (f : Part → Part) : (s.mapPart p f).sched = s.sched := rfl
@[simp] theorem mapPart_faults (s : State) (p : BitVec 4) (f : Part → Part) : (s.mapPart p f).faults = s.faults := rfl
@[simp] theorem mapPart_held (s : State) (p : BitVec 4) (f : Part → Part) : (s.mapPart p f).held = s.held := rfl
@[simp] theorem mapPart_frames (s : State) (p : BitVec 4) (f : Part → Part) : (s.mapPart p f).frames = s.frames := rfl
@[simp] theorem mapPart_deviceRcb (s : State) (p : BitVec 4) (f : Part → Part) : (s.mapPart p f).deviceRcb = s.deviceRcb :=
  rfl
@[simp] theorem mapPart_rcbCopies (s : State) (p : BitVec 4) (f : Part → Part) : (s.mapPart p f).rcbCopies = s.rcbCopies :=
  rfl
@[simp] theorem mapPart_access (s : State) (p : BitVec 4) (f : Part → Part) : (s.mapPart p f).access = s.access := rfl
@[simp] theorem mapPart_van (s : State) (p : BitVec 4) (f : Part → Part) : (s.mapPart p f).van = s.van := rfl
@[simp] theorem mapPart_porch (s : State) (p : BitVec 4) (f : Part → Part) : (s.mapPart p f).porch = s.porch := rfl
@[simp] theorem mapPart_mgmt (s : State) (p : BitVec 4) (f : Part → Part) : (s.mapPart p f).mgmt = s.mgmt := rfl
@[simp] theorem mapPart_hostOut (s : State) (p : BitVec 4) (f : Part → Part) : (s.mapPart p f).hostOut = s.hostOut :=
  rfl

/-! ## putBytes -/

@[simp] theorem putBytes_part (s : State) (key : Nat) (bs : List Byte) : (s.putBytes key bs).part = s.part := rfl
@[simp] theorem putBytes_chip (s : State) (key : Nat) (bs : List Byte) : (s.putBytes key bs).chip = s.chip := rfl
@[simp] theorem putBytes_chips (s : State) (key : Nat) (bs : List Byte) : (s.putBytes key bs).chips = s.chips := rfl
@[simp] theorem putBytes_gcc (s : State) (key : Nat) (bs : List Byte) : (s.putBytes key bs).gcc = s.gcc := rfl
@[simp] theorem putBytes_free (s : State) (key : Nat) (bs : List Byte) : (s.putBytes key bs).free = s.free := rfl
@[simp] theorem putBytes_agenda (s : State) (key : Nat) (bs : List Byte) : (s.putBytes key bs).agenda = s.agenda := rfl
@[simp] theorem putBytes_stage (s : State) (key : Nat) (bs : List Byte) : (s.putBytes key bs).stage = s.stage := rfl
@[simp] theorem putBytes_turn (s : State) (key : Nat) (bs : List Byte) : (s.putBytes key bs).turn = s.turn := rfl
@[simp] theorem putBytes_env (s : State) (key : Nat) (bs : List Byte) : (s.putBytes key bs).env = s.env := rfl
@[simp] theorem putBytes_ctxs (s : State) (key : Nat) (bs : List Byte) : (s.putBytes key bs).ctxs = s.ctxs := rfl
@[simp] theorem putBytes_cores (s : State) (key : Nat) (bs : List Byte) : (s.putBytes key bs).cores = s.cores := rfl
@[simp] theorem putBytes_empties (s : State) (key : Nat) (bs : List Byte) : (s.putBytes key bs).empties = s.empties :=
  rfl
@[simp] theorem putBytes_parity (s : State) (key : Nat) (bs : List Byte) : (s.putBytes key bs).parity = s.parity := rfl
@[simp] theorem putBytes_late (s : State) (key : Nat) (bs : List Byte) : (s.putBytes key bs).late = s.late := rfl
@[simp] theorem putBytes_tlb (s : State) (key : Nat) (bs : List Byte) : (s.putBytes key bs).tlb = s.tlb := rfl
@[simp] theorem putBytes_nextId (s : State) (key : Nat) (bs : List Byte) : (s.putBytes key bs).nextId = s.nextId := rfl
@[simp] theorem putBytes_copies (s : State) (key : Nat) (bs : List Byte) : (s.putBytes key bs).copies = s.copies := rfl
@[simp] theorem putBytes_reds (s : State) (key : Nat) (bs : List Byte) : (s.putBytes key bs).reds = s.reds := rfl
@[simp] theorem putBytes_sends (s : State) (key : Nat) (bs : List Byte) : (s.putBytes key bs).sends = s.sends := rfl
@[simp] theorem putBytes_sigs (s : State) (key : Nat) (bs : List Byte) : (s.putBytes key bs).sigs = s.sigs := rfl
@[simp] theorem putBytes_rels (s : State) (key : Nat) (bs : List Byte) : (s.putBytes key bs).rels = s.rels := rfl
@[simp] theorem putBytes_conds (s : State) (key : Nat) (bs : List Byte) : (s.putBytes key bs).conds = s.conds := rfl
@[simp] theorem putBytes_posts (s : State) (key : Nat) (bs : List Byte) : (s.putBytes key bs).posts = s.posts := rfl
@[simp] theorem putBytes_contribs (s : State) (key : Nat) (bs : List Byte) : (s.putBytes key bs).contribs = s.contribs :=
  rfl
@[simp] theorem putBytes_gidSeq (s : State) (key : Nat) (bs : List Byte) : (s.putBytes key bs).gidSeq = s.gidSeq := rfl
@[simp] theorem putBytes_early (s : State) (key : Nat) (bs : List Byte) : (s.putBytes key bs).early = s.early := rfl
@[simp] theorem putBytes_phases (s : State) (key : Nat) (bs : List Byte) : (s.putBytes key bs).phases = s.phases := rfl
@[simp] theorem putBytes_writes (s : State) (key : Nat) (bs : List Byte) : (s.putBytes key bs).writes = s.writes := rfl
@[simp] theorem putBytes_syms (s : State) (key : Nat) (bs : List Byte) : (s.putBytes key bs).syms = s.syms := rfl
@[simp] theorem putBytes_symSerial (s : State) (key : Nat) (bs : List Byte) : (s.putBytes key bs).symSerial = s.symSerial :=
  rfl
@[simp] theorem putBytes_launches (s : State) (key : Nat) (bs : List Byte) : (s.putBytes key bs).launches = s.launches :=
  rfl
@[simp] theorem putBytes_rgns (s : State) (key : Nat) (bs : List Byte) : (s.putBytes key bs).rgns = s.rgns := rfl
@[simp] theorem putBytes_groups (s : State) (key : Nat) (bs : List Byte) : (s.putBytes key bs).groups = s.groups := rfl
@[simp] theorem putBytes_preempts (s : State) (key : Nat) (bs : List Byte) : (s.putBytes key bs).preempts = s.preempts :=
  rfl
@[simp] theorem putBytes_sched (s : State) (key : Nat) (bs : List Byte) : (s.putBytes key bs).sched = s.sched := rfl
@[simp] theorem putBytes_faults (s : State) (key : Nat) (bs : List Byte) : (s.putBytes key bs).faults = s.faults := rfl
@[simp] theorem putBytes_held (s : State) (key : Nat) (bs : List Byte) : (s.putBytes key bs).held = s.held := rfl
@[simp] theorem putBytes_frames (s : State) (key : Nat) (bs : List Byte) : (s.putBytes key bs).frames = s.frames := rfl
@[simp] theorem putBytes_parts (s : State) (key : Nat) (bs : List Byte) : (s.putBytes key bs).parts = s.parts := rfl
@[simp] theorem putBytes_deviceRcb (s : State) (key : Nat) (bs : List Byte) : (s.putBytes key bs).deviceRcb = s.deviceRcb :=
  rfl
@[simp] theorem putBytes_rcbCopies (s : State) (key : Nat) (bs : List Byte) : (s.putBytes key bs).rcbCopies = s.rcbCopies :=
  rfl
@[simp] theorem putBytes_access (s : State) (key : Nat) (bs : List Byte) : (s.putBytes key bs).access = s.access := rfl
@[simp] theorem putBytes_van (s : State) (key : Nat) (bs : List Byte) : (s.putBytes key bs).van = s.van := rfl
@[simp] theorem putBytes_porch (s : State) (key : Nat) (bs : List Byte) : (s.putBytes key bs).porch = s.porch := rfl
@[simp] theorem putBytes_mgmt (s : State) (key : Nat) (bs : List Byte) : (s.putBytes key bs).mgmt = s.mgmt := rfl
@[simp] theorem putBytes_hostOut (s : State) (key : Nat) (bs : List Byte) : (s.putBytes key bs).hostOut = s.hostOut :=
  rfl

/-! ## setTag -/

@[simp] theorem setTag_part (s : State) (key : Nat) (full : Bool) : (s.setTag key full).part = s.part := rfl
@[simp] theorem setTag_chip (s : State) (key : Nat) (full : Bool) : (s.setTag key full).chip = s.chip := rfl
@[simp] theorem setTag_chips (s : State) (key : Nat) (full : Bool) : (s.setTag key full).chips = s.chips := rfl
@[simp] theorem setTag_gcc (s : State) (key : Nat) (full : Bool) : (s.setTag key full).gcc = s.gcc := rfl
@[simp] theorem setTag_free (s : State) (key : Nat) (full : Bool) : (s.setTag key full).free = s.free := rfl
@[simp] theorem setTag_agenda (s : State) (key : Nat) (full : Bool) : (s.setTag key full).agenda = s.agenda := rfl
@[simp] theorem setTag_stage (s : State) (key : Nat) (full : Bool) : (s.setTag key full).stage = s.stage := rfl
@[simp] theorem setTag_turn (s : State) (key : Nat) (full : Bool) : (s.setTag key full).turn = s.turn := rfl
@[simp] theorem setTag_env (s : State) (key : Nat) (full : Bool) : (s.setTag key full).env = s.env := rfl
@[simp] theorem setTag_ctxs (s : State) (key : Nat) (full : Bool) : (s.setTag key full).ctxs = s.ctxs := rfl
@[simp] theorem setTag_cores (s : State) (key : Nat) (full : Bool) : (s.setTag key full).cores = s.cores := rfl
@[simp] theorem setTag_mem (s : State) (key : Nat) (full : Bool) : (s.setTag key full).mem = s.mem := rfl
@[simp] theorem setTag_poison (s : State) (key : Nat) (full : Bool) : (s.setTag key full).poison = s.poison := rfl
@[simp] theorem setTag_damaged (s : State) (key : Nat) (full : Bool) : (s.setTag key full).damaged = s.damaged := rfl
@[simp] theorem setTag_parity (s : State) (key : Nat) (full : Bool) : (s.setTag key full).parity = s.parity := rfl
@[simp] theorem setTag_late (s : State) (key : Nat) (full : Bool) : (s.setTag key full).late = s.late := rfl
@[simp] theorem setTag_tlb (s : State) (key : Nat) (full : Bool) : (s.setTag key full).tlb = s.tlb := rfl
@[simp] theorem setTag_nextId (s : State) (key : Nat) (full : Bool) : (s.setTag key full).nextId = s.nextId := rfl
@[simp] theorem setTag_copies (s : State) (key : Nat) (full : Bool) : (s.setTag key full).copies = s.copies := rfl
@[simp] theorem setTag_reds (s : State) (key : Nat) (full : Bool) : (s.setTag key full).reds = s.reds := rfl
@[simp] theorem setTag_sends (s : State) (key : Nat) (full : Bool) : (s.setTag key full).sends = s.sends := rfl
@[simp] theorem setTag_sigs (s : State) (key : Nat) (full : Bool) : (s.setTag key full).sigs = s.sigs := rfl
@[simp] theorem setTag_rels (s : State) (key : Nat) (full : Bool) : (s.setTag key full).rels = s.rels := rfl
@[simp] theorem setTag_conds (s : State) (key : Nat) (full : Bool) : (s.setTag key full).conds = s.conds := rfl
@[simp] theorem setTag_posts (s : State) (key : Nat) (full : Bool) : (s.setTag key full).posts = s.posts := rfl
@[simp] theorem setTag_contribs (s : State) (key : Nat) (full : Bool) : (s.setTag key full).contribs = s.contribs := rfl
@[simp] theorem setTag_gidSeq (s : State) (key : Nat) (full : Bool) : (s.setTag key full).gidSeq = s.gidSeq := rfl
@[simp] theorem setTag_early (s : State) (key : Nat) (full : Bool) : (s.setTag key full).early = s.early := rfl
@[simp] theorem setTag_phases (s : State) (key : Nat) (full : Bool) : (s.setTag key full).phases = s.phases := rfl
@[simp] theorem setTag_writes (s : State) (key : Nat) (full : Bool) : (s.setTag key full).writes = s.writes := rfl
@[simp] theorem setTag_syms (s : State) (key : Nat) (full : Bool) : (s.setTag key full).syms = s.syms := rfl
@[simp] theorem setTag_symSerial (s : State) (key : Nat) (full : Bool) : (s.setTag key full).symSerial = s.symSerial :=
  rfl
@[simp] theorem setTag_launches (s : State) (key : Nat) (full : Bool) : (s.setTag key full).launches = s.launches := rfl
@[simp] theorem setTag_rgns (s : State) (key : Nat) (full : Bool) : (s.setTag key full).rgns = s.rgns := rfl
@[simp] theorem setTag_groups (s : State) (key : Nat) (full : Bool) : (s.setTag key full).groups = s.groups := rfl
@[simp] theorem setTag_preempts (s : State) (key : Nat) (full : Bool) : (s.setTag key full).preempts = s.preempts := rfl
@[simp] theorem setTag_sched (s : State) (key : Nat) (full : Bool) : (s.setTag key full).sched = s.sched := rfl
@[simp] theorem setTag_faults (s : State) (key : Nat) (full : Bool) : (s.setTag key full).faults = s.faults := rfl
@[simp] theorem setTag_held (s : State) (key : Nat) (full : Bool) : (s.setTag key full).held = s.held := rfl
@[simp] theorem setTag_frames (s : State) (key : Nat) (full : Bool) : (s.setTag key full).frames = s.frames := rfl
@[simp] theorem setTag_parts (s : State) (key : Nat) (full : Bool) : (s.setTag key full).parts = s.parts := rfl
@[simp] theorem setTag_deviceRcb (s : State) (key : Nat) (full : Bool) : (s.setTag key full).deviceRcb = s.deviceRcb :=
  rfl
@[simp] theorem setTag_rcbCopies (s : State) (key : Nat) (full : Bool) : (s.setTag key full).rcbCopies = s.rcbCopies :=
  rfl
@[simp] theorem setTag_access (s : State) (key : Nat) (full : Bool) : (s.setTag key full).access = s.access := rfl
@[simp] theorem setTag_van (s : State) (key : Nat) (full : Bool) : (s.setTag key full).van = s.van := rfl
@[simp] theorem setTag_porch (s : State) (key : Nat) (full : Bool) : (s.setTag key full).porch = s.porch := rfl
@[simp] theorem setTag_mgmt (s : State) (key : Nat) (full : Bool) : (s.setTag key full).mgmt = s.mgmt := rfl
@[simp] theorem setTag_hostOut (s : State) (key : Nat) (full : Bool) : (s.setTag key full).hostOut = s.hostOut := rfl

/-! ## gains -/

@[simp] theorem gains_part (s : State) (n : Nat) (r : Result) : (s.gains n r).part = s.part := rfl
@[simp] theorem gains_chip (s : State) (n : Nat) (r : Result) : (s.gains n r).chip = s.chip := rfl
@[simp] theorem gains_chips (s : State) (n : Nat) (r : Result) : (s.gains n r).chips = s.chips := rfl
@[simp] theorem gains_gcc (s : State) (n : Nat) (r : Result) : (s.gains n r).gcc = s.gcc := rfl
@[simp] theorem gains_free (s : State) (n : Nat) (r : Result) : (s.gains n r).free = s.free := rfl
@[simp] theorem gains_agenda (s : State) (n : Nat) (r : Result) : (s.gains n r).agenda = s.agenda := rfl
@[simp] theorem gains_stage (s : State) (n : Nat) (r : Result) : (s.gains n r).stage = s.stage := rfl
@[simp] theorem gains_turn (s : State) (n : Nat) (r : Result) : (s.gains n r).turn = s.turn := rfl
@[simp] theorem gains_cores (s : State) (n : Nat) (r : Result) : (s.gains n r).cores = s.cores := rfl
@[simp] theorem gains_empties (s : State) (n : Nat) (r : Result) : (s.gains n r).empties = s.empties := rfl
@[simp] theorem gains_poison (s : State) (n : Nat) (r : Result) : (s.gains n r).poison = s.poison := rfl
@[simp] theorem gains_damaged (s : State) (n : Nat) (r : Result) : (s.gains n r).damaged = s.damaged := rfl
@[simp] theorem gains_parity (s : State) (n : Nat) (r : Result) : (s.gains n r).parity = s.parity := rfl
@[simp] theorem gains_late (s : State) (n : Nat) (r : Result) : (s.gains n r).late = s.late := rfl
@[simp] theorem gains_tlb (s : State) (n : Nat) (r : Result) : (s.gains n r).tlb = s.tlb := rfl
@[simp] theorem gains_nextId (s : State) (n : Nat) (r : Result) : (s.gains n r).nextId = s.nextId := rfl
@[simp] theorem gains_copies (s : State) (n : Nat) (r : Result) : (s.gains n r).copies = s.copies := rfl
@[simp] theorem gains_reds (s : State) (n : Nat) (r : Result) : (s.gains n r).reds = s.reds := rfl
@[simp] theorem gains_sends (s : State) (n : Nat) (r : Result) : (s.gains n r).sends = s.sends := rfl
@[simp] theorem gains_sigs (s : State) (n : Nat) (r : Result) : (s.gains n r).sigs = s.sigs := rfl
@[simp] theorem gains_rels (s : State) (n : Nat) (r : Result) : (s.gains n r).rels = s.rels := rfl
@[simp] theorem gains_conds (s : State) (n : Nat) (r : Result) : (s.gains n r).conds = s.conds := rfl
@[simp] theorem gains_posts (s : State) (n : Nat) (r : Result) : (s.gains n r).posts = s.posts := rfl
@[simp] theorem gains_contribs (s : State) (n : Nat) (r : Result) : (s.gains n r).contribs = s.contribs := rfl
@[simp] theorem gains_gidSeq (s : State) (n : Nat) (r : Result) : (s.gains n r).gidSeq = s.gidSeq := rfl
@[simp] theorem gains_early (s : State) (n : Nat) (r : Result) : (s.gains n r).early = s.early := rfl
@[simp] theorem gains_phases (s : State) (n : Nat) (r : Result) : (s.gains n r).phases = s.phases := rfl
@[simp] theorem gains_writes (s : State) (n : Nat) (r : Result) : (s.gains n r).writes = s.writes := rfl
@[simp] theorem gains_syms (s : State) (n : Nat) (r : Result) : (s.gains n r).syms = s.syms := rfl
@[simp] theorem gains_symSerial (s : State) (n : Nat) (r : Result) : (s.gains n r).symSerial = s.symSerial := rfl
@[simp] theorem gains_launches (s : State) (n : Nat) (r : Result) : (s.gains n r).launches = s.launches := rfl
@[simp] theorem gains_rgns (s : State) (n : Nat) (r : Result) : (s.gains n r).rgns = s.rgns := rfl
@[simp] theorem gains_groups (s : State) (n : Nat) (r : Result) : (s.gains n r).groups = s.groups := rfl
@[simp] theorem gains_preempts (s : State) (n : Nat) (r : Result) : (s.gains n r).preempts = s.preempts := rfl
@[simp] theorem gains_sched (s : State) (n : Nat) (r : Result) : (s.gains n r).sched = s.sched := rfl
@[simp] theorem gains_faults (s : State) (n : Nat) (r : Result) : (s.gains n r).faults = s.faults := rfl
@[simp] theorem gains_held (s : State) (n : Nat) (r : Result) : (s.gains n r).held = s.held := rfl
@[simp] theorem gains_frames (s : State) (n : Nat) (r : Result) : (s.gains n r).frames = s.frames := rfl
@[simp] theorem gains_parts (s : State) (n : Nat) (r : Result) : (s.gains n r).parts = s.parts := rfl
@[simp] theorem gains_deviceRcb (s : State) (n : Nat) (r : Result) : (s.gains n r).deviceRcb = s.deviceRcb := rfl
@[simp] theorem gains_rcbCopies (s : State) (n : Nat) (r : Result) : (s.gains n r).rcbCopies = s.rcbCopies := rfl
@[simp] theorem gains_access (s : State) (n : Nat) (r : Result) : (s.gains n r).access = s.access := rfl
@[simp] theorem gains_van (s : State) (n : Nat) (r : Result) : (s.gains n r).van = s.van := rfl
@[simp] theorem gains_porch (s : State) (n : Nat) (r : Result) : (s.gains n r).porch = s.porch := rfl
@[simp] theorem gains_mgmt (s : State) (n : Nat) (r : Result) : (s.gains n r).mgmt = s.mgmt := rfl
@[simp] theorem gains_hostOut (s : State) (n : Nat) (r : Result) : (s.gains n r).hostOut = s.hostOut := rfl

/-! ## Reads of an update -/

theorem ctx_setCtx (s : State) (c d : CtxId) (x : Ctx) : (s.setCtx c x).ctx d = if d = c then x else s.ctx d := by
  simp only [State.ctx, State.setCtx, Vector.getElem_set]
  by_cases h : d = c
  · simp [h]
  · have : c.toNat ≠ d.toNat := fun e => h (BitVec.eq_of_toNat_eq e.symm)
    simp [h, this]

@[simp] theorem ctx_setCtx_self (s : State) (c : CtxId) (x : Ctx) : (s.setCtx c x).ctx c = x := by simp [ctx_setCtx]
@[simp] theorem ctx_mapCtx_self (s : State) (c : CtxId) (f : Ctx → Ctx) : (s.mapCtx c f).ctx c = f (s.ctx c) :=
  ctx_setCtx_self ..
theorem ctx_mapCtx_ne (s : State) {c d : CtxId} (f : Ctx → Ctx) (h : d ≠ c) : (s.mapCtx c f).ctx d = s.ctx d := by
  simp [State.mapCtx, ctx_setCtx, h]
@[simp] theorem cx_mapCx (s : State) (f : Ctx → Ctx) : (s.mapCx f).cx = f s.cx := ctx_mapCtx_self ..
@[simp] theorem ctx_mapCore (s : State) (k : CoreId) (f : Core → Core) (d : CtxId) : (s.mapCore k f).ctx d = s.ctx d :=
  rfl
@[simp] theorem ctx_putBytes (s : State) (k : Nat) (bs : List Byte) (d : CtxId) : (s.putBytes k bs).ctx d = s.ctx d :=
  rfl
@[simp] theorem cx_putBytes (s : State) (k : Nat) (bs : List Byte) : (s.putBytes k bs).cx = s.cx := rfl

theorem core_mapCore (s : State) (k j : CoreId) (f : Core → Core) :
    (s.mapCore k f).core j = if j = k then f (s.core k) else s.core j := by
  simp only [State.core, State.mapCore, Vector.getElem_set]
  by_cases h : j = k
  · simp [h]
  · have : k.toNat ≠ j.toNat := fun e => h (BitVec.eq_of_toNat_eq e.symm)
    simp [h, this]

theorem partOf_mapPart (s : State) (p q : BitVec 4) (f : Part → Part) :
    (s.mapPart p f).partOf q = if q = p then f (s.partOf p) else s.partOf q := by
  simp only [State.partOf, State.mapPart, Vector.getElem_set]
  by_cases h : q = p
  · simp [h]
  · have : p.toNat ≠ q.toNat := fun e => h (BitVec.eq_of_toNat_eq e.symm)
    simp [h, this]

/-! ## Registers of a context -/

@[simp] theorem rs_zero (x : Ctx) : x.rs 0#6 = 0 := rfl
@[simp] theorem rp_zero (x : Ctx) : x.rp 0#3 = BitVec.allOnes 64 := rfl
@[simp] theorem ws_zero (x : Ctx) (w : Word) : x.ws 0#6 w = x := rfl
@[simp] theorem wp_zero (x : Ctx) (w : Word) : x.wp 0#3 w = x := rfl

theorem rs_ws (x : Ctx) (d q : SReg) (w : Word) (hd : d ≠ 0) : (x.ws d w).rs q = if q = d then w else x.rs q := by
  simp only [Ctx.ws, if_neg hd]
  by_cases h : q = d
  · subst h; simp only [Ctx.rs, if_neg hd]; simp
  · have : d.toNat ≠ q.toNat := fun e => h (BitVec.eq_of_toNat_eq e.symm)
    simp only [Ctx.rs, if_neg h]
    split
    · rfl
    · simp [this]

@[simp] theorem ws_run (x : Ctx) (d : SReg) (w : Word) : (x.ws d w).run = x.run := by unfold Ctx.ws; split <;> rfl
@[simp] theorem ws_task (x : Ctx) (d : SReg) (w : Word) : (x.ws d w).task = x.task := by unfold Ctx.ws; split <;> rfl
@[simp] theorem ws_v (x : Ctx) (d : SReg) (w : Word) : (x.ws d w).v = x.v := by unfold Ctx.ws; split <;> rfl
@[simp] theorem ws_p (x : Ctx) (d : SReg) (w : Word) : (x.ws d w).p = x.p := by unfold Ctx.ws; split <;> rfl
@[simp] theorem ws_acc (x : Ctx) (d : SReg) (w : Word) : (x.ws d w).acc = x.acc := by unfold Ctx.ws; split <;> rfl
@[simp] theorem ws_h (x : Ctx) (d : SReg) (w : Word) : (x.ws d w).h = x.h := by unfold Ctx.ws; split <;> rfl
@[simp] theorem ws_ctl (x : Ctx) (d : SReg) (w : Word) : (x.ws d w).ctl = x.ctl := by unfold Ctx.ws; split <;> rfl
@[simp] theorem ws_trap (x : Ctx) (d : SReg) (w : Word) : (x.ws d w).trap = x.trap := by unfold Ctx.ws; split <;> rfl
@[simp] theorem ws_shadow (x : Ctx) (d : SReg) (w : Word) : (x.ws d w).shadow = x.shadow :=
  by unfold Ctx.ws; split <;> rfl
@[simp] theorem ws_level (x : Ctx) (d : SReg) (w : Word) : (x.ws d w).level = x.level := by unfold Ctx.ws; split <;> rfl
@[simp] theorem ws_frozen (x : Ctx) (d : SReg) (w : Word) : (x.ws d w).frozen = x.frozen :=
  by unfold Ctx.ws; split <;> rfl
@[simp] theorem ws_ctm (x : Ctx) (d : SReg) (w : Word) : (x.ws d w).ctm = x.ctm := by unfold Ctx.ws; split <;> rfl
@[simp] theorem ws_dtc (x : Ctx) (d : SReg) (w : Word) : (x.ws d w).dtc = x.dtc := by unfold Ctx.ws; split <;> rfl
@[simp] theorem ws_flow (x : Ctx) (d : SReg) (w : Word) : (x.ws d w).flow = x.flow := by unfold Ctx.ws; split <;> rfl
@[simp] theorem ws_loops (x : Ctx) (d : SReg) (w : Word) : (x.ws d w).loops = x.loops := by unfold Ctx.ws; split <;> rfl
@[simp] theorem ws_lbuf (x : Ctx) (d : SReg) (w : Word) : (x.ws d w).lbuf = x.lbuf := by unfold Ctx.ws; split <;> rfl
@[simp] theorem ws_results (x : Ctx) (d : SReg) (w : Word) : (x.ws d w).results = x.results :=
  by unfold Ctx.ws; split <;> rfl
@[simp] theorem ws_nextRid (x : Ctx) (d : SReg) (w : Word) : (x.ws d w).nextRid = x.nextRid :=
  by unfold Ctx.ws; split <;> rfl
@[simp] theorem ws_slip (x : Ctx) (d : SReg) (w : Word) : (x.ws d w).slip = x.slip := by unfold Ctx.ws; split <;> rfl
@[simp] theorem ws_cregs (x : Ctx) (d : SReg) (w : Word) : (x.ws d w).cregs = x.cregs := by unfold Ctx.ws; split <;> rfl
@[simp] theorem ws_btraps (x : Ctx) (d : SReg) (w : Word) : (x.ws d w).btraps = x.btraps :=
  by unfold Ctx.ws; split <;> rfl
@[simp] theorem ws_unwind (x : Ctx) (d : SReg) (w : Word) : (x.ws d w).unwind = x.unwind :=
  by unfold Ctx.ws; split <;> rfl
@[simp] theorem ws_phase (x : Ctx) (d : SReg) (w : Word) : (x.ws d w).phase = x.phase := by unfold Ctx.ws; split <;> rfl
@[simp] theorem ws_rq (x : Ctx) (d : SReg) (w : Word) : (x.ws d w).rq = x.rq := by unfold Ctx.ws; split <;> rfl
@[simp] theorem ws_madeS (x : Ctx) (d : SReg) (w : Word) : (x.ws d w).madeS = x.madeS := by unfold Ctx.ws; split <;> rfl
@[simp] theorem ws_madeV (x : Ctx) (d : SReg) (w : Word) : (x.ws d w).madeV = x.madeV := by unfold Ctx.ws; split <;> rfl
@[simp] theorem wv_s (x : Ctx) (d : VReg) (m : Word) (w : VecWord) : (x.wv d m w).s = x.s := rfl
@[simp] theorem wv_run (x : Ctx) (d : VReg) (m : Word) (w : VecWord) : (x.wv d m w).run = x.run := rfl
@[simp] theorem wv_task (x : Ctx) (d : VReg) (m : Word) (w : VecWord) : (x.wv d m w).task = x.task := rfl
@[simp] theorem wv_p (x : Ctx) (d : VReg) (m : Word) (w : VecWord) : (x.wv d m w).p = x.p := rfl
@[simp] theorem wv_acc (x : Ctx) (d : VReg) (m : Word) (w : VecWord) : (x.wv d m w).acc = x.acc := rfl
@[simp] theorem wv_h (x : Ctx) (d : VReg) (m : Word) (w : VecWord) : (x.wv d m w).h = x.h := rfl
@[simp] theorem wv_ctl (x : Ctx) (d : VReg) (m : Word) (w : VecWord) : (x.wv d m w).ctl = x.ctl := rfl
@[simp] theorem wv_trap (x : Ctx) (d : VReg) (m : Word) (w : VecWord) : (x.wv d m w).trap = x.trap := rfl
@[simp] theorem wv_shadow (x : Ctx) (d : VReg) (m : Word) (w : VecWord) : (x.wv d m w).shadow = x.shadow := rfl
@[simp] theorem wv_level (x : Ctx) (d : VReg) (m : Word) (w : VecWord) : (x.wv d m w).level = x.level := rfl
@[simp] theorem wv_frozen (x : Ctx) (d : VReg) (m : Word) (w : VecWord) : (x.wv d m w).frozen = x.frozen := rfl
@[simp] theorem wv_ctm (x : Ctx) (d : VReg) (m : Word) (w : VecWord) : (x.wv d m w).ctm = x.ctm := rfl
@[simp] theorem wv_dtc (x : Ctx) (d : VReg) (m : Word) (w : VecWord) : (x.wv d m w).dtc = x.dtc := rfl
@[simp] theorem wv_flow (x : Ctx) (d : VReg) (m : Word) (w : VecWord) : (x.wv d m w).flow = x.flow := rfl
@[simp] theorem wv_loops (x : Ctx) (d : VReg) (m : Word) (w : VecWord) : (x.wv d m w).loops = x.loops := rfl
@[simp] theorem wv_lbuf (x : Ctx) (d : VReg) (m : Word) (w : VecWord) : (x.wv d m w).lbuf = x.lbuf := rfl
@[simp] theorem wv_results (x : Ctx) (d : VReg) (m : Word) (w : VecWord) : (x.wv d m w).results = x.results := rfl
@[simp] theorem wv_nextRid (x : Ctx) (d : VReg) (m : Word) (w : VecWord) : (x.wv d m w).nextRid = x.nextRid := rfl
@[simp] theorem wv_slip (x : Ctx) (d : VReg) (m : Word) (w : VecWord) : (x.wv d m w).slip = x.slip := rfl
@[simp] theorem wv_cregs (x : Ctx) (d : VReg) (m : Word) (w : VecWord) : (x.wv d m w).cregs = x.cregs := rfl
@[simp] theorem wv_btraps (x : Ctx) (d : VReg) (m : Word) (w : VecWord) : (x.wv d m w).btraps = x.btraps := rfl
@[simp] theorem wv_unwind (x : Ctx) (d : VReg) (m : Word) (w : VecWord) : (x.wv d m w).unwind = x.unwind := rfl
@[simp] theorem wv_phase (x : Ctx) (d : VReg) (m : Word) (w : VecWord) : (x.wv d m w).phase = x.phase := rfl
@[simp] theorem wv_rq (x : Ctx) (d : VReg) (m : Word) (w : VecWord) : (x.wv d m w).rq = x.rq := rfl
@[simp] theorem wv_madeS (x : Ctx) (d : VReg) (m : Word) (w : VecWord) : (x.wv d m w).madeS = x.madeS := rfl
@[simp] theorem wv_madeV (x : Ctx) (d : VReg) (m : Word) (w : VecWord) : (x.wv d m w).madeV = x.madeV := rfl
@[simp] theorem wp_s (x : Ctx) (d : PReg) (w : Word) : (x.wp d w).s = x.s := by unfold Ctx.wp; split <;> rfl
@[simp] theorem wp_run (x : Ctx) (d : PReg) (w : Word) : (x.wp d w).run = x.run := by unfold Ctx.wp; split <;> rfl
@[simp] theorem wp_task (x : Ctx) (d : PReg) (w : Word) : (x.wp d w).task = x.task := by unfold Ctx.wp; split <;> rfl
@[simp] theorem wp_v (x : Ctx) (d : PReg) (w : Word) : (x.wp d w).v = x.v := by unfold Ctx.wp; split <;> rfl
@[simp] theorem wp_acc (x : Ctx) (d : PReg) (w : Word) : (x.wp d w).acc = x.acc := by unfold Ctx.wp; split <;> rfl
@[simp] theorem wp_h (x : Ctx) (d : PReg) (w : Word) : (x.wp d w).h = x.h := by unfold Ctx.wp; split <;> rfl
@[simp] theorem wp_ctl (x : Ctx) (d : PReg) (w : Word) : (x.wp d w).ctl = x.ctl := by unfold Ctx.wp; split <;> rfl
@[simp] theorem wp_trap (x : Ctx) (d : PReg) (w : Word) : (x.wp d w).trap = x.trap := by unfold Ctx.wp; split <;> rfl
@[simp] theorem wp_shadow (x : Ctx) (d : PReg) (w : Word) : (x.wp d w).shadow = x.shadow :=
  by unfold Ctx.wp; split <;> rfl
@[simp] theorem wp_level (x : Ctx) (d : PReg) (w : Word) : (x.wp d w).level = x.level := by unfold Ctx.wp; split <;> rfl
@[simp] theorem wp_frozen (x : Ctx) (d : PReg) (w : Word) : (x.wp d w).frozen = x.frozen :=
  by unfold Ctx.wp; split <;> rfl
@[simp] theorem wp_ctm (x : Ctx) (d : PReg) (w : Word) : (x.wp d w).ctm = x.ctm := by unfold Ctx.wp; split <;> rfl
@[simp] theorem wp_dtc (x : Ctx) (d : PReg) (w : Word) : (x.wp d w).dtc = x.dtc := by unfold Ctx.wp; split <;> rfl
@[simp] theorem wp_flow (x : Ctx) (d : PReg) (w : Word) : (x.wp d w).flow = x.flow := by unfold Ctx.wp; split <;> rfl
@[simp] theorem wp_loops (x : Ctx) (d : PReg) (w : Word) : (x.wp d w).loops = x.loops := by unfold Ctx.wp; split <;> rfl
@[simp] theorem wp_lbuf (x : Ctx) (d : PReg) (w : Word) : (x.wp d w).lbuf = x.lbuf := by unfold Ctx.wp; split <;> rfl
@[simp] theorem wp_results (x : Ctx) (d : PReg) (w : Word) : (x.wp d w).results = x.results :=
  by unfold Ctx.wp; split <;> rfl
@[simp] theorem wp_nextRid (x : Ctx) (d : PReg) (w : Word) : (x.wp d w).nextRid = x.nextRid :=
  by unfold Ctx.wp; split <;> rfl
@[simp] theorem wp_slip (x : Ctx) (d : PReg) (w : Word) : (x.wp d w).slip = x.slip := by unfold Ctx.wp; split <;> rfl
@[simp] theorem wp_cregs (x : Ctx) (d : PReg) (w : Word) : (x.wp d w).cregs = x.cregs := by unfold Ctx.wp; split <;> rfl
@[simp] theorem wp_btraps (x : Ctx) (d : PReg) (w : Word) : (x.wp d w).btraps = x.btraps :=
  by unfold Ctx.wp; split <;> rfl
@[simp] theorem wp_unwind (x : Ctx) (d : PReg) (w : Word) : (x.wp d w).unwind = x.unwind :=
  by unfold Ctx.wp; split <;> rfl
@[simp] theorem wp_phase (x : Ctx) (d : PReg) (w : Word) : (x.wp d w).phase = x.phase := by unfold Ctx.wp; split <;> rfl
@[simp] theorem wp_rq (x : Ctx) (d : PReg) (w : Word) : (x.wp d w).rq = x.rq := by unfold Ctx.wp; split <;> rfl
@[simp] theorem wp_madeS (x : Ctx) (d : PReg) (w : Word) : (x.wp d w).madeS = x.madeS := by unfold Ctx.wp; split <;> rfl
@[simp] theorem wp_madeV (x : Ctx) (d : PReg) (w : Word) : (x.wp d w).madeV = x.madeV := by unfold Ctx.wp; split <;> rfl

end Sys2Proof.Machine
end

