-- ==== Sys2Proof/Laws/Memory.lean ====
section
/-!
SUPPORT. Memory: every operation that writes it keeps its canonical form, and what is read after a write.
-/
namespace Sys2Proof.Machine

/-! ## Cells -/

theorem cellsFrom_mono {lo hi : Nat} {l : List Host.Cell} (h : lo ≤ hi) (w : cellsFrom hi l = true) :
    cellsFrom lo l = true := by
  cases l with
  | nil => rfl
  | cons c l =>
    obtain ⟨k, b⟩ := c
    simp only [cellsFrom, Bool.and_eq_true, decide_eq_true_eq] at w ⊢
    exact ⟨⟨by omega, w.1.2⟩, w.2⟩

theorem memRead_below {lo : Nat} {l : List Host.Cell} (w : cellsFrom lo l = true) {a : Nat} (h : a < lo) :
    memRead l a = blankByte := by
  induction l generalizing lo with
  | nil => rfl
  | cons c l ih =>
    obtain ⟨k, b⟩ := c
    simp only [cellsFrom, Bool.and_eq_true, decide_eq_true_eq] at w
    have hk : k ≠ a := by omega
    simp only [memRead, if_neg hk]
    exact ih w.2 (by omega)

/-- A write keeps the canonical form. -/
theorem cellsFrom_memWrite {lo : Nat} {l : List Host.Cell} (w : cellsFrom lo l = true) {a : Nat} (b : Byte)
    (h : lo ≤ a) : cellsFrom lo (memWrite l a b) = true := by
  induction l generalizing lo with
  | nil =>
    by_cases hb : b = blankByte
    · simp [memWrite, hb, cellsFrom]
    · simp [memWrite, hb, cellsFrom, h]
  | cons c l ih =>
    obtain ⟨k, c⟩ := c
    have w' := w
    simp only [cellsFrom, Bool.and_eq_true, decide_eq_true_eq] at w
    unfold memWrite
    split
    · split
      · exact w'
      · rename_i h1 hb
        simp [cellsFrom, h, hb, w.1.2, w.2]; omega
    · split
      · rename_i h1 h2
        subst h2
        split
        · exact cellsFrom_mono (by omega) w.2
        · rename_i hb; simp [cellsFrom, h, hb, w.2]
      · rename_i h1 h2
        have := ih w.2 (by omega : k + 1 ≤ a)
        simp [cellsFrom, w.1.1, w.1.2, this]

theorem wf_memWrite {m : List Host.Cell} (w : Memory.wf m = true) (a : Nat) (b : Byte) :
    Memory.wf (memWrite m a b) = true := cellsFrom_memWrite w b (Nat.zero_le a)

/-- What a byte reads after a write. -/
theorem memRead_memWrite {lo : Nat} {l : List Host.Cell} (w : cellsFrom lo l = true) (a k : Nat) (b : Byte) :
    memRead (memWrite l a b) k = if k = a then b else memRead l k := by
  induction l generalizing lo with
  | nil =>
    by_cases hb : b = blankByte
    · simp [memWrite, hb, memRead]
    · by_cases hk : k = a
      · simp [memWrite, hb, memRead, hk]
      · have : a ≠ k := fun e => hk e.symm
        simp [memWrite, hb, memRead, hk, this]
  | cons c l ih =>
    obtain ⟨j, c⟩ := c
    simp only [cellsFrom, Bool.and_eq_true, decide_eq_true_eq] at w
    by_cases hk : k = a
    · subst hk
      rw [if_pos rfl]
      unfold memWrite
      split
      · rename_i h1
        split
        · rename_i hb
          have hj : j ≠ k := by omega
          simp only [memRead, if_neg hj]
          rw [memRead_below w.2 (by omega), hb]
        · simp [memRead]
      · split
        · rename_i h1 h2
          subst h2
          split
          · rename_i hb; rw [memRead_below w.2 (by omega), hb]
          · simp [memRead]
        · rename_i h1 h2
          have hj : j ≠ k := fun e => h2 e.symm
          simp only [memRead, if_neg hj]
          rw [ih w.2, if_pos rfl]
    · rw [if_neg hk]
      have hk' : a ≠ k := fun e => hk e.symm
      unfold memWrite
      split
      · split
        · rfl
        · simp [memRead, hk']
      · split
        · rename_i h1 h2
          subst h2
          split <;> simp [memRead, hk']
        · simp only [memRead]
          rw [ih w.2, if_neg hk]

/-! ## Runs of bytes -/

theorem wf_memStore {m : List Host.Cell} (w : Memory.wf m = true) (a : Nat) (bs : List Byte) :
    Memory.wf (memStore m a bs) = true := by
  induction bs generalizing m a with
  | nil => exact w
  | cons b bs ih => exact ih (wf_memWrite w a b) (a + 1)

theorem memRead_memStore {m : List Host.Cell} (w : Memory.wf m = true) (a : Nat) (bs : List Byte) (k : Nat) :
    memRead (memStore m a bs) k = if a ≤ k ∧ k < a + bs.length then bs.getD (k - a) 0 else memRead m k := by
  induction bs generalizing m a with
  | nil =>
    have : ¬ (a ≤ k ∧ k < a + ([] : List Byte).length) := by simp only [List.length_nil]; omega
    rw [if_neg this]; rfl
  | cons b bs ih =>
    simp only [memStore]
    rw [ih (wf_memWrite w a b), memRead_memWrite w]
    by_cases hk : k = a
    · subst hk; simp
    · by_cases hr : a + 1 ≤ k ∧ k < a + 1 + bs.length
      · have h2 : a ≤ k ∧ k < a + (b :: bs).length := by simp only [List.length_cons]; omega
        rw [if_pos hr, if_pos h2]
        obtain ⟨j, rfl⟩ : ∃ j, k = a + 1 + j := ⟨k - (a + 1), by omega⟩
        have e1 : a + 1 + j - (a + 1) = j := by omega
        have e2 : a + 1 + j - a = j + 1 := by omega
        rw [e1, e2]; rfl
      · have h2 : ¬ (a ≤ k ∧ k < a + (b :: bs).length) := by simp only [List.length_cons]; omega
        rw [if_neg hr, if_neg h2, if_neg hk]

theorem length_memBytes (m : List Host.Cell) (a n : Nat) : (memBytes m a n).length = n := by
  induction n generalizing a with
  | zero => rfl
  | succ n ih => simp [memBytes, ih]

theorem getElem_memBytes (m : List Host.Cell) (a n i : Nat) (h : i < (memBytes m a n).length) :
    (memBytes m a n)[i] = memRead m (a + i) := by
  induction n generalizing a i with
  | zero => simp [memBytes] at h
  | succ n ih =>
    cases i with
    | zero => rfl
    | succ i =>
      simp only [memBytes, List.getElem_cons_succ]
      rw [ih]; congr 1; omega

theorem memBytes_congr {m m' : List Host.Cell} {a n : Nat}
    (h : ∀ k, a ≤ k → k < a + n → memRead m' k = memRead m k) : memBytes m' a n = memBytes m a n := by
  induction n generalizing a with
  | zero => rfl
  | succ n ih =>
    simp only [memBytes]
    rw [h a (by omega) (by omega), ih (fun k h1 h2 => h k (by omega) (by omega))]

/-- Stored bytes read back. -/
theorem memBytes_memStore {m : List Host.Cell} (w : Memory.wf m = true) (a : Nat) (bs : List Byte) :
    memBytes (memStore m a bs) a bs.length = bs := by
  apply List.ext_getElem (length_memBytes ..)
  intro i h1 h2
  rw [getElem_memBytes, memRead_memStore w, if_pos ⟨by omega, by omega⟩]
  have : a + i - a = i := by omega
  rw [this, List.getD_eq_getElem?_getD, List.getElem?_eq_getElem h2]; rfl

/-! ## The state's operations keep the canonical form -/

theorem reset_sound : State.reset.sound := rfl

theorem sound_putBytes {s : State} (h : s.sound) (key : Nat) (bs : List Byte) : (s.putBytes key bs).sound :=
  wf_memStore h key bs

theorem sound_putNat {s : State} (h : s.sound) (key n v : Nat) : (s.putNat key n v).sound := sound_putBytes h ..

theorem sound_putPieces {s : State} (h : s.sound) (ps : List Piece) (bs : List Byte) : (s.putPieces ps bs).sound := by
  induction ps generalizing s bs with
  | nil => exact h
  | cons p ps ih => exact ih (sound_putBytes h ..) _

/-- Bytes written one by one keep the canonical form (R154). -/
theorem wf_memPuts {m : List Host.Cell} (w : Memory.wf m = true) (l : List (Nat × Byte)) :
    Memory.wf (memPuts m l) = true := by
  induction l generalizing m with
  | nil => exact w
  | cons x l ih => exact ih (wf_memWrite w x.1 x.2)

/-- A byte that none of the writes names is as it was. -/
theorem memRead_memPuts {m : List Host.Cell} (w : Memory.wf m = true) {l : List (Nat × Byte)} {k : Nat}
    (h : ∀ x ∈ l, x.1 ≠ k) : memRead (memPuts m l) k = memRead m k := by
  induction l generalizing m with
  | nil => rfl
  | cons x l ih =>
    show memRead (memPuts (memWrite m x.1 x.2) l) k = _
    rw [ih (wf_memWrite w x.1 x.2) (fun y hy => h y (List.mem_cons_of_mem _ hy)), memRead_memWrite w,
      if_neg (fun e => h x (List.mem_cons_self ..) e.symm)]

theorem sound_putCells {s : State} (h : s.sound) (l : List (Nat × Carried)) : (s.putCells l).sound := wf_memPuts h _

theorem sound_putWide {s : State} (h : s.sound) (c : CtxId) (size : Nat) (va : Word) (ps : List Piece)
    (bs : List Byte) : (s.putWide c size va ps bs).sound := wf_memPuts h _

/-- Updates one after another keep what each of them keeps. -/
theorem sound_foldl {α : Type} {f : State → α → State} (hf : ∀ t x, t.sound → (f t x).sound) (l : List α) {s : State}
    (h : s.sound) : (l.foldl f s).sound := by
  induction l generalizing s with
  | nil => exact h
  | cons x l ih => exact ih (hf s x h)

/-! ## Records -/

theorem sound_globalPut {s : State} (h : s.sound) (p c : BitVec 4) (va : Word) (bs : List Byte) :
    (s.globalPut p c va bs).sound := by
  unfold State.globalPut; split
  · exact sound_putPieces h ..
  · exact h

theorem sound_globalPutAll {s : State} (h : s.sound) (p c : BitVec 4) (ws : List (Word × List Byte)) :
    (s.globalPutAll p c ws).sound := by
  refine sound_foldl (fun t x ht => ?_) _ h
  split
  · exact sound_putPieces ht ..
  · exact ht

/-- A record posted to a queue keeps the canonical form (R431). -/
theorem sound_post {s : State} (h : s.sound) (p : BitVec 4) (q : Word) (bs : List Byte) : (s.post p q bs).sound := by
  unfold State.post
  split
  · exact h
  · dsimp only
    split
    · exact sound_globalPutAll h ..
    · split
      · exact h
      · exact sound_globalPut h ..

theorem sound_scoreError {s : State} (h : s.sound) (k : Nat) : (s.scoreError k).sound := by
  unfold State.scoreError; split
  · exact h
  · split <;> exact h

theorem sound_recordError {s : State} (h : s.sound) (k : Nat) (who : Option Reader) : (s.recordError k who).sound := by
  unfold State.recordError
  dsimp only
  split
  · exact sound_post h ..
  · split
    · split
      · exact h
      · exact sound_post h ..
    · split
      · exact h
      · exact sound_post h ..

/-- An error that has been found keeps the canonical form (R148, R454). -/
theorem sound_foundError {s : State} (h : s.sound) (k : Nat) (b : Bool) (who : Option Reader) :
    (s.foundError k b who).sound := by
  unfold State.foundError; split
  · exact h
  · split
    · exact sound_scoreError h k
    · refine sound_recordError ?_ k who
      exact h

theorem sound_readErrors {s : State} (h : s.sound) (r : Reader) (ps : List Piece) : (s.readErrors r ps).sound :=
  sound_foldl (fun _ d ht => sound_foundError ht d.1 d.2 _) _ (show State.sound { s with damaged := _ } from h)

/-! ## Wide accesses -/

theorem sound_readLane {s : State} (h : s.sound) (l : Late) (p : Nat × Nat) : (s.readLane l p).sound := by
  unfold State.readLane; split
  · exact h
  · exact sound_readErrors h ..

theorem sound_perform {s : State} (h : s.sound) (l : Late) : (s.perform l).sound :=
  sound_foldl (fun _ p ht => sound_readLane ht l p) _ (sound_putCells h _)

theorem sound_settle {s : State} (h : s.sound) (c : CtxId) : (s.settle c).sound :=
  sound_foldl (fun _ l ht => sound_perform ht l) _ (show State.sound { s with late := _ } from h)

/-- Cells left out keep the canonical form (resets of PM and of the compute domain). -/
theorem cellsFrom_filter {lo : Nat} {l : List Host.Cell} (w : cellsFrom lo l = true) (p : Host.Cell → Bool) :
    cellsFrom lo (l.filter p) = true := by
  induction l generalizing lo with
  | nil => rfl
  | cons c l ih =>
    obtain ⟨k, b⟩ := c
    simp only [cellsFrom, Bool.and_eq_true, decide_eq_true_eq] at w
    rw [List.filter_cons]
    split
    · simp [cellsFrom, w.1.1, w.1.2, ih w.2]
    · exact cellsFrom_mono (by omega) (ih w.2)

theorem wf_filter {m : List Host.Cell} (w : Memory.wf m = true) (p : Host.Cell → Bool) :
    Memory.wf (m.filter p) = true := cellsFrom_filter w p

theorem sameOutside_putBytes {s : State} (h : s.sound) (key : Nat) (bs : List Byte) :
    sameOutside s (s.putBytes key bs) key bs.length := by
  intro a ha
  show memRead (memStore s.mem key bs) a = _
  rw [memRead_memStore h, if_neg (by omega)]

theorem bytesAt_putBytes {s : State} (h : s.sound) (key : Nat) (bs : List Byte) :
    (s.putBytes key bs).bytesAt key bs.length = bs := memBytes_memStore h ..

/-! ## Numbers as bytes -/

theorem length_leBytes (n v : Nat) : (leBytes n v).length = n := by
  induction n generalizing v with
  | zero => rfl
  | succ n ih => simp [leBytes, ih]

theorem leNat_leBytes (n v : Nat) : leNat (leBytes n v) = v % 2 ^ (8 * n) := by
  induction n generalizing v with
  | zero => simp [leBytes, leNat, Nat.mod_one]
  | succ n ih =>
    simp only [leBytes, leNat, ih, BitVec.toNat_ofNat]
    have e : (2 : Nat) ^ (8 * (n + 1)) = 2 ^ 8 * 2 ^ (8 * n) := by rw [← Nat.pow_add]; congr 1; omega
    rw [e, Nat.mod_mul]
    norm_num

theorem leNat_lt (bs : List Byte) : leNat bs < 2 ^ (8 * bs.length) := by
  induction bs with
  | nil => simp [leNat]
  | cons b bs ih =>
    have hb := b.isLt
    have e : (2 : Nat) ^ (8 * (b :: bs).length) = 256 * 2 ^ (8 * bs.length) := by
      simp only [List.length_cons]
      rw [show 8 * (bs.length + 1) = 8 + 8 * bs.length by omega, Nat.pow_add]
    rw [e]; simp only [leNat]; omega

/-- A number written reads back modulo its width. -/
theorem natAt_putNat {s : State} (h : s.sound) (key n v : Nat) :
    (s.putNat key n v).natAt key n = v % 2 ^ (8 * n) := by
  have : (s.putNat key n v).bytesAt key n = leBytes n v := by
    have := bytesAt_putBytes h key (leBytes n v)
    rwa [length_leBytes] at this
  simp only [State.natAt, this, leNat_leBytes]

theorem sameOutside_putNat {s : State} (h : s.sound) (key n v : Nat) : sameOutside s (s.putNat key n v) key n := by
  have := sameOutside_putBytes h key (leBytes n v)
  rwa [length_leBytes] at this

end Sys2Proof.Machine
end

