-- ==== Sys2Proof/Laws/Ops.lean ====
section
/-!
SUPPORT. What the shared operations of issue, access and waiting can do, said once for each.
-/
namespace Sys2Proof.Machine

/-! ## Soundness of the updates that leave memory alone -/

@[simp] theorem sound_setCtx (s : State) (c : CtxId) (x : Ctx) : (s.setCtx c x).sound ↔ s.sound := Iff.rfl
@[simp] theorem sound_mapCtx (s : State) (c : CtxId) (f : Ctx → Ctx) : (s.mapCtx c f).sound ↔ s.sound := Iff.rfl
@[simp] theorem sound_mapCx (s : State) (f : Ctx → Ctx) : (s.mapCx f).sound ↔ s.sound := Iff.rfl
@[simp] theorem sound_mapCore (s : State) (k : CoreId) (f : Core → Core) : (s.mapCore k f).sound ↔ s.sound := Iff.rfl
@[simp] theorem sound_mapPart (s : State) (p : BitVec 4) (f : Part → Part) : (s.mapPart p f).sound ↔ s.sound := Iff.rfl
@[simp] theorem sound_setTag (s : State) (k : Nat) (b : Bool) : (s.setTag k b).sound ↔ s.sound := Iff.rfl
@[simp] theorem sound_gains (s : State) (n : Nat) (r : Result) : (s.gains n r).sound ↔ s.sound := Iff.rfl
@[simp] theorem sound_block (s : State) (h : Holds) : (s.block h).sound ↔ s.sound := Iff.rfl

/-! ## Issue -/

/-- All that `operate` can do with an instruction of a bundle: hold the bundle, raise the trap of its failing check,
execute on the storage its checks fixed, expire as a reader whose limit is 0, or enter the slip buffer. In the last three it has
met the errors of the arrays that it reads. -/
theorem operate_cases {s : State} (sh : Shape) (c : Except IssueTrap (List Touch)) (k : List Touch → State → State)
    (h : s.env.slipped = none) :
    let t := s.parityRead sh.instr (sh.gates ++ sh.data) ((sh.dests.head?.map (·.2)).getD 1)
    (s.needs sh.gates ≠ [] ∧ s.operate sh c k = s.blockFor (s.needs sh.gates)) ∨
    (∃ e, c = .error e ∧ s.operate sh c k = s.raise (slotMask sh.instr s.env.pos.toNat) e) ∨
    (∃ touch, c = .ok touch ∧ s.needs sh.data = [] ∧ s.cx.slotSlip s.env.pos = [] ∧ s.conflict sh.instr = false ∧
      s.operate sh c k = k touch t) ∨
    (s.needs sh.data ≠ [] ∧ s.pastLimit s.readerWait = true ∧ s.operate sh c k = t.expireImplicit sh.instr) ∨
    (∃ touch, c = .ok touch ∧ ∃ w, s.operate sh c k = t.slipIn sh (s.needs sh.data) touch w) := by
  intro t
  by_cases hg : s.needs sh.gates = []
  · right
    cases c with
    | error e => exact .inl ⟨e, rfl, operate_error h hg⟩
    | ok touch =>
      by_cases hr : s.needs sh.data = [] ∧ s.cx.slotSlip s.env.pos = [] ∧ s.conflict sh.instr = false
      · exact .inr (.inl ⟨touch, rfl, hr.1, hr.2.1, hr.2.2, by simp [State.operate, h, hg, hr, t]⟩)
      · by_cases hx : s.needs sh.data ≠ [] ∧ s.pastLimit s.readerWait = true
        · exact .inr (.inr (.inl ⟨hx.1, hx.2, by simp only [State.operate, h, hg, if_neg hr, if_pos hx]; rfl⟩))
        · exact .inr (.inr (.inr ⟨touch, rfl, _, by simp only [State.operate, h, hg, if_neg hr, if_neg hx]; rfl⟩))
  · exact .inl ⟨hg, operate_gated h hg⟩

/-- An instruction with room in its slot's buffer joins it as the newest entry; memory stands. -/
theorem slipIn_ok {s : State} (sh : Shape) (need : List Need) (touch : List Touch) (w : Option Wait)
    (h : (s.cx.slotSlip s.env.pos).length < 8) :
    ∃ e, (s.slipIn sh need touch w).cx.slip = s.cx.slip ++ [e] ∧ e.slot = s.env.pos ∧ e.ins.instr = sh.instr ∧
      e.wait = w ∧ e.need = need ∧ e.touch = touch ∧ (s.slipIn sh need touch w).mem = s.mem ∧
      (s.slipIn sh need touch w).env = s.env := by
  have h' : ¬ (s.cx.slotSlip s.env.pos).length ≥ 8 := by omega
  unfold State.slipIn
  simp only [if_neg h']
  refine ⟨_, congrArg Ctx.slip (ctx_setCtx_self s s.env.cid _), rfl, rfl, rfl, rfl, rfl, rfl, rfl⟩

/-- A limit clamped to DLWMAX is the lesser of the two (R118). -/
theorem clampLimit_toNat (s : State) (c : CtxId) (l : Word) :
    (s.clampLimit c l).toNat = min l.toNat (s.dlwMax c).toNat := by
  unfold State.clampLimit; split <;> omega

/-- A wait whose limit is not 0 does not end at its first test (R118). -/
theorem pastLimit_of_mayWait {s : State} {limit : Word} {q : Option (BitVec 32)} {r : Bool} (h : s.mayWait limit) :
    s.pastLimit ⟨s.dtc s.env.cid, s.clampLimit s.env.cid limit, q, r⟩ = false := by
  have h' := clampLimit_toNat s s.env.cid limit
  unfold State.mayWait at h
  simp [State.pastLimit, Wait.past]
  omega

/-- An explicit wait whose condition holds runs its ending; otherwise, from a bundle, it times out at a limit of 0, else the
instruction waits under its limit. -/
theorem explicitWait_ends {s : State} (sh : Shape) {touch : List Touch} (limit : Word) (q : Option (BitVec 32))
    {c : Bool} (ok timeout : State → State) (h : s.env.slipped = none) (hc : c = true)
    (ht : touch.any (·.away) = false) : s.explicitWait sh touch limit q c ok timeout = ok s := by
  simp [State.explicitWait, hc, ht, State.expired, h]

theorem explicitWait_waits {s : State} (sh : Shape) {touch : List Touch} (limit : Word) (q : Option (BitVec 32))
    {c : Bool} (ok timeout : State → State) (h : s.env.slipped = none) (hl : s.mayWait limit)
    (hc : (c && !touch.any (·.away)) = false) :
    s.explicitWait sh touch limit q c ok timeout =
      s.slipIn sh [] touch (some ⟨s.dtc s.env.cid, s.clampLimit s.env.cid limit, q, false⟩) := by
  simp [State.explicitWait, hc, State.expired, h, State.stall, State.beginWait, pastLimit_of_mayWait hl]

theorem explicitWait_expires {s : State} (sh : Shape) {touch : List Touch} {limit : Word} (q : Option (BitVec 32))
    {c : Bool} (ok timeout : State → State) (h : s.env.slipped = none) (hl : ¬ s.mayWait limit)
    (hc : (c && !touch.any (·.away)) = false) : s.explicitWait sh touch limit q c ok timeout = timeout s := by
  have h' := clampLimit_toNat s s.env.cid limit
  unfold State.mayWait at hl
  have h0 : (s.clampLimit s.env.cid limit).toNat = 0 := by omega
  simp [State.explicitWait, hc, State.expired, h, State.beginWait, State.pastLimit, Wait.past, h0]

/-- An implicit wait likewise, under DLW. -/
theorem implicitWait_ready {s : State} (sh : Shape) {touch : List Touch} {c : Bool} (k : State → State)
    (h : s.env.slipped = none) (hc : c = true) (ht : touch.any (·.away) = false) :
    s.implicitWait sh touch c k = k s := by
  simp [State.implicitWait, hc, ht, h, State.expired]

theorem implicitWait_waits {s : State} (sh : Shape) {touch : List Touch} {c : Bool} (k : State → State)
    (h : s.env.slipped = none) (hl : s.mayWait s.cx.ctl.dlw) (hc : (c && !touch.any (·.away)) = false) :
    s.implicitWait sh touch c k =
      s.slipIn sh [] touch (some ⟨s.dtc s.env.cid, s.clampLimit s.env.cid s.cx.ctl.dlw, none, false⟩) := by
  simp [State.implicitWait, hc, State.expired, h, State.stall, State.beginWait, pastLimit_of_mayWait hl]

/-- An instruction that waits from its bundle stands in the slip buffer under its limit, clamped. -/
theorem waitsUnder_slipIn {s : State} (sh : Shape) (touch : List Touch) (limit : Word) (q : Option (BitVec 32))
    (h : s.cx.slotSlip s.env.pos = []) :
    s.waitsUnder (s.slipIn sh [] touch (some ⟨s.dtc s.env.cid, s.clampLimit s.env.cid limit, q, false⟩)) sh.instr
      limit := by
  obtain ⟨e, h1, h2, h3, h4, -, -, h7, -⟩ := slipIn_ok (s := s) sh [] touch
    (some ⟨s.dtc s.env.cid, s.clampLimit s.env.cid limit, q, false⟩) (by simp [h])
  exact ⟨h7, e, _, h1, h2, h3, h4, clampLimit_toNat ..⟩

/-! ## Accesses -/

/-- The operands of an instruction that comes from its bundle. -/
theorem rso_of_bundle {s : State} (h : s.env.slipped = none) (a : SOpd) : s.rso a = s.operandS a := by
  cases a with
  | reg r => simp [State.rso, State.operandS, rs_of_bundle h]
  | port => rfl
theorem rvo_of_bundle {s : State} (h : s.env.slipped = none) (a : VOpd) : s.rvo a = s.operandV a := by
  cases a with
  | reg r => simp [State.rvo, State.operandV, rv_of_bundle h]
  | port => rfl

/-- Finding the errors of a read changes no context and leaves the environment (R148). -/
@[simp] theorem accessed_ctxs (s : State) (a : Access) (va : Word) (ps : List Piece) :
    (s.accessed a va ps).ctxs = s.ctxs := by
  unfold State.accessed; split <;> rfl
@[simp] theorem accessed_env (s : State) (a : Access) (va : Word) (ps : List Piece) :
    (s.accessed a va ps).env = s.env := by
  unfold State.accessed; split <;> rfl
@[simp] theorem accessed_cx (s : State) (a : Access) (va : Word) (ps : List Piece) :
    (s.accessed a va ps).cx = s.cx := by
  simp [State.cx, State.ctx]
/-- An access that only writes reads nothing. -/
theorem accessed_write (s : State) (va : Word) (ps : List Piece) : s.accessed .write va ps = s := rfl

/-- A read that meets no error changes nothing (R148). -/
theorem accessed_undamaged {s : State} (a : Access) (va : Word) {ps : List Piece} (h : s.undamaged ps) :
    s.accessed a va ps = s := by
  have e1 : s.damaged.filter (fun d => unitTouched ps d.1) = [] := by
    rw [List.filter_eq_nil_iff]; intro d hd; simp [h d hd]
  have e2 : s.damaged.filter (fun d => !unitTouched ps d.1) = s.damaged := by
    rw [List.filter_eq_self]; intro d hd; simp [h d hd]
  unfold State.accessed
  split
  · simp [State.readErrors, State.errorsFound, e1, e2]
  · rfl

/-- The states of an access differ in nothing that tells whether its bundle has issued. -/
theorem noteIssue_of_raised {t : State} (h : t.env.raised.isSome = true) (s : State) (sp : Space) (va : Word) (n : Nat) :
    t.noteIssue s sp va n = t := by
  simp [State.noteIssue, h]

theorem raise_raised (s : State) (m : BitVec 8) (t : IssueTrap) : (s.raise m t).env.raised.isSome = true := rfl

/-- An access that stands ready and passes its checks does its action on the storage they fixed. -/
theorem memOp_reaches {s : State} {sh : Shape} {sp : Space} {a : Access} {va : Word} {n align : Nat} {tc : List Touch}
    (k : List Touch → State → State) (h : s.issues (sh.gates ++ sh.data)) (ho : s.conflict sh.instr = false)
    (hr : s.reaches sp a va n align tc) :
    s.memOp sh sp a va n align k = .next (s.accessDone sp va n tc (k tc (s.reading a va tc))) := by
  obtain ⟨h1, h2, -⟩ := hr
  simp only [State.memOp, h1, h2, Bool.false_eq_true, and_false, if_false]
  rw [operate_ok h ho]; rfl

/-- An access whose check fails raises the trap of the check. -/
theorem memOp_error {s : State} {sh : Shape} {sp : Space} {a : Access} {va : Word} {n align : Nat} {t : IssueTrap}
    (k : List Touch → State → State) (h1 : s.env.slipped = none) (h2 : s.needs sh.gates = [])
    (h3 : s.frameOut sp va = false) (h4 : s.checkAccess sp a 0 1 va n align = .error t) :
    s.memOp sh sp a va n align k = .next (s.raise (slotMask sh.instr s.env.pos.toNat) t) := by
  simp only [State.memOp, h3, h4, Bool.false_eq_true, and_false, if_false]
  rw [operate_error h1 h2, noteIssue_of_raised (raise_raised ..)]

/-- The same for accesses of single elements. -/
theorem laneOp_reaches {s : State} {sh : Shape} {sp : Space} {a : Access} {vas : List Word} {e : Nat} {tc : List Touch}
    (k : List Touch → State → State) (h : s.issues (sh.gates ++ sh.data)) (ho : s.conflict sh.instr = false)
    (hr : s.reachesLanes sp a vas e tc) :
    s.laneOp sh sp a vas e k = .next (s.lanesDone sp vas e tc (k tc (s.reading a (vas.headD 0) tc))) := by
  obtain ⟨h1, h2⟩ := hr
  have h3 : vas.filter (s.frameOut sp) = [] := by
    rw [List.filter_eq_nil_iff]
    intro v hv
    simpa using List.any_eq_false.mp h1 v hv
  simp only [State.laneOp, h3, h2, ne_eq, not_true_eq_false, and_false, if_false]
  rw [operate_ok h ho]; rfl

/-- The same for an access through a ring operand that is satisfied. -/
theorem ringOp_reaches {s : State} {sh : Shape} {a : Access} {r : RingOpd} {n : Nat} (k : List Piece → State → State)
    (h : s.issues (sh.gates ++ sh.data)) (ho : s.conflict sh.instr = false) (hr : s.reachesRing a r n) :
    s.ringOp sh a r n k =
      .next ((k (s.ringPieces r.h r.producer n) (s.readingRing a r n)).joinRing 1 r.h) := by
  obtain ⟨tc, h1, h2, h3⟩ := hr
  simp only [State.ringOp, h1]
  rw [operate_ok (sh := { sh with dests := sh.dests ++ [(.none, 1)] }) h ho, implicitWait_ready _ _ h.1 h3 h2]
  rfl

/-- A value loaded by an instruction that comes from its bundle joins the results in flight. -/
theorem deliverLoad_of_bundle {s : State} (h : s.env.slipped = none) (lat : Nat) (d : Dest) (v : VecWord)
    (static poison : Bool) : s.deliverLoad lat d v static poison = s.gainsLoad lat d v static poison := by
  by_cases hc : s.cx.cregs = []
  · simp [State.deliverLoad, State.consume, hc, deliverR_of_bundle h, State.gainsLoad]
  · cases poison
    · simp [State.deliverLoad, State.consume, hc, deliverR_of_bundle h, State.gainsLoad]
    · simp only [State.deliverLoad, State.consume, hc, State.gainsLoad, if_true, if_false, ne_eq, not_false_eq_true,
        and_self]
      exact deliverR_of_bundle (s := s.mapCx _) h ..

/-- What an access leaves behind beside its effect changes no byte of memory. -/
@[simp] theorem markHost_mem (s : State) (tc : List Touch) (n : Nat) : (s.markHost tc n).mem = s.mem := by
  unfold State.markHost; split <;> rfl
@[simp] theorem markHost_env (s : State) (tc : List Touch) (n : Nat) : (s.markHost tc n).env = s.env := by
  unfold State.markHost; split <;> rfl

end Sys2Proof.Machine
end

