-- ==== Sys2Proof/Laws/PerInstr.lean ====
section
/-!
SUPPORT. Facts about each instruction as syntax: how many words it has in a bundle, and that an event is no instruction
word (spec/08 R207 to R211).
-/
namespace Sys2Proof.Laws

/-- A slot instruction is one word, a wide one two; an event of another agent has no words and is not well-formed. -/
def SlotForm.Statement (i : Instr) : Prop :=
  (encode i).length = (if i.cls.isNone then 0 else if i.isWide then 2 else 1) ∧ (i.cls = none → i.wf = false)

theorem SlotForm.nop : SlotForm.Statement .nop := ⟨rfl, nofun⟩
theorem SlotForm.br : ∀ x0 x1 x2 x3, SlotForm.Statement (.br x0 x1 x2 x3) := fun _ _ _ _ => ⟨rfl, nofun⟩
theorem SlotForm.jmp : ∀ x0 x1, SlotForm.Statement (.jmp x0 x1) := fun _ _ => ⟨rfl, nofun⟩
theorem SlotForm.jmpr : ∀ x0, SlotForm.Statement (.jmpr x0) := fun _ => ⟨rfl, nofun⟩
theorem SlotForm.call : ∀ x0 x1, SlotForm.Statement (.call x0 x1) := fun _ _ => ⟨rfl, nofun⟩
theorem SlotForm.ret : SlotForm.Statement .ret := ⟨rfl, nofun⟩
theorem SlotForm.loop : ∀ x0 x1 x2, SlotForm.Statement (.loop x0 x1 x2) := fun _ _ _ => ⟨rfl, nofun⟩
theorem SlotForm.loopi : ∀ x0 x1 x2, SlotForm.Statement (.loopi x0 x1 x2) := fun _ _ _ => ⟨rfl, nofun⟩
theorem SlotForm.lbrk : ∀ x0, SlotForm.Statement (.lbrk x0) := fun _ => ⟨rfl, nofun⟩
theorem SlotForm.lstr : ∀ x0 x1 x2, SlotForm.Statement (.lstr x0 x1 x2) := fun _ _ _ => ⟨rfl, nofun⟩
theorem SlotForm.gate : ∀ x0 x1 x2, SlotForm.Statement (.gate x0 x1 x2) := fun _ _ _ => ⟨rfl, nofun⟩
theorem SlotForm.halt : SlotForm.Statement .halt := ⟨rfl, nofun⟩
theorem SlotForm.trap : ∀ x0, SlotForm.Statement (.trap x0) := fun _ => ⟨rfl, nofun⟩
theorem SlotForm.tret : SlotForm.Statement .tret := ⟨rfl, nofun⟩
theorem SlotForm.sleep : ∀ x0 x1 x2, SlotForm.Statement (.sleep x0 x1 x2) := fun _ _ _ => ⟨rfl, nofun⟩
theorem SlotForm.yield : SlotForm.Statement .yield := ⟨rfl, nofun⟩
theorem SlotForm.waitf : ∀ x0, SlotForm.Statement (.waitf x0) := fun _ => ⟨rfl, nofun⟩
theorem SlotForm.cregOpen : ∀ x0, SlotForm.Statement (.cregOpen x0) := fun _ => ⟨rfl, nofun⟩
theorem SlotForm.cregClose : SlotForm.Statement .cregClose := ⟨rfl, nofun⟩
theorem SlotForm.chkerr : ∀ x0 x1, SlotForm.Statement (.chkerr x0 x1) := fun _ _ => ⟨rfl, nofun⟩
theorem SlotForm.cmpt : ∀ x0 x1, SlotForm.Statement (.cmpt x0 x1) := fun _ _ => ⟨rfl, nofun⟩
theorem SlotForm.capack : ∀ x0 x1, SlotForm.Statement (.capack x0 x1) := fun _ _ => ⟨rfl, nofun⟩
theorem SlotForm.jmpl : ∀ x0, SlotForm.Statement (.jmpl x0) := fun _ => ⟨rfl, nofun⟩
theorem SlotForm.add : ∀ x0 x1 x2, SlotForm.Statement (.add x0 x1 x2) := fun _ _ _ => ⟨rfl, nofun⟩
theorem SlotForm.sub : ∀ x0 x1 x2, SlotForm.Statement (.sub x0 x1 x2) := fun _ _ _ => ⟨rfl, nofun⟩
theorem SlotForm.and : ∀ x0 x1 x2, SlotForm.Statement (.and x0 x1 x2) := fun _ _ _ => ⟨rfl, nofun⟩
theorem SlotForm.or : ∀ x0 x1 x2, SlotForm.Statement (.or x0 x1 x2) := fun _ _ _ => ⟨rfl, nofun⟩
theorem SlotForm.xor : ∀ x0 x1 x2, SlotForm.Statement (.xor x0 x1 x2) := fun _ _ _ => ⟨rfl, nofun⟩
theorem SlotForm.andn : ∀ x0 x1 x2, SlotForm.Statement (.andn x0 x1 x2) := fun _ _ _ => ⟨rfl, nofun⟩
theorem SlotForm.orn : ∀ x0 x1 x2, SlotForm.Statement (.orn x0 x1 x2) := fun _ _ _ => ⟨rfl, nofun⟩
theorem SlotForm.xnor : ∀ x0 x1 x2, SlotForm.Statement (.xnor x0 x1 x2) := fun _ _ _ => ⟨rfl, nofun⟩
theorem SlotForm.shl : ∀ x0 x1 x2, SlotForm.Statement (.shl x0 x1 x2) := fun _ _ _ => ⟨rfl, nofun⟩
theorem SlotForm.shr : ∀ x0 x1 x2, SlotForm.Statement (.shr x0 x1 x2) := fun _ _ _ => ⟨rfl, nofun⟩
theorem SlotForm.sar : ∀ x0 x1 x2, SlotForm.Statement (.sar x0 x1 x2) := fun _ _ _ => ⟨rfl, nofun⟩
theorem SlotForm.rol : ∀ x0 x1 x2, SlotForm.Statement (.rol x0 x1 x2) := fun _ _ _ => ⟨rfl, nofun⟩
theorem SlotForm.seq : ∀ x0 x1 x2, SlotForm.Statement (.seq x0 x1 x2) := fun _ _ _ => ⟨rfl, nofun⟩
theorem SlotForm.sne : ∀ x0 x1 x2, SlotForm.Statement (.sne x0 x1 x2) := fun _ _ _ => ⟨rfl, nofun⟩
theorem SlotForm.slt : ∀ x0 x1 x2, SlotForm.Statement (.slt x0 x1 x2) := fun _ _ _ => ⟨rfl, nofun⟩
theorem SlotForm.sle : ∀ x0 x1 x2, SlotForm.Statement (.sle x0 x1 x2) := fun _ _ _ => ⟨rfl, nofun⟩
theorem SlotForm.sltw : ∀ x0 x1 x2, SlotForm.Statement (.sltw x0 x1 x2) := fun _ _ _ => ⟨rfl, nofun⟩
theorem SlotForm.slew : ∀ x0 x1 x2, SlotForm.Statement (.slew x0 x1 x2) := fun _ _ _ => ⟨rfl, nofun⟩
theorem SlotForm.min : ∀ x0 x1 x2, SlotForm.Statement (.min x0 x1 x2) := fun _ _ _ => ⟨rfl, nofun⟩
theorem SlotForm.max : ∀ x0 x1 x2, SlotForm.Statement (.max x0 x1 x2) := fun _ _ _ => ⟨rfl, nofun⟩
theorem SlotForm.minw : ∀ x0 x1 x2, SlotForm.Statement (.minw x0 x1 x2) := fun _ _ _ => ⟨rfl, nofun⟩
theorem SlotForm.maxw : ∀ x0 x1 x2, SlotForm.Statement (.maxw x0 x1 x2) := fun _ _ _ => ⟨rfl, nofun⟩
theorem SlotForm.mul : ∀ x0 x1 x2, SlotForm.Statement (.mul x0 x1 x2) := fun _ _ _ => ⟨rfl, nofun⟩
theorem SlotForm.mulh : ∀ x0 x1 x2, SlotForm.Statement (.mulh x0 x1 x2) := fun _ _ _ => ⟨rfl, nofun⟩
theorem SlotForm.mulhw : ∀ x0 x1 x2, SlotForm.Statement (.mulhw x0 x1 x2) := fun _ _ _ => ⟨rfl, nofun⟩
theorem SlotForm.div : ∀ x0 x1 x2, SlotForm.Statement (.div x0 x1 x2) := fun _ _ _ => ⟨rfl, nofun⟩
theorem SlotForm.divw : ∀ x0 x1 x2, SlotForm.Statement (.divw x0 x1 x2) := fun _ _ _ => ⟨rfl, nofun⟩
theorem SlotForm.rem : ∀ x0 x1 x2, SlotForm.Statement (.rem x0 x1 x2) := fun _ _ _ => ⟨rfl, nofun⟩
theorem SlotForm.remw : ∀ x0 x1 x2, SlotForm.Statement (.remw x0 x1 x2) := fun _ _ _ => ⟨rfl, nofun⟩
theorem SlotForm.popc : ∀ x0 x1, SlotForm.Statement (.popc x0 x1) := fun _ _ => ⟨rfl, nofun⟩
theorem SlotForm.clz : ∀ x0 x1, SlotForm.Statement (.clz x0 x1) := fun _ _ => ⟨rfl, nofun⟩
theorem SlotForm.ctz : ∀ x0 x1, SlotForm.Statement (.ctz x0 x1) := fun _ _ => ⟨rfl, nofun⟩
theorem SlotForm.brev : ∀ x0 x1, SlotForm.Statement (.brev x0 x1) := fun _ _ => ⟨rfl, nofun⟩
theorem SlotForm.bswap : ∀ x0 x1, SlotForm.Statement (.bswap x0 x1) := fun _ _ => ⟨rfl, nofun⟩
theorem SlotForm.bfx : ∀ x0 x1 x2 x3, SlotForm.Statement (.bfx x0 x1 x2 x3) := fun _ _ _ _ => ⟨rfl, nofun⟩
theorem SlotForm.bfi : ∀ x0 x1 x2 x3, SlotForm.Statement (.bfi x0 x1 x2 x3) := fun _ _ _ _ => ⟨rfl, nofun⟩
theorem SlotForm.sel : ∀ x0 x1 x2 x3, SlotForm.Statement (.sel x0 x1 x2 x3) := fun _ _ _ _ => ⟨rfl, nofun⟩
theorem SlotForm.lea : ∀ x0 x1 x2 x3, SlotForm.Statement (.lea x0 x1 x2 x3) := fun _ _ _ _ => ⟨rfl, nofun⟩
theorem SlotForm.addi : ∀ x0 x1 x2, SlotForm.Statement (.addi x0 x1 x2) := fun _ _ _ => ⟨rfl, nofun⟩
theorem SlotForm.andi : ∀ x0 x1 x2, SlotForm.Statement (.andi x0 x1 x2) := fun _ _ _ => ⟨rfl, nofun⟩
theorem SlotForm.ori : ∀ x0 x1 x2, SlotForm.Statement (.ori x0 x1 x2) := fun _ _ _ => ⟨rfl, nofun⟩
theorem SlotForm.xori : ∀ x0 x1 x2, SlotForm.Statement (.xori x0 x1 x2) := fun _ _ _ => ⟨rfl, nofun⟩
theorem SlotForm.slti : ∀ x0 x1 x2, SlotForm.Statement (.slti x0 x1 x2) := fun _ _ _ => ⟨rfl, nofun⟩
theorem SlotForm.shli : ∀ x0 x1 x2, SlotForm.Statement (.shli x0 x1 x2) := fun _ _ _ => ⟨rfl, nofun⟩
theorem SlotForm.shri : ∀ x0 x1 x2, SlotForm.Statement (.shri x0 x1 x2) := fun _ _ _ => ⟨rfl, nofun⟩
theorem SlotForm.sari : ∀ x0 x1 x2, SlotForm.Statement (.sari x0 x1 x2) := fun _ _ _ => ⟨rfl, nofun⟩
theorem SlotForm.movi : ∀ x0 x1, SlotForm.Statement (.movi x0 x1) := fun _ _ => ⟨rfl, nofun⟩
theorem SlotForm.movhi : ∀ x0 x1 x2, SlotForm.Statement (.movhi x0 x1 x2) := fun _ _ _ => ⟨rfl, nofun⟩
theorem SlotForm.li48 : ∀ x0 x1, SlotForm.Statement (.li48 x0 x1) := fun _ _ => ⟨rfl, nofun⟩
theorem SlotForm.fadd : ∀ x0 x1 x2, SlotForm.Statement (.fadd x0 x1 x2) := fun _ _ _ => ⟨rfl, nofun⟩
theorem SlotForm.fsub : ∀ x0 x1 x2, SlotForm.Statement (.fsub x0 x1 x2) := fun _ _ _ => ⟨rfl, nofun⟩
theorem SlotForm.fmul : ∀ x0 x1 x2, SlotForm.Statement (.fmul x0 x1 x2) := fun _ _ _ => ⟨rfl, nofun⟩
theorem SlotForm.ffma : ∀ x0 x1 x2 x3, SlotForm.Statement (.ffma x0 x1 x2 x3) := fun _ _ _ _ => ⟨rfl, nofun⟩
theorem SlotForm.fmin : ∀ x0 x1 x2, SlotForm.Statement (.fmin x0 x1 x2) := fun _ _ _ => ⟨rfl, nofun⟩
theorem SlotForm.fmax : ∀ x0 x1 x2, SlotForm.Statement (.fmax x0 x1 x2) := fun _ _ _ => ⟨rfl, nofun⟩
theorem SlotForm.fcmp : ∀ x0 x1 x2 x3, SlotForm.Statement (.fcmp x0 x1 x2 x3) := fun _ _ _ _ => ⟨rfl, nofun⟩
theorem SlotForm.fcvt : ∀ x0 x1 x2 x3, SlotForm.Statement (.fcvt x0 x1 x2 x3) := fun _ _ _ _ => ⟨rfl, nofun⟩
theorem SlotForm.fdiv : ∀ x0 x1 x2, SlotForm.Statement (.fdiv x0 x1 x2) := fun _ _ _ => ⟨rfl, nofun⟩
theorem SlotForm.fsqrt : ∀ x0 x1, SlotForm.Statement (.fsqrt x0 x1) := fun _ _ => ⟨rfl, nofun⟩
theorem SlotForm.mfc : ∀ x0 x1, SlotForm.Statement (.mfc x0 x1) := fun _ _ => ⟨rfl, nofun⟩
theorem SlotForm.mtc : ∀ x0 x1, SlotForm.Statement (.mtc x0 x1) := fun _ _ => ⟨rfl, nofun⟩
theorem SlotForm.bcast : ∀ x0, SlotForm.Statement (.bcast x0) := fun _ => ⟨rfl, nofun⟩
theorem SlotForm.rdclk : ∀ x0 x1, SlotForm.Statement (.rdclk x0 x1) := fun _ _ => ⟨rfl, nofun⟩
theorem SlotForm.ld : ∀ x0 x1 x2 x3 x4, SlotForm.Statement (.ld x0 x1 x2 x3 x4) := fun _ _ _ _ _ => ⟨rfl, nofun⟩
theorem SlotForm.ldRing : ∀ x0 x1 x2, SlotForm.Statement (.ldRing x0 x1 x2) := fun _ _ _ => ⟨rfl, nofun⟩
theorem SlotForm.st : ∀ x0 x1 x2 x3 x4, SlotForm.Statement (.st x0 x1 x2 x3 x4) := fun _ _ _ _ _ => ⟨rfl, nofun⟩
theorem SlotForm.stRing : ∀ x0 x1 x2, SlotForm.Statement (.stRing x0 x1 x2) := fun _ _ _ => ⟨rfl, nofun⟩
theorem SlotForm.vld : ∀ x0 x1 x2 x3 x4, SlotForm.Statement (.vld x0 x1 x2 x3 x4) := fun _ _ _ _ _ => ⟨rfl, nofun⟩
theorem SlotForm.vldRing : ∀ x0 x1 x2, SlotForm.Statement (.vldRing x0 x1 x2) := fun _ _ _ => ⟨rfl, nofun⟩
theorem SlotForm.vst : ∀ x0 x1 x2 x3 x4, SlotForm.Statement (.vst x0 x1 x2 x3 x4) := fun _ _ _ _ _ => ⟨rfl, nofun⟩
theorem SlotForm.vstRing : ∀ x0 x1 x2, SlotForm.Statement (.vstRing x0 x1 x2) := fun _ _ _ => ⟨rfl, nofun⟩
theorem SlotForm.vlds : ∀ x0 x1 x2 x3 x4, SlotForm.Statement (.vlds x0 x1 x2 x3 x4) := fun _ _ _ _ _ => ⟨rfl, nofun⟩
theorem SlotForm.vsts : ∀ x0 x1 x2 x3 x4, SlotForm.Statement (.vsts x0 x1 x2 x3 x4) := fun _ _ _ _ _ => ⟨rfl, nofun⟩
theorem SlotForm.gath : ∀ x0 x1 x2 x3 x4, SlotForm.Statement (.gath x0 x1 x2 x3 x4) := fun _ _ _ _ _ => ⟨rfl, nofun⟩
theorem SlotForm.scat : ∀ x0 x1 x2 x3 x4, SlotForm.Statement (.scat x0 x1 x2 x3 x4) := fun _ _ _ _ _ => ⟨rfl, nofun⟩
theorem SlotForm.ldf : ∀ x0 x1 x2 x3, SlotForm.Statement (.ldf x0 x1 x2 x3) := fun _ _ _ _ => ⟨rfl, nofun⟩
theorem SlotForm.ldfEmpty : ∀ x0 x1 x2 x3, SlotForm.Statement (.ldfEmpty x0 x1 x2 x3) := fun _ _ _ _ => ⟨rfl, nofun⟩
theorem SlotForm.ste : ∀ x0 x1 x2 x3, SlotForm.Statement (.ste x0 x1 x2 x3) := fun _ _ _ _ => ⟨rfl, nofun⟩
theorem SlotForm.fetag : ∀ x0 x1 x2, SlotForm.Statement (.fetag x0 x1 x2) := fun _ _ _ => ⟨rfl, nofun⟩
theorem SlotForm.fetagSet : ∀ x0 x1 x2, SlotForm.Statement (.fetagSet x0 x1 x2) := fun _ _ _ => ⟨rfl, nofun⟩
theorem SlotForm.rdef : ∀ x0 x1, SlotForm.Statement (.rdef x0 x1) := fun _ _ => ⟨rfl, nofun⟩
theorem SlotForm.advp : ∀ x0 x1, SlotForm.Statement (.advp x0 x1) := fun _ _ => ⟨rfl, nofun⟩
theorem SlotForm.advc : ∀ x0 x1, SlotForm.Statement (.advc x0 x1) := fun _ _ => ⟨rfl, nofun⟩
theorem SlotForm.rqry : ∀ x0 x1 x2, SlotForm.Statement (.rqry x0 x1 x2) := fun _ _ _ => ⟨rfl, nofun⟩
theorem SlotForm.copy : ∀ x0 x1 x2 x3 x4 x5 x6 x7 x8 x9 x10 x11 x12 x13, SlotForm.Statement (.copy x0 x1 x2 x3 x4 x5 x6 x7 x8 x9 x10 x11 x12 x13) :=
  fun _ _ _ _ _ _ _ _ _ _ _ _ _ _ => ⟨rfl, nofun⟩
theorem SlotForm.cpqry : ∀ x0 x1, SlotForm.Statement (.cpqry x0 x1) := fun _ _ => ⟨rfl, nofun⟩
theorem SlotForm.atom : ∀ x0 x1 x2 x3 x4, SlotForm.Statement (.atom x0 x1 x2 x3 x4) := fun _ _ _ _ _ => ⟨rfl, nofun⟩
theorem SlotForm.redo : ∀ x0 x1 x2 x3, SlotForm.Statement (.redo x0 x1 x2 x3) := fun _ _ _ _ => ⟨rfl, nofun⟩
theorem SlotForm.red : ∀ x0 x1 x2 x3, SlotForm.Statement (.red x0 x1 x2 x3) := fun _ _ _ _ => ⟨rfl, nofun⟩
theorem SlotForm.bararr : ∀ x0 x1 x2, SlotForm.Statement (.bararr x0 x1 x2) := fun _ _ _ => ⟨rfl, nofun⟩
theorem SlotForm.barwait : ∀ x0 x1 x2 x3, SlotForm.Statement (.barwait x0 x1 x2 x3) := fun _ _ _ _ => ⟨rfl, nofun⟩
theorem SlotForm.baraw : ∀ x0 x1 x2 x3, SlotForm.Statement (.baraw x0 x1 x2 x3) := fun _ _ _ _ => ⟨rfl, nofun⟩
theorem SlotForm.barinit : ∀ x0 x1 x2 x3, SlotForm.Statement (.barinit x0 x1 x2 x3) := fun _ _ _ _ => ⟨rfl, nofun⟩
theorem SlotForm.evsig : ∀ x0 x1 x2, SlotForm.Statement (.evsig x0 x1 x2) := fun _ _ _ => ⟨rfl, nofun⟩
theorem SlotForm.evwait : ∀ x0 x1 x2 x3, SlotForm.Statement (.evwait x0 x1 x2 x3) := fun _ _ _ _ => ⟨rfl, nofun⟩
theorem SlotForm.fence : ∀ x0 x1 x2, SlotForm.Statement (.fence x0 x1 x2) := fun _ _ _ => ⟨rfl, nofun⟩
theorem SlotForm.phase : ∀ x0 x1, SlotForm.Statement (.phase x0 x1) := fun _ _ => ⟨rfl, nofun⟩
theorem SlotForm.phend : SlotForm.Statement .phend := ⟨rfl, nofun⟩
theorem SlotForm.dgst : ∀ x0 x1 x2, SlotForm.Statement (.dgst x0 x1 x2) := fun _ _ _ => ⟨rfl, nofun⟩
theorem SlotForm.pref : ∀ x0 x1 x2, SlotForm.Statement (.pref x0 x1 x2) := fun _ _ _ => ⟨rfl, nofun⟩
theorem SlotForm.symNew : ∀ x0 x1 x2, SlotForm.Statement (.symNew x0 x1 x2) := fun _ _ _ => ⟨rfl, nofun⟩
theorem SlotForm.symSig : ∀ x0 x1 x2, SlotForm.Statement (.symSig x0 x1 x2) := fun _ _ _ => ⟨rfl, nofun⟩
theorem SlotForm.symQry : ∀ x0 x1 x2, SlotForm.Statement (.symQry x0 x1 x2) := fun _ _ _ => ⟨rfl, nofun⟩
theorem SlotForm.symRel : ∀ x0 x1 x2, SlotForm.Statement (.symRel x0 x1 x2) := fun _ _ _ => ⟨rfl, nofun⟩
theorem SlotForm.cond : ∀ x0 x1 x2 x3 x4 x5 x6, SlotForm.Statement (.cond x0 x1 x2 x3 x4 x5 x6) :=
  fun _ _ _ _ _ _ _ => ⟨rfl, nofun⟩
theorem SlotForm.condQry : ∀ x0 x1, SlotForm.Statement (.condQry x0 x1) := fun _ _ => ⟨rfl, nofun⟩
theorem SlotForm.vadd : ∀ x0 x1 x2 x3, SlotForm.Statement (.vadd x0 x1 x2 x3) := fun _ _ _ _ => ⟨rfl, nofun⟩
theorem SlotForm.vsub : ∀ x0 x1 x2 x3, SlotForm.Statement (.vsub x0 x1 x2 x3) := fun _ _ _ _ => ⟨rfl, nofun⟩
theorem SlotForm.vmul : ∀ x0 x1 x2 x3, SlotForm.Statement (.vmul x0 x1 x2 x3) := fun _ _ _ _ => ⟨rfl, nofun⟩
theorem SlotForm.vfma : ∀ x0 x1 x2 x3, SlotForm.Statement (.vfma x0 x1 x2 x3) := fun _ _ _ _ => ⟨rfl, nofun⟩
theorem SlotForm.vfms : ∀ x0 x1 x2 x3, SlotForm.Statement (.vfms x0 x1 x2 x3) := fun _ _ _ _ => ⟨rfl, nofun⟩
theorem SlotForm.vmin : ∀ x0 x1 x2 x3, SlotForm.Statement (.vmin x0 x1 x2 x3) := fun _ _ _ _ => ⟨rfl, nofun⟩
theorem SlotForm.vmax : ∀ x0 x1 x2 x3, SlotForm.Statement (.vmax x0 x1 x2 x3) := fun _ _ _ _ => ⟨rfl, nofun⟩
theorem SlotForm.vabs : ∀ x0 x1 x2, SlotForm.Statement (.vabs x0 x1 x2) := fun _ _ _ => ⟨rfl, nofun⟩
theorem SlotForm.vneg : ∀ x0 x1 x2, SlotForm.Statement (.vneg x0 x1 x2) := fun _ _ _ => ⟨rfl, nofun⟩
theorem SlotForm.vcmp : ∀ x0 x1 x2 x3 x4, SlotForm.Statement (.vcmp x0 x1 x2 x3 x4) := fun _ _ _ _ _ => ⟨rfl, nofun⟩
theorem SlotForm.vsel : ∀ x0 x1 x2 x3, SlotForm.Statement (.vsel x0 x1 x2 x3) := fun _ _ _ _ => ⟨rfl, nofun⟩
theorem SlotForm.vand : ∀ x0 x1 x2 x3, SlotForm.Statement (.vand x0 x1 x2 x3) := fun _ _ _ _ => ⟨rfl, nofun⟩
theorem SlotForm.vor : ∀ x0 x1 x2 x3, SlotForm.Statement (.vor x0 x1 x2 x3) := fun _ _ _ _ => ⟨rfl, nofun⟩
theorem SlotForm.vxor : ∀ x0 x1 x2 x3, SlotForm.Statement (.vxor x0 x1 x2 x3) := fun _ _ _ _ => ⟨rfl, nofun⟩
theorem SlotForm.vandn : ∀ x0 x1 x2 x3, SlotForm.Statement (.vandn x0 x1 x2 x3) := fun _ _ _ _ => ⟨rfl, nofun⟩
theorem SlotForm.vshl : ∀ x0 x1 x2 x3, SlotForm.Statement (.vshl x0 x1 x2 x3) := fun _ _ _ _ => ⟨rfl, nofun⟩
theorem SlotForm.vshr : ∀ x0 x1 x2 x3, SlotForm.Statement (.vshr x0 x1 x2 x3) := fun _ _ _ _ => ⟨rfl, nofun⟩
theorem SlotForm.vsar : ∀ x0 x1 x2 x3, SlotForm.Statement (.vsar x0 x1 x2 x3) := fun _ _ _ _ => ⟨rfl, nofun⟩
theorem SlotForm.viadd : ∀ x0 x1 x2 x3, SlotForm.Statement (.viadd x0 x1 x2 x3) := fun _ _ _ _ => ⟨rfl, nofun⟩
theorem SlotForm.visub : ∀ x0 x1 x2 x3, SlotForm.Statement (.visub x0 x1 x2 x3) := fun _ _ _ _ => ⟨rfl, nofun⟩
theorem SlotForm.vimul : ∀ x0 x1 x2 x3, SlotForm.Statement (.vimul x0 x1 x2 x3) := fun _ _ _ _ => ⟨rfl, nofun⟩
theorem SlotForm.vcvt : ∀ x0 x1 x2 x3, SlotForm.Statement (.vcvt x0 x1 x2 x3) := fun _ _ _ _ => ⟨rfl, nofun⟩
theorem SlotForm.vqnt : ∀ x0 x1 x2 x3, SlotForm.Statement (.vqnt x0 x1 x2 x3) := fun _ _ _ _ => ⟨rfl, nofun⟩
theorem SlotForm.vdqnt : ∀ x0 x1 x2 x3, SlotForm.Statement (.vdqnt x0 x1 x2 x3) := fun _ _ _ _ => ⟨rfl, nofun⟩
theorem SlotForm.vred : ∀ x0 x1 x2 x3, SlotForm.Statement (.vred x0 x1 x2 x3) := fun _ _ _ _ => ⟨rfl, nofun⟩
theorem SlotForm.vpart : ∀ x0 x1, SlotForm.Statement (.vpart x0 x1) := fun _ _ => ⟨rfl, nofun⟩
theorem SlotForm.vperm : ∀ x0 x1 x2 x3, SlotForm.Statement (.vperm x0 x1 x2 x3) := fun _ _ _ _ => ⟨rfl, nofun⟩
theorem SlotForm.vmov : ∀ x0 x1 x2, SlotForm.Statement (.vmov x0 x1 x2) := fun _ _ _ => ⟨rfl, nofun⟩
theorem SlotForm.vfn : ∀ x0 x1 x2 x3, SlotForm.Statement (.vfn x0 x1 x2 x3) := fun _ _ _ _ => ⟨rfl, nofun⟩
theorem SlotForm.vidx : ∀ x0 x1 x2, SlotForm.Statement (.vidx x0 x1 x2) := fun _ _ _ => ⟨rfl, nofun⟩
theorem SlotForm.vcnt : ∀ x0 x1, SlotForm.Statement (.vcnt x0 x1) := fun _ _ => ⟨rfl, nofun⟩
theorem SlotForm.rlxb : ∀ x0 x1 x2 x3, SlotForm.Statement (.rlxb x0 x1 x2 x3) := fun _ _ _ _ => ⟨rfl, nofun⟩
theorem SlotForm.rlx : ∀ x0 x1 x2 x3 x4 x5 x6, SlotForm.Statement (.rlx x0 x1 x2 x3 x4 x5 x6) :=
  fun _ _ _ _ _ _ _ => ⟨rfl, nofun⟩
theorem SlotForm.vabsacc : ∀ x0 x1 x2 x3, SlotForm.Statement (.vabsacc x0 x1 x2 x3) := fun _ _ _ _ => ⟨rfl, nofun⟩
theorem SlotForm.vcmpt : ∀ x0 x1, SlotForm.Statement (.vcmpt x0 x1) := fun _ _ => ⟨rfl, nofun⟩
theorem SlotForm.pand : ∀ x0 x1 x2, SlotForm.Statement (.pand x0 x1 x2) := fun _ _ _ => ⟨rfl, nofun⟩
theorem SlotForm.por : ∀ x0 x1 x2, SlotForm.Statement (.por x0 x1 x2) := fun _ _ _ => ⟨rfl, nofun⟩
theorem SlotForm.pxor : ∀ x0 x1 x2, SlotForm.Statement (.pxor x0 x1 x2) := fun _ _ _ => ⟨rfl, nofun⟩
theorem SlotForm.pnot : ∀ x0 x1, SlotForm.Statement (.pnot x0 x1) := fun _ _ => ⟨rfl, nofun⟩
theorem SlotForm.mma : ∀ x0 x1 x2 x3 x4, SlotForm.Statement (.mma x0 x1 x2 x3 x4) := fun _ _ _ _ _ => ⟨rfl, nofun⟩
theorem SlotForm.mmaE : ∀ x0 x1 x2 x3, SlotForm.Statement (.mmaE x0 x1 x2 x3) := fun _ _ _ _ => ⟨rfl, nofun⟩
theorem SlotForm.mmas : ∀ x0 x1 x2 x3 x4 x5 x6 x7 x8 x9 x10 x11, SlotForm.Statement (.mmas x0 x1 x2 x3 x4 x5 x6 x7 x8 x9 x10 x11) :=
  fun _ _ _ _ _ _ _ _ _ _ _ _ => ⟨rfl, nofun⟩
theorem SlotForm.wld : ∀ x0 x1 x2, SlotForm.Statement (.wld x0 x1 x2) := fun _ _ _ => ⟨rfl, nofun⟩
theorem SlotForm.wswap : SlotForm.Statement .wswap := ⟨rfl, nofun⟩
theorem SlotForm.aclr : ∀ x0, SlotForm.Statement (.aclr x0) := fun _ => ⟨rfl, nofun⟩
theorem SlotForm.adrn : ∀ x0 x1 x2, SlotForm.Statement (.adrn x0 x1 x2) := fun _ _ _ => ⟨rfl, nofun⟩
theorem SlotForm.adrnC : ∀ x0 x1 x2, SlotForm.Statement (.adrnC x0 x1 x2) := fun _ _ _ => ⟨rfl, nofun⟩
theorem SlotForm.ast : ∀ x0 x1, SlotForm.Statement (.ast x0 x1) := fun _ _ => ⟨rfl, nofun⟩
theorem SlotForm.mmaD : ∀ x0 x1 x2 x3, SlotForm.Statement (.mmaD x0 x1 x2 x3) := fun _ _ _ _ => ⟨rfl, nofun⟩
theorem SlotForm.aqry : ∀ x0 x1, SlotForm.Statement (.aqry x0 x1) := fun _ _ => ⟨rfl, nofun⟩
theorem SlotForm.send : ∀ x0 x1, SlotForm.Statement (.send x0 x1) := fun _ _ => ⟨rfl, nofun⟩
theorem SlotForm.recv : ∀ x0 x1, SlotForm.Statement (.recv x0 x1) := fun _ _ => ⟨rfl, nofun⟩
theorem SlotForm.recva : ∀ x0 x1, SlotForm.Statement (.recva x0 x1) := fun _ _ => ⟨rfl, nofun⟩
theorem SlotForm.recvm : ∀ x0 x1, SlotForm.Statement (.recvm x0 x1) := fun _ _ => ⟨rfl, nofun⟩
theorem SlotForm.sends : ∀ x0 x1, SlotForm.Statement (.sends x0 x1) := fun _ _ => ⟨rfl, nofun⟩
theorem SlotForm.recvs : ∀ x0 x1, SlotForm.Statement (.recvs x0 x1) := fun _ _ => ⟨rfl, nofun⟩
theorem SlotForm.xqry : ∀ x0 x1, SlotForm.Statement (.xqry x0 x1) := fun _ _ => ⟨rfl, nofun⟩
theorem SlotForm.xpost : ∀ x0 x1, SlotForm.Statement (.xpost x0 x1) := fun _ _ => ⟨rfl, nofun⟩
theorem SlotForm.xcanc : ∀ x0 x1, SlotForm.Statement (.xcanc x0 x1) := fun _ _ => ⟨rfl, nofun⟩
theorem SlotForm.bundleDecodeFailure : ∀ x0, SlotForm.Statement (.bundleDecodeFailure x0) :=
  fun _ => ⟨rfl, fun _ => rfl⟩
theorem SlotForm.segmentExpansion : ∀ x0 x1, SlotForm.Statement (.segmentExpansion x0 x1) :=
  fun _ _ => ⟨rfl, fun _ => rfl⟩
theorem SlotForm.fetchFault : ∀ x0, SlotForm.Statement (.fetchFault x0) := fun _ => ⟨rfl, fun _ => rfl⟩
theorem SlotForm.fpx : ∀ x0, SlotForm.Statement (.fpx x0) := fun _ => ⟨rfl, fun _ => rfl⟩
theorem SlotForm.pmiss : ∀ x0, SlotForm.Statement (.pmiss x0) := fun _ => ⟨rfl, fun _ => rfl⟩
theorem SlotForm.swt : ∀ x0, SlotForm.Statement (.swt x0) := fun _ => ⟨rfl, fun _ => rfl⟩
theorem SlotForm.capc : ∀ x0, SlotForm.Statement (.capc x0) := fun _ => ⟨rfl, fun _ => rfl⟩
theorem SlotForm.containmentUnwinding : ∀ x0, SlotForm.Statement (.containmentUnwinding x0) :=
  fun _ => ⟨rfl, fun _ => rfl⟩
theorem SlotForm.pendingValueArrival : ∀ x0 x1, SlotForm.Statement (.pendingValueArrival x0 x1) :=
  fun _ _ => ⟨rfl, fun _ => rfl⟩
theorem SlotForm.slipBufferRelease : ∀ x0 x1, SlotForm.Statement (.slipBufferRelease x0 x1) :=
  fun _ _ => ⟨rfl, fun _ => rfl⟩
theorem SlotForm.contextSwitch : ∀ x0, SlotForm.Statement (.contextSwitch x0) := fun _ => ⟨rfl, fun _ => rfl⟩
theorem SlotForm.waitExpiry : ∀ x0 x1, SlotForm.Statement (.waitExpiry x0 x1) := fun _ _ => ⟨rfl, fun _ => rfl⟩
theorem SlotForm.sleepWake : ∀ x0, SlotForm.Statement (.sleepWake x0) := fun _ => ⟨rfl, fun _ => rfl⟩
theorem SlotForm.taskStart : ∀ x0 x1, SlotForm.Statement (.taskStart x0 x1) := fun _ _ => ⟨rfl, fun _ => rfl⟩
theorem SlotForm.taskRetirement : ∀ x0, SlotForm.Statement (.taskRetirement x0) := fun _ => ⟨rfl, fun _ => rfl⟩
theorem SlotForm.copyAcceptance : ∀ x0, SlotForm.Statement (.copyAcceptance x0) := fun _ => ⟨rfl, fun _ => rfl⟩
theorem SlotForm.copyCompletion : ∀ x0, SlotForm.Statement (.copyCompletion x0) := fun _ => ⟨rfl, fun _ => rfl⟩
theorem SlotForm.lateFault : ∀ x0, SlotForm.Statement (.lateFault x0) := fun _ => ⟨rfl, fun _ => rfl⟩
theorem SlotForm.reductionAcceptance : ∀ x0, SlotForm.Statement (.reductionAcceptance x0) :=
  fun _ => ⟨rfl, fun _ => rfl⟩
theorem SlotForm.reductionApplication : ∀ x0, SlotForm.Statement (.reductionApplication x0) :=
  fun _ => ⟨rfl, fun _ => rfl⟩
theorem SlotForm.phaseBookkeeping : ∀ x0, SlotForm.Statement (.phaseBookkeeping x0) := fun _ => ⟨rfl, fun _ => rfl⟩
theorem SlotForm.significanceContribution : ∀ x0, SlotForm.Statement (.significanceContribution x0) :=
  fun _ => ⟨rfl, fun _ => rfl⟩
theorem SlotForm.referenceUpdate : ∀ x0, SlotForm.Statement (.referenceUpdate x0) := fun _ => ⟨rfl, fun _ => rfl⟩
theorem SlotForm.condensation : ∀ x0, SlotForm.Statement (.condensation x0) := fun _ => ⟨rfl, fun _ => rfl⟩
theorem SlotForm.sendArrival : ∀ x0, SlotForm.Statement (.sendArrival x0) := fun _ => ⟨rfl, fun _ => rfl⟩
theorem SlotForm.omnibusStep : ∀ x0, SlotForm.Statement (.omnibusStep x0) := fun _ => ⟨rfl, fun _ => rfl⟩
theorem SlotForm.earlyArrival : ∀ x0 x1 x2 x3 x4 x5 x6, SlotForm.Statement (.earlyArrival x0 x1 x2 x3 x4 x5 x6) :=
  fun _ _ _ _ _ _ _ => ⟨rfl, fun _ => rfl⟩
theorem SlotForm.instanceTimeout : ∀ x0, SlotForm.Statement (.instanceTimeout x0) := fun _ => ⟨rfl, fun _ => rfl⟩
theorem SlotForm.peer : ∀ x0 x1 x2, SlotForm.Statement (.peer x0 x1 x2) := fun _ _ _ => ⟨rfl, fun _ => rfl⟩
theorem SlotForm.collectiveCompletion : ∀ x0, SlotForm.Statement (.collectiveCompletion x0) :=
  fun _ => ⟨rfl, fun _ => rfl⟩
theorem SlotForm.cancellationReport : ∀ x0 x1 x2, SlotForm.Statement (.cancellationReport x0 x1 x2) :=
  fun _ _ _ => ⟨rfl, fun _ => rfl⟩
theorem SlotForm.tail : ∀ x0 x1 x2, SlotForm.Statement (.tail x0 x1 x2) := fun _ _ _ => ⟨rfl, fun _ => rfl⟩
theorem SlotForm.cancelDoorbell : ∀ x0 x1 x2, SlotForm.Statement (.cancelDoorbell x0 x1 x2) :=
  fun _ _ _ => ⟨rfl, fun _ => rfl⟩
theorem SlotForm.admission : ∀ x0 x1, SlotForm.Statement (.admission x0 x1) := fun _ _ => ⟨rfl, fun _ => rfl⟩
theorem SlotForm.holdTest : ∀ x0, SlotForm.Statement (.holdTest x0) := fun _ => ⟨rfl, fun _ => rfl⟩
theorem SlotForm.aging : ∀ x0 x1, SlotForm.Statement (.aging x0 x1) := fun _ _ => ⟨rfl, fun _ => rfl⟩
theorem SlotForm.preemption : ∀ x0, SlotForm.Statement (.preemption x0) := fun _ => ⟨rfl, fun _ => rfl⟩
theorem SlotForm.regionResume : ∀ x0, SlotForm.Statement (.regionResume x0) := fun _ => ⟨rfl, fun _ => rfl⟩
theorem SlotForm.launchEnd : ∀ x0, SlotForm.Statement (.launchEnd x0) := fun _ => ⟨rfl, fun _ => rfl⟩
theorem SlotForm.teardown : ∀ x0 x1, SlotForm.Statement (.teardown x0 x1) := fun _ _ => ⟨rfl, fun _ => rfl⟩
theorem SlotForm.tinv : ∀ x0 x1, SlotForm.Statement (.tinv x0 x1) := fun _ _ => ⟨rfl, fun _ => rfl⟩
theorem SlotForm.invalidationCompletion : ∀ x0, SlotForm.Statement (.invalidationCompletion x0) :=
  fun _ => ⟨rfl, fun _ => rfl⟩
theorem SlotForm.retry : ∀ x0 x1, SlotForm.Statement (.retry x0 x1) := fun _ _ => ⟨rfl, fun _ => rfl⟩
theorem SlotForm.decline : ∀ x0 x1, SlotForm.Statement (.decline x0 x1) := fun _ _ => ⟨rfl, fun _ => rfl⟩
theorem SlotForm.registerWrite : ∀ x0 x1 x2, SlotForm.Statement (.registerWrite x0 x1 x2) :=
  fun _ _ _ => ⟨rfl, fun _ => rfl⟩
theorem SlotForm.bar4Read : ∀ x0 x1 x2, SlotForm.Statement (.bar4Read x0 x1 x2) := fun _ _ _ => ⟨rfl, fun _ => rfl⟩
theorem SlotForm.bar4Write : ∀ x0 x1 x2, SlotForm.Statement (.bar4Write x0 x1 x2) := fun _ _ _ => ⟨rfl, fun _ => rfl⟩
theorem SlotForm.completionTimeout : ∀ x0 x1, SlotForm.Statement (.completionTimeout x0 x1) := fun _ _ => ⟨rfl, fun _ => rfl⟩
theorem SlotForm.mdpw : ∀ x0 x1, SlotForm.Statement (.mdpw x0 x1) := fun _ _ => ⟨rfl, fun _ => rfl⟩
theorem SlotForm.patrolScrubbing : ∀ x0 x1, SlotForm.Statement (.patrolScrubbing x0 x1) := fun _ _ => ⟨rfl, fun _ => rfl⟩
theorem SlotForm.stepDigest : ∀ x0, SlotForm.Statement (.stepDigest x0) := fun _ => ⟨rfl, fun _ => rfl⟩
theorem SlotForm.coreLease : SlotForm.Statement .coreLease := ⟨rfl, fun _ => rfl⟩
theorem SlotForm.linkPortLease : SlotForm.Statement .linkPortLease := ⟨rfl, fun _ => rfl⟩
theorem SlotForm.memoryChannelLease : SlotForm.Statement .memoryChannelLease := ⟨rfl, fun _ => rfl⟩
theorem SlotForm.forcedLease : ∀ x0, SlotForm.Statement (.forcedLease x0) := fun _ => ⟨rfl, fun _ => rfl⟩
theorem SlotForm.leaseEnd : ∀ x0 x1 x2 x3, SlotForm.Statement (.leaseEnd x0 x1 x2 x3) :=
  fun _ _ _ _ => ⟨rfl, fun _ => rfl⟩
theorem SlotForm.hourlyHalving : SlotForm.Statement .hourlyHalving := ⟨rfl, fun _ => rfl⟩
theorem SlotForm.capcRecord : ∀ x0, SlotForm.Statement (.capcRecord x0) := fun _ => ⟨rfl, fun _ => rfl⟩
theorem SlotForm.idle : ∀ x0 x1, SlotForm.Statement (.idle x0 x1) := fun _ _ => ⟨rfl, fun _ => rfl⟩
theorem SlotForm.req : ∀ x0 x1, SlotForm.Statement (.req x0 x1) := fun _ _ => ⟨rfl, fun _ => rfl⟩
theorem SlotForm.data : ∀ x0 x1, SlotForm.Statement (.data x0 x1) := fun _ _ => ⟨rfl, fun _ => rfl⟩
theorem SlotForm.rsp : ∀ x0 x1, SlotForm.Statement (.rsp x0 x1) := fun _ _ => ⟨rfl, fun _ => rfl⟩
theorem SlotForm.cred : ∀ x0 x1, SlotForm.Statement (.cred x0 x1) := fun _ _ => ⟨rfl, fun _ => rfl⟩
theorem SlotForm.hold : ∀ x0 x1, SlotForm.Statement (.hold x0 x1) := fun _ _ => ⟨rfl, fun _ => rfl⟩
theorem SlotForm.resume : ∀ x0 x1, SlotForm.Statement (.resume x0 x1) := fun _ _ => ⟨rfl, fun _ => rfl⟩
theorem SlotForm.epa : ∀ x0 x1, SlotForm.Statement (.epa x0 x1) := fun _ _ => ⟨rfl, fun _ => rfl⟩
theorem SlotForm.err : ∀ x0 x1, SlotForm.Statement (.err x0 x1) := fun _ _ => ⟨rfl, fun _ => rfl⟩
theorem SlotForm.replay : ∀ x0 x1, SlotForm.Statement (.replay x0 x1) := fun _ _ => ⟨rfl, fun _ => rfl⟩
theorem SlotForm.computeDomainReset : SlotForm.Statement .computeDomainReset := ⟨rfl, fun _ => rfl⟩
theorem SlotForm.porchDomainReset : SlotForm.Statement .porchDomainReset := ⟨rfl, fun _ => rfl⟩
theorem SlotForm.powerOn : ∀ x0, SlotForm.Statement (.powerOn x0) := fun _ => ⟨rfl, fun _ => rfl⟩
theorem SlotForm.clockBinMove : ∀ x0 x1, SlotForm.Statement (.clockBinMove x0 x1) := fun _ _ => ⟨rfl, fun _ => rfl⟩
theorem SlotForm.sample : ∀ x0, SlotForm.Statement (.sample x0) := fun _ => ⟨rfl, fun _ => rfl⟩
theorem SlotForm.registerPartition : ∀ x0, SlotForm.Statement (.registerPartition x0) := fun _ => ⟨rfl, fun _ => rfl⟩
theorem SlotForm.deregisterPartition : ∀ x0, SlotForm.Statement (.deregisterPartition x0) :=
  fun _ => ⟨rfl, fun _ => rfl⟩
theorem SlotForm.accessTableEntry : ∀ x0 x1 x2, SlotForm.Statement (.accessTableEntry x0 x1 x2) :=
  fun _ _ _ => ⟨rfl, fun _ => rfl⟩
theorem SlotForm.leaseConfiguration : ∀ x0, SlotForm.Statement (.leaseConfiguration x0) := fun _ => ⟨rfl, fun _ => rfl⟩
theorem SlotForm.traceConfiguration : ∀ x0 x1, SlotForm.Statement (.traceConfiguration x0 x1) :=
  fun _ _ => ⟨rfl, fun _ => rfl⟩
theorem SlotForm.preemptRegion : ∀ x0, SlotForm.Statement (.preemptRegion x0) := fun _ => ⟨rfl, fun _ => rfl⟩
theorem SlotForm.noticeMode : ∀ x0 x1, SlotForm.Statement (.noticeMode x0 x1) := fun _ _ => ⟨rfl, fun _ => rfl⟩
theorem SlotForm.commit : SlotForm.Statement .commit := ⟨rfl, fun _ => rfl⟩
theorem SlotForm.selfTestRecordRead : SlotForm.Statement .selfTestRecordRead := ⟨rfl, fun _ => rfl⟩
theorem SlotForm.scoresRead : SlotForm.Statement .scoresRead := ⟨rfl, fun _ => rfl⟩
theorem SlotForm.leaseRecordsRead : SlotForm.Statement .leaseRecordsRead := ⟨rfl, fun _ => rfl⟩
theorem SlotForm.retirementStoreRead : SlotForm.Statement .retirementStoreRead := ⟨rfl, fun _ => rfl⟩
theorem SlotForm.islandClocksRead : SlotForm.Statement .islandClocksRead := ⟨rfl, fun _ => rfl⟩
theorem SlotForm.certs : SlotForm.Statement .certs := ⟨rfl, fun _ => rfl⟩
theorem SlotForm.quote : ∀ x0, SlotForm.Statement (.quote x0) := fun _ => ⟨rfl, fun _ => rfl⟩
theorem SlotForm.deviceReset : SlotForm.Statement .deviceReset := ⟨rfl, fun _ => rfl⟩
theorem SlotForm.flitCrcFailure : ∀ x0 x1, SlotForm.Statement (.flitCrcFailure x0 x1) := fun _ _ => ⟨rfl, fun _ => rfl⟩
theorem SlotForm.discardedFlit : ∀ x0 x1, SlotForm.Statement (.discardedFlit x0 x1) := fun _ _ => ⟨rfl, fun _ => rfl⟩
theorem SlotForm.lossOfLock : ∀ x0, SlotForm.Statement (.lossOfLock x0) := fun _ => ⟨rfl, fun _ => rfl⟩
theorem SlotForm.computeDomainBringUp : SlotForm.Statement .computeDomainBringUp := ⟨rfl, fun _ => rfl⟩
theorem SlotForm.porchUp : SlotForm.Statement .porchUp := ⟨rfl, fun _ => rfl⟩

end Sys2Proof.Laws
end

