-- ==== Sys2Proof/Tests/Slice0.lean ====
section
/-!
SUPPORT. Tests of the model: words and numbers that the spec writes out, ill-formed terms that are refused, single steps
on small states, and for every statement of Certificates/Slice0 a state and operands that meet its hypotheses.
-/
namespace Sys2Proof.Tests
set_option Elab.async false
open Sys2Proof Sys2Proof.Machine

/-! ## Decoding: words written out in the spec's own examples -/

/-- The eight words of a bundle, position 0 first. -/
def bundleOf (ws : List Lane) : Bundle := placeWords 0 ws

/-- spec/08, the listing taken apart by hand: bundle 0x10. -/
theorem test_decode_listing_10 :
    decodeBundle (bundleOf [0, 0x58109ABC, 0xC48D159E, 0x8C000000, 0x01104000, 0x03184200, 0, 0]) =
      .ok [⟨0, none, .nop⟩, ⟨1, none, .li48 4 0x123456789ABC#48⟩,
        ⟨4, some ⟨1, true, false, false, 0⟩, .vadd 2 1 (.reg 0) 0⟩, ⟨5, none, .vmul 3 1 (.reg 1) 0⟩] := by
  decide +kernel
/-- Bundle 0x11: the prefix at position 7 is an orphan. -/
theorem test_decode_listing_11 :
    decodeBundle (bundleOf [0, 0x10184010, 0, 0x012C9041, 0x94000000, 0x04204000, 0, 0x84000000]) =
      .error (.orph, 0x80) := by decide +kernel
/-- Bundle 0x12: jmpl, bcast and a reader of the port. -/
theorem test_decode_listing_12 :
    decodeBundle (bundleOf [0x56002A05, 0xC000007F, 0x32004000, 0, 0x07314020, 0, 0, 0]) =
      .ok [⟨0, none, .jmpl 0x7F002A05#48⟩, ⟨2, none, .bcast 4⟩, ⟨4, none, .vmax 6 5 .port 0⟩] := by decide +kernel
/-- The C slot's words of spec/09 and spec/16. -/
theorem test_decode_c :
    decodeWords .c [0x47000001, 0xC0000003] = some (.loopi 0 1 3) ∧ decodeWords .c [0x09020A00] = some (.lstr 0 4 5) ∧
    decodeWords .c [0x0A000100] = some (.gate 0 0 2) ∧ decodeWords .c [0x157DE000] = some (.capack 31 30) := by
  decide +kernel
/-- The scalar words of spec/08, spec/09 and spec/16. -/
theorem test_decode_s :
    decodeWords .s [0x01249100] = some (.add 9 9 4) ∧ decodeWords .s [0x10289000] = some (.addi 10 9 0) ∧
    decodeWords .s [0x10184010] = some (.addi 6 4 16) ∧ decodeWords .s [0x30780110] = some (.mfc 30 .capn) := by
  decide +kernel
/-- The M words of spec/08, spec/10, spec/15 and spec/16. -/
theorem test_decode_m :
    decodeWords .m [0x012C9041] = some (.ld .pm .w64 9 (.reg 2) 1) ∧
    decodeWords .m [0x17871460] = some (.baraw .hall 7 (.reg 5) 6) ∧
    decodeWords .m [0x12100EB8] = some (.atom .minw .pm 0 58 56) ∧
    decodeWords .m [0x13C00970] = some (.redo .add .glob 37 48) ∧
    decodeWords .m [0x14C4030B] = some (.red .fadd .glob 12 11) ∧
    decodeWords .m [0x1CC00800] = some (.phase .glob (.reg 2)) ∧
    decodeWords .m [0x09A51660] = some (.ldfEmpty .hall 10 (.reg 11) 12) ∧
    decodeWords .m [0x0A852A60] = some (.ste .hall 10 (.reg 21) 12) ∧
    decodeWords .m [0x0BA01600] = some (.fetagSet .hall 0 (.reg 11)) := by decide +kernel
/-- The wide copy of spec/10: hall to PM, plain. -/
theorem test_decode_copy :
    decodeWords .m [0x502820C4, 0xE0000000] =
      some (.copy 10 2 3 4 .hall .pm .plain .fp32 .fp32 0 false 0 false 0) := by decide +kernel
/-- The vector words of spec/11. -/
theorem test_decode_v :
    decodeWords .v [0x124000C0] = some (.vpart 8 3) ∧ decodeWords .v [0x174800C0] = some (.vcnt 9 3) ∧
    decodeWords .v [0x0B5A0022] = some (.vxor 11 8 .port 0) ∧
    decodeWords .v [0x09610022] = some (.vcmp .lt 3 1 .port 0) := by decide +kernel
/-- The T words of spec/12. -/
theorem test_decode_t :
    decodeWords .t [0x04140011] = some (.wld true .bf16 (.reg 20)) ∧
    decodeWords .t [0x01506000] = some (.mma .bf16 1 8 3 (.reg 0)) ∧
    decodeWords .t [0x0740A1C0] = some (.adrn 1 20 7) ∧ decodeWords .t [0x05000000] = some .wswap := by decide +kernel
/-- The X words of spec/13. -/
theorem test_decode_x :
    decodeWords .x [0x01292000] = some (.send 5 (.reg 9)) ∧ decodeWords .x [0x03304000] = some (.recva 6 2) ∧
    decodeWords .x [0x0830D000] = some (.xpost 12 13) := by decide +kernel
/-- A table word reaches its instruction through the decoder (notes/assumptions/12.md). -/
theorem test_decode_table_word : decodeTableWord 32 0x30780110 = some (.mfc 30 .capn) := by decide +kernel

/-! ## Ill-formed terms that WellFormed refuses, one for each check (R215, R219 check 4) -/

theorem test_wf_loop_level : (Instr.loop 6 0 0).wf = false ∧ (Instr.lbrk 7).wf = false := by decide
theorem test_wf_field : (Instr.bfx 0 0 60 4).wf = false ∧ (Instr.bfi 0 0 63 1).wf = false := by decide
theorem test_wf_fcmp : (Instr.fcmp .ieq 0 0 0).wf = false := by decide
theorem test_wf_fcvt : (Instr.fcvt 0 0 .dpw8 .fp32).wf = false ∧ (Instr.fcvt 0 0 .fp32 .dpw8).wf = false := by decide
theorem test_wf_vector_width :
    (Instr.vld .pm .i64 0 (.reg 0) 0).wf = false ∧ (Instr.vstRing .w64 0 ⟨0, false, 0⟩).wf = false := by decide
theorem test_wf_tags : (Instr.ldf .glob 0 (.reg 0) 0).wf = false ∧ (Instr.fetagSet .glob 0 (.reg 0)).wf = false := by decide
theorem test_wf_copy :
    (Instr.copy 0 0 0 0 .pm .hall .conv .dpw8 .fp32 0 false 0 false 0).wf = false ∧
    (Instr.copy 0 0 1 0 .pm .hall .plain .fp32 .fp32 0 true 0 false 0).wf = false := by decide
theorem test_wf_red : (Instr.red .exch .pm 0 0).wf = false ∧ (Instr.redo .cas .pm 0 0).wf = false := by decide
theorem test_wf_pref : (Instr.pref 2 (.reg 0) 0).wf = false := by decide
theorem test_wf_cond : (Instr.cond 0 0 0 0 0 1 false).wf = false := by decide
theorem test_wf_vcvt : (Instr.vcvt 0 0 .i64 0).wf = false := by decide
theorem test_wf_rlx : (Instr.rlxb 31 0 (.reg 0) 0).wf = false ∧ (Instr.rlx 30 0 0 0 true 0 0).wf = false := by decide
theorem test_wf_mma :
    (Instr.mma .bf16 0 30 2 (.reg 0)).wf = false ∧ (Instr.mma .bf16 0 0 0 (.reg 1)).wf = false ∧
    (Instr.mmaE .i8 0 0 0).wf = false ∧ (Instr.mmaD .bf16 0 31 0).wf = false := by decide
theorem test_wf_mmas : (Instr.mmas 0 (.reg 0) 0 1 false 0 .bf16 .plain false false 0 0).wf = false := by decide
theorem test_wf_wld : (Instr.wld false .i16 (.reg 0)).wf = false := by decide
theorem test_wf_adrn : (Instr.adrn 0 30 2).wf = false ∧ (Instr.adrnC 0 0 2).wf = false := by decide
theorem test_wf_event : (Instr.hourlyHalving).wf = false := by decide
theorem test_wf_prefix :
    (Instr.bcast 0).prefixOk ⟨0, false, true, false, 0⟩ = false ∧
    (Instr.vabsacc 0 0 (.reg 0) 0).prefixOk ⟨1, false, false, false, 0⟩ = false ∧
    (Instr.add 0 0 0).prefixOk ⟨0, false, false, false, 1⟩ = false := by decide
theorem test_wf_slot :
    (SlotInstr.wf ⟨2, none, .li48 0 0⟩) = false ∧ (SlotInstr.wf ⟨3, none, .add 0 0 0⟩) = false ∧
    (SlotInstr.wf ⟨1, none, .add 0 0 0⟩) = true := by decide

/-! ## Numbers (spec/02, spec/09 R264, spec/03) -/

/-- R264's example: 2^32 clamps to the largest i32 and raises invalid; i64 holds it. -/
theorem test_fcvt_clamps :
    (convert .fp32 .i32 .rne false 0x4F800000).1 = 0x7FFFFFFF ∧ (convert .fp32 .i32 .rne false 0x4F800000).2.inv = true ∧
    (convert .fp32 .i64 .rne false 0x4F800000).1 = 0x100000000 := by decide +kernel
/-- The table of spec/02: Gamma(7). -/
theorem test_gamma : gamma 7 = 0x34E00007 := by decide +kernel
/-! ## Witnesses: states and operands that meet the hypotheses of the statements, clause by clause -/

/-- The machine after reset with context 0 changed. -/
def withCtx (f : Ctx → Ctx) : State := State.reset.mapCtx 0 f
/-- The same with a scalar register of context 0 set. -/
def withS (r : SReg) (w : Word) : State := withCtx (fun x => x.ws r w)
/-- A slip-buffer entry of slot 3. -/
def someEntry : SlipEntry :=
  ⟨3, 0, 0, ⟨3, none, .phend⟩, none, (State.reset.ctx 0).capture 0, [], [], [], none, false⟩
/-- A state whose next step fetches `mfc s30, capn`, and what it is at the start of that step. -/
def before : State := State.reset.withFetchWord 32 0x30780110
def fetching : State := before.engines.tick

/-- The state after reset stands ready to execute any instruction. -/
theorem reset_issues (l : List Src) : State.reset.issues l := by
  refine ⟨rfl, ?_, rfl, rfl⟩
  induction l with
  | nil => rfl
  | cons q l ih => exact ih

/-- The state in which that step fetches. -/
def atFetch : State := (({ fetching with turn := fetching.turn + 1 } : State).stampReady 0).settle 0

theorem wit_StepRunsDecodedBundle :
    ({ State.reset with stage := some (0, someEntry) } : State).engines.tick.stage = some (0, someEntry) ∧
    ({ State.reset with agenda := [.hourlyHalving] } : State).engines.tick.agenda = [.hourlyHalving] ∧
    fetching.standsAtBundle 0 ∧ ((atFetch.ctx 0).flow.pastEnd = false) ∧
    (((atFetch.ctx 0).loaded (bundleSeg (atFetch.ctx 0).flow.pc)).bind
      (fun g => g.bundles[bundleIdx (atFetch.ctx 0).flow.pc]?)).map (atFetch.decodeChecked 0) =
        some (.ok [⟨0, none, .nop⟩, ⟨1, none, .mfc 30 .capn⟩]) ∧
    (∃ t, exec (.mfc 30 .capn) { atFetch with env := slotEnv (atFetch.bundleEnv 0
        [⟨0, none, .nop⟩, ⟨1, none, .mfc 30 .capn⟩]) ⟨1, none, .mfc 30 .capn⟩ } = .next t ∧
      t.env.block = false ∧ t.env.raised = none) := by
  have stands : fetching.standsAtBundle 0 := by
    unfold State.standsAtBundle
    and_intros <;> first | rfl | exact fun k hk => nomatch hk | decide +kernel
  exact ⟨rfl, rfl, stands, rfl, by decide +kernel, _, rfl, by and_intros <;> decide +kernel⟩
/-- A result of latency 1 for s5, and one of the slot above it. -/
def resA : Result := { Result.base with rid := 0, due := 5, pos := 1, dest := .s 5, val := 7 }
def resB : Result := { Result.base with rid := 1, due := 5, pos := 2, dest := .s 5, val := 9 }

theorem wit_ReservedWordsAreRefused :
    (selOf (0x00000001#32) = 0 ∧ majOf (0x00000001#32) = 0 ∧ (0x00000001#32) ≠ 0) ∧
    (selOf (0x18000000#32) = 0 ∧ majOf (0x18000000#32) = 0x18) ∧
    (selOf (0x41000000#32) = 1 ∧ majOf (0x41000000#32) = 1) ∧
    ((bundleOf [0, 1, 0, 0, 0, 0, 0, 0]).word 1 = 1 ∧ decodeWords .s [1] = none ∧
      decodeAt (bundleOf [0, 1, 0, 0, 0, 0, 0, 0]) 1 = .error (mark 1) ∧
      structureCheck (bundleOf [0, 1, 0, 0, 0, 0, 0, 0]) = none ∧
      bcastCheck (bundleOf [0, 1, 0, 0, 0, 0, 0, 0]) = none) ∧
    (selOf ((bundleOf [0, 0, 0, 0x41000000, 0xC0000000, 0, 0, 0]).word 3) = 1 ∧
      decodeWords .m [0x41000000, 0xC0000000] = none) ∧
    selOf ((bundleOf [0, 0, 0, 0, 0, 0, 0, 0x41000000]).word 7) = 1 ∧
    (structureCheck (bundleOf [0, 0, 0, 0, 0, 0, 0, 0x41000000])).isSome = true := by decide +kernel

theorem wit_DecodeAndEncodeAgree :
    ((Instr.bfx 63 63 63 0).cls = some .s ∧ (Instr.bfx 63 63 63 0).wf = true) ∧
    decodeWords .c [0x47000001, 0xC0000003] = some (.loopi 0 1 3) ∧
    (selOf (encodePrefix ⟨3, true, true, true, 3⟩) = 2 ∧
      decodePrefix (encodePrefix ⟨3, true, true, true, 3⟩) = (⟨3, true, true, true, 3⟩, true)) := by decide +kernel

theorem wit_MemoryStaysCanonical :
    (State.reset.putBytes (2 ^ 53) [1, 0, 2]).sound ∧
    ∃ t, step (State.reset.putBytes (2 ^ 53) [1, 0, 2]) = .next t := by
  refine ⟨by unfold State.sound; decide +kernel, _, rfl⟩

theorem wit_MemoryReadsBack : Memory.wf [(4, 1), (5, 2)] = true ∧ State.reset.sound := by
  refine ⟨by decide, by unfold State.sound; decide +kernel⟩

theorem wit_ResultsTakeEffectInOrder :
    (let x := (withCtx (fun x => { x with ctm := 5, results := [resA, resB] })).ctx 0
     x.results = [resA, resB] ∧ resA.arrived = true ∧ resB.arrived = true ∧ resA.due.toNat ≤ x.ctm.toNat ∧
       resB.due.toNat ≤ x.ctm.toNat ∧ resA.due = resB.due ∧ resA.pos.toNat < resB.pos.toNat) ∧
    (let x := (withCtx (fun x => { x with ctm := 5, results := [resA, { resB with due := 6 }] })).ctx 0
     x.results = [resA, { resB with due := 6 }] ∧ x.ctm.toNat < (6 : Word).toNat) := by decide +kernel

/-- LWIN at the first byte beyond PM, ALIGN, the first address that is not canonical, and a page that is not mapped. -/
theorem wit_AccessChecksTrapInOrder :
    (let s := withS 2 0x100000
     s.env.slipped = none ∧ s.needs (SOpd.src (.reg 2)) = [] ∧ s.frameOut .pm 0x100000 = false ∧
       s.windowKey .pm 0x100000 4 = none) ∧
    ((withS 2 0xFFFFC).windowKey .pm 0xFFFFC 4 = some (pmKey 0 0xFFFFC) ∧
      (withS 2 0xFFFFD).windowKey .pm 0xFFFF9 4 = some (pmKey 0 0xFFFF9) ∧ (0xFFFF9#64).toNat % 4 ≠ 0) ∧
    (canonical 0x0080000000000000 = false ∧ canonical 0x007FFFFFFFFFFFFF = true ∧ (0x007FFFFFFFFFFFFF#64).toNat % 4 ≠ 0) ∧
    ((withS 2 0x20000000).windowKey .hall 0x20000000 4 = some (hallKey 0 0) ∧
      (withS 2 0x20000000).windowPermits .hall 0 .read 0x20000000 (hallKey 0 0) 4 = false) ∧
    (∃ f, (withS 2 0x10000).translateAll (some 0) 0 .read 0x10000 4 = .error f) := by
  refine ⟨by decide +kernel, by decide +kernel, by decide +kernel, by decide +kernel, _, rfl⟩

/-- Every operand at once: any instruction of the scalar slots stands ready after reset. -/
theorem wit_ScalarIntegerOperations : State.reset.issues [.s 63, .s 0, .s 63] := reset_issues _

theorem wit_ScalarDivisionsAndBitCounts :
    (withS 3 0x8000000000000000).issues [.s 3, .s 0] ∧
    ((withS 3 0x8000000000000000).cx.divFree.get (withS 3 0x8000000000000000).divider).toNat ≤
      (withS 3 0x8000000000000000).cx.ctm.toNat := by
  refine ⟨?_, by decide +kernel⟩; unfold State.issues; decide +kernel

theorem wit_ScalarFieldsAndConstants :
    State.reset.issues [.s 1, .s 2] ∧ (0#6).toNat + (63#6).toNat ≤ 63 ∧ (63#6).toNat + (0#6).toNat ≤ 63 ∧
    63 < (60#6).toNat + (4#6).toNat ∧
    (bundleOf [0, 0x08146F04, 0, 0, 0, 0, 0, 0]).word 1 = (0#2 ++ 0x08#6 ++ 5#6 ++ 6#6 ++ 60#6 ++ 4#6 : BitVec 32) :=
  ⟨reset_issues _, by decide, by decide, by decide, by decide +kernel⟩

theorem wit_ScalarFloatingPoint :
    State.reset.issues [.s 1, .s 2, .s 3] ∧
    (State.reset.cx.divFree.get State.reset.divider).toNat ≤ State.reset.cx.ctm.toNat :=
  ⟨reset_issues _, by decide +kernel⟩

/-- A context at handler level 1 has the rights that tvb needs. -/
theorem wit_ControlRegistersAndPort :
    State.reset.issues [.ctl .gcc] ∧ State.reset.issues [.ctl .ctm] ∧ State.reset.issues [.ctl .dtc] ∧
    (let s := withCtx (fun x => { x with level := 1 })
     s.issues [.s 5] ∧ ctlAdmits .tvb (s.cx.rs 5) = true ∧ s.handlerRights s.env.cid = true) ∧
    (State.reset.issues [.s 5] ∧ ctlAdmits .dlw (State.reset.cx.rs 5) = true ∧ State.reset.handlerRights 0 = false) := by
  refine ⟨reset_issues _, reset_issues _, reset_issues _, ⟨?_, by decide +kernel⟩, reset_issues _, by decide +kernel⟩
  unfold State.issues; decide +kernel

/-- A state whose level 0 runs a body of bundles 0x300 to 0x302, one target bound. -/
def looping : State :=
  withCtx (fun x => x.mapLoop 0 (fun _ => ⟨true, 3, 0x300, 0x302, 0x303, false, [⟨3, 0, 2⟩], 0, 0, true, [(5, 8)], 0⟩))

theorem looping_issues (l : List Src) : looping.issues l := by
  refine ⟨rfl, ?_, rfl, rfl⟩
  induction l with
  | nil => rfl
  | cons q l ih => exact ih

/-- A member of a coach of two that the context of core 0 leads, which has taken its branch, or has not. -/
def following (d : BitVec 2) : State :=
  let t : Task := ⟨7, 3, 0, 0, 0, 2, 11, 0, 4, 16, false⟩
  let s := (withCtx (fun x => { x with task := some t, flow := { x.flow with dsl := d, dst := 0x900 } })).mapCtx 4
    (fun x => { x with task := some { t with lidx := 1, pidx := 1 } })
  { s with env := { s.env with cid := 4 } }

/-- ret in a member that leads and in one that follows, its lead before and after its own branch. -/
theorem wit_TransfersInACoach :
    (following 2).issues [.s 63] ∧ (following 0).issues [.s 63] ∧
    ((following 2).untraced ∧ (following 2).cx.innermost = none ∧ (following 2).leadOf (following 2).env.cid = 0 ∧
      ((following 2).ctx 0).flow.dsl = 2 ∧ ((following 0).ctx 0).flow.dsl ≠ 2 ∧ (following 0).untraced ∧
      (following 2).leadOf 0 = 0) := by
  unfold State.issues State.untraced
  decide +kernel

theorem wit_TransfersOfControl :
    (withS 5 1).issues [.s 5] ∧ (withS 5 1).untraced ∧ (withS 5 1).cx.rs 5 ≠ 0 ∧ (withS 6 1).cx.rs 5 = 0 ∧
    (∀ t : Word, State.reset.branchBreaksLoop t = false) ∧ State.reset.cx.innermost = none := by
  refine ⟨?_, rfl, by decide +kernel, by decide +kernel, fun t => rfl, by decide +kernel⟩
  unfold State.issues; decide +kernel

/-- The start of a level on the last bundle but two of a segment with four bundles; a level already running. -/
def enteringLoop : State :=
  { (withCtx (fun x => { (x.ws 5 0xFFFFFFFF) with
      flow := { x.flow with pc := 0x300 }, lbuf := [⟨3, 4, 0, List.replicate 4 (bundleOf []), none⟩] })) with
    env := { Env.reset with pc := 0x300 } }

theorem wit_LoopLevelsAndTheirRules :
    (enteringLoop.issues [.s 5] ∧ enteringLoop.loopOk 0 1 = true ∧ enteringLoop.loopOk 5 2 = true ∧
      (enteringLoop.cx.rs 5).toNat < 2 ^ 32 ∧ enteringLoop.cx.rs 5 ≠ 0) ∧
    (looping.issues [.s 5] ∧ looping.untraced ∧ (looping.cx.level? 0).active = true ∧
      (looping.cx.level? 0).strides = [((5 : SReg), (8 : Word))] ∧
      (looping.cx.level? 5).active = false ∧ looping.cx.innermost ≠ none ∧
      looping.branchBreaksLoop 0x400 = true) := by
  refine ⟨⟨?_, by decide +kernel⟩, ⟨looping_issues _, rfl, by decide +kernel⟩⟩
  unfold State.issues; decide +kernel

/-- The state after reset with n containment regions open. -/
def regionsOpen (n : Nat) : State := withCtx (fun x => { x with cregs := List.replicate n ⟨0x700, 0⟩ })

/-- The bundle two before the last of a body. -/
def endingLoop : State :=
  { (withCtx (fun x => { x.mapLoop 0 (fun _ => ⟨true, 3, 0x300, 0x302, 0x303, false, [⟨3, 0, 2⟩], 0, 0, true, [], 0⟩) with
      flow := { x.flow with pc := 0x300 }, lbuf := [⟨3, 4, 0, List.replicate 4 (bundleOf []), none⟩] })) with
    env := { Env.reset with pc := 0x300 } }

theorem wit_EndingsAndChecks :
    State.reset.issues [.s 5, .ctl .civ] ∧ (regionsOpen 3).cx.cregs.length < 4 ∧ 4 ≤ (regionsOpen 4).cx.cregs.length ∧
    (regionsOpen 4).issues [] ∧ (regionsOpen 1).cx.cregs ≠ [] ∧ State.reset.cx.cregs = [] ∧
    State.reset.cx.rs 5 = State.reset.cx.rs 6 ∧ (withS 5 1).cx.rs 5 ≠ (withS 5 1).cx.rs 6 ∧ (withS 5 1).issues [.s 5, .s 6] ∧
    (State.reset.delayHitsLast = false ∧ endingLoop.issues [] ∧ endingLoop.delayHitsLast = true) ∧
    (((State.reset.cx.rs 5).setWidth 32 : BitVec 32).toNat ≤ (State.reset.cx.ctl.capn.setWidth 32 : BitVec 32).toNat ∧
      (State.reset.cx.ctl.capn.setWidth 32 : BitVec 32).toNat < (((withS 5 1).cx.rs 5).setWidth 32 : BitVec 32).toNat) := by
  refine ⟨reset_issues _, ?_⟩
  unfold State.issues
  and_intros <;> decide +kernel

/-- A wake time in the past and one in the future; flags that are there and one that is not, before and after its limit. -/
theorem wit_CSlotWaits :
    (State.reset.issues [.s 5, .s 6] ∧ (State.reset.cx.rs 5).getLsbD 63 = false ∧
      (State.reset.cx.rs 5).toNat ≤ State.reset.gcc.toNat) ∧
    ((withS 5 1).issues [.s 5, .s 6] ∧ ((withS 5 1).cx.rs 5).getLsbD 63 = false ∧
      (withS 5 1).gcc.toNat < ((withS 5 1).cx.rs 5).toNat ∧ (withS 5 1).mayWait ((withS 5 1).cx.rs 5) ∧
      ¬ (withS 5 1).mayWait ((withS 5 1).cx.rs 6)) ∧
    (let s : State := { State.reset with gcc := 5 }
     (s.cx.ctl.wfl.setWidth 8 : BitVec 8) &&& 1 ≠ 1 ∧ (s.cx.flow.expired || s.holdPast (s.waitfHold 1)) = true ∧
       ((withCtx (fun x => { x with ctl := { x.ctl with dlw := 9 } })).holdPast
         ((withCtx (fun x => { x with ctl := { x.ctl with dlw := 9 } })).waitfHold 1)) = false) ∧
    (let s := withCtx (fun x => { x with ctl := { x.ctl with wfl := 0x81 } })
     (s.cx.ctl.wfl.setWidth 8 : BitVec 8) &&& 0x80 = 0x80 ∧ (s.cx.ctl.wfl.setWidth 8 : BitVec 8) &&& 0x03 ≠ 0x03 ∧
       s.cx.flow.expired = false ∧ s.ctxRgn 0 = none) ∧
    ((withCtx (fun x => { x with flow := { x.flow with expired := true } })).cx.ctl.wfl.setWidth 8 : BitVec 8) &&& 1 ≠ 1 ∧
    (withCtx (fun x => { x with flow := { x.flow with expired := true } })).cx.flow.expired = true := by
  unfold State.mayWait
  refine ⟨⟨reset_issues _, by decide +kernel⟩, ?_⟩
  unfold State.issues
  and_intros <;> decide +kernel

theorem wit_VectorArithmetic :
    State.reset.issues (.p 7 :: .v 31 :: VOpd.src (.reg 31)) ∧ State.reset.issues (.p 0 :: .v 0 :: .v 31 :: VOpd.src .port) ∧
    State.reset.issues [.p 7, .v 31] := ⟨reset_issues _, reset_issues _, reset_issues _⟩

theorem wit_VectorMovesAndPredicates :
    State.reset.issues (.p 7 :: .v 31 :: VOpd.src .port) ∧ State.reset.issues (.p 0 :: VOpd.src (.reg 0)) ∧
    State.reset.issues [.p 7] ∧ State.reset.issues [.p 0, .p 7] := ⟨reset_issues _, reset_issues _, reset_issues _, reset_issues _⟩

/-- Equal and different duplicates. -/
theorem wit_VectorConversionsAndReductions :
    State.reset.issues [.p 7, .v 31] ∧ State.reset.issues (.p 7 :: .v 31 :: VOpd.src .port) ∧
    State.reset.issues (.v 3 :: VOpd.src (.reg 4)) ∧ State.reset.cx.rv 3 = State.reset.operandV (.reg 4) ∧
    (let s := withCtx (fun x => x.wv 3 (BitVec.allOnes 64) 1)
     s.cx.rv 3 ≠ s.operandV (.reg 4)) := by
  refine ⟨reset_issues _, reset_issues _, reset_issues _, by decide +kernel, by decide +kernel⟩

/-! ### Memory -/

/-- Scalar registers of a context set in turn. -/
def sregs (l : List (SReg × Word)) (x : Ctx) : Ctx := l.foldl (fun y p => y.ws p.1 p.2) x
/-- The instruction in the environment stands in a slot of bundle 0x300 of context 0. -/
def atPos (p : Pos) (s : State) : State := { s with env := { s.env with pos := p, pc := 0x300, ctm := (s.ctx 0).ctm } }
/-- A number stored little-endian. -/
def putN (s : State) (key n v : Nat) : State := s.putBytes key (leBytes n v)
/-- Access tables that let every master of partition 0 reach every target. -/
def grants : List (Target × BitVec 8 × List AccRange) :=
  [Target.pcie, .hall 0, .omnibus 0, .pantry].flatMap (fun t =>
    (List.range 8).map (fun c => (t, BitVec.ofNat 8 c, [⟨0, 0xFFFFFFFFFFFFFF0F⟩])))
/-- Partition 0 registered, the first GB of its global space a page of host memory. -/
def world : State :=
  putN (putN { State.reset.mapPart 0 (fun p => { p with registered := true, root := 0x1000 }) with access := grants }
    (physKey 0x1000) 8 0x2001) (physKey 0x2000) 8 0x5F
/-- A task with 4 accumulators on core 0. -/
def task0 : Task := ⟨7, 3, 0, 0, 0, 1, 11, 0, 4, 16, false⟩
/-- A state with context 0 changed, an M-slot instruction in the environment. -/
def wctx (s : State) (l : List (SReg × Word)) (f : Ctx → Ctx) : State := atPos 3 (s.mapCtx 0 (fun x => f (sregs l x)))
/-- Context 0 runs the task. -/
def running (x : Ctx) : Ctx := { x with task := some task0, run := .running, ctm := 8 }
/-- The outcome of a check is the storage named. -/
def isOk (r : Except IssueTrap (List Touch)) (tc : List Touch) : Bool :=
  match r with
  | .ok x => decide (x = tc)
  | .error _ => false
theorem of_isOk {r : Except IssueTrap (List Touch)} {tc : List Touch} (h : isOk r tc = true) : r = .ok tc := by
  cases r with
  | ok x => simp only [isOk, decide_eq_true_eq] at h; rw [h]
  | error e => cases h
/-- The conditions of `State.reaches`, to be evaluated. -/
def reachesB (s : State) (sp : Space) (a : Access) (va : Word) (n align : Nat) (tc : List Touch) : Bool :=
  isOk (s.checkAccess sp a 0 1 va n align) tc && !s.frameOut sp va && !tc.any (·.away)
theorem reaches_of {s : State} {sp : Space} {a : Access} {va : Word} {n align : Nat} {tc : List Touch}
    (h : reachesB s sp a va n align tc = true) : s.reaches sp a va n align tc := by
  simp only [reachesB, Bool.and_eq_true, Bool.not_eq_true'] at h
  exact ⟨h.1.2, of_isOk h.1.1, h.2⟩
/-- The conditions of `State.reachesLanes`, to be evaluated. -/
def lanesB (s : State) (sp : Space) (a : Access) (vas : List Word) (n : Nat) (tc : List Touch) : Bool :=
  isOk (s.checkLanes sp a 1 n vas) tc && !vas.any (s.frameOut sp)
theorem lanes_of {s : State} {sp : Space} {a : Access} {vas : List Word} {n : Nat} {tc : List Touch}
    (h : lanesB s sp a vas n tc = true) : s.reachesLanes sp a vas n tc := by
  simp only [lanesB, Bool.and_eq_true, Bool.not_eq_true'] at h
  exact ⟨h.2, of_isOk h.1⟩
/-- The conditions of `State.issues`, to be evaluated. -/
def issuesB (s : State) (l : List Src) : Bool :=
  decide (s.env.slipped = none) && decide (s.needs l = []) && decide (s.cx.slotSlip s.env.pos = []) && s.parity.isEmpty
theorem issues_of {s : State} {l : List Src} (h : issuesB s l = true) : s.issues l := by
  simp only [issuesB, Bool.and_eq_true, decide_eq_true_eq, List.isEmpty_iff] at h
  exact and_assoc.mp (and_assoc.mp h)
/-- The conditions of `State.issuesInOrder`, to be evaluated: nothing waits in a slip buffer at all. -/
def orderB (s : State) (l : List Src) : Bool := issuesB s l && s.cx.slip.isEmpty
theorem order_of {s : State} {l : List Src} (i : Instr) (h : orderB s l = true) : s.issuesInOrder i l := by
  simp only [orderB, Bool.and_eq_true, List.isEmpty_iff] at h
  exact ⟨issues_of h.1, by simp [State.conflict, State.ahead, h.2]⟩

/-- The last 8 bytes of PM addressed by s2, with a value; the same poisoned; a containment region open. -/
def atEnd : State := putN (wctx State.reset [(2, 0xFFFF8), (4, 0x123456789ABCDEF0)] id) (pmKey 0 0xFFFF8) 8 0x8877665544332211
def atEndPoison : State := { atEnd with poison := [pmKey 0 0xFFFF8] }
def atEndRegion : State := atEndPoison.mapCx (fun x => { x with cregs := [⟨0x700, 0⟩] })
/-- A vector's place in PM, byte elements and 8-byte strides. -/
def atVec : State := wctx State.reset [(2, 0x1000), (7, 8)] id
/-- Every lane's index is skipped but lane 63's, which is 5. -/
def oneLane : State :=
  atVec.mapCx (fun x => x.wv 6 (BitVec.allOnes 64) (ofLanes ((List.range 64).map (fun i => if i = 63 then 5 else 0xFFFFFFFF))))
/-- The storage of 64 elements of one byte, 8 bytes apart. -/
def strided (w : Bool) : List Touch := (List.range 64).map (fun i => ⟨w, pmKey 0 (0x1000 + 8 * i), 1⟩)

/-- What an access reads through a window. -/
def readAt (key n : Nat) : List Touch := [⟨false, key, n⟩]
def writeAt (key n : Nat) : List Touch := [⟨true, key, n⟩]

theorem wit_LoadsFromMemory :
    (atEnd.issuesInOrder (.ld .pm .w64 9 (.reg 2) 0) [.s 2] ∧
      atEnd.reaches .pm .read (atEnd.cx.rs 2) 8 8 (readAt (pmKey 0 0xFFFF8) 8) ∧
      (atEnd.reading .read (atEnd.cx.rs 2) (readAt (pmKey 0 0xFFFF8) 8)).valueAt (readAt (pmKey 0 0xFFFF8) 8) < 2 ^ 64 ∧
      atEnd.piecesPoisoned (piecesOf (readAt (pmKey 0 0xFFFF8) 8)) = false) ∧
    (atEndPoison.issuesInOrder (.ld .pm .w64 9 (.reg 2) 0) [.s 2] ∧
      atEndPoison.reaches .pm .read (atEnd.cx.rs 2) 8 8 (readAt (pmKey 0 0xFFFF8) 8) ∧
      (atEndPoison.reading .read (atEnd.cx.rs 2) (readAt (pmKey 0 0xFFFF8) 8)).piecesPoisoned
        (piecesOf (readAt (pmKey 0 0xFFFF8) 8)) = true ∧ atEndPoison.cx.cregs = []) ∧
    (atEndRegion.reaches .pm .read (atEnd.cx.rs 2) 8 8 (readAt (pmKey 0 0xFFFF8) 8) ∧
      (atEndRegion.reading .read (atEnd.cx.rs 2) (readAt (pmKey 0 0xFFFF8) 8)).piecesPoisoned
        (piecesOf (readAt (pmKey 0 0xFFFF8) 8)) = true ∧ atEndRegion.cx.cregs ≠ []) ∧
    (atVec.issuesInOrder (.vld .pm .i8 5 (.reg 2) 0) [.s 2] ∧ atVec.reaches .pm .read 0x1000 64 8 (readAt (pmKey 0 0x1000) 64)) ∧
    (atVec.issuesInOrder (.vlds .pm .i8 5 (.reg 2) 7) [.s 7, .s 2] ∧ atVec.reachesLanes .pm .read
      ((List.range 64).map (fun i => atVec.cx.rs 2 + BitVec.ofNat 64 i * atVec.cx.rs 7)) 1 (strided false)) ∧
    (oneLane.issuesInOrder (.gath .pm .i8 5 6 (.reg 2)) [.v 6, .s 2] ∧ oneLane.reachesLanes .pm .read
      (((List.range 64).filter (fun i => !(lane (oneLane.cx.rv 6) i).getLsbD 31)).map (fun i =>
        oneLane.cx.rs 2 + (lane (oneLane.cx.rv 6) i).signExtend 64 * BitVec.ofNat 64 1)) 1 (readAt (pmKey 0 0x1005) 1)) := by
  refine ⟨⟨order_of _ (by decide +kernel), reaches_of (by decide +kernel), by decide +kernel, by decide +kernel⟩,
    ⟨order_of _ (by decide +kernel), reaches_of (by decide +kernel), by decide +kernel, by decide +kernel⟩,
    ⟨reaches_of (by decide +kernel), by decide +kernel, by decide +kernel⟩,
    ⟨order_of _ (by decide +kernel), reaches_of (by decide +kernel)⟩,
    ⟨order_of _ (by decide +kernel), lanes_of (by decide +kernel)⟩,
    ⟨order_of _ (by decide +kernel), lanes_of (by decide +kernel)⟩⟩

theorem settled_of {s : State} (h : s.late = []) : s.settled := by intro l hl; rw [h] at hl; cases hl

theorem wit_StoresAndTheirFrame :
    (atEnd.sound ∧ atEnd.issuesInOrder (.st .pm .w64 4 (.reg 2) 0) [.s 2, .s 4] ∧
      atEnd.reaches .pm .write (atEnd.cx.rs 2) 8 8 (writeAt (pmKey 0 0xFFFF8) 8)) ∧
    (atVec.sound ∧ atVec.settled ∧ atVec.issuesInOrder (.vst .pm .w32 5 (.reg 2) 0) [.s 2, .v 5] ∧
      atVec.reaches .pm .write 0x1000 256 8 (writeAt (pmKey 0 0x1000) 256)) ∧
    (atVec.issuesInOrder (.vsts .pm .i8 5 (.reg 2) 7) [.s 7, .s 2, .v 5] ∧ atVec.reachesLanes .pm .write
      ((List.range 64).map (fun i => atVec.cx.rs 2 + BitVec.ofNat 64 i * atVec.cx.rs 7)) 1 (strided true)) ∧
    (oneLane.sound ∧ oneLane.settled ∧ oneLane.issuesInOrder (.scat .pm .i8 5 6 (.reg 2)) [.v 6, .s 2, .v 5] ∧
      oneLane.reachesLanes .pm .write
      (((List.range 64).filter (fun i => !(lane (oneLane.cx.rv 6) i).getLsbD 31)).map (fun i =>
        oneLane.cx.rs 2 + (lane (oneLane.cx.rv 6) i).signExtend 64 * BitVec.ofNat 64 1)) 1
      (writeAt (pmKey 0 0x1005) 1)) := by
  unfold State.sound
  refine ⟨⟨by decide +kernel, order_of _ (by decide +kernel), reaches_of (by decide +kernel)⟩,
    ⟨by decide +kernel, settled_of rfl, order_of _ (by decide +kernel), reaches_of (by decide +kernel)⟩,
    ⟨order_of _ (by decide +kernel), lanes_of (by decide +kernel)⟩,
    ⟨by decide +kernel, settled_of rfl, order_of _ (by decide +kernel), lanes_of (by decide +kernel)⟩⟩

/-- The word that s2 addresses full, or empty, with a limit in s6 and one of 0 in s7. -/
def word8 : State := putN (wctx State.reset [(2, 0x1000), (5, 0x1122334455667788), (6, 500)] id) (pmKey 0 0x1000) 8 3
def word8Empty : State := { word8 with empties := [pmKey 0 0x1000] }
/-- A wait for the tag of that word. -/
def tagWait : SlipEntry := { someEntry with touch := writeAt (pmKey 0 0x1000) 8, wait := some ⟨0, 9, none, false⟩ }

/-- An earlier change has made the test of a wait for that word's tag due. -/
def testing (s : State) : State := { s.mapCtx 1 (fun x => { x with slip := [tagWait] }) with agenda := [.slipBufferRelease 1 3] }
theorem wit_TestsOfTagsAreDue :
    (testing word8).issuesInOrder (.ldfEmpty .pm 9 (.reg 2) 6) [.s 6, .s 2] ∧
    (testing word8Empty).issuesInOrder (.ste .pm 5 (.reg 2) 6) [.s 6, .s 2, .s 5] ∧
    (testing word8).issuesInOrder (.fetagSet .pm 5 (.reg 2)) [.s 2, .s 5] ∧ word8.issuesInOrder (.fetagSet .pm 5 (.reg 2)) [.s 2, .s 5] ∧
    (testing word8).reaches .pm .read (word8.cx.rs 2) 8 8 (readAt (pmKey 0 0x1000) 8) ∧
    (testing word8).reaches .pm .write (word8.cx.rs 2) 8 8 (writeAt (pmKey 0 0x1000) 8) ∧
    (testing word8Empty).reaches .pm .write (word8.cx.rs 2) 8 8 (writeAt (pmKey 0 0x1000) 8) ∧
    ((testing word8).testsDue (pmKey 0 0x1000) = true ∧ word8.testsDue (pmKey 0 0x1000) = false ∧
      (testing word8Empty).testsDue (pmKey 0 0x1000) = true ∧ (testing word8Empty).tagFull (pmKey 0 0x1000) = false ∧
      ((testing word8).reading .read (word8.cx.rs 2) (readAt (pmKey 0 0x1000) 8)).testsDue (pmKey 0 0x1000) = true ∧
      (testing word8).mayWait ((testing word8).cx.rs 6) ∧ ¬ (testing word8).mayWait ((testing word8).cx.rs 7)) := by
  unfold State.mayWait
  refine ⟨order_of _ ?_, order_of _ ?_, order_of _ ?_, order_of _ ?_, reaches_of ?_, reaches_of ?_, reaches_of ?_, ?_⟩ <;>
    decide +kernel

theorem wit_FullEmptyWords :
    (word8.issuesInOrder (.ldfEmpty .pm 9 (.reg 2) 6) [.s 6, .s 2] ∧
      word8.reaches .pm .read (word8.cx.rs 2) 8 8 (readAt (pmKey 0 0x1000) 8) ∧
      (word8.reading .read (word8.cx.rs 2) (readAt (pmKey 0 0x1000) 8)).tagFull (pmKey 0 0x1000) = true) ∧
    (word8Empty.issuesInOrder (.ldf .pm 9 (.reg 2) 6) [.s 6, .s 2] ∧
      word8Empty.reaches .pm .read (word8.cx.rs 2) 8 8 (readAt (pmKey 0 0x1000) 8) ∧
      (word8Empty.reading .read (word8.cx.rs 2) (readAt (pmKey 0 0x1000) 8)).tagFull (pmKey 0 0x1000) = false ∧
      word8Empty.mayWait (word8Empty.cx.rs 6) ∧ word8Empty.issuesInOrder (.ldf .pm 9 (.reg 2) 7) [.s 7, .s 2] ∧
      ¬ word8Empty.mayWait (word8Empty.cx.rs 7)) ∧
    (word8Empty.sound ∧ word8Empty.issuesInOrder (.ste .pm 5 (.reg 2) 6) [.s 6, .s 2, .s 5] ∧
      word8Empty.reaches .pm .write (word8.cx.rs 2) 8 8 (writeAt (pmKey 0 0x1000) 8)) ∧
    (word8.sound ∧ word8.issuesInOrder (.ste .pm 5 (.reg 2) 6) [.s 6, .s 2, .s 5] ∧ word8.mayWait (word8.cx.rs 6) ∧
      word8.issuesInOrder (.ste .pm 5 (.reg 2) 7) [.s 7, .s 2, .s 5] ∧ ¬ word8.mayWait (word8.cx.rs 7) ∧
      word8.reaches .pm .write (word8.cx.rs 2) 8 8 (writeAt (pmKey 0 0x1000) 8)) ∧
    (let s := word8.mapCx (fun x => { x with slip := [tagWait] })
     tagWait ∈ (s.ctx 0).slip ∧ (∃ w, tagWait.wait = some w ∧ w.reader = false) ∧
       ∃ x ∈ tagWait.touch, x.key = pmKey 0 0x1003 - pmKey 0 0x1003 % 8) := by
  unfold State.sound State.mayWait
  refine ⟨⟨order_of _ (by decide +kernel), reaches_of (by decide +kernel), by decide +kernel⟩,
    ⟨order_of _ (by decide +kernel), reaches_of (by decide +kernel), by decide +kernel, by decide +kernel,
      order_of _ (by decide +kernel), by decide +kernel⟩,
    ⟨by decide +kernel, order_of _ (by decide +kernel), reaches_of (by decide +kernel)⟩,
    ⟨by decide +kernel, order_of _ (by decide +kernel), by decide +kernel, order_of _ (by decide +kernel), by decide +kernel,
      reaches_of (by decide +kernel)⟩,
    ⟨?_, ⟨_, rfl, rfl⟩, ⟨_, List.mem_singleton.mpr rfl, by decide +kernel⟩⟩⟩
  exact List.mem_singleton.mpr rfl

/-- A word of the host page that s2 addresses. -/
def wordH : State := putN (wctx world [(2, 0x1000), (5, 0x1122334455667788), (6, 500)] id) (hostKey 0x1000) 8 3

/-- A barrier object at host memory 0x1000 with its counts, phase and pending bytes. -/
def barrierOf (arr tgt ph : BitVec 32) (pby : BitVec 28) : State :=
  (wordH.putBarrier (hostKey 0x1000) ⟨tgt, arr, pby, 0, ph⟩).mapCx (fun x => x.ws 9 3)
/-- The state in which a synchronization access at s2 acts on it. -/
def syncing (s : State) : State := s.reading .sync (s.cx.rs 2) (writeAt (hostKey 0x1000) 16)
/-- It reads back so, well formed, and the check of a synchronization access passes. -/
def barrierB (arr tgt ph : BitVec 32) (pby : BitVec 28) (l : List Src) : Bool :=
  let s := barrierOf arr tgt ph pby
  decide ((syncing s).barrierAt (hostKey 0x1000) = ⟨tgt, arr, pby, 0, ph⟩) && orderB s l && Memory.wf s.mem &&
  s.reds.isEmpty && reachesB s .glob .sync (s.cx.rs 2) 16 16 (writeAt (hostKey 0x1000) 16)
/-- The phase of an arrival there is done. -/
def arrivalDone (arr tgt ph : BitVec 32) (pby : BitVec 28) : Bool :=
  let r := (syncing (barrierOf arr tgt ph pby)).barrierArrive (hostKey 0x1000)
  (syncing (barrierOf arr tgt ph pby)).redsAccepted 0 (hostKey 0x1000) && (r.2.barrierAt (hostKey 0x1000)).done r.1

/-- One arrival short, the last arrival, a phase that wraps, a barwait that ends and one that waits, barinit idle and not,
limits of 500 and 0. -/
theorem wit_BarrierObjects :
    barrierB 0 2 5 0 [.s 6, .s 2] = true ∧ barrierB 0xFFFFFFFD 0xFFFFFFFF 5 0 [.s 6, .s 2] = true ∧
    barrierB 1 2 0xFFFFFFFF 0 [.s 6, .s 2] = true ∧ barrierB 0xFFFFFFFE 0xFFFFFFFF 0 0 [.s 6, .s 2] = true ∧
    (arrivalDone 0 2 5 0 = false ∧ arrivalDone 1 2 0xFFFFFFFF 0 = true ∧ arrivalDone 1 2 5 9 = false) ∧
    ((barrierOf 0 2 5 0).mayWait ((barrierOf 0 2 5 0).cx.rs 6) ∧ ¬ (barrierOf 0 2 5 0).mayWait ((barrierOf 0 2 5 0).cx.rs 7) ∧
      barrierB 0 2 5 0 [.s 7, .s 2] = true) ∧
    (barrierB 1 2 4 0 [.s 6, .s 2, .s 9] = true ∧
      (⟨2, 1, 0, 0, 4⟩ : Barrier).done (((barrierOf 1 2 4 0).cx.rs 9).setWidth 32) = true) ∧
    (barrierB 1 2 3 0 [.s 6, .s 2, .s 9] = true ∧
      (⟨2, 1, 0, 0, 3⟩ : Barrier).done (((barrierOf 1 2 3 0).cx.rs 9).setWidth 32) = false) ∧
    (barrierB 0 0 0 0 [.s 6, .s 2, .s 9] = true ∧ (⟨0, 0, 0, 0, 0⟩ : Barrier).malformed = true) ∧
    (barrierB 0 7 0 0 [.s 6, .s 2] = true ∧ (barrierOf 0 7 0 0).cx.rs 6 ≠ 0 ∧ ((barrierOf 0 7 0 0).cx.rs 6).toNat < 2 ^ 32) ∧
    (barrierB 0 7 0 0 [.s 0, .s 2] = true ∧ (barrierOf 0 7 0 0).cx.rs 0 = 0 ∧ 2 ^ 32 ≤ ((barrierOf 0 7 0 0).cx.rs 5).toNat) ∧
    barrierB 1 7 0 0 [.s 6, .s 2] = true ∧ barrierB 0 7 0 0xFFFFFFF [.s 6, .s 2] = true ∧
    (⟨0, 0, 0, 0, 1⟩ : Barrier).done 0 = true ∧ (⟨0, 0, 0, 0, 0x7FFFFFFF⟩ : Barrier).done 0 = true ∧
    (⟨0, 0, 0, 0, 0x80000000⟩ : Barrier).done 0 = false := by
  unfold State.mayWait
  decide +kernel

/-- An event object at host memory 0x1000. -/
def eventOf' (cnt : Nat) (tgt hi : Nat) : State :=
  putN (putN (putN wordH (hostKey 0x1000) 8 cnt) (hostKey 0x1008) 6 tgt) (hostKey 0x100E) 2 hi
/-- Its count, target and status, and the checks that a synchronization access passes. -/
def eventB (cnt tgt hi : Nat) (l : List Src) : Bool :=
  let s := eventOf' cnt tgt hi
  let e := (syncing s).eventAt (hostKey 0x1000)
  decide (e.cnt.toNat = cnt ∧ e.tgt.toNat = tgt) && decide (e.st.toNat + 8 * e.res.toNat = hi) && orderB s l && Memory.wf s.mem &&
  reachesB s .glob .sync (s.cx.rs 2) 16 16 (writeAt (hostKey 0x1000) 16)

/-- Counts at both ends of their range, every status, and a malformed object. -/
theorem wit_EventObjects :
    eventB 0 0 0 [.s 2, .s 0] = true ∧ eventB (2 ^ 64 - 1) (2 ^ 48 - 1) 0 [.s 2, .s 5] = true ∧
    eventB 5 6 0 [.s 6, .s 2] = true ∧ eventB 5 6 0 [.s 7, .s 2] = true ∧ (eventOf' 5 6 0).mayWait ((eventOf' 5 6 0).cx.rs 6) ∧
    ¬ (eventOf' 5 6 0).mayWait ((eventOf' 5 6 0).cx.rs 7) ∧ eventB 6 6 0 [.s 6, .s 2] = true ∧ eventB 0 9 4 [.s 6, .s 2] = true ∧
    eventB 0 9 5 [.s 6, .s 2] = true ∧ (eventB 0 9 3 [.s 6, .s 2] = true ∧ (⟨0, 9, 3, 0⟩ : EventObj).malformed = true) ∧
    (eventB 0 9 8 [.s 2, .s 5] = true ∧ (⟨0, 9, 0, 1⟩ : EventObj).malformed = true) := by
  unfold State.mayWait
  decide +kernel

/-! ### Fences, phases, rings, copies -/

/-- The task's thread of an engine. -/
def owner0 : Owner := ⟨0, 7, 3, 0, 11, 0, none, 3⟩
/-- A plain copy of 16 bytes of PM. -/
def command0 : CopyCmd :=
  ⟨.plain, .fp32, .fp32, 0, false, .pm, 0x3000, .pm, 0x4000, 16, 16, false, 0, 0, 0, none, 0, 0, some 2, none, none⟩
def copy0 : Copy :=
  { owner0 with
    id := 40, num := 0, cmd := command0, st := .run, promise := 100, pms := false, stopped := false, revoked := none, published := false,
    joined := false, flags := Flags.none, bph := 0, ahead := [], done := [] }
/-- The task runs with a copy in the dray. -/
def copying (st : CopySt) : State := { wctx world [(6, 50), (2, 0x8000), (4, 0xDEAD)] running with copies := [{ copy0 with st := st }] }

/-- A phase record at PM 0x8000: a barrier in host memory, one range read and one written. -/
def recordAt (s : State) : State :=
  putN (putN (putN (putN (putN (putN s (pmKey 0 0x8000) 8 0x1000) (pmKey 0 0x8008) 1 3) (pmKey 0 0x8010) 1 1)
    (pmKey 0 0x8018) 1 1) (pmKey 0 0x8040) 8 ((0x1FF) * 2 ^ 32 + 0x100)) (pmKey 0 0x8080) 8 ((0x2FF) * 2 ^ 32 + 0x200)
def rgn0 : Rgn :=
  ⟨11, 0x5000, 0, [], 0, true, false, false, 0, 0, 0, 0, 0, 0, 0, 0, 2 ^ 40, 0, 0, 0, 0, 0, 0, 0, false, 0, 0⟩
def phaseAt (exact : Bool) : State := recordAt { wctx world [(2, 0x8000)] running with rgns := [{ rgn0 with exact := exact }] }
def isRec (r : Except IssueTrap (Nat × List (Nat × Range) × List (Nat × Range))) : Bool :=
  match r with
  | .ok _ => true
  | .error _ => false
theorem of_isRec {r : Except IssueTrap (Nat × List (Nat × Range) × List (Nat × Range))} (h : isRec r = true) :
    ∃ bk rd wr, r = .ok (bk, rd, wr) := by
  cases r with
  | ok x => exact ⟨x.1, x.2.1, x.2.2, rfl⟩
  | error e => cases h

theorem wit_FencesPhasesAndDigest :
    ((copying .ok).issuesInOrder (.fence 9 6 0xFF) [.s 6] ∧
      ∀ k, k < 8 → (0xFF : BitVec 8).getLsbD k = true → (copying .ok).classEnded k = true) ∧
    ((copying .run).issuesInOrder (.fence 9 6 0xFF) [.s 6] ∧ (0xFF : BitVec 8).getLsbD 0 = true ∧
      (copying .run).classEnded 0 = false ∧ (copying .run).mayWait ((copying .run).cx.rs 6) ∧
      (copying .run).issuesInOrder (.fence 9 7 0xFF) [.s 7] ∧ ¬ (copying .run).mayWait ((copying .run).cx.rs 7)) ∧
    (∀ ex, (phaseAt ex).issuesInOrder (.phase .pm (.reg 2)) [.s 2] ∧ (phaseAt ex).frameOut .pm ((phaseAt ex).cx.rs 2) = false ∧
      (phaseAt ex).checkAccess .pm .read 0 1 ((phaseAt ex).cx.rs 2) 1088 64 = .ok (readAt (pmKey 0 0x8000) 1088) ∧
      (phaseAt ex).isExact (phaseAt ex).env.cid = ex ∧
      ∃ bk rd wr, ((phaseAt ex).reading .read ((phaseAt ex).cx.rs 2) (readAt (pmKey 0 0x8000) 1088)).checkRecord
        (((phaseAt ex).reading .read ((phaseAt ex).cx.rs 2) (readAt (pmKey 0 0x8000) 1088)).valueAt
          (readAt (pmKey 0 0x8000) 1088)) = .ok (bk, rd, wr)) ∧
    ((phaseAt true).issuesInOrder .phend [] ∧ (phaseAt true).cx.phaseNow = none) ∧
    (let s := (phaseAt true).mapCx (fun x => { x with phase := some 9 })
     s.issuesInOrder .phend [] ∧ s.cx.phase = some 9 ∧ s.cx.slip = []) ∧
    ((phaseAt true).sound ∧ (phaseAt true).issuesInOrder (.dgst .pm (.reg 2) 4) [.s 4, .s 2] ∧ (phaseAt true).unraised ∧
      (phaseAt true).reaches .pm .write ((phaseAt true).cx.rs 2) 8 8 (writeAt (pmKey 0 0x8000) 8)) := by
  unfold State.sound State.mayWait
  refine ⟨⟨order_of _ (by decide +kernel), by decide +kernel⟩,
    ⟨order_of _ (by decide +kernel), by decide +kernel, by decide +kernel, by decide +kernel, order_of _ (by decide +kernel),
      by decide +kernel⟩, ?_,
    ⟨order_of _ (by decide +kernel), by decide +kernel⟩, ⟨order_of _ (by decide +kernel), by decide +kernel, by decide +kernel⟩,
    ⟨by decide +kernel, order_of _ (by decide +kernel), ⟨by decide +kernel, by decide +kernel⟩, reaches_of (by decide +kernel)⟩⟩
  intro ex
  cases ex <;> exact ⟨order_of _ (by decide +kernel), by decide +kernel, of_isOk (by decide +kernel),
    by decide +kernel, of_isRec (by decide +kernel)⟩

/-- The operand of rdef: a ring of 4 slots of 512 bytes at PM 0x2000, or a binding to an entry. -/
def ringWord (base sszl bind nslm cls : Nat) : Word := BitVec.ofNat 64 (base + sszl * 2 ^ 33 + bind * 2 ^ 37 + nslm * 2 ^ 39 + cls * 2 ^ 51)
def defining : State := wctx world [(2, ringWord 0x2000 9 0 3 0xFF), (3, ringWord 5 0 1 0 0), (4, 0x1234)] running
/-- The ring stands in the table, one slot published. -/
def ringed : State :=
  ((defining.mapRing defining.myCore (defining.ownEntry 5) (fun _ => (ringFrom (defining.cx.rs 2) defining.myRegion).advp 1)).mapCx
    (fun x => { x with h := x.h.set 5 (some (defining.ownEntry 5)) }))
def ringReachesB (s : State) (a : Access) (r : RingOpd) (n : Nat) (tc : List Touch) : Bool :=
  isOk (s.checkRing r.h r.n.toNat n 1 a 0) tc && !tc.any (·.away) && s.ringReady r.h r.producer r.n.toNat
theorem ringReaches_of {s : State} {a : Access} {r : RingOpd} {n : Nat} {tc : List Touch} (h : ringReachesB s a r n tc = true) :
    s.reachesRing a r n := by
  simp only [ringReachesB, Bool.and_eq_true, Bool.not_eq_true'] at h
  exact ⟨tc, of_isOk h.1.1, h.1.2, h.2⟩
/-- Its array and its entry. -/
def ringTouches (w : Bool) : List Touch := [⟨w, pmKey 0 0x2000, 2048⟩, ringTouch 0 5 false]
/-- The same with a limit on implicit waits. -/
def ringLimited : State := ringed.mapCx (fun x => { x with ctl := { x.ctl with dlw := 9 } })

theorem wit_RingsAndTheirOperands :
    (defining.issues [.s 2] ∧ defining.cx.slip = [] ∧
      defining.checkRdef 5 (defining.cx.rs 2) = .ok [ringTouch defining.myCore (defining.ownEntry 5) true] ∧
      (defining.cx.rs 2).getLsbD 37 = false) ∧
    (ringed.issues [.s 3] ∧ ringed.cx.slip = [] ∧ ringed.checkRdef 9 (ringed.cx.rs 3) = .ok [ringTouch ringed.myCore 5 false] ∧
      (ringed.cx.rs 3).getLsbD 37 = true) ∧
    (ringed.issuesInOrder (.advp 5 4096) [] ∧ ringed.issuesInOrder (.advc 5 4096) [] ∧ ringed.issuesInOrder (.rqry 9 5 true) [] ∧
      (∃ e r, ringed.ringOf 5 = some (e, r) ∧ (4096 : BitVec 13).toNat ≤ 4096 ∧ r.free.toNat + r.fill.toNat ≤ 4096)) ∧
    (ringed.sound ∧ ringed.settled ∧ ringed.issuesInOrder (.ldRing .i8 9 ⟨5, false, 1⟩) [] ∧
      ringed.reachesRing .read ⟨5, false, 1⟩ 1 ∧ ringed.issuesInOrder (.vldRing .w32 9 ⟨5, false, 1⟩) [] ∧
      ringed.reachesRing .read ⟨5, false, 1⟩ 256) ∧
    (ringLimited.issuesInOrder (.ldRing .i8 9 ⟨5, false, 2⟩) [] ∧ ringLimited.mayWait ringLimited.cx.ctl.dlw ∧
      ringLimited.checkRing 5 2 1 1 .read 0 = .ok (ringTouches false) ∧ ringLimited.ringReady 5 false 2 = false) ∧
    (ringed.issuesInOrder (.stRing .i8 4 ⟨5, true, 1⟩) [.s 4] ∧ ringed.reachesRing .write ⟨5, true, 1⟩ 1 ∧
      ringed.issuesInOrder (.vstRing .w32 5 ⟨5, true, 1⟩) [.v 5] ∧ ringed.reachesRing .write ⟨5, true, 1⟩ 256) := by
  unfold State.sound State.mayWait
  refine ⟨⟨issues_of (by decide +kernel), by decide +kernel, of_isOk (by decide +kernel), by decide +kernel⟩,
    ⟨issues_of (by decide +kernel), by decide +kernel, of_isOk (by decide +kernel), by decide +kernel⟩,
    ⟨order_of _ (by decide +kernel), order_of _ (by decide +kernel), order_of _ (by decide +kernel), _, _, rfl, by decide,
      by decide +kernel⟩,
    ⟨by decide +kernel, settled_of rfl, order_of _ (by decide +kernel), ringReaches_of (tc := ringTouches false) (by decide +kernel),
      order_of _ (by decide +kernel), ringReaches_of (tc := ringTouches false) (by decide +kernel)⟩,
    ⟨order_of _ (by decide +kernel), by decide +kernel, of_isOk (by decide +kernel), by decide +kernel⟩,
    ⟨order_of _ (by decide +kernel), ringReaches_of (tc := ringTouches true) (by decide +kernel),
      order_of _ (by decide +kernel), ringReaches_of (tc := ringTouches true) (by decide +kernel)⟩⟩

/-- s8 names one published slot of the ring. -/
def sleepingOnRing : State := ringed.mapCx (fun x => x.ws 8 (BitVec.ofNat 64 (2 ^ 63 + 5 * 2 ^ 48 + 1)))
theorem wit_SleepOnARing :
    sleepingOnRing.issuesInOrder (.sleep 9 8 6) [.s 8, .s 6] ∧
    ((sleepingOnRing.cx.rs 8).getLsbD 63 = true ∧ (sleepingOnRing.cx.rs 8).extractLsb' 13 34 = 0 ∧
      (sleepingOnRing.cx.rs 8).extractLsb' 52 11 = 0) ∧
    ∃ e r, sleepingOnRing.ringOf ((sleepingOnRing.cx.rs 8).extractLsb' 48 4) = some (e, r) ∧
      (((sleepingOnRing.cx.rs 8).setWidth 13 : BitVec 13).toNat ≤ r.nsl ∧ r.cls.getLsbD 7 = true ∧
        r.satisfied ((sleepingOnRing.cx.rs 8).getLsbD 47) ((sleepingOnRing.cx.rs 8).setWidth 13 : BitVec 13).toNat = true) :=
  ⟨order_of _ (by decide +kernel), by decide +kernel, _, _, rfl, by decide +kernel⟩

/-- A copy between PM runs, s4 the command word, with a limit on implicit waits. -/
def copyWord (len : Nat) : State :=
  wctx world [(2, 0x3000), (3, 0x4000), (4, BitVec.ofNat 64 len)] (fun x => { running x with ctl := { x.ctl with dlw := 9 } })
/-- The dray of the core full. -/
def drayFull : State := { copyWord 16 with copies := List.replicate 16 copy0 }
def plainCopy : Instr := .copy 9 2 3 4 .pm .pm .plain .fp32 .fp32 0 false 0 false 0
/-- The plan of the copy, its checks, whether the dray takes it, and whether it has bytes to move. -/
def copyB (s : State) (ready bytes : Bool) : Bool :=
  match s.copyPlan 2 4 3 .pm .pm .plain .fp32 .fp32 0 false 0 false 0 with
  | none => false
  | some p =>
    (decide (p.cmd.len ≠ 0) == bytes) && decide (p.cmd.kind = .plain) &&
    match s.checkCopy 0 (some p) false false with
    | .error _ => false
    | .ok tc => (s.copyReady 0 false (p.tagged tc) == ready) && !tc.any (·.away)
theorem of_copyB {s : State} {ready bytes : Bool} (h : copyB s ready bytes = true) :
    ∃ (p : CopyPlan) (tc : List Touch), s.copyPlan 2 4 3 .pm .pm .plain .fp32 .fp32 0 false 0 false 0 = some p ∧
      s.checkCopy 0 (some p) false false = .ok tc ∧ tc.any (·.away) = false ∧
      s.copyReady 0 false (p.tagged tc) = ready ∧ decide (p.cmd.len ≠ 0) = bytes ∧ p.cmd.kind = .plain := by
  unfold copyB at h
  split at h
  · cases h
  · rename_i p hp
    simp only [Bool.and_eq_true, decide_eq_true_eq, beq_iff_eq] at h
    obtain ⟨⟨h1, h2⟩, h3⟩ := h
    split at h3
    · cases h3
    · rename_i tc htc
      simp only [Bool.and_eq_true, Bool.not_eq_true', beq_iff_eq] at h3
      exact ⟨p, tc, hp, htc, h3.2, h3.1, h1, h2⟩

/-- One byte, sixteen, none, and a dray that is full. -/
theorem wit_CopyAcceptance : ∀ x ∈ [(copyWord 1, true, true), (copyWord 16, true, true), (copyWord 0, true, false),
      (drayFull, false, true)],
    let s := x.1
    (let m := cmdWord (s.cx.rs 4)
     s.issuesInOrder plainCopy
      ([.s 2, .s 4] ++ [.s 3] ++ (if m.bt then [.s m.br] else []) ++ (if m.ev then [.s m.er] else []))) ∧
    s.frameOut .pm (s.cx.rs 2) = false ∧ s.frameOut .pm (s.cx.rs 3) = false ∧ s.mayWait s.cx.ctl.dlw ∧
    ∃ (p : CopyPlan) (tc : List Touch), s.copyPlan 2 4 3 .pm .pm .plain .fp32 .fp32 0 false 0 false 0 = some p ∧
      s.checkCopy 0 (some p) false false = .ok tc ∧ tc.any (·.away) = false ∧
      s.copyReady 0 false (p.tagged tc) = x.2.1 ∧ decide (p.cmd.len ≠ 0) = x.2.2 ∧ p.cmd.kind = .plain := by
  unfold State.mayWait
  intro x hx
  simp only [List.mem_cons, List.not_mem_nil, or_false] at hx
  obtain rfl | rfl | rfl | rfl := hx <;>
    exact ⟨order_of _ (by decide +kernel), by decide +kernel, by decide +kernel, by decide +kernel, of_copyB (by decide +kernel)⟩

/-- A running copy of the longest and of the shortest length that names flag 2, its destination next to its source. -/
def copyingN (src dst n : Nat) : Copy :=
  { copy0 with cmd := { command0 with src := BitVec.ofNat 64 src, dst := BitVec.ofNat 64 dst, len := n, dbytes := n, flag := some 2 } }
def completing (src dst n : Nat) : State := { copyWord 16 with copies := [copyingN src dst n] }
def completingB (src dst n : Nat) : Bool :=
  let s := completing src dst n
  decide (s.copyOf 40 = some (copyingN src dst n)) && Memory.wf s.mem &&
  decide (s.copySources (copyingN src dst n) = some ([⟨pmKey 0 src, n⟩], [])) &&
  decide (s.copyDest (copyingN src dst n) = some [⟨pmKey 0 dst, n⟩])

theorem wit_CopyCompletesAndQueries :
    completingB 0x3000 0x3010 16 = true ∧ completingB 0x3001 0x3000 1 = true ∧
    (∃ c e, (copyWord 16).cx.slip = [] ∧ ((copyWord 16).mapCx (fun x => { x with slip := [e] })).ctx c =
        ((copyWord 16).mapCx (fun x => { x with slip := [e] })).cx ∧
      ((((copyWord 16).mapCx (fun x => { x with slip := [e] })).ctx c).slotSlip 3) = [e] ∧
      e.ins.instr = .copy 9 2 3 4 .pm .pm .plain .fp32 .fp32 0 false 0 false 0) ∧
    (let s := (completing 0x3000 0x3010 16).mapCx (fun x => { (x.ws 2 0) with copyNum := 1 })
     s.issuesInOrder (.cpqry 9 2) [.s 2] ∧ s.recentCopy ((s.cx.rs 3).setWidth 16) = none ∧ s.recentCopy ((s.cx.rs 2).setWidth 16) = some (copyingN 0x3000 0x3010 16) ∧
       (copyingN 0x3000 0x3010 16).st ≠ .ok) := by
  refine ⟨by decide +kernel, by decide +kernel,
    ⟨0, { someEntry with ins := ⟨3, none, .copy 9 2 3 4 .pm .pm .plain .fp32 .fp32 0 false 0 false 0⟩ }, by decide +kernel,
      rfl, by decide +kernel, rfl⟩, ⟨order_of _ (by decide +kernel), by decide +kernel, by decide +kernel, by decide +kernel⟩⟩

/-- A block of zeros fits the smallest class. -/
theorem wit_PackThenUnpack : ∃ p : List Byte, (List.replicate 512 (0 : Byte)).length = 512 ∧
    packBlock 64 (carryAll false (List.replicate 512 0)) = some (carryAll false p) :=
  ⟨List.replicate 64 0, by decide +kernel, by decide +kernel⟩

/-- A word of PM, an operation of the task on it, every landing open to it. -/
def atomicAt : State :=
  { putN (wctx world [(2, 0x1000), (5, 0xF000000080000001), (9, 0x99AABBCCDDEEFF01)] running) (pmKey 0 0x1000) 8 0x99AABBCCDDEEFF01 with
    access := [Target.landing 0, .landing 1, .landing 2, .landing 3].map (fun t => (t, 0, [⟨0, 0xFFFFFFFFFFFFFF0F⟩])) }
/-- A landing serves a word of PM whichever landing homes it. -/
theorem atomic_reaches (s : State) (va : Word) (n key : Nat)
    (h : (decide (s.windowKey .pm va n = some key) && decide (va.toNat % n = 0) && s.phaseOk 1 .atomic ⟨key, n⟩ &&
      !s.frameOut .pm va && !(List.any [(⟨true, key, n⟩ : Touch)] (·.away))) = true)
    (hl : ∀ l : BitVec 2, s.permits (.landing l) (masterOf (s.ctxPart s.env.cid) 0) .atomic va.toNat (va.toNat + n - 1) = true) :
    s.reaches .pm .atomic va n n [⟨true, key, n⟩] := by
  simp only [Bool.and_eq_true, decide_eq_true_eq, Bool.not_eq_true'] at h
  obtain ⟨⟨⟨⟨h1, h2⟩, h3⟩, h4⟩, h6⟩ := h
  exact ⟨h4, by simp [State.checkAccess, h1, h2, h3, State.windowPermits, Access.writes]; exact hl _, h6⟩

theorem wit_AtomicReadModifyWrite :
    atomicAt.sound ∧ atomicAt.issuesInOrder (.atom .cas .pm 9 2 5) [.s 2, .s 5, .s 9] ∧
    atomicAt.issuesInOrder (.atom .fadd .pm 9 2 5) [.s 2, .s 5] ∧
    atomicAt.reaches .pm .atomic (atomicAt.cx.rs 2) 8 8 [⟨true, pmKey 0 0x1000, 8⟩] ∧
    atomicAt.reaches .pm .atomic (atomicAt.cx.rs 2) 4 4 [⟨true, pmKey 0 0x1000, 4⟩] ∧
    atomicAt.poisoned (pmKey 0 0x1000) 8 = false := by
  unfold State.sound
  exact ⟨by decide +kernel, order_of _ (by decide +kernel), order_of _ (by decide +kernel),
    atomic_reaches _ _ _ _ (by decide +kernel) (by decide +kernel),
    atomic_reaches _ _ _ _ (by decide +kernel) (by decide +kernel), by decide +kernel⟩

/-- A reduction of the task on its way, outside exact mode and in it. -/
def red0 (exact : Bool) : Red :=
  { owner0 with
    id := 50, ordered := false, op := .add, wide := true, sp := .pm, va := 0x1000, loc := 0, val := 3, rm := 0, seq := 0, st := .issued,
    revoked := none, exact := exact, barrier := 0, bphase := none, cover := 0, spilled := false }
def reducing (exact : Bool) : State := { atomicAt with reds := [red0 exact], rgns := [{ rgn0 with exact := exact }] }
/-- A closed phase. -/
def closedPhase : Phase := ⟨9, 0, 7, 0, 3, 0, [], [], false, 4⟩

/-- A barrier whose arrivals wait for a reduction of the task to be accepted. -/
def unaccepted : State :=
  { (barrierOf 0 2 5 0).mapCx (fun x => { running x with ctl := { x.ctl with dlw := 9 } }) with
    reds := [{ red0 true with barrier := hostKey 0x1000 }] }
theorem wit_ArrivalsBehindReductions :
    (orderB unaccepted [.s 2] && orderB unaccepted [.s 6, .s 2] && orderB unaccepted [.s 7, .s 2]) = true ∧
    reachesB unaccepted .glob .sync (unaccepted.cx.rs 2) 16 16 (writeAt (hostKey 0x1000) 16) = true ∧
    (let u := unaccepted.reading .sync (unaccepted.cx.rs 2) (writeAt (hostKey 0x1000) 16)
     u.redsAccepted 0 (hostKey 0x1000) = false ∧ (u.barrierAt (hostKey 0x1000)).malformed = false) ∧
    unaccepted.mayWait unaccepted.cx.ctl.dlw ∧ unaccepted.mayWait (unaccepted.cx.rs 6) ∧ ¬ unaccepted.mayWait (unaccepted.cx.rs 7) := by
  unfold State.mayWait
  decide +kernel
/-- The word of the atomic is poisoned, inside a containment region. -/
def atomicPoison : State := { atomicAt.mapCx (fun x => { x with cregs := [⟨0x700, 0⟩] }) with poison := [pmKey 0 0x1000] }
theorem wit_AtomicOnPoison :
    (atomicPoison.reading .atomic (atomicPoison.cx.rs 2) [⟨true, pmKey 0 0x1000, 8⟩]).poisoned (pmKey 0 0x1000) 8 = true ∧
    atomicPoison.cx.cregs ≠ [] ∧ orderB atomicPoison [.s 2, .s 5] = true ∧
    atomicPoison.reaches .pm .atomic (atomicPoison.cx.rs 2) 8 8 [⟨true, pmKey 0 0x1000, 8⟩] :=
  ⟨by decide +kernel, by decide +kernel, by decide +kernel, atomic_reaches _ _ _ _ (by decide +kernel) (by decide +kernel)⟩

/-- A landing with as many reductions as it has room for, and one more. -/
def landingFull (key : Nat) : State :=
  { atomicAt with reds := List.replicate (Config.landingRoom (Config.homeLanding (key / 256)) + 1) { red0 false with loc := key } }
theorem wit_LandingFull (key : Nat) : (landingFull key).landingTakes key = false := by
  simp [landingFull, State.landingTakes, red0]

theorem wit_ReductionsForkAndApply :
    (∀ (ex o : Bool), (reducing ex).issuesInOrder (if o then .redo .add .pm 2 5 else .red .add .pm 2 5) [.s 2, .s 5] ∧
      (reducing ex).reaches .pm .atomic ((reducing ex).cx.rs 2) 8 8 [⟨true, pmKey 0 0x1000, 8⟩] ∧
      (reducing ex).isExact (reducing ex).env.cid = ex ∧ (reducing ex).cx.phaseNow = none ∧
      (reducing ex).sound ∧ (reducing ex).redOf 50 = some (red0 ex) ∧ (red0 ex).exact = ex ∧
      (red0 ex).revoked = none ∧
      (reducing ex).redTarget (red0 ex) = some (pmKey 0 0x1000) ∧ (reducing ex).redoHeld (red0 ex) = false ∧
      atomicAt.landingTakes (pmKey 0 0x1000) = true) ∧
    ((reducing true).mapCx (fun x => { x with phase := some 9 })).cx.phaseNow ≠ none ∧
    (let s : State := { atomicAt with phases := [closedPhase] }
     (∃ p ∈ s.phases, p.id = 9 ∧ p.isOpen = false) ∧ s.phaseEnded 9 = true) := by
  unfold State.sound
  refine ⟨?_, by decide +kernel, ⟨closedPhase, List.mem_singleton.mpr rfl, rfl, rfl⟩, by decide +kernel⟩
  intro ex o
  cases ex <;> exact ⟨order_of _ (by decide +kernel), atomic_reaches _ _ _ _ (by decide +kernel) (by decide +kernel),
    by decide +kernel⟩

/-! ### The tile engine -/

/-- The core's banks loaded with weights of a format and held by context 0. -/
def tiled (f : Fmt) : State :=
  (wctx world [(2, 0x1000), (3, BitVec.ofNat 64 (64 + 2 ^ 24 * 256)), (5, 0x20000)] running).mapCore 0
    (fun k => { k with holder := some 0, bank := #v[⟨1, some f, 0, 0⟩, ⟨2, some f, 0, 0⟩], act := true })
def ringTiled : State :=
  (((tiled .i8).mapCx (fun x => { x with h := x.h.set 5 (some 5) })).mapRing 0 5 (fun _ =>
    ({ ringFrom (ringWord 0x20000 9 0 7 0xFF) 11 with valid := true } : Ring).advp 8))
def streamB (s : State) (ac : AReg) (p : Pair) (bks : List Bool) : Bool :=
  !s.env.block && s.env.raised.isNone && decide ((s.core s.myCore).holder = some s.env.cid.num) &&
  (match s.cx.task with
   | some t => decide (ac.toNat < t.nacc)
   | none => false) &&
  (decide ((s.cx.ra ac).kind = 0) || decide ((s.cx.ra ac).kind = kindOf p)) &&
  bks.all (fun bk => decide (((s.core s.myCore).bankAt bk).fmt = some p.weights ∧
    ((s.core s.myCore).bankAt bk).ready.toNat ≤ s.env.ctm.toNat))
theorem stream_of {s : State} {ac : AReg} {p : Pair} {bks : List Bool} (h : streamB s ac p bks = true) : s.streamReady ac p bks := by
  simp only [streamB, Bool.and_eq_true, Bool.or_eq_true, decide_eq_true_eq, Bool.not_eq_true', List.all_eq_true] at h
  obtain ⟨⟨⟨⟨⟨h1, h2⟩, h3⟩, h4⟩, h5⟩, h6⟩ := h
  refine ⟨⟨h1, Option.isNone_iff_eq_none.mp h2⟩, h3, ?_, h5, h6⟩
  split at h4
  · rename_i t ht; exact ⟨t, ht, of_decide_eq_true h4⟩
  · cases h4

/-- The outcome of a check is storage with a property. -/
def okWith (r : Except IssueTrap (List Touch)) (f : List Touch → Bool) : Bool :=
  match r with
  | .ok x => f x
  | .error _ => false
theorem of_okWith {r : Except IssueTrap (List Touch)} {f : List Touch → Bool} (h : okWith r f = true) :
    ∃ tc, r = .ok tc ∧ f tc = true := by
  cases r with
  | ok x => exact ⟨x, rfl, h⟩
  | error e => cases h

theorem wit_TileStreams :
    (∀ km : BitVec 4, (tiled .i8).issues ((vregs 8 (km.toNat + 1)).map Src.v)) ∧
    (tiled .i8).streamReady 3 ((tiled .i8).pairNow .i8) [((tiled .i8).core (tiled .i8).myCore).act] ∧
    ((tiled .i8).pairNow .i8).hasEb = false ∧ (tiled .i8).issues [.v 8, .v (8 + 1)] ∧
    (tiled (Pair.weights .dw8e)).issues ((vregs 8 1).map Src.v ++ SOpd.src .port) ∧
    (tiled (Pair.weights .dw8e)).streamReady 0 ((tiled (Pair.weights .dw8e)).pairNow .dw8e) [((tiled (Pair.weights .dw8e)).core (tiled (Pair.weights .dw8e)).myCore).act] ∧
    ((tiled .i8).issuesInOrder (.mmas 0 (.reg 5) 3 0 false 63 .i8 .plain true false 0 0) [.s 3, .s 5] ∧
      (tiled .i8).streamReady 0 ((tiled .i8).pairNow .i8) [true, false] ∧
      (((tiled .i8).cx.rs 3).extractLsb' 48 16 = 0 ∧ (((tiled .i8).cx.rs 3).extractLsb' 0 24).toNat % 8 = 0 ∧
        (((tiled .i8).cx.rs 3).extractLsb' 24 24).toNat % 8 = 0) ∧
      ∃ tc, (tiled .i8).checkRows ((tiled .i8).cx.rs 5) (mmasOffsets 64 64 256 true) 64 = .ok tc ∧ (!tc.any (·.away)) = true) ∧
    (ringTiled.issuesInOrder (.mmas 0 (.reg 0) 3 0 true 3 .i8 .plain false true 5 4) [.s 3] ∧
      ringTiled.streamReady 0 (ringTiled.pairNow .i8) [true] ∧ ringTiled.hallRing 5 = false ∧
      (∃ tc, ringTiled.checkMmasRing 5 4 (mmasOffsets 4 64 256 false) 64 = .ok tc ∧ (!tc.any (·.away)) = true) ∧
      ringTiled.ringReady 5 false 4 = true ∧ ∃ e r, ringTiled.ringOf 5 = some (e, r)) := by
  refine ⟨fun km => issues_of ?_, stream_of (by decide +kernel), by decide +kernel, issues_of (by decide +kernel),
    issues_of (by decide +kernel), stream_of (by decide +kernel),
    ⟨order_of _ (by decide +kernel), stream_of (by decide +kernel), by decide +kernel, of_okWith (by decide +kernel)⟩,
    ⟨order_of _ (by decide +kernel), stream_of (by decide +kernel), by decide +kernel, of_okWith (by decide +kernel),
      by decide +kernel, _, _, rfl⟩⟩
  revert km; decide +kernel

theorem wit_IntegerPassIsExact : (List.replicate 64 0x80).length = 64 := by decide

/-- The banks held by another context; two accumulators granted; an operation in flight. -/
def banksElsewhere : State := (tiled .i8).mapCore 0 (fun k => { k with holder := some 1 })
def twoAccumulators : State := (tiled .i8).mapCx (fun x => { x with task := some { task0 with nacc := 2 } })
def inFlight : State := (tiled .i8).mapCx (fun x => x.mapAcc 3 (fun a => { a with flight := [(3, 8), (0xFFFF, 9), (7, 30)] }))

theorem hasAcc_of {s : State} {ac : AReg} (h : decide (s.cx.task = some task0) && decide (ac.toNat < 4) = true) : s.hasAcc ac := by
  simp only [Bool.and_eq_true, decide_eq_true_eq] at h
  exact ⟨task0, h.1, h.2⟩

theorem wit_TileChecksTrap :
    (banksElsewhere.env.slipped = none ∧ (banksElsewhere.core banksElsewhere.myCore).holder ≠ some banksElsewhere.env.cid.num ∧
      banksElsewhere.issues [] ∧ banksElsewhere.needs (SOpd.src (.reg 5)) = []) ∧
    (twoAccumulators.env.slipped = none ∧ ∃ t, twoAccumulators.cx.task = some t ∧ t.nacc ≤ (2 : AReg).toNat ∧
      t.nacc ≤ (3 : AReg).toNat) ∧
    (inFlight.env.slipped = none ∧ inFlight.hasAcc 3 ∧
      (inFlight.cx.ra 3).flight = [(3, 8)] ++ (0xFFFF, 9) :: [(7, 30)] ∧
      (∀ p ∈ [((3 : BitVec 16), (8 : Word))], p.2.toNat ≤ inFlight.env.ctm.toNat) ∧
      inFlight.env.ctm.toNat < (9 : Word).toNat ∧ (inFlight.cx.ra 3).kind ≠ 2) := by
  refine ⟨⟨by decide +kernel, by decide +kernel, issues_of (by decide +kernel), by decide +kernel⟩,
    ⟨by decide +kernel, { task0 with nacc := 2 }, by decide +kernel, by decide +kernel⟩, ⟨by decide +kernel, hasAcc_of (by decide +kernel),
      by decide +kernel, by intro p hp; simp only [List.mem_singleton] at hp; subst hp; decide +kernel, by decide +kernel⟩⟩

/-- A bank that beats still read. -/
def busyBank : State := (tiled .i8).mapCore 0 (fun k => { k with bank := #v[⟨1, some .i8, 0, 90⟩, ⟨2, some .i8, 0, 0⟩] })

/-- The address of the last tile in PM. -/
def lastTile : State := (tiled .i8).mapCx (fun x => x.ws 5 0xFC000)

/-- An image of the largest and of the smallest format, a bank that is read, a tile at the last place of PM that holds one. -/
theorem wit_TileBanksAndDrains :
    ((tiled .i8).issuesInOrder (.wld true .bf16 (.reg 5)) [.s 5] ∧ (tiled .i8).unraised ∧
      ((tiled .i8).core (tiled .i8).myCore).holder = some (tiled .i8).env.cid.num ∧
      (∀ f ∈ [Fmt.bf16, .i8], (tiled .i8).checkAccess .pm .read 0 4 ((tiled .i8).cx.rs 5) (imageBytes f) 8 =
        .ok (readAt (pmKey 0 0x20000) (imageBytes f))) ∧ (tiled .i8).accessFmt .bf16 = .bf16 ∧
      (((tiled .i8).core (tiled .i8).myCore).bankAt false).busy.toNat ≤ (tiled .i8).cx.ctm.toNat) ∧
    (busyBank.issuesInOrder (.wld false .i8 (.reg 5)) [.s 5] ∧ busyBank.unraised ∧
      (busyBank.core busyBank.myCore).holder = some busyBank.env.cid.num ∧
      busyBank.checkAccess .pm .read 0 4 (busyBank.cx.rs 5) (imageBytes .i8) 8 = .ok (readAt (pmKey 0 0x20000) (imageBytes .i8)) ∧
      busyBank.cx.ctm.toNat < ((busyBank.core busyBank.myCore).bankAt false).busy.toNat) ∧
    ((tiled .i8).issues [] ∧ (tiled .i8).hasAcc 0 ∧ (tiled .i8).hasAcc 3) ∧
    (((tiled .i8).cx.ra 3).undue (tiled .i8).env.ctm = none ∧ ((tiled .i8).cx.ra 3).kind ≠ 2) ∧
    (let s := lastTile
     s.sound ∧ s.settled ∧ s.issuesInOrder (.ast 3 (.reg 5)) [.s 5] ∧ s.unraised ∧ s.hasAcc 3 ∧
       (s.cx.ra 3).undue s.env.ctm = none ∧
       s.checkAccess .pm .write 0 4 (s.cx.rs 5) 16384 8 = .ok (writeAt (pmKey 0 0xFC000) 16384)) := by
  unfold State.sound
  refine ⟨⟨order_of _ (by decide +kernel), ⟨by decide +kernel, by decide +kernel⟩, by decide +kernel, ?_,
      by and_intros <;> decide +kernel⟩,
    ⟨order_of _ (by decide +kernel), ⟨by decide +kernel, by decide +kernel⟩, by decide +kernel, of_isOk (by decide +kernel),
      by decide +kernel⟩,
    ⟨issues_of (by decide +kernel), hasAcc_of (by decide +kernel), hasAcc_of (by decide +kernel)⟩, ?_,
    ⟨?_, settled_of rfl, order_of _ (by decide +kernel), ⟨by decide +kernel, by decide +kernel⟩,
      hasAcc_of (by decide +kernel), ?_, of_isOk (by decide +kernel)⟩⟩
  rotate_left
  iterate 3 decide +kernel
  intro f hf
  simp only [List.mem_cons, List.not_mem_nil, or_false] at hf
  obtain rfl | rfl := hf <;> exact of_isOk (by decide +kernel)

/-! ### Relaxation, sends, the pantry, collectives -/

/-- Lane 0 active, bounds 0 and 1. -/
def relaxing : State :=
  withCtx (fun x => ((x.wp 7 1).wv 2 (BitVec.allOnes 64) (ofLanes (List.replicate 64 0))).wv 3
    (BitVec.allOnes 64) (ofLanes (List.replicate 64 0x3F800000)))
/-- A rule table in PM whose first slot has one rule, that of the zero relaxation; the same poisoned, in a region and not. -/
def relaxingTable : State := (relaxing.mapCx (fun x => x.ws 5 0x1000)).putBytes (pmKey 0 0x1001) [1]
def relaxingPoison : State := { relaxingTable with poison := [pmKey 0 0x1000] }
def relaxingRegion : State := relaxingPoison.mapCx (fun x => { x with cregs := [⟨0x700, 0⟩] })
/-- The table is checked, its rules hold for the lane, and its storage is poisoned or not. -/
def tableB (s : State) (poison : Bool) : Bool :=
  let tc := readAt (pmKey 0 0x1000) 2048
  orderB s [.v 2, .v 3, .p 7, .s 6, .s 5] && isOk (s.checkAccess .pm .read 0 3 (s.cx.rs 5) 2048 256) tc &&
  !s.rlxFails true 0 tc 2 7 ((s.cx.rs 6).setWidth 32) &&
  ((s.reading .read (s.cx.rs 5) tc).piecesPoisoned (piecesOf tc) == poison)

theorem wit_RelaxationResults :
    State.reset.issues (.p 7 :: .v 31 :: VOpd.src .port) ∧
    (relaxing.issuesInOrder (.rlx 9 2 7 0 false 0 6) [.v 2, .v 3, .p 7, .s 6] ∧
      relaxing.rlxFails false 0 [] 2 7 ((relaxing.cx.rs 6).setWidth 32) = false ∧
      relaxing.piecesPoisoned (piecesOf []) = false) ∧
    relaxing.rlxFails false 7 [] 2 7 ((relaxing.cx.rs 6).setWidth 32) = true ∧
    (tableB relaxingTable false = true ∧ tableB relaxingPoison true = true ∧ tableB relaxingRegion true = true ∧
      relaxingPoison.cx.cregs = [] ∧ relaxingRegion.cx.cregs ≠ []) ∧
    ((isFinite32 0x7F800000 = false) ∧ (f32 (0x3F800000 : Lane)).lt (f32 (0x40000000 : Lane)) = true) := by
  refine ⟨issues_of (by decide +kernel), ⟨order_of _ (by decide +kernel), by decide +kernel⟩, by decide +kernel,
    by decide +kernel, by decide +kernel⟩

/-- A launch record with fields at byte offsets. -/
def recordOf (l : List (Nat × Nat × Nat)) : BitVec 1024 :=
  BitVec.ofNat 1024 (l.foldl (fun a p => a + p.2.2 % 2 ^ (8 * p.2.1) * 2 ^ (8 * p.1)) 0)
def launch0 : Launch := ⟨3, 0, 0, 0, recordOf [(0x08, 2, 1), (0x12, 1, 1)], 0x9000, 11, .released, 2, 0, [], 0, 0, none, 0⟩
/-- Two tasks of one launch on contexts 0 and 1; the X slot of context 0. -/
def exchanging (l : List (SReg × Word)) : State :=
  let s := (wctx world l (fun x => { (running x).wv 5 (BitVec.allOnes 64) 777 with ctl := { x.ctl with dlw := 9 } })).mapCtx 1
    (fun x => { x with task := some { task0 with serial := 8, pidx := 1 }, run := .running })
  { s with launches := [launch0], env := { s.env with pos := 7 } }
/-- A descriptor that names task 1 of this chip, queue 3. -/
def sending : State := exchanging [(2, BitVec.ofNat 64 (2 ^ 6 + 3 * 2 ^ 17)), (3, 0x1111), (4, 2 ^ 20)]
def sendingFull : State := sending.mapCtx 1 (fun x => x.setQueue 3 (List.replicate 64 (0, false)))
def send0 (id : Nat) : Send := { owner0 with origin := none, id := id, chip := 0, dest := 1, dserial := 8, q := 3, val := 5, poison := false }
def arriving : State := { sending with sends := [send0 60, send0 61] }

/-- Entries for a full queue, for a task that has retired, for one out of service, and for another chip. -/
def arrivingFull : State := { sendingFull with sends := [send0 60] }
def arrivingLate : State := { State.reset with sends := [{ send0 60 with dserial := 99 }] }
def arrivingOut : State :=
  { arriving with groups := [⟨5, 11, 0, 0, false, false, none, Vector.replicate 2 Bank.reset, false, Vector.replicate 64 Ring.reset,
      [(1, (sending.ctx 1))], [], false⟩] }
def arrivingAbroad : State := { sending with sends := [{ send0 60 with chip := 4 }] }

/-- No context runs a task whose serial none has. -/
theorem runsTask_none {s : State} {serial : Nat} (h : ∀ c, (s.ctx c).task = none) : s.runsTask serial = none := by
  simp [State.runsTask, h]
/-- Every context of the package after reset is empty. -/
theorem reset_ctx (c : CtxId) : State.reset.ctx c = Ctx.reset := by
  simp only [State.ctx, State.reset, Vector.getElem_replicate]

/-- The table of the hall grants a non-memory key whatever it is. -/
theorem grants_key {s : State} (h : s.access = grants) (key : BitVec 48) :
    s.permitsKey (.hall 0) (masterOf 0 0) .write key.toNat = true := by
  have hk := key.isLt
  have hr : rangeGrants ⟨0, 0xFFFFFFFFFFFFFF0F⟩ .write (key.toNat * 4096) (key.toNat * 4096 + 4095) = true := by
    simp only [rangeGrants, Bool.and_eq_true, decide_eq_true_eq]
    refine ⟨⟨by decide, ?_⟩, ?_⟩
    · show (0 : Nat) / 4096 ≤ _
      omega
    · show _ ≤ 0xFFFFFFFFFFFFFF0F / 4096
      omega
  unfold State.permitsKey State.permits
  rw [h, List.any_eq_true]
  refine ⟨(.hall 0, masterOf 0 0, [⟨0, 0xFFFFFFFFFFFFFF0F⟩]), List.mem_of_elem_eq_true (by decide +kernel), ?_⟩
  rw [Bool.and_eq_true, List.any_eq_true]
  exact ⟨by decide, _, List.mem_singleton.mpr rfl, hr⟩
/-- A send to a task of this chip passes its checks. -/
theorem sendChecked {s : State} {w : Word} {l : Launch} {c : CtxId} (h0 : w.extractLsb' 20 44 = 0)
    (h1 : s.cx.task.bind (fun t => s.launchOf t.launch) = some l) (h2 : (w.setWidth 6 : BitVec 6) = s.chip)
    (h3 : (decide (s.chip.toNat < s.chips) && decide ((w.extractLsb' 6 11).toNat < s.tasksOn l s.chip) && l.cor) = true)
    (h4 : s.placedCore l.id (w.extractLsb' 6 11).toNat = some c) (h5 : c.core.cluster = 0)
    (h6 : masterOf (s.ctxPart s.env.cid) 0 = masterOf 0 0) (h7 : s.access = grants) : s.checkSend w = .ok [] := by
  have hp : s.sendPermitted l.id (w.extractLsb' 6 11).toNat (w.extractLsb' 17 3) s.chip = true := by
    simp only [State.sendPermitted, if_true, h4, h5, h6]
    exact grants_key h7 _
  simp only [Bool.and_eq_true, decide_eq_true_eq] at h3
  unfold State.checkSend
  rw [if_neg (by rw [h0]; decide)]
  simp only [h1, h2, h3.1.1, h3.1.2, h3.2, hp]
  rfl

theorem wit_SendsLeaveAndArrive :
    (sending.issuesInOrder (.send 5 (.reg 2)) [.s 2, .v 5] ∧ sending.issuesInOrder (.sends 2 3) [.s 2, .s 3] ∧
      sending.checkSend (sending.cx.rs 2) = .ok [] ∧ sending.sendReady (sending.cx.rs 2) = true) ∧
    (sendingFull.issuesInOrder (.send 5 (.reg 2)) [.s 2, .v 5] ∧ sendingFull.checkSend (sendingFull.cx.rs 2) = .ok [] ∧
      sendingFull.sendReady (sendingFull.cx.rs 2) = false ∧ sendingFull.mayWait sendingFull.cx.ctl.dlw) ∧
    (sending.issuesInOrder (.send 5 (.reg 4)) [.s 4, .v 5] ∧ (sending.cx.rs 4).extractLsb' 20 44 ≠ 0) ∧
    (arriving.sends.find? (fun y => y.id == 60) = some (send0 60) ∧ (send0 60).chip = arriving.chip ∧
      arriving.destOut (send0 60) = false ∧ arriving.runsTask 8 = some 1 ∧ arriving.sendBehind (send0 60) = false ∧
      ((arriving.ctx 1).queue 3).length < 64 ∧
      arriving.sends.find? (fun y => y.id == 61) = some (send0 61) ∧ arriving.sendBehind (send0 61) = true) ∧
    (arrivingFull.sendBehind (send0 60) = false ∧ arrivingFull.runsTask 8 = some 1 ∧ 64 ≤ ((arrivingFull.ctx 1).queue 3).length) ∧
    (arrivingLate.destOut { send0 60 with dserial := 99 } = false ∧ arrivingLate.runsTask 99 = none) ∧
    arrivingOut.destOut (send0 60) = true ∧
    (arrivingAbroad.sendBehind { send0 60 with chip := 4 } = false ∧ (4 : BitVec 6) ≠ arrivingAbroad.chip) := by
  unfold State.mayWait
  have hs : sending.checkSend (sending.cx.rs 2) = .ok [] := by
    apply sendChecked (l := launch0) (c := 1) <;> decide +kernel
  have hf : sendingFull.checkSend (sendingFull.cx.rs 2) = .ok [] := by
    apply sendChecked (l := launch0) (c := 1) <;> decide +kernel
  refine ⟨⟨order_of _ (by decide +kernel), order_of _ (by decide +kernel), hs, by decide +kernel⟩,
    ⟨order_of _ (by decide +kernel), hf, by and_intros <;> decide +kernel⟩,
    ⟨order_of _ (by decide +kernel), by decide +kernel⟩, by decide +kernel, by decide +kernel,
    ⟨by decide +kernel, runsTask_none (fun c => congrArg Ctx.task (reset_ctx c))⟩, by and_intros <;> decide +kernel⟩

/-- A queue with an entry that is poisoned, in a region and not. -/
def popping (poison : Bool) : State := sending.mapCx (fun x => x.setQueue 7 [(1, poison), (2, true)])
theorem conflict_of {s : State} (h : s.cx.slip = []) (i : Instr) : s.conflict i = false := by
  simp [State.conflict, State.ahead, h]

theorem wit_PopsOfReceiveQueues :
    (sending.issues [.v 5] ∧ (∀ i, sending.conflict i = false) ∧ sending.cx.queue 2 = [] ∧ sending.mayWait sending.cx.ctl.dlw) ∧
    ∀ b, (popping b).issues [.v 5] ∧ (∀ i, (popping b).conflict i = false) ∧ (popping b).cx.queue 7 = (1, b) :: [(2, true)] := by
  unfold State.mayWait
  refine ⟨⟨issues_of (by decide +kernel), conflict_of (by decide +kernel), by decide +kernel, by decide +kernel⟩, ?_⟩
  intro b
  cases b <;> exact ⟨issues_of (by decide +kernel), conflict_of (by decide +kernel), by decide +kernel⟩

/-- An ATD in host memory at 0x4000 with room for slabs, SLCAP and NSLAB given. -/
def atdBytes (d1 slcap nslab : Nat) : List Byte :=
  leBytes 2 2 ++ leBytes 2 d1 ++ leBytes 2 1 ++ leBytes 2 1 ++ leBytes 8 0x10000 ++ leBytes 8 0x11000 ++ leBytes 8 0x5000 ++
  leBytes 4 0 ++ leBytes 4 6 ++ leBytes 2 9 ++ leBytes 1 5 ++ leBytes 1 0 ++ leBytes 4 0 ++ leBytes 4 slcap ++ leBytes 4 nslab ++ leBytes 8 0
/-- The task's region, a limit on its symbols. -/
def rgnSym (limit : Nat) : Rgn := { rgn0 with exact := false, chain := [⟨0x5000, none, 0, 0, 0, 0, limit⟩] }
/-- A tensor described; the slab's address in s3. -/
def minting (d1 slcap limit : Nat) : State :=
  { wctx (world.putBytes (hostKey 0x4000) (atdBytes d1 slcap 0)) [(2, 0x4000), (3, 0x6000), (4, 1), (5, 0x3000), (6, BitVec.ofNat 64 (9 + 5 * 2 ^ 16)), (7, 4)] running with
    rgns := [rgnSym limit] }
/-- The tensor is read, has a status, and its slab passes the checks before the capacities. -/
def mintB (s : State) (st : AtdSt) : Bool :=
  orderB s [.s 2, .s 3] && Memory.wf s.mem && (s.pantryReach .read (s.cx.rs 2) 64 64).isNone &&
  (s.pantryReach .write (s.cx.rs 2) 64 64).isNone &&
  match readTensor s.pantryRead (s.cx.rs 2) with
  | none => false
  | some t => decide (s.tensorStatus (s.jobOf s.myRegion) t = st) && (st != .ok ||
      (decide ((s.cx.rs 3).toNat % t.atd.esize = 0) && (s.pantryReach .write t.atd.sladdr (16 * (t.atd.nslab + 1)) 16).isNone &&
       (s.pantryReach .write (liveMapAddr (s.cx.rs 3) t.atd.n t.atd.esize) (liveMapLen t.atd.n) 1).isNone))

/-- A tensor in its state, an ATD that breaks R56, a full list, each capacity, and a slab that is minted. -/
theorem wit_PantryCommands_new :
    mintB (minting 3 4 100) .ok = true ∧ mintB (minting 0 4 100) .atdr = true ∧
    (mintB (minting 3 0 100) .ok = true ∧ (readTensor (minting 3 0 100).pantryRead ((minting 3 0 100).cx.rs 2)).map
      (fun t => decide (t.atd.nslab = t.atd.slcap)) = some true) ∧
    (mintB (minting 3 4 5) .ok = true ∧ (minting 3 4 5).symBudget (minting 3 4 5).myRegion 6 = false) ∧
    (minting 3 4 6).symBudget (minting 3 4 6).myRegion 6 = true ∧ (minting 3 4 100).symCount + 6 ≤ 1048576 ∧
    (readTensor (minting 3 4 100).pantryRead ((minting 3 4 100).cx.rs 2)).map (fun t => t.atd.n) = some 6 ∧
    (let s : State := { minting 3 4 100 with symSerial := [((minting 3 4 100).jobOf 11, 2 ^ 26 - 5)] }
     mintB s .ok = true ∧ 2 ^ 26 < s.nextSerial (s.jobOf s.myRegion) + 6) ∧
    (let s : State := { minting 3 4 100 with symSerial := [((minting 3 4 100).jobOf 11, 2 ^ 26 - 6)] }
     s.nextSerial (s.jobOf s.myRegion) + 6 ≤ 2 ^ 26) := by
  decide +kernel

/-- Every entry of the pantry taken. -/
def pantryFull : State := { minting 3 4 100 with syms := List.replicate 1048576 ⟨0, 0, 11, 9, 1, 0, 5, .live⟩ }
theorem wit_PantryCommands_full : mintB pantryFull .ok = true ∧ 1048576 < pantryFull.symCount + 6 := by
  refine ⟨by decide +kernel, ?_⟩
  have h : pantryFull.symCount = 1048576 := by
    unfold State.symCount
    have h2 : pantryFull.syms = List.replicate 1048576 ⟨0, 0, 11, 9, 1, 0, 5, .live⟩ := rfl
    rw [h2, List.filter_replicate, if_pos (by decide +kernel), List.length_replicate]
  omega

/-- Two live symbols of group 9, their job that of the region. -/
def symbols : List Sym := [⟨1, (minting 3 4 100).jobOf 11, 11, 9, 1, 0, 5, .live⟩, ⟨2, (minting 3 4 100).jobOf 11, 11, 9, 0xFFFF, 0, 5, .live⟩]
def signing : State := { minting 3 4 100 with syms := symbols }
/-- s4 is the first id, s5 the values, s6 the words for one symbol, s7 to s9 others. -/
def signingWith (first n word : Word) : State := signing.mapCx (sregs [(4, first), (8, n), (6, word)])
/-- Operands at both ends of their ranges; ids of two chips, not live, of another event type, counters at their limits. -/
theorem wit_PantryCommands_operands :
    (orderB signing [.s 4, .s 5, .s 6] && orderB signing [.s 4, .s 8] && orderB signing [.s 4, .s 8, .s 9]) = true ∧
    isOk (signing.checkAccess .pm .read 3 1 (signing.cx.rs 5) (4 * 1) 4) [⟨false, pmKey 0 0x3000, 4⟩] = true ∧
    ((signingWith 1 1 0x1000000).cx.rs 6).extractLsb' 24 8 ≠ 0 ∧ ((signingWith 1 1 0x400000000000000).cx.rs 6).extractLsb' 58 6 ≠ 0 ∧
    oneChip 0x3FFFFFF 2 = false ∧ oneChip 0x3FFFFFF 1 = true ∧ oneChip 1 2 = true ∧
    (∃ id ∈ idRange 2 2, signing.symAlive (signing.jobOf signing.myRegion) id = false) ∧
    (∀ id ∈ idRange 1 2, signing.symAlive (signing.jobOf signing.myRegion) id = true) ∧
    (∃ id ∈ idRange 1 2, signing.etDiffers (signing.jobOf signing.myRegion) 9 6 id = true) ∧
    (∀ id ∈ idRange 1 2, signing.etDiffers (signing.jobOf signing.myRegion) 9 5 id = false) ∧
    ((signingWith 1 4 0).cx.rs 8 = 4 ∧ 3 < ((signingWith 1 4 0).cx.rs 8).toNat ∧ ((signingWith 1 3 0).cx.rs 8).toNat ≤ 3) ∧
    (1 < ((signingWith 1 2 0).cx.rs 8).toNat ∧ ((signingWith 1 0 0).cx.rs 8).toNat = 0 ∧
      2 ^ 26 ≤ ((signingWith 1 0x4000000 0).cx.rs 8).toNat ∧ ((signingWith 1 0x3FFFFFF 0).cx.rs 8).toNat < 2 ^ 26) ∧
    (∃ id ∈ idRange 1 2, 65535 ≤ signing.refsComing (signing.jobOf signing.myRegion) id) ∧
    (∀ id ∈ idRange 1 1, signing.refsComing (signing.jobOf signing.myRegion) id < 65535) := by
  have two : ∀ id ∈ idRange 1 2, id = (1 : BitVec 32) ∨ id = (2 : BitVec 32) := by
    intro id h
    have h2 : idRange 1 2 = [(1 : BitVec 32), 2] := by decide +kernel
    rw [h2] at h
    simpa using h
  have one : ∀ id ∈ idRange 1 1, id = (1 : BitVec 32) := by
    intro id h
    have h2 : idRange 1 1 = [(1 : BitVec 32)] := by decide +kernel
    rw [h2] at h
    simpa using h
  have mem : (2 : BitVec 32) ∈ idRange 1 2 := List.mem_of_elem_eq_true (by decide +kernel)
  refine ⟨?_, ?_, ?_, ?_, ?_, ?_, ?_, ⟨3, List.mem_of_elem_eq_true (by decide +kernel), by decide +kernel⟩, ?ids,
    ⟨2, mem, by decide +kernel⟩, ?one, ?_, ?_, ⟨2, mem, by decide +kernel⟩, ?last⟩
  case ids => intro id h; obtain rfl | rfl := two id h <;> decide +kernel
  case one => intro id h; obtain rfl | rfl := two id h <;> decide +kernel
  case last => intro id h; rw [one id h]; decide +kernel
  all_goals decide +kernel
/-- The pantry's table admits the task, and where it grants nothing it does not. -/
def noPantry : State := { signing with access := [] }
theorem wit_PantryCommands_denied :
    (minting 3 4 100).pantryAdmits .write = true ∧ signing.pantryAdmits .write = true ∧ signing.pantryAdmits .read = true ∧
    (orderB noPantry [.s 2, .s 3] && orderB noPantry [.s 4, .s 5, .s 6] && orderB noPantry [.s 4, .s 8] &&
      orderB noPantry [.s 4, .s 8, .s 9]) = true ∧
    noPantry.pantryAdmits .write = false ∧ noPantry.pantryAdmits .read = false ∧ (noPantry.cx.rs 8).toNat ≤ 3 ∧
    isOk (noPantry.checkAccess .pm .read 3 1 (noPantry.cx.rs 5) (4 * 1) 4) [⟨false, pmKey 0 0x3000, 4⟩] = true := by
  decide +kernel

/-- The state that an instruction leads to. -/
def after (i : Instr) (s : State) : State :=
  match exec i s with
  | .next t => t
  | .fault _ => s
  | .refused _ => s
/-- A minted slab of 6 symbols; s3 is the number of candidates, s4 an ATD's vector. -/
def minted : State := (after (.symNew 9 2 3) (minting 3 4 100)).mapCx (fun x => { (sregs [(3, 3), (4, 0), (5, 0)] x) with results := [] })
/-- A condensation accepted, and the number of entries that the attic holds at most. -/
def cond0 (id m : Nat) : Cond :=
  { owner0 with
    id := id, num := 0, cluster := 0, atd := 0x4000, m := m, vec := none, event := none, ring := none, st := .run, mc := 0, stopped := false,
    revoked := none, work := none, published := true, done := [] }
def condensing (m : Nat) : State := { minted with conds := [cond0 70 m] }
def atticFull : State := { minted with conds := (List.range 16).map (fun i => cond0 (100 + i) 3) }
/-- A ring to name, an ATD at the address in s2 and an event object at that in s6. -/
def condRinged : State := ringed.mapCx (sregs [(2, 0x4000), (6, 0x5000)])
/-- The condensation reads a tensor of a status, and its writes reach storage. -/
def condB (s : State) (k : Cond) (st : AtdSt) : Bool :=
  decide (s.conds.find? (fun x => x.id == k.id) = some k ∧ k.st = .run ∧ k.work = none ∧ k.stopped = false ∧ k.revoked = none) &&
  !s.isOut k.toOwner && !s.condBehind k && s.atticAdmitted k &&
  match s.condReads k with
  | none => false
  | some r => decide (s.tensorStatus (s.jobOf k.region) r.t = st) &&
    (s.reachWrites k (if k.m = 0 then [] else condWrites r (s.condSelect k r))).isSome
/-- A condensation that has chosen two symbols and writes the tensor's KMAX field. -/
def condWriting : Cond := { cond0 70 2 with work := some ([1, 2], [⟨0x4020, [(hostKey 0x4020, 4)], leBytes 4 4⟩]) }
/-- A sym.sig and a sym.rel on their way. -/
def sigJob : SigJob := { owner0 with id := 80, job := (minting 3 4 100).jobOf 11, first := 1, src := 0x3000, n := 2, group := 9, et := 5 }
def relJob (add : Bool) : RelJob := { owner0 with id := 81, job := (minting 3 4 100).jobOf 11, first := 1, n := 2, add := add }

theorem wit_PantryEventsAndCondensation :
    (({ signing with sigs := [sigJob] } : State).sigs.find? (fun x => x.id == 80) = some sigJob ∧
      ({ signing with sigs := [sigJob] } : State).enginePieces sigJob.toOwner 3 .read .pm 0x3000 (4 * 2) =
        some [⟨pmKey 0 0x3000, 8⟩]) ∧
    (∀ add, ({ signing with rels := [relJob add] } : State).rels.find? (fun x => x.id == 81) = some (relJob add) ∧
      (relJob add).n ≤ 2 ^ 32) ∧
    (orderB minted [.s 2, .s 3, .s 4, .s 5] = true ∧ minted.atticUse minted.myCore.cluster < 16) ∧
    (orderB atticFull [.s 2, .s 3, .s 4, .s 5] = true ∧ 16 ≤ atticFull.atticUse atticFull.myCore.cluster ∧
      atticFull.mayWait 9) ∧
    (∀ p ∈ [((0 : SReg), false), (6, true)],
      ∃ tc, condRinged.checkCond 2 p.1 5 p.2 = .ok tc ∧ (!tc.any (·.away)) = true) ∧
    (orderB condRinged [.s 2, .s 3, .s 4, .s 6] = true ∧ condRinged.ringReady 5 true 1 = true ∧ condRinged.ringOf 5 ≠ none ∧
      condRinged.atticUse condRinged.myCore.cluster < 16) ∧
    (let s : State := { condensing 3 with access := [] }
     s.conds.find? (fun x => x.id == 70) = some (cond0 70 3) ∧ s.condBehind (cond0 70 3) = false ∧
       s.isOut (cond0 70 3).toOwner = false ∧ s.atticAdmitted (cond0 70 3) = false) ∧
    (let s := (condensing 3).mapCx (fun x => { (x.ws 5 0) with condNum := 1 })
     orderB s [.s 5] = true ∧ s.recentCond ((s.cx.rs 5).setWidth 16) = some (cond0 70 3) ∧
       s.recentCond ((s.cx.rs 3).setWidth 16) = none) ∧
    condB (condensing 3) (cond0 70 3) .ok = true ∧ condB (condensing 0) (cond0 70 0) .ok = true ∧
    condB (putN (condensing 3) (hostKey 0x4002) 2 0) (cond0 70 3) .atdr = true ∧
    (let s : State := { minted with conds := [cond0 69 3, cond0 70 3] }
     s.conds.find? (fun x => x.id == 70) = some (cond0 70 3) ∧ s.condBehind (cond0 70 3) = true) ∧
    (let s : State := { minted with conds := [condWriting] }
     s.conds.find? (fun x => x.id == 70) = some condWriting ∧ s.condBehind condWriting = false ∧ condWriting.st = .run ∧
       condWriting.revoked = none ∧ [(1 : BitVec 32), 2].Nodup ∧ condWriting.event = none ∧ condWriting.ring = none ∧ condWriting.phase = none ∧
       ∃ e ∈ s.syms, e.job = s.jobOf condWriting.region ∧ e.id = 1) := by
  unfold State.mayWait
  refine ⟨?_, ?_, ?_, ?_, fun p hp => ?each, ?_⟩
  case each =>
    simp only [List.mem_cons, List.not_mem_nil, or_false] at hp
    obtain rfl | rfl := hp <;> exact of_okWith (by decide +kernel)
  all_goals decide +kernel

/-! ### Collectives -/

/-- The command block of an all-gather of 4 elements of group 5, and its one-member group. -/
def blockBytes (op : Nat) : List Byte :=
  leBytes 1 op ++ leBytes 1 0 ++ leBytes 1 0 ++ leBytes 1 0 ++ leBytes 2 5 ++ leBytes 2 0 ++ leBytes 8 0x8100 ++ leBytes 8 0x9000 ++
  leBytes 8 0xA000 ++ leBytes 8 4 ++ leBytes 8 131072 ++ leBytes 8 0xB000 ++ leBytes 8 500 ++ leBytes 64 0
def posting (op : Nat) : State :=
  let s := wctx (putN (world.putBytes (hostKey 0x8000) (blockBytes op)) (hostKey 0x8100) 4 (1 + 5 * 65536)) [(2, 0x8000), (3, 0)]
    (fun x => { (running x) with postNum := 9 })
  { (s.mapPart 0 (fun p => { p with quotas := Vector.replicate 4 64 })) with env := { s.env with pos := 7 } }
/-- The block is read, and checking it has a result. -/
def postB (s : State) (f : Except Nat (List (BitVec 16) × Nat) → Bool) : Bool :=
  orderB s [.s 2] && isOk (s.checkAccess .glob .read 2 5 (s.cx.rs 2) 128 128) (readAt (hostKey 0x8000) 128) &&
  let v := (s.reading .read (s.cx.rs 2) (readAt (hostKey 0x8000) 128)).noteAccess .glob (s.cx.rs 2) 128
  decide (s.postBehind (readAt (hostKey 0x8000) 128) = []) && f (v.checkPost s.env.cid (BitVec.ofNat 1024 (v.valueAt (readAt (hostKey 0x8000) 128))))
def isStatus (n : Nat) (r : Except Nat (List (BitVec 16) × Nat)) : Bool :=
  match r with
  | .ok _ => false
  | .error st => st == n
def isMember (r : Except Nat (List (BitVec 16) × Nat)) : Bool :=
  match r with
  | .ok x => x.1.length == 1 && x.2 == 0
  | .error _ => false
/-- The post that the state after xpost holds. -/
def posted : State := { (after (.xpost 9 2) (posting 3)).mapCx (fun x => { (x.ws 2 9) with results := [] }) with tlb := [] }
def post0 : Post := (posted.posts.head?).getD { owner0 with
  id := 0, num := 0, die := 0, gid := 0, inst := 0, rank := 0, block := 0, entries := [], st := .ok, rsn := 0, flags := Flags.none,
  started := 0, limit := 0, asked := false, stepped := false, event := 0, ahead := [], done := [] }
/-- A question about the post. -/
def asking : State := posted.mapCx (fun x => x.ws 2 0x8000000000000009)
/-- The same post ended, and at its limit. -/
def postedEnded : State := { posted with posts := [{ post0 with st := .failed }] }
def postedLate : State := { posted with gcc := posted.gcc + 500 }

/-- A store of the poster to the block's first byte still waits in its slip buffer; a block beyond the mapped space. -/
def postingBehind : State :=
  let s := posting 3
  s.mapCx (fun x => { x with ctm := 9, slip := [{ someEntry with ctm := 1, touch := writeAt (hostKey 0x8000) 1 }] })
def postingNowhere : State := (posting 3).mapCx (fun x => x.ws 2 0x0080000000000000)
theorem wit_PostsThatDoNotGo :
    (issuesB postingBehind [.s 2] && isOk (postingBehind.checkAccess .glob .read 2 5 (postingBehind.cx.rs 2) 128 128)
      (readAt (hostKey 0x8000) 128)) = true ∧
    postingBehind.postBehind (readAt (hostKey 0x8000) 128) ≠ [] ∧
    issuesB postingNowhere [.s 2] = true ∧
    ∃ t, postingNowhere.checkAccess .glob .read 2 5 (postingNowhere.cx.rs 2) 128 128 = .error t :=
  ⟨by decide +kernel, by decide +kernel, by decide +kernel, _, rfl⟩

theorem wit_CollectivePostsAndEnds :
    postB (posting 9) (isStatus 1) = true ∧
    (postB (posting 3) isMember = true ∧ (posting 3).early = [] ∧ (posting 3).contribs = []) ∧
    (∀ b, postB { posting 3 with early := [(0, 5, 0, b)] } isMember = true ∧ (posting 3).nextInst 0 5 = 0) ∧
    (queryOk ((posting 3).cx.rs 3) = true ∧ ((posting 3).cx.rs 3).extractLsb' 62 2 = 0 ∧ orderB (posting 3) [.s 3] = true ∧
      queryOk 0xC000000000000000 = false ∧ queryOk 0x4000000000000000 = true ∧ (posting 3).env.pos = 7 ∧
      (posting 3).cx.task = some task0) ∧
    (orderB asking [.s 2] = true ∧ queryOk (asking.cx.rs 2) = true ∧ (asking.cx.rs 2).extractLsb' 62 2 = 2 ∧
      asking.recentPost ((asking.cx.rs 2).setWidth 16) = some post0 ∧ asking.recentPost 5 = none) ∧
    (Memory.wf posted.mem = true ∧ orderB posted [.s 2] = true ∧ (posted.cx.rs 2).extractLsb' 16 48 = 0 ∧
      posted.recentPost ((posted.cx.rs 2).setWidth 16) = some post0 ∧ post0.st = .run ∧
      posted.localDies post0.entries = [post0.die]) ∧
    (orderB postedEnded [.s 2] = true ∧ postedEnded.recentPost 9 = some { post0 with st := .failed }) ∧
    ((posting 3).recentPost 5 = none ∧ (0x10000 : Word).extractLsb' 16 48 ≠ 0) ∧
    (postedLate.posts.find? (fun q => q.id == post0.id) = some post0 ∧ postedLate.postFrozen post0 = false ∧
      post0.limit.toNat ≤ (postedLate.gcc - post0.started).toNat ∧ postedLate.postAt post0.die post0.gid post0.inst = some post0) ∧
    ((posted.gcc - post0.started).toNat < post0.limit.toNat ∧
      postedEnded.postAt post0.die post0.gid post0.inst = some { post0 with st := .failed }) ∧
    ((posting 3).postAt 0 5 0 = none ∧ (posting 3).early = []) := by
  and_intros <;> decide +kernel

/-- The post's own contribution, made and not made. -/
def data0 : List Carried := posted.carriedBytes [⟨hostKey 0x9000, 16⟩]
def outs0 : List Contrib :=
  (posted.localDies post0.entries).map (fun d => ⟨d, post0.gid, post0.inst, post0.rank, post0.block, post0.entries, data0⟩)
def steppedPost : State := { posted with posts := [{ post0 with stepped := true }], contribs := outs0 }

/-- Data of a group, as much as is wanted. -/
def holding (n : Nat) : Contrib := ⟨0, 5, 0, 1, 0, [], List.replicate n (0, false)⟩
theorem holding_length (n : Nat) : (holding n).data.length = n := List.length_replicate

theorem nothing_fits (s : State) (c x : Contrib) (h : s.postAt c.die c.gid c.inst = none) (hl : s.contribs = [x])
    (h1 : (x.die == c.die) = true) (h2 : (x.gid == c.gid) = true) (h3 : (s.postAt x.die x.gid x.inst).isNone = true)
    (hn : 262144 < x.data.length + c.data.length) : s.contribFits c = false := by
  simp only [State.contribFits, h, hl, List.filter, h1, h2, h3, Bool.and_self, List.map_cons, List.map_nil, List.sum_cons,
    List.sum_nil, Nat.add_zero]
  exact decide_eq_false (Nat.not_le_of_lt hn)

/-- The post of a group with a member on another chip: the porch down, no route, a route that the porch's table denies, one that it
grants, the grants asked for. -/
def postAbroad (asked : Bool) : Post := { post0 with entries := [0, 1], asked := asked }
def abroad (up : Bool) (route : BitVec 12) (granted asked : Bool) : State :=
  let s := posted.mapPort 0 (fun p => { p with trained := true })
  { s with
    posts := [postAbroad asked], porch := { s.porch with up := up, routes := s.porch.routes.set 1 route },
    access := if granted then (Target.porch, 2, [⟨0, 0xFFFFFFFFFFFFFF0F⟩]) :: grants else grants }
theorem wit_CollectiveAcrossChips :
    (∀ x ∈ [(abroad false 0 false false, false), (abroad true 0 false false, false), (abroad true 1 false false, false),
        (abroad true 1 true false, false), (abroad true 1 true true, true)],
      x.1.posts.find? (fun q => q.id == post0.id) = some (postAbroad x.2) ∧ (postAbroad x.2).st = .run ∧
        (postAbroad x.2).stepped = false ∧ x.1.faults = [] ∧ x.1.olderWaits post0.toOwner = false ∧
        x.1.postWaits (postAbroad x.2) = false ∧ x.1.remoteChips (postAbroad x.2).entries = [1]) ∧
    ((abroad false 0 false false).porch.up = false ∧ (abroad true 1 false false).porch.up = true ∧
      (abroad true 0 false false).routeMask 1 = 0 ∧ (abroad true 1 false false).routeMask 1 ≠ 0 ∧
      (abroad true 1 false false).stepPermitted (postAbroad false) 1 = false ∧
      (abroad true 1 true false).stepPermitted (postAbroad false) 1 = true ∧
      (abroad true 1 true true).postSource (postAbroad true) = some [⟨hostKey 0x9000, 16⟩] ∧
      ((abroad true 1 true true).localDies [0, 1]) = [0] ∧ (abroad true 1 true true).stepPermitted (postAbroad true) 1 = true) := by
  decide +kernel

theorem wit_CollectiveDataAndCompletion :
    (posted.posts.find? (fun q => q.id == post0.id) = some post0 ∧ post0.st = .run ∧ post0.stepped = false ∧ posted.faults = [] ∧
      (post0.entries.all (fun e => entryChip e == posted.chip)) = true ∧ posted.postSource post0 = some [⟨hostKey 0x9000, 16⟩] ∧
      (posted.readErrors (posted.ownerAt post0.toOwner (blkAddr post0.block 0x10)) [⟨hostKey 0x9000, 16⟩]).carriedFrom
        post0.ahead [⟨hostKey 0x9000, 16⟩] = data0 ∧ posted.olderWaits post0.toOwner = false ∧ posted.postWaits post0 = false ∧
      posted.remoteChips post0.entries = [] ∧
      (outs0.all posted.contribFits) = true ∧
      ((posted.localDies post0.entries).all (fun d => !posted.memberEnded d post0.gid post0.inst)) = true ∧
      ((posted.localDies post0.entries).all (fun d =>
        match steppedPost.postAt d post0.gid post0.inst with
        | some q => (steppedPost.postBad q).isNone
        | none => true)) = true) ∧
    (outs0.all (fun c => ((posting 3).postAt c.die c.gid c.inst).isNone && (posting 3).contribFits c) = true ∧ (posting 3).early = []) ∧
    ({ posting 3 with contribs := [holding 262144] } : State).contribFits (holding 1) = false ∧
    (∀ p s, p = ({ post0 with stepped := true } : Post) → s = steppedPost →
     Memory.wf s.mem = true ∧ s.posts.find? (fun q => q.id == p.id) = some p ∧ s.haveAll p = true ∧ s.faults = [] ∧
       s.porch.outstanding = [] ∧ writesDst p.block p.rank = true ∧
       s.globalPieces p.part 2 .write (blkAddr p.block 0x18) (dstBytes p.block p.entries.length) = some [⟨hostKey 0xA000, 16⟩] ∧
       readsSrc p.block p.rank = true ∧
       s.globalPieces p.part 2 .read (blkAddr p.block 0x10) (srcBytes p.block p.entries.length) = some [⟨hostKey 0x9000, 16⟩] ∧
       piecesOverlap [⟨hostKey 0x9000, 16⟩] [⟨hostKey 0xA000, 16⟩] = false ∧ p.event = hostKey 0xB000 ∧ p.done = [] ∧ p.phase = none ∧ s.damaged = [] ∧
       (collect p (2 ^ 32 * p.gid.toNat + p.inst) (s.inRankOrder p)).1.length = 16) ∧
    (blkOp post0.block = 3 ∧ Fmt.i32.isFloat = false) := by
  refine ⟨by decide +kernel, by decide +kernel, ?_, ?_, by decide +kernel⟩
  · refine nothing_fits _ _ (holding 262144) (by decide +kernel) rfl (by decide +kernel) (by decide +kernel) (by decide +kernel) ?_
    rw [holding_length, holding_length]; omega
  · rintro p s rfl rfl
    decide +kernel

/-! ### Traps -/

/-- A trap's registers; a context whose stack pointer is given, at a level, with delay slots left. -/
def trap0 : Trap := ⟨.ill, 5, 0x1234567, 0x24, slotCauses 0x24 .ill, 0xFEED⟩
def trapping (sp : Word) (level : BitVec 3) (dsl : BitVec 2) : State :=
  let s := wctx world [(62, sp)] (fun x =>
    { (x.mapLoop 2 (fun l => { l with active := true, lc := 5 })) with
      task := some task0, run := .running, ctm := 20, level := level, flow := { x.flow with pc := 0x4305, dsl := dsl, dst := 0x99877 },
      shadow := ⟨0x5, 0x77, 0x3⟩, ctl := { x.ctl with tvb := 0x7777FF } })
  { s with env := { s.env with pos := 0 } }
/-- A handler runs, with an entry in a slip buffer. -/
def handling (e : SlipEntry) : State := (trapping 0xFFF80 1 0).mapCx (fun x => { x with slip := [e] })
/-- The stack has room for the frame, or it has not, or every level is taken. -/
def frameFits (s : State) : Bool :=
  let a := (s.ctx 0).s[62] - 128
  decide (a.toNat ≤ 0xFFF80) && decide (a.toNat % 128 = 0) && decide ((s.ctx 0).level.toNat < 4) &&
  (s.partOf (s.ctxPart 0)).trace.isNone && Memory.wf s.mem
def stackBad (s : State) : Bool :=
  let a := (s.ctx 0).s[62] - 128
  (decide (0xFFF80 < a.toNat) || decide (a.toNat % 128 ≠ 0) || (s.ctx 0).level == 4) && Memory.wf s.mem

theorem wit_TrapEntryAndReturn :
    (frameFits (trapping 0x100000 0 0) && frameFits (trapping 0x80 3 2)) = true ∧
    (stackBad (trapping 0 1 0) && stackBad (trapping 0x100080 1 0) && stackBad (trapping 0x8040 1 1) && stackBad (trapping 0x8000 4 0)) = true ∧
    (trapping 0x8000 0 0).cx.level = 0 ∧
    ((trapping 0xFFF80 1 0).cx.level ≠ 0 ∧ (trapping 0xFFF80 1 0).cx.tretBehind = [] ∧ (trapping 0x100000 1 0).cx.tretBehind = [] ∧
      (trapping 0xFFF80 1 0).cx.s[62].toNat ≤ 0xFFF80 ∧
      (trapping 0xFFF80 1 0).cx.s[62].toNat % 128 = 0 ∧ (trapping 0xFFF80 1 0).env.pos = 0 ∧
      ((trapping 0xFFF80 1 0).partOf 0).trace = none) ∧
    ((trapping 0x100000 1 0).cx.level ≠ 0 ∧ 0xFFF80 < (trapping 0x100000 1 0).cx.s[62].toNat ∧
      (trapping 0x100000 1 0).members (trapping 0x100000 1 0).env.cid = [(trapping 0x100000 1 0).env.cid]) ∧
    ((trapping 0x8041 1 0).cx.s[62].toNat % 128 ≠ 0) ∧
    ((handling someEntry).cx.level ≠ 0 ∧ (handling someEntry).cx.tretBehind ≠ []) ∧
    (handling { someEntry with slot := 1, ins := ⟨1, none, .add 1 2 3⟩ }).cx.tretBehind = [] := by
  decide +kernel

theorem wit_ReturnUndoesEntry :
    frameFits (trapping 0x100000 0 0) = true ∧ frameFits (trapping 0x80 3 2) = true ∧
    ((trapping 0x80 3 2).ctx 0).shadow.tcs &&& 0xFFFFFFFF073F#64 = ((trapping 0x80 3 2).ctx 0).shadow.tcs ∧
    ((trapping 0x80 3 2).ctx 0).shadow.sfm &&& 0xFF#64 = ((trapping 0x80 3 2).ctx 0).shadow.sfm := by
  decide +kernel

/-- A trap that waits for the boundary. -/
def btrap (c : Cause) : BTrap := ⟨0, c, 0x999, 0x8, 77, 3⟩
def atBoundary (c : Cause) : State := (trapping 0x8000 0 0).mapCtx 0 (fun x => { x with btraps := [btrap c] })
def noticed (ack : BitVec 32) : State :=
  (atBoundary .capc).mapCtx 0 (fun x => { x with ack := ack, ctl := { x.ctl with capn := 5 } })
/-- A copy whose promise has passed. -/
def missing : State := { trapping 0x8000 0 0 with copies := [copy0], gcc := 100 }
def unwinding : State := (trapping 0x8000 0 0).mapCtx 0 (fun x => { x with unwind := some 0x4306, cregs := [⟨0x7000, 18⟩, ⟨0x8000, 2⟩] })
/-- A bundle with a reserved word stands at the program counter. -/
def undecodable : State :=
  (trapping 0x8000 0 0).mapCtx 0 (fun x => { x with lbuf := [⟨bundleSeg x.flow.pc, 6, 0, List.replicate 6 (placeWords 0 [0, 1, 0, 0, 0, 0, 0, 0]), none⟩] })
def decodeB (s : State) (c : CtxId) : Bool :=
  let x := s.ctx c
  match x.loaded (bundleSeg x.flow.pc) with
  | none => false
  | some g =>
    match g.bundles[bundleIdx x.flow.pc]? with
    | none => false
    | some b =>
      match s.decodeChecked c b with
      | .error _ => true
      | .ok _ => false
theorem of_decodeB {s : State} {c : CtxId} (h : decodeB s c = true) :
    ∃ g b cause m, (s.ctx c).loaded (bundleSeg (s.ctx c).flow.pc) = some g ∧ g.bundles[bundleIdx (s.ctx c).flow.pc]? = some b ∧
      s.decodeChecked c b = .error (cause, m) := by
  unfold decodeB at h
  dsimp only at h
  split at h
  · cases h
  · rename_i g hg
    split at h
    · cases h
    · rename_i b hb
      split at h
      · rename_i e he; exact ⟨g, b, e.1, e.2, hg, hb, he⟩
      · cases h
/-- The program counter stands past the end of its segment, in the interrupted code and at a handler's first bundle. -/
def pastEnd (entering : Option Cause) : State :=
  (trapping 0x8000 0 0).mapCtx 0 (fun x => { x with flow := { x.flow with pastEnd := true, entering := entering } })

theorem wit_BoundaryAndFetchTraps :
    (∀ c ∈ [Cause.fpx, .swt, .pmiss], ((atBoundary c).ctx 0).run = .running ∧ (atBoundary c).members 0 = [0] ∧
      (atBoundary c).boundary 0 = .trap c ∧ ((atBoundary c).ctx 0).pendingTrap c = some (btrap c) ∧ (atBoundary c).copies = []) ∧
    (missing.missed 0 copy0 = true ∧ copy0 ∈ missing.copies) ∧
    ([(4 : BitVec 32), 5].all (fun a => decide (((noticed a).ctx 0).btraps = [btrap .capc] ∧
      (btrap .capc).level = ((noticed a).ctx 0).level ∧ ((noticed a).ctx 0).unwind = none ∧ (noticed a).members 0 = [0])) = true) ∧
    ((((noticed 5).ctx 0).ctl.capn.setWidth 32 : BitVec 32).toNat ≤ ((noticed 5).ctx 0).ack.toNat ∧
      ((noticed 4).ctx 0).ack.toNat < (((noticed 4).ctx 0).ctl.capn.setWidth 32 : BitVec 32).toNat) ∧
    ((unwinding.ctx 0).run = .running ∧ unwinding.members 0 = [0] ∧ (unwinding.ctx 0).unwind = some 0x4306 ∧
      (unwinding.ctx 0).cregs = ⟨0x7000, 18⟩ :: [⟨0x8000, 2⟩] ∧ unwinding.late = []) ∧
    (undecodable.members 0 = [0] ∧ (undecodable.ctx 0).run = .running ∧ undecodable.boundary 0 = .clear) ∧
    (∃ g b cause m, (undecodable.ctx 0).loaded (bundleSeg (undecodable.ctx 0).flow.pc) = some g ∧
      g.bundles[bundleIdx (undecodable.ctx 0).flow.pc]? = some b ∧ undecodable.decodeChecked 0 b = .error (cause, m)) ∧
    ((pastEnd none).members 0 = [0] ∧ (pastEnd none).boundary 0 = .clear ∧
      ((pastEnd none).ctx 0).fetchFaultOf = some (.fend, 0, 0) ∧ ((pastEnd none).ctx 0).flow.entering = none) ∧
    ((pastEnd (some .ill)).boundary 0 = .clear ∧ ((pastEnd (some .ill)).ctx 0).fetchFaultOf = some (.fend, 0, 0) ∧
      ((pastEnd (some .ill)).ctx 0).flow.entering = some .ill ∧ firstFetchFault .fend = true) := by
  refine ⟨by decide +kernel, ⟨by decide +kernel, List.mem_singleton.mpr rfl⟩, by decide +kernel, by decide +kernel, by decide +kernel, by decide +kernel,
    of_decodeB (by decide +kernel), by decide +kernel, by decide +kernel⟩

/-! ### Arrivals, waits and switches -/

/-- A context whose clock runs, at CTM 20. -/
def timed (f : Ctx → Ctx) : State := wctx world [(62, 0x8000)] (fun x => f { (running x) with ctm := 20, dtc := .running 0 })
/-- A value that is not there yet, due at a bundle. -/
def result0 (due : Word) (host : Bool) : Result := { Result.base with rid := 7, due := due, dest := .s 4, val := 99, arrived := false, stride := 5, host := host }
def valued (due : Word) (host : Bool) : State := timed (fun x => { x with results := [result0 due host] })
/-- An entry with a wait of 30 ticks from tick 5, at a time. -/
def waitEntry (p : Pos) : SlipEntry := { someEntry with slot := p, wait := some ⟨5, 30, none, false⟩ }
def waitingAt (p : Pos) (g : Word) : State := { timed (fun x => { x with slip := [waitEntry p] }) with gcc := g }
def heldAt (g : Word) : State := { timed (fun x => { x with flow := { x.flow with waiting := some ⟨5, 30, 0⟩ } }) with gcc := g }
/-- Context 2 has been ready longest. -/
def switching : State :=
  { ((timed (fun x => { x with readySince := some 9 })).mapCtx 1
      (fun x => { x with run := .running, readySince := some 5, task := some { task0 with serial := 8, lead := 1 } })).mapCtx 2
      (fun x => { x with run := .running, readySince := some 3, task := some { task0 with serial := 9, lead := 2 } }) with nextId := 50 }

theorem wit_ArrivalsWaitsAndSwitches :
    ([(20 : Word), 21].all (fun due => [false, true].all (fun host => decide (((valued due host).ctx 0).alive = true ∧
      ((valued due host).ctx 0).results = [result0 due host] ∧ ((valued due host).ctx 0).slip = [] ∧
      ((valued due host).ctx 0).frozen = [] ∧ ((valued due host).ctx 0).ctm = 20 ∧ ((valued due host).ctx 0).cregs = [] ∧
      (valued due host).late = [] ∧ (result0 due host).held = false ∧ (result0 due host).fpx = none))) = true) ∧
    ([(0 : Pos), 7].all (fun p => [(34 : Word), 35].all (fun g => decide (((waitingAt p g).ctx 0).alive = true ∧
      ((waitingAt p g).ctx 0).slotSlip p = [waitEntry p]))) = true) ∧
    ((30 : Word).toNat ≤ ((waitingAt 0 35).dtc 0 - 5).toNat ∧ ((waitingAt 0 34).dtc 0 - 5).toNat < (30 : Word).toNat) ∧
    ([(34 : Word), 35].all (fun g => decide (((heldAt g).ctx 0).alive = true ∧ ((heldAt g).ctx 0).slotSlip 0 = [] ∧
      ((heldAt g).ctx 0).flow.waiting = some ⟨5, 30, 0⟩)) = true) ∧
    ((coreCtxs 0).contains 2 = true ∧ (2 : CtxId) ≠ CtxId.of 0 (switching.core 0).cur ∧ switching.ready 2 = true ∧
      ((switching.ctx 2).readySince.getD switching.nextId ≤ switching.nextId) ∧
      (coreCtxs 0).all (fun e => e == 2 || e == CtxId.of 0 (switching.core 0).cur || !switching.ready e ||
        decide ((switching.ctx 2).readySince.getD switching.nextId < (switching.ctx e).readySince.getD switching.nextId)) = true) ∧
    ((coreCtxs 5).all (fun d => !switching.ready d)) = true := by
  decide +kernel

/-! ### The scheduler -/

/-- A queue of 4 entries near the wrap of its indices. -/
def queue0 : Queue := { base := 0x9000, lnent := 2, en := true, head := 0xFFFFFFFF, tail := 0xFFFFFFFF, table := 0, deficit := 5 }
/-- A region with every core and context, and a launch of 4 tasks of it, one started and retired. -/
def wholeChip : Level := ⟨0x5000, some 0, 0x4040404040404040, 0xFFFF, 0xFFFF, 0xFFFFFFF, 0xFFFF⟩
def rgnRun : Rgn :=
  ⟨11, 0x5000, 0, [wholeChip], 2, false, false, false, 0, 1, 0, 0, 0, 0, 1, 0, 12345, 0x7700, 0x1000000, 0x400000, 0, 0, 0, 0, false, 0, 0⟩
def record1 : BitVec 1024 :=
  recordOf [(0, 8, 0x40000), (0x08, 2, 1), (0x0A, 2, 1), (0x0F, 1, 1), (0x10, 1, 2), (0x11, 1, 4), (0x18, 8, 0xABCDEF), (0x48, 8, 0x5000)]
def launch1 : Launch := ⟨3, 0, 5, 0, record1, 0x9000, 11, .released, 2, 1, [], 0, 1, some 0, 0⟩
def scheduling : State :=
  { world.mapPart 0 (fun p => { p with queues := p.queues.set 5 queue0 }) with rgns := [rgnRun], launches := [launch1], gcc := 777, sched := { again := true, todo := [(0, 5)], served := true, started := false, level := 3 } }
/-- What stands on a package where no context, or none but number 0, has a task. -/
theorem placed_none (s : State) (h : ∀ c, (s.ctx c).task = none) : s.placed = [] := by
  unfold State.placed
  rw [List.filterMap_eq_nil_iff]
  intro c _
  rw [h c]; rfl
theorem placed_one (s : State) (t : Task) (h0 : (s.ctx 0).task = some t) (h : ∀ c, c ≠ 0 → (s.ctx c).task = none) :
    s.placed = [⟨0, t.region, t.launch, t.nacc⟩] := by
  have hl : allCtxs = 0 :: ((List.range 2047).map (fun n => BitVec.ofNat 11 (n + 1))) := by
    unfold allCtxs
    rw [List.range_succ_eq_map, List.map_cons, List.map_map]; rfl
  unfold State.placed
  rw [hl, List.filterMap_cons, h0]
  have ht : ((List.range 2047).map (fun n => BitVec.ofNat 11 (n + 1))).filterMap
      (fun c => (s.ctx c).task.map (fun t => (⟨c, t.region, t.launch, t.nacc⟩ : Occ))) = [] := by
    rw [List.filterMap_eq_nil_iff]
    intro c hc
    obtain ⟨n, hn, rfl⟩ := List.mem_map.mp hc
    rw [h _ (fun he => ?_)]
    · rfl
    · have h2 := congrArg BitVec.toNat he
      have h3 := List.mem_range.mp hn
      have h4 : (0 : CtxId).toNat = 0 := rfl
      rw [h4, BitVec.toNat_ofNat] at h2
      omega
  rw [ht]; rfl
theorem occupied_of {s : State} {l : List Occ} (h : s.placed = l) (hg : s.groups.filter (·.kept) = []) : s.occupied = l := by
  simp [State.occupied, h, hg]
/-- A round whose next queue's launch has a place and the deficit for it starts it. -/
theorem roundNext_starts (s : State) (n lv : Nat) (pq : BitVec 4 × BitVec 6) (rest : List (BitVec 4 × BitVec 6)) (l : Launch) (r : Rgn)
    (place : List (List Occ)) (h1 : s.topLevel = some lv) (h2 : s.sched.todo = pq :: rest) (h3 : s.sched.level = lv)
    (h4 : (s.headLaunch pq.1 pq.2).filter (fun l => s.startable l && s.levelNow l == lv) = some l) (h5 : s.sched.served = true)
    (h6 : s.rgnOf l.region = some r) (h7 : s.nextPlace l r = some place) (h8 : (l.coach : Int) ≤ (s.queueOf pq.1 pq.2).deficit) :
    s.roundNext (n + 1) = (some (l, r, place), { s with sched := { s.sched with served := true } }) := by
  have e : s.roundAt (some lv) = .inl (some (l, r, place), { s with sched := { s.sched with served := true } }) := by
    unfold State.roundAt
    simp only [h2, h3, h4, h5, h6, h7, h8, ne_eq, not_true_eq_false, if_false, if_true]
  rw [State.roundNext, h1, e]; rfl
/-- The launch's task on context 0 as it ends, is stuck, or still runs. -/
def oneTask (run : Run) : State :=
  { scheduling.mapCtx 0 (fun x => { x with task := some { task0 with serial := 1 }, run := run }) with launches := [{ launch1 with started := 2 }] }
/-- Every task of the launch retired; the launch held. -/
def allRetired : State := { scheduling with launches := [{ launch1 with started := 4, retired := 4 }] }
def replicatedEnd : State := allRetired.mapPart 0 (fun p => { p with rpd := 0x7000, rqm := 0x20 })

theorem scheduling_occupied : scheduling.occupied = [] :=
  occupied_of (placed_none _ (fun c => congrArg Ctx.task (reset_ctx c))) rfl
theorem oneTask_placed (run : Run) : (oneTask run).placed = [⟨0, 11, 3, task0.nacc⟩] := by
  refine placed_one _ { task0 with serial := 1 } ?_ (fun c hc => ?_)
  · rfl
  · exact (congrArg Ctx.task (ctx_mapCtx_ne scheduling (fun x => { x with task := some { task0 with serial := 1 }, run := run }) hc)).trans
      (congrArg Ctx.task (reset_ctx c))
/-- The place the round finds. -/
def place1 : Occ := ⟨0, 11, 3, 2⟩
theorem scheduling_starts : scheduling.roundNext 4096 =
    (some (launch1, rgnRun, [[place1]]), { scheduling with sched := { scheduling.sched with served := true } }) := by
  have hp : scheduling.nextPlace launch1 rgnRun = some [[place1]] := by
    unfold State.nextPlace
    rw [scheduling_occupied]
    decide +kernel
  exact roundNext_starts scheduling 4095 3 (0, 5) [] launch1 rgnRun _ (by decide +kernel) rfl rfl (by decide +kernel) rfl
    (by decide +kernel) hp (by decide +kernel)

/-- Nothing can start where nothing has been submitted. -/
theorem wit_RoundStartsNothing : ∃ s1, State.reset.roundNext 4096 = (none, s1) := by
  have h : State.reset.topLevel = none := by decide +kernel
  rw [State.roundNext, h]
  exact ⟨_, rfl⟩

theorem wit_TasksStartAndEnd :
    (∃ l r o s1, scheduling.roundNext 4096 = (some (l, r, [[o]]), s1) ∧ l.started < 2 ^ 64) ∧
    (((oneTask .draining).ctx 0).drained = true ∧ ((oneTask .draining).ctx 0).results = [] ∧ ((oneTask .draining).ctx 0).phase = none ∧
      ((oneTask .draining).ctx 0).ctl.civ = 0 ∧ (oneTask .draining).late = [] ∧ ((oneTask .running).ctx 0).drained = false) ∧
    (allRetired.launchOf 3 = some { launch1 with started := 4, retired := 4 } ∧ allRetired.launchDone { launch1 with started := 4, retired := 4 } = true ∧
      allRetired.replicated 0 5 = false ∧ allRetired.launches.all (fun l => l.st != .held && l.st != .digest) = true ∧
      replicatedEnd.launchDone { launch1 with started := 4, retired := 4 } = true ∧ replicatedEnd.replicated 0 5 = true) ∧
    ((oneTask .hflt).launchDone { launch1 with started := 2 } = false ∧ (oneTask .hflt).launchStuck { launch1 with started := 2 } = true ∧
      (oneTask .running).launchStuck { launch1 with started := 2 } = false ∧
      (oneTask .hflt).copies = [] ∧ (oneTask .hflt).conds = [] ∧ (oneTask .hflt).posts = [] ∧ (oneTask .hflt).reds = [] ∧
      (oneTask .hflt).phases = []) ∧
    (oneTask .running).launches.filter (fun x => x.part == 0 && x.st != .ended && (oneTask .running).fdomOf x == some 0) =
      [{ launch1 with started := 2 }] := by
  have stuck (run : Run) : (oneTask run).launchStuck { launch1 with started := 2 } = (run == .hflt) := by
    unfold State.launchStuck
    rw [oneTask_placed]
    cases run <;> decide +kernel
  refine ⟨⟨_, _, _, _, scheduling_starts, by decide +kernel⟩, by decide +kernel, by decide +kernel,
    ⟨by decide +kernel, stuck .hflt, stuck .running, by decide +kernel⟩, by decide +kernel⟩

/-- The same queue, nothing submitted. -/
def queued : State := { world.mapPart 0 (fun p => { p with queues := p.queues.set 5 queue0 }) with launches := [] }
/-- RCBs of the device, the partition and the region, and a record that stands at the head of its queue. -/
def fields (l : List (Nat × Nat × Nat)) : Nat := l.foldl (fun a p => a + p.2.2 % 2 ^ (8 * p.2.1) * 2 ^ (8 * p.1)) 0
def deviceRcb0 : BitVec 2048 :=
  BitVec.ofNat 2048 (fields [(0x0C, 4, 2 ^ 18 - 1), (0x10, 4, 16), (0x18, 8, 1), (0x20, 4, 100), (0x24, 4, 100), (0x28, 4, 65536), (0x3C, 4, 1000),
    (0x38, 2, 1), (0x3A, 2, 1), (0x40, 8, 100000), (0x48, 8, 0x7700), (0x50, 8, 0x1000000), (0x58, 8, 0x400000), (0x70, 8, 0x30000)])
def partRcb0 : BitVec 2048 := BitVec.ofNat 2048 (fields [(0, 8, 0x5200), (8, 1, 1), (0x10, 4, 1), (0x40, 8, 1000)])
def regionRcb0 : BitVec 2048 :=
  BitVec.ofNat 2048 (fields [(0, 8, 0x5100), (8, 1, 2), (0x09, 1, 3), (0x0C, 4, 1), (0x10, 4, 1), (0x40, 8, 1000)])
def recordWith (l : List (Nat × Nat × Nat)) : BitVec 1024 := record1 + recordOf l
def submitted (rec' : BitVec 1024) : Launch := ⟨3, 0, 5, 0, rec', 0x9000, 0, .submitted, 0, 0, [], 0, 0, none, 0⟩
def admitting (rec' : BitVec 1024) : State :=
  let s : State := { putN world (hostKey 0x5000) 256 regionRcb0.toNat with
    deviceRcb := 0x5200, rcbCopies := [(0x5200, deviceRcb0), (0x5100, partRcb0)], launches := [submitted rec'], gcc := 777 }
  s.mapPart 0 (fun p => { p with rcb := 0x5100, queues := p.queues.set 5 { queue0 with head := 0, tail := 1 } })
/-- Admission finds the record well formed, its chain of RCBs right, and room. -/
def admitB (s : State) (l : Launch) : Bool :=
  l.recordOk &&
  match s.rcbChain l.part 6 (BitVec.ofNat 64 (l.field 0x48 8)) with
  | none => false
  | some ch =>
    s.chainOk l.part ch && decide (l.field 0 8 ≠ 0) && decide (l.field 0x13 1 = 0) &&
    let old := s.rgnAt l.part (BitVec.ofNat 64 (l.field 0x48 8))
    let id := (old.map (·.id)).getD (s.nextId + 1)
    match regionFrom l.part ch old id with
    | none => false
    | some r =>
      let held : Launch := { l with region := id, st := .held }
      let v : State := { s with
        nextId := s.nextId + 1, rgns := r :: s.rgns.filter (fun x => x.id != id),
        launches := s.launches.map (fun x => if x.id = l.id then held else x) }
      v.couldFit held r
/-- A launch held by one event object, which counts, is signalled, or has failed. -/
def heldLaunch : Launch := { submitted (recordWith [(0x13, 1, 1), (0x20, 8, 0x6000)]) with st := .held, region := 11 }
def holding1 (cnt st : Nat) : State :=
  putN (putN (putN { admitting record1 with launches := [heldLaunch] } (hostKey 0x6000) 8 cnt) (hostKey 0x6008) 6 1) (hostKey 0x600E) 2 st
def waitB (s : State) (f : EventObj → Bool) : Bool :=
  decide (s.launches = [heldLaunch]) && (heldLaunch.waits.map (s.awaited 0)).all (fun o => match o with | some e => f e | none => false) &&
  heldLaunch.waits.length == 1
def aged (g : Word) : State :=
  { admitting record1 with launches := [{ submitted record1 with st := .released, waitingSince := some 777, boost := 5, region := 11 }], gcc := g }

theorem wit_DoorbellsAdmissionAndHolds :
    ((State.reset.partOf 0).registered = false ∧ (queued.queueOf 0 6).en = false ∧ queued.launches = []) ∧
    ((queued.partOf 0).registered = true ∧ (queued.queueOf 0 5).en = true ∧
      ((queued.queueOf 0 5).tail - (queued.queueOf 0 5).head).toNat ≤ ((3 : BitVec 32) - (queued.queueOf 0 5).head).toNat ∧
      ((3 : BitVec 32) - (queued.queueOf 0 5).head).toNat = 2 ^ (queued.queueOf 0 5).lnent.toNat) ∧
    ((oneTask .running).liveOf 0 5).find? (fun l => l.index == 0) = some { launch1 with started := 2 } ∧
    ((admitting record1).headLaunch 0 5 = some (submitted record1) ∧ admitB (admitting record1) (submitted record1) = true ∧
      (admitting record1).replicated 0 5 = false ∧ (admitting record1).quiet 0) ∧
    (submitted (recordWith [(0x12, 1, 5)])).recordOk = false ∧
    ((submitted record1).recordOk = true ∧
      ({ admitting record1 with rcbCopies := [] } : State).rcbChain 0 6
        (BitVec.ofNat 64 ((submitted record1).field 0x48 8)) = none) ∧
    (waitB (holding1 0 0) (fun e => e.st == 0 && !e.signalled) = true ∧ waitB (holding1 1 0) (fun e => e.st == 0 && e.signalled) = true ∧
      waitB (holding1 0 4) (fun e => e.st != 0) = true ∧
      (heldLaunch.waits.map ((holding1 0 8).awaited 0)).any (fun o => o.isNone) = true) ∧
    ((aged 1000777).headLaunch 0 5 = (aged 1000777).launches.head? ∧ (1000000 ≤ ((aged 1000777).gcc - 777).toNat) ∧
      (submitted record1).started < (submitted record1).tasks) := by
  unfold State.quiet
  and_intros <;> decide +kernel

/-- The region to be pre-empted, with a task on context 0; and the group that has left core 0. -/
def freezing (x : Ctx) : Ctx :=
  let y := sregs [(62, 0x8000), (5, 77)] x
  { (y.mapLoop 2 (fun l => { l with active := true, lc := 5 })) with
    task := some task0, run := .running, ctm := 20, flow := { x.flow with pc := 0x4305 }, dtc := .running 100 }
def preempting : State :=
  { world.mapCtx 0 freezing with
    rgns := [rgnRun], preempts := [11], gcc := 500 }
def groupLeft : Group :=
  { id := 90, region := 11, slot := 0, core := 0, withdrawn := false, kept := false, holder := none, bank := Core.reset.bank,
    act := false, rings := Core.reset.rings, images := [(0, { preempting.ctx 0 with dtc := .frozen 400 })], frames := [],
    refused := false }
/-- The group with the tag of a part in its save area. -/
def resumingWith (tag : Byte) : State :=
  { putN world (hostKey 0x1200000) 1 tag.toNat with rgns := [rgnRun], groups := [groupLeft], gcc := 500 }
def resuming : State := resumingWith (gtagOf .e)

theorem alone_occupied (tag : Byte) : ({ resumingWith tag with groups := [] } : State).occupied = [] :=
  occupied_of (placed_none _ (fun c => congrArg Ctx.task (reset_ctx c))) rfl
theorem resumes_on (tag : Byte) (ht : tag = gtagOf .e ∨ tag = 7) :
    (resumingWith tag).resumeCore rgnRun groupLeft = some 0 := by
  have hq : (resumingWith tag).qualifies rgnRun groupLeft groupLeft.core = true := by
    have h : ({ resumingWith tag with groups := (resumingWith tag).groups.filter (fun x => x.id != groupLeft.id) } : State).occupied = [] :=
      alone_occupied tag
    unfold State.qualifies
    dsimp only
    rw [h]
    obtain rfl | rfl := ht <;> decide +kernel
  unfold State.resumeCore
  rw [if_pos (by rw [hq]; rfl)]
  rfl

/-- The group refused; its save area out of the mapped space, so that nothing of its slot can be read. -/
def refusedGroup : State := { resuming with groups := [{ groupLeft with refused := true }] }
def lostRgn : Rgn := { rgnRun with save := 0x0080000000000000 }
def lostSlot : State := { resuming with rgns := [lostRgn] }
theorem resumeAll_unread {s : State} {r : Rgn} {g : Group} (h : (s.readSlot r g.slot).isNone = true) :
    s.resumeAll r [g] = none := by
  have e : s.readSlot r g.slot = none := Option.isNone_iff_eq_none.mp h
  simp only [State.resumeAll, List.foldl, Option.bind_some, State.resumeOne, e]
  cases s.resumeCore r g <;> rfl
theorem wit_ResumesThatStayOut :
    (refusedGroup.groups.find? (fun y => y.id == 90) = some { groupLeft with refused := true } ∧ refusedGroup.rgnOf 11 = some rgnRun) ∧
    (lostSlot.groups.find? (fun y => y.id == 90) = some groupLeft ∧ lostSlot.rgnOf 11 = some lostRgn ∧ lostSlot.topLevel = none ∧
      lostSlot.resumeWith groupLeft = [groupLeft] ∧ lostSlot.strangeTag lostRgn groupLeft = false) ∧
    lostSlot.resumeAll lostRgn [groupLeft] = none :=
  ⟨by and_intros <;> decide +kernel, by and_intros <;> decide +kernel, resumeAll_unread (by decide +kernel)⟩

theorem wit_PreemptionAndResume :
    (preempting.rgnOf 11 = some rgnRun ∧ preempting.preempts = [11] ∧ ((preempting.ctx 0).task.map (·.region)) = some 11 ∧
      (∀ d, d ≠ 0 → (preempting.ctx d).task = none) ∧ (preempting.ctx 0).run = .running ∧
      preempting.leadOf 0 = 0 ∧ preempting.members 0 = [0] ∧ preempting.boundary 0 = .clear ∧ preempting.copies = [] ∧
      preempting.conds = [] ∧ preempting.posts = [] ∧ preempting.late = []) ∧
    (resuming.groups.find? (fun y => y.id == 90) = some groupLeft ∧ resuming.rgnOf 11 = some rgnRun ∧ resuming.topLevel = none ∧
      resuming.resumeWith groupLeft = [groupLeft] ∧ resuming.resumeCore rgnRun groupLeft = some 0 ∧
      resuming.slotTags rgnRun groupLeft = some [gtagOf resuming.part] ∧ (resuming.partOf 0).trace = none ∧
      groupLeft.images = [(0, { preempting.ctx 0 with dtc := .frozen 400 })] ∧ groupLeft.refused = false) ∧
    (∃ pm tags, resuming.readSlot rgnRun 0 = some (pm, tags)) ∧
    ((resumingWith 7).topLevel = none ∧ (resumingWith 7).resumeWith groupLeft = [groupLeft] ∧
      (resumingWith 7).resumeCore rgnRun groupLeft = some 0 ∧ (resumingWith 7).slotTags rgnRun groupLeft = some [7] ∧
      7 ≠ gtagOf (resumingWith 7).part ∧ ((resumingWith 7).readSlot rgnRun 0).isSome = true) ∧
    (State.reset.rgnOf 11 = none ∧ State.reset.groups = []) := by
  have h : (resuming.readSlot rgnRun 0).isSome = true := by decide +kernel
  obtain ⟨x, hx⟩ := Option.isSome_iff_exists.mp h
  have hn : ∀ d, d ≠ 0 → (preempting.ctx d).task = none := fun d hd => by
    exact (congrArg Ctx.task (ctx_mapCtx_ne world freezing hd)).trans (congrArg Ctx.task (reset_ctx d))
  exact ⟨⟨by decide +kernel, by decide +kernel, by decide +kernel, hn, by decide +kernel⟩,
    ⟨by decide +kernel, by decide +kernel, by decide +kernel, by decide +kernel, resumes_on _ (.inl rfl), by decide +kernel⟩,
    ⟨x.1, x.2, hx⟩, ⟨by decide +kernel, by decide +kernel, resumes_on _ (.inr rfl), by decide +kernel⟩, by decide +kernel⟩

/-! ### Late faults, the host, storage -/

/-- A fault queue in host memory; a copy and a reduction of the task that reach past the last page. -/
def faultQueue : State := world.mapPart 0 (fun p => { p with fq := 0x7000 })
def copyOut : Copy := { copy0 with cmd := { command0 with dsp := .glob, dst := 0x100000000 } }
def redOut : Red := { red0 false with sp := .glob, va := 0x100000000 }
def lateCopy : State := { faultQueue with copies := [copyOut] }
def lateRed : State := { faultQueue with reds := [redOut] }
/-- The fault recorded under number 0; a copy into PM stopped. -/
def stoppedCopy : Copy := { copy0 with stopped := true }
def resolving : State := { faultQueue with copies := [stoppedCopy], faults := [⟨0, 0, .copy 40⟩] }
def isFault (x : Option Stop) : Bool := match x with | some (.fault _ _) => true | _ => false
theorem of_isFault {x : Option Stop} (h : isFault x = true) : ∃ a f, x = some (.fault a f) := by
  unfold isFault at h; split at h
  · exact ⟨_, _, rfl⟩
  · cases h
/-- An operand of TINV: all of the partition's addresses. -/
def val0 : Word := 0x3F
def invalidating (busy : Bool) : State := world.mapPart 0 (fun p => { p with tinvBusy := busy })

theorem wit_LateFaultsAndInvalidation :
    (lateCopy.copyOf 40 = some copyOut ∧ copyOut.st = .run ∧ copyOut.stopped = false ∧ lateCopy.awaiting (.copy 40) = false ∧
      (∃ a f, lateCopy.lateStop (some copyOut.cid.core) copyOut.part 1 copyOut.revoked copyOut.reach = some (.fault a f)) ∧ lateCopy.faultRoom 0 = true) ∧
    (lateRed.redOf 50 = some redOut ∧ redOut.st = .issued ∧ lateRed.redoHeld redOut = false ∧ lateRed.awaiting (.red 50) = false ∧
      (∃ a f, lateRed.lateStop (some redOut.cid.core) redOut.part 0 redOut.revoked redOut.reach = some (.fault a f)) ∧ lateRed.faultRoom 0 = true) ∧
    (resolving.sound ∧ (resolving.partOf 0).registered = true ∧ (resolving.partOf 0).herr ≠ BitVec.allOnes 32 ∧
      resolving.faults.find? (fun x => x.part == 0 && x.id == 0) = some ⟨0, 0, .copy 40⟩ ∧ resolving.copyOf 40 = some stoppedCopy ∧
      resolving.isOut stoppedCopy.toOwner = false ∧ stoppedCopy.cmd.ring = none ∧ stoppedCopy.cmd.barrier = none) ∧
    (∀ val : Word, val = 1 <<< 31 ∨ val = 1 <<< 63 → val.extractLsb' 33 31 = 0 ∧ val.setWidth 32 ≠ (0 : BitVec 32) ∨ val.extractLsb' 33 31 ≠ 0) ∧
    (((invalidating false).partOf 0).tinvBusy = false ∧ ((invalidating true).partOf 0).tinvBusy = true ∧
      ((invalidating true).partOf 0).tinvWaits = [] ∧ (invalidating true).copies = [] ∧ (invalidating true).reds = [] ∧
      (val0.extractLsb' 6 10 = 0 ∧ val0.extractLsb' 56 8 = 0) ∧ ((0x40 : Word).extractLsb' 6 10 ≠ 0) ∧
      ((0x8000000000000000 : Word).extractLsb' 56 8 ≠ 0) ∧ (invalidating true).noneRevoked 0 = true ∧
      ((invalidating true).partOf 0).tinvThreads = [] ∧ copyOut.reach.any (·.meets val0) = true) ∧
    ({ resolving with groups := [groupLeft] } : State).isOut stoppedCopy.toOwner = true ∧
    ({ invalidating true with copies := [{ copy0 with revoked := some (.read, 0x3000) }] } : State).noneRevoked 0 = false ∧
    (let s := (({ invalidating true with copies := [copy0] } : State).mapPart 0 (fun p =>
        { p with tinvWaits := [(7, 0, 3)], tinvThreads := [40] })).mapCtx 0
       (fun x => { x with task := some task0, slip := [{ someEntry with ctm := 0 }] })
     (∃ w ∈ (s.partOf 0).tinvWaits, s.stillWaits w = true) ∧ ∃ n ∈ (s.partOf 0).tinvThreads, s.stillRuns n = true) ∧
    (let r : Red := { red0 true with id := 51, st := .buffered, bphase := some 5, barrier := hostKey 0x1000 }
     let o : Red := { red0 false with ordered := true }
     let s : State := { barrierOf 0 2 5 0 with reds := [r, o, { o with id := 52 }] }
     (s.redOf 51 = some r ∧ s.bufferDue r = false) ∧ s.redOf 52 = some { o with id := 52 } ∧ s.redoHeld { o with id := 52 } = true) := by
  refine ⟨⟨by decide +kernel, rfl, rfl, by decide +kernel, of_isFault (by decide +kernel), by decide +kernel⟩,
    ⟨by decide +kernel, rfl, by decide +kernel, by decide +kernel, of_isFault (by decide +kernel), by decide +kernel⟩,
    ⟨by unfold State.sound; decide +kernel, by decide +kernel⟩, ?_, by and_intros <;> decide +kernel⟩
  rintro val (rfl | rfl) <;> decide +kernel

/-- The management controller is up, in the safe state or not. -/
def managed (safe : Bool) : State := { world with mgmt := { Mgmt.reset with up := true, safe := safe, computeUp := !safe } }
/-- It runs the command of a code, its operands in its buffer. -/
def commanded (code : BitVec 8) (safe : Bool) : State :=
  let s := managed safe
  { s with mgmt := { s.mgmt with busy := true, code := code, mbarg := 0x3000 } }
/-- Every table lets the host at HBM; the first GB of the partition is one page of it. -/
def windowed : State :=
  { putN (managed false) (physKey 0x2000) 8 0x1F with
    access := ([0, 1, 2, 3].map Target.cellar ++ [0, 1, 2, 3, 4, 5, 6, 7].map Target.hbm).map
      (fun t => (t, masterOf 0 5, [⟨0, 0xFFFFFFFFFFFFFF0F⟩])) }
def isRun (r : Except TransFault (List Run2)) (x : Run2) : Bool :=
  match r with
  | .ok l => decide (l = [x])
  | .error _ => false
/-- A window access within one line reaches its storage whichever slice and stack home it. -/
theorem bar4_reaches (s : State) (p : BitVec 4) (off : BitVec 36) (a : Access) (n key : Nat) (va : Word)
    (h : isRun (s.translateAll none p a (s.bar4Addr p off) n) ⟨⟨key, n⟩, 0, va⟩ = true) (hk : isHostKey key = false)
    (ha : ¬ (a = .atomic ∨ a = .sync)) (hl : linesOf key n = [key / 256])
    (hc : ∀ d, s.permits (.cellar d) (masterOf p 5) a (max key (256 * (key / 256))) (min (key + n - 1) (256 * (key / 256) + 255)) = true)
    (hm : ∀ d, s.permits (.hbm d) (masterOf p 5) a (max key (256 * (key / 256))) (min (key + n - 1) (256 * (key / 256) + 255)) = true) :
    s.bar4Pieces p off a n = some [⟨key, n⟩] := by
  unfold isRun at h
  split at h
  · rename_i l hr
    simp only [decide_eq_true_eq] at h
    subst h
    unfold State.bar4Pieces
    rw [hr]
    simp [State.permitsRun, hk, hl, ha]
    exact ⟨hc _, hm _⟩
  · cases h
theorem localOwner_reset (key : Nat) : State.reset.localOwner key = none := by
  unfold State.localOwner
  rw [List.find?_eq_none]
  intro c _
  rw [reset_ctx]
  exact fun h => by cases h

theorem wit_HostAccessAndStorageErrors :
    ((managed false).mgmt.up = true ∧ (managed false).mgmt.busy = false ∧ knownCommand ((0x116 : Word).setWidth 8 : BitVec 8).toNat = true ∧
      knownCommand ((0x17 : Word).setWidth 8 : BitVec 8).toNat = false ∧
      (0x5000000000 : Word) &&& ~~~ 0x00FFFFF000000000#64 = 0 ∧ (0x5000000001 : Word) &&& ~~~ 0x00FFFFF000000000#64 ≠ 0) ∧
    ((world.partOf 0).registered = true ∧ (State.reset.partOf 0).registered = false ∧ (world.partOf 0).herr ≠ BitVec.allOnes 32) ∧
    (windowed.sound ∧ (windowed.partOf 0).registered = true ∧ windowed.bar4Pieces 0 0x10000 .read 16 = some [⟨physKey 0x10000, 16⟩] ∧
      windowed.bar4Pieces 0 0x100FF .write [(7 : Byte)].length = some [⟨physKey 0x100FF, [(7 : Byte)].length⟩]) ∧
    (world.bar4Pieces 0 0x10000 .read 16 = none ∧ world.bar4Pieces 0 0x10000 .write [(7 : Byte)].length = none) ∧
    ((managed true).scrubbed (.word (pmKey 0 0x8)) = false ∧ (managed true).scrubbed (.s 0 5) = false ∧
      (managed false).mgmt.computeUp = true ∧ ErrorAt.acc 0 3 ∉ (managed false).parity ∧ (commanded 1 false).mgmt.busy = true) ∧
    ((0x1000 : BitVec 44).toNat * 256 ∉ State.reset.poison ∧ State.reset.ownerOf (0x1000 * 256) = none) ∧
    (isHostKey 0x100000 = false ∧ State.reset.localOwner 0x100000 = none ∧ State.reset.ownerOf 0x100000 = none ∧
      isHostKey (2 ^ 53) = false ∧ State.reset.localOwner (2 ^ 53) = none ∧ State.reset.ownerOf (2 ^ 53) = none) := by
  refine ⟨by decide +kernel, by decide +kernel,
    ⟨by unfold State.sound; decide +kernel, by decide +kernel, ?_, ?_⟩, ?_, ?_, ?_,
    ⟨by decide +kernel, localOwner_reset _, by decide +kernel, by decide +kernel, localOwner_reset _, by decide +kernel⟩⟩
  · apply bar4_reaches _ _ _ _ _ _ 0x10000 <;> decide +kernel
  · apply bar4_reaches _ _ _ _ _ _ 0x100FF <;> decide +kernel
  all_goals decide +kernel

/-- The brake van's device: units may be leased, or a lease of a class runs. -/
def leasing : State := { managed false with gcc := 10000000000000 }
def leased : State := { leasing with van := { Van.reset with running := Van.reset.running.set 2 (some ⟨3, 5, 0, false⟩) } }
def forcing : State := { leasing with van := { Van.reset with forced := Van.reset.forced.set 2 [255, 4] } }
/-- A context whose region's notice 4 stands unacknowledged for 10 ms. -/
def unheard (posted : BitVec 32) : State :=
  { world.mapCtx 0 (fun x => { running x with ackSince := some 100, dtc := .running 0 }) with
    rgns := [{ rgn0 with seq := 4, posted := posted }], gcc := 10000100 }

theorem wit_LeasesScoresAndNotices :
    (leasing.vanRuns = true ∧ leasing.van.cfg.en = 0b111 ∧ leasing.van.running[0] = none ∧ leasing.van.running[1] = none ∧ leasing.van.running[2] = none ∧
      leasePeriod leasing.van.cfg .core ≤ (leasing.gcc - leasing.van.due[0]).toNat ∧ leasing.nextUnit .core = some 0 ∧
      leasePeriod leasing.van.cfg .link ≤ (leasing.gcc - leasing.van.due[1]).toNat ∧ leasing.nextUnit .link = some 0 ∧ leasing.rgns = [] ∧
      leasePeriod leasing.van.cfg .channel ≤ (leasing.gcc - leasing.van.due[2]).toNat ∧ leasing.nextUnit .channel = some 0) ∧
    (∀ c ∈ coreCtxs 0, (leasing.ctx c).task = none) ∧
    (forcing.van.forced[2] = 255 :: [4] ∧ forcing.van.running[2] = none ∧ forcing.vanRuns = true ∧ forcing.isRetired .channel 255 = false) ∧
    ((managed true).vanRuns = false ∧ forcing.forcedDue .channel = true ∧ leasing.forcedDue .channel = false ∧
      leasing.forcedDue .core = false ∧ leasing.forcedDue .link = false) ∧
    (leased.van.cfg.log = 0 ∧ leased.van.running[2] = some ⟨3, 5, 0, false⟩ ∧ leased.van.log.length ≤ 64 ∧ leased.van.store.length < 1024) ∧
    (world.gcc.toNat / 3600000000000 ≤ world.van.lastHour ∧ leasing.van.lastHour < leasing.gcc.toNat / 3600000000000) ∧
    ∀ n ∈ [(3 : BitVec 32), 4], (unheard n).ctxRgn 0 = some { rgn0 with seq := 4, posted := n } ∧ ((unheard n).ctx 0).run = .running ∧
      ((unheard n).ctx 0).ackSince = some 100 ∧ ((unheard n).ctx 0).ack.toNat < (4 : BitVec 32).toNat ∧
      10000000 ≤ ((unheard n).dtc 0 - 100).toNat := by
  refine ⟨by decide +kernel, fun c _ => congrArg Ctx.task (reset_ctx c), by decide +kernel, by decide +kernel, by decide +kernel,
    by decide +kernel, ?_⟩
  intro n hn
  simp only [List.mem_cons, List.not_mem_nil, or_false] at hn
  obtain rfl | rfl := hn <;> decide +kernel

/-! ### Links and the management controller -/

/-- A porch whose ports are trained, every chip reached over port 0; the last sequence number is next on both ways. -/
def port0 : Port := { Port.reset with trained := true, rxSeq := 0xFFFF, txSeq := 0xFFFF, credits := Vector.replicate 16 2 }
def linked : State :=
  { world with
    access := [(.porch, masterOf 0 6, [⟨0, 0xFFFFFFFFFFFFFF0F⟩])],
    porch := { Porch.reset with up := true, ports := Vector.replicate 12 port0, routes := (Vector.replicate 64 1).set 63 0 } }
/-- A flit from chip 3. -/
def flit (kind : BitVec 4) (dchip : BitVec 6) (seq : BitVec 16) : Flit := ⟨15, kind, dchip, 3, false, true, 9, seq, 77⟩
def portAtB (s : State) (p : Nat) (x : Port) : Bool := decide (s.portAt p = some x)
def closedPort (x : Port) : State := { linked with porch := { linked.porch with ports := Vector.replicate 12 x } }

/-- Every partition registered and admitted by the porch's table, so that whichever a request names can be served; and none. -/
def open' : State :=
  { linked with
    parts := Vector.replicate 16 { Part.reset with registered := true },
    access := (List.range 16).map (fun p => (.porch, masterOf (BitVec.ofNat 4 p) 6, [⟨0, 0xFFFFFFFFFFFFFF0F⟩])) }
def shut : State := { linked with access := [] }
theorem wit_LinkIngress : open'.ingressAllowed 0 (flit 1 0 0xFFFF) = true ∧ shut.ingressAllowed 0 (flit 1 0 0xFFFF) = false ∧
    open'.portAt 0 = some port0 ∧ shut.portAt 0 = some port0 ∧ open'.porch.absent = false ∧ shut.porch.absent = false := by
  unfold State.ingressAllowed
  generalize Config.requestPart (flit 1 0 0xFFFF).schip (flit 1 0 0xFFFF).pay = p
  revert p
  decide +kernel

theorem wit_LinkTraffic :
    (linked.portAt 11 = some port0 ∧ linked.porch.up = true ∧ port0.trained = true ∧ State.reset.porch.up = false ∧
      (flit 1 0 0x7FFE).seq ≠ port0.rxSeq ∧ ((flit 1 0 0x7FFE).seq - port0.rxSeq).toNat < 0x8000 ∧
      0x8000 ≤ ((flit 1 0 0x7FFF).seq - port0.rxSeq).toNat) ∧
    ([0#4, 1, 2, 3].all (fun k => linked.portAt 0 == some port0 && (flit k 0 0xFFFF).kind == k && (flit k 0 0xFFFF).seq == port0.rxSeq) = true ∧
      (flit 1 0 0xFFFF).dchip = linked.chip ∧
      linked.outstandingOf (flit 3 0 0xFFFF) = none ∧
      ({ linked with porch := { linked.porch with outstanding := [(9, 15, 3, .send 60)] } } : State).outstandingOf (flit 3 0 0xFFFF) =
        some (9, 15, 3, .send 60)) ∧
    ((flit 1 5 0xFFFF).dchip ≠ linked.chip ∧ linked.routeMask 5 = 1 ∧ linked.routeMask 63 = 0) ∧
    ({ linked with porch := { linked.porch with absent := true } } : State).portAt 0 = some port0 ∧
    (linked.inboundOpen (flit 2 0 0xFFFF) = false ∧
      ({ linked with porch := { linked.porch with inbound := [(0, flit 1 0 0xFFFE)] } } : State).inboundOpen (flit 2 0 0xFFFF) = true) ∧
    (linked.portFor (flit 3 3 0) = some 0 ∧ linked.portAt 0 = some port0 ∧ port0.held = [] ∧ port0.open = true ∧ port0.credit 15 ≠ 0 ∧
      (closedPort { port0 with holding := true }).portFor (flit 3 3 0) = some 0 ∧ ({ port0 with holding := true } : Port).open = false ∧
      (closedPort { port0 with credits := Vector.replicate 16 0 }).portFor (flit 3 3 0) = some 0 ∧
      ({ port0 with credits := Vector.replicate 16 0 } : Port).credit 15 = 0) := by
  decide +kernel

/-- A post of two members, one of them on this chip, that awaits an answer. -/
def post1 : Post := { owner0 with
  id := 80, ctm := 0, num := 0, die := 0, gid := 5, inst := 0, rank := 0, block := 0, entries := [0, 3 * 4], st := .run, rsn := 0,
  flags := Flags.none, started := 0, limit := 0, asked := true, stepped := false, event := 0, ahead := [], done := [] }
def awaitingPost : State := { linked with posts := [post1], porch := { linked.porch with outstanding := [(9, 15, 3, .post 80)] } }

theorem wit_LinkControlAndFailures :
    (port0.held = [] ∧ [4#4, 5, 6, 7, 8].all (fun k => linked.portAt 0 == some port0 && linked.porch.up && port0.trained &&
      (flit k 0 0xFFFF).kind == k && (flit k 0 0xFFFF).seq == port0.rxSeq) = true) ∧
    (awaitingPost.sound ∧ awaitingPost.outstandingOf (flit 7 0 0xFFFF) = some (9, 15, 3, .post 80) ∧ (flit 7 0 0xFFFF).dchip = awaitingPost.chip ∧
      awaitingPost.posts.find? (fun q => q.id == 80) = some post1 ∧ post1.st = .run ∧
      awaitingPost.localDies post1.entries = [post1.die] ∧ awaitingPost.portAt 0 = some port0) ∧
    (let s : State := { linked with porch := { linked.porch with outstanding := [(9, 15, 3, .send 60)] } }
     Memory.wf s.mem = true ∧ s.outstandingOf (flit 7 0 0xFFFF) = some (9, 15, 3, .send 60) ∧ s.portAt 0 = some port0) ∧
    linked.outstandingOf (flit 8 0 0xFFFF) = none ∧
    (linked.portAt 11 = some port0 ∧ (flit 9 0 0).kind = 9 ∧ (flit 9 0 0).kind.toNat < 10 ∧ 10 ≤ (flit 15 0 0).kind.toNat ∧
      linked.van.running[1] = none ∧
      ({ linked with van := { Van.reset with running := Van.reset.running.set 1 (some ⟨11, 5, 0, true⟩) } } : State).van.running[1] =
        some ⟨11, 5, 0, true⟩) := by
  refine ⟨by decide +kernel, ⟨by unfold State.sound; decide +kernel, by decide +kernel⟩, by decide +kernel, by decide +kernel, by decide +kernel⟩

/-- A firmware image of an SVN whose body has the length and digest that its header names, and whose signatures verify or not. -/
def image (svn : BitVec 32) (good : Bool) : FirmwareImage := ⟨0x47524657, 4, svn, 9, 4, 9, good, good⟩
/-- The image of firmware slot A verifies, or none does. -/
def findings (svn : BitVec 32) (good : Bool) (islands : BitVec 16) : BootFindings := ⟨image svn good, image svn false, islands, [], 0xFFF, 0⟩

theorem wit_ResetsAndPowerOn :
    ((managed true).mgmt.safe = true ∧ (managed false).mgmt.safe = false) ∧ (linked.porch.outstanding = [] ∧ linked.portAt 11 = some port0) ∧
    (port0.service ≠ .retired ∧ (closedPort { port0 with service := .retired }).portAt 0 = some { port0 with service := .retired }) ∧
    (bootSlot (findings 0 true 0) 0 = some (0, image 0 true) ∧ bootSlot (findings 4 true 0) 5 = none ∧
      bootSlot (findings 9 false 0) 0 = none ∧ (findings 0 true 0x2000).islands ≠ 0) ∧
    (State.reset.porchPassed = false ∧ (managed false).porchPassed = true ∧
      ({ managed false with mgmt := { Mgmt.reset with up := true, selfTest := 1#512 <<< 31 } } : State).porchPassed = false) ∧
    (leased.van.running[2] = some ⟨3, 5, 0, false⟩ ∧ leasing.van.running = Van.reset.running) := by
  decide +kernel

/-- A queue table of 64 disabled queues of 16 entries in physical memory. -/
def tables : State := (List.range 64).foldl (fun s q => putN s (physKey (0x8000 + 32 * q + 8)) 1 4) (commanded 1 false)
def regArgs (queues : Word) : RegArgs := ⟨15, 0x5100, 0x6000, queues, false, [64, 0, 0, 0], []⟩
def knownRegion (code : BitVec 8) : State := { commanded code false with rgns := [rgnRun] }
/-- An LCB in the command buffer: its three periods, EN, LOG and LOGN, and a reserved bit. -/
def lcbAt (perc logn rest : Nat) : State :=
  (commanded 4 false).putBytes (hostKey 0x3000) (leBytes 4 perc ++ leBytes 4 3600000 ++ leBytes 4 1000 ++ leBytes 4 7 ++ leBytes 8 0x1000 ++
    leBytes 1 logn ++ leBytes 39 rest)
def lcbB (s : State) : Bool × Bool :=
  let w : BitVec 512 := BitVec.ofNat 512 (s.bufNat 64)
  (lcbReservedOk w, leaseConfigOk (leaseConfigOf w))

theorem wit_MailboxCommands :
    (∀ c ∈ [(1 : BitVec 8), 2, 3, 4, 5, 6, 7, 8], (managed false).runs c = false ∧ (commanded c true).runs c = true ∧
      (commanded c true).mgmt.safe = true ∧ (commanded c false).runs c = true ∧ (commanded c false).mgmt.safe = false) ∧
    (tables.runs 1 = true ∧ (tables.registerPart (regArgs 0)).isNone = true ∧ (tables.registerPart (regArgs 0x8000)).isSome = true) ∧
    (((commanded 2 false).partOf 15).registered = false ∧ ((commanded 2 false).partOf 0).registered = true ∧
      (commanded 2 false).launches = []) ∧
    ([(⟨0x1000, 0x1FFF00F⟩ : AccRange)].all rangeOk = true ∧ rangeOk ⟨0x1001, 0x1FFF00F⟩ = false ∧ ((0x16 : BitVec 8).setWidth 4 : BitVec 4).toNat < 7) ∧
    ((lcbAt 1000 16 0).runs 4 = true ∧ (0x40 : Word) ≠ (lcbAt 1000 16 0).mgmt.mbarg ∧ lcbB (lcbAt 1000 16 0) = (true, true) ∧ lcbB (lcbAt 999 16 0) = (true, false) ∧
      lcbB (lcbAt 1000 16 1) = (false, true) ∧ lcbB (lcbAt 1000 17 0) = (true, false)) ∧
    (let c : TraceConfig := ⟨0x1000, 4, 20, false, 1⟩
     c.ring.setWidth 12 = (0 : BitVec 12) ∧ 4 ≤ c.logn.toNat ∧ c.logn.toNat ≤ 16 ∧ 10 ≤ c.period.toNat ∧ c.period.toNat ≤ 20) ∧
    (∀ c ∈ [(6 : BitVec 8), 7], (knownRegion c).runs c = true ∧ (knownRegion c).rgnAt 0 0x9900 = none ∧ (knownRegion c).rgnAt 5 0x5000 = none ∧
      (knownRegion c).rgnAt 0 0x5000 = some rgnRun) := by
  decide +kernel

/-- A traced context, its ring of 16 records empty near the wrap of TAIL. -/
def ring0 : TraceConfig := ⟨0x10000, 4, 10, false, 1⟩
def sampling : State :=
  putN (putN ((world.mapCtx 0 running).mapPart 0 (fun p => { p with trace := some ring0 })) (physKey 0x10004) 4 0xFFFFFFFF)
    (physKey 0x10008) 4 0xFFFFFFFF

theorem wit_MailboxReadsClocksAndSamples :
    ((∀ c ∈ [(0x10 : BitVec 8), 0x11, 0x12, 0x13, 0x14, 0x15, 0x16], (commanded c true).runs c = true ∧ (managed false).runs c = false) ∧
      (commanded 0x10 true).sound ∧ (managed false).binFixed 7 = false) ∧
    (sampling.sound ∧ (sampling.ctx 0).run = .running ∧ (sampling.ctx 0).slip = [] ∧ (sampling.partOf (sampling.ctxPart 0)).trace = some ring0 ∧ ring0.mask.getLsbD 0 = true ∧
      (sampling.partOf (sampling.ctxPart 0)).traceDropped = 0 ∧ sampling.traceRoom ring0 = true) ∧
    ((State.reset.ctx 0).run ≠ .running ∧ (world.partOf (world.ctxPart 0)).trace = none) := by
  unfold State.sound
  exact ⟨by decide +kernel, by decide +kernel, by decide +kernel⟩

end Sys2Proof.Tests
end

section
/-!
What writes of storage, records and found errors leave alone.
-/
namespace Sys2Proof.Machine

/-! ## Updates one after another -/

/-- What every update of a fold keeps of its state, the fold keeps. -/
theorem foldl_related {α : Type} {R : State → State → Prop} (refl : ∀ s, R s s)
    (trans : ∀ {s t u : State}, R s t → R t u → R s u) {f : State → α → State} (hf : ∀ t x, R t (f t x)) (l : List α)
    (s : State) : R s (l.foldl f s) := by
  induction l generalizing s with
  | nil => exact refl s
  | cons x l ih => exact trans (hf s x) (ih _)

/-- What every update of a fold leaves of its state, the fold leaves. -/
theorem foldl_keeps {α β : Type} (g : State → β) {f : State → α → State} (hf : ∀ t x, g (f t x) = g t) (l : List α)
    (s : State) : g (l.foldl f s) = g s :=
  foldl_related (R := fun s t => g t = g s) (fun _ => rfl) (fun h k => k.trans h) hf l s

/-! ## Storage, records and errors (R148, R431, R454) -/

/-- A state with the storage and its marks, the records that wait, the brake van and the management controller of another: what
a write of storage, a record or a found error may change (R148, R431, R454). -/
def State.withStores (s t : State) : State :=
  { s with mem := t.mem, poison := t.poison, damaged := t.damaged, held := t.held, van := t.van, mgmt := t.mgmt }

/-- The states differ at most in what a write of storage, a record or a found error may change. -/
def StoresOnly (s t : State) : Prop := t = s.withStores t

namespace StoresOnly

theorem refl (s : State) : StoresOnly s s := rfl

theorem trans {s t u : State} (h : StoresOnly s t) (k : StoresOnly t u) : StoresOnly s u :=
  calc u = t.withStores u := k
    _ = (s.withStores t).withStores u := congrArg (·.withStores u) h
    _ = s.withStores u := rfl

theorem foldl {α : Type} {f : State → α → State} (hf : ∀ t x, StoresOnly t (f t x)) (l : List α) (s : State) :
    StoresOnly s (l.foldl f s) := foldl_related refl trans hf l s

variable {s t : State} (h : StoresOnly s t)
include h

theorem eq : t = s.withStores t := h
theorem ctxs : t.ctxs = s.ctxs := (congrArg State.ctxs h.eq).trans rfl
theorem cores : t.cores = s.cores := (congrArg State.cores h.eq).trans rfl
theorem gcc : t.gcc = s.gcc := (congrArg State.gcc h.eq).trans rfl
theorem groups : t.groups = s.groups := (congrArg State.groups h.eq).trans rfl
theorem phases : t.phases = s.phases := (congrArg State.phases h.eq).trans rfl
theorem porch : t.porch = s.porch := (congrArg State.porch h.eq).trans rfl

end StoresOnly

theorem storesOnly_putBytes (s : State) (k : Nat) (bs : List Byte) : StoresOnly s (s.putBytes k bs) := rfl
theorem storesOnly_putNat (s : State) (k n v : Nat) : StoresOnly s (s.putNat k n v) := rfl
theorem storesOnly_putCells (s : State) (l : List (Nat × Carried)) : StoresOnly s (s.putCells l) := rfl
theorem storesOnly_readErrors (s : State) (r : Reader) (ps : List Piece) : StoresOnly s (s.readErrors r ps) := rfl

theorem storesOnly_putPieces (s : State) (ps : List Piece) (bs : List Byte) : StoresOnly s (s.putPieces ps bs) := by
  induction ps generalizing s bs with
  | nil => exact .refl s
  | cons p ps ih => exact (storesOnly_putBytes ..).trans (ih ..)

theorem storesOnly_globalPut (s : State) (p c : BitVec 4) (va : Word) (bs : List Byte) :
    StoresOnly s (s.globalPut p c va bs) := by
  unfold State.globalPut
  split
  · exact storesOnly_putPieces ..
  · exact .refl s

theorem storesOnly_globalPutAll (s : State) (p c : BitVec 4) (ws : List (Word × List Byte)) :
    StoresOnly s (s.globalPutAll p c ws) := by
  refine StoresOnly.foldl (fun t x => ?_) _ s
  split
  · exact storesOnly_putPieces ..
  · exact .refl t

/-- A record posted to a queue is written, held or dropped with OVF (R431). -/
theorem storesOnly_post (s : State) (p : BitVec 4) (q : Word) (bs : List Byte) : StoresOnly s (s.post p q bs) := by
  unfold State.post
  split
  · exact .refl s
  · dsimp only
    split
    · exact storesOnly_globalPutAll ..
    · split
      · exact rfl
      · exact storesOnly_globalPut ..

theorem storesOnly_postEvent (s : State) (r : Rgn) (kind ctx core cnt : Nat) (det : Word) :
    StoresOnly s (s.postEvent r kind ctx core cnt det) := storesOnly_post ..

theorem storesOnly_scoreError (s : State) (k : Nat) : StoresOnly s (s.scoreError k) := by
  unfold State.scoreError
  split
  · exact rfl
  · split <;> exact rfl

/-- A corrected error changes no byte and no mark of poison (R148, R469). -/
theorem scoreError_mem (s : State) (k : Nat) : (s.scoreError k).mem = s.mem ∧ (s.scoreError k).poison = s.poison := by
  unfold State.scoreError
  split
  · exact ⟨rfl, rfl⟩
  · split <;> exact ⟨rfl, rfl⟩

theorem storesOnly_recordError (s : State) (k : Nat) (who : Option Reader) : StoresOnly s (s.recordError k who) := by
  unfold State.recordError
  dsimp only
  split
  · exact storesOnly_post ..
  · split
    · split
      · exact .refl s
      · exact storesOnly_post ..
    · split
      · exact .refl s
      · exact storesOnly_post ..

/-- The record of an error whose storage has no owner, met by nobody, is no record (R454). -/
theorem recordError_unowned {s : State} {k : Nat} (hl : s.localOwner k = none) (ho : s.ownerOf k = none) :
    s.recordError k none = s := by
  simp [State.recordError, hl, ho]

end Sys2Proof.Machine
end

section
/-!
O54: the registers and the memory window of the host, and errors of storage (spec/18, spec/19, spec/20).
-/
namespace Sys2Proof.Machine

/-! ## BAR0 (R412, R437, R482, R507) -/

/-- An offset of an array of doorbells names its queue (R412). -/
theorem doorbellQueue_eq_some {off : BitVec 16} {base : Nat} {q : BitVec 6} (hb : base % 8 = 0)
    (h : off.toNat = base + 8 * q.toNat) : doorbellQueue off base = some q := by
  have hq := q.isLt
  have hn : (off.toNat - base) / 8 = q.toNat := by omega
  have hc : base ≤ off.toNat ∧ off.toNat < base + 512 ∧ off.toNat % 8 = 0 := by omega
  simp [doorbellQueue, hc, hn]

/-- An offset outside an array of doorbells names no queue. -/
theorem doorbellQueue_eq_none {off : BitVec 16} {base : Nat} (h : off.toNat < base ∨ base + 512 ≤ off.toNat) :
    doorbellQueue off base = none := by
  have hc : ¬ (base ≤ off.toNat ∧ off.toNat < base + 512 ∧ off.toNat % 8 = 0) := by omega
  simp [doorbellQueue, hc]

/-- A refused request of the host is counted while HERR has room (R482). -/
theorem hostError_of_room {s : State} {p : BitVec 4} (h : (s.partOf p).herr ≠ BitVec.allOnes 32) :
    s.hostError p = s.mapPart p (fun x => { x with herr := x.herr + 1 }) := by
  unfold State.hostError State.mapPart
  simp only [if_neg h]

/-- No virtual function has a number above 16 (R481). -/
theorem registerWrite_absent {s : State} {fn : BitVec 5} (h : 17 ≤ fn.toNat) (off : BitVec 16) (val : Word) :
    exec (.registerWrite fn off val) s = .next s := by
  have h0 : fn ≠ 0 := by rintro rfl; simp at h
  exact congrArg Host.Outcome.next ((if_neg h0).trans (if_pos h))

/-- A write to the physical function is one to the mailbox (R507). -/
theorem registerWrite_mailbox (s : State) (off : BitVec 16) (val : Word) :
    exec (.registerWrite 0 off val) s = .next (s.writeMailbox off val) := rfl

/-- The partition of a virtual function's number. -/
theorem partition_of_function {fn : BitVec 5} {p : BitVec 4} (h : fn.toNat = p.toNat + 1) :
    fn ≠ 0 ∧ ¬ 17 ≤ fn.toNat ∧ BitVec.ofNat 4 (fn.toNat - 1) = p := by
  have hp := p.isLt
  refine ⟨?_, by omega, ?_⟩
  · rintro rfl; simp at h
  · rw [show fn.toNat - 1 = p.toNat by omega]; simp

/-- A write to a virtual function of a registered partition is a doorbell, or one of its registers (R412, R437, R482). -/
theorem registerWrite_registered {s : State} {fn : BitVec 5} {p : BitVec 4} (hf : fn.toNat = p.toNat + 1)
    (hr : (s.partOf p).registered = true) (off : BitVec 16) (val : Word) :
    exec (.registerWrite fn off val) s = .next
      (match doorbellQueue off 0, doorbellQueue off 0x0400 with
        | some q, _ => Out.state (execTail p q val s) s
        | none, some q => Out.state (execCancelDoorbell p q val s) s
        | none, none =>
          if off = 0x0800 then s.writeTinv p val
          else if off = 0x0810 then s.writeFres p val
          else if off = 0x0818 then
            if val &&& ~~~ 0x00FFFFF000000000#64 ≠ 0 then s.hostError p
            else s.mapPart p (fun x => { x with wbase := val })
          else s) := by
  obtain ⟨h0, h17, rfl⟩ := partition_of_function hf
  exact congrArg Host.Outcome.next ((if_neg h0).trans ((if_neg h17).trans (if_neg (by simp [hr]))))

theorem registerWrite_unregistered {s : State} {fn : BitVec 5} {p : BitVec 4} (hf : fn.toNat = p.toNat + 1)
    (hr : (s.partOf p).registered = false) (off : BitVec 16) (val : Word) :
    exec (.registerWrite fn off val) s = .next s := by
  obtain ⟨h0, h17, rfl⟩ := partition_of_function hf
  exact congrArg Host.Outcome.next ((if_neg h0).trans ((if_neg h17).trans (if_pos (by simp [hr]))))

/-- A register behind both arrays of doorbells is none of theirs. -/
theorem registerWrite_behind_doorbells {s : State} {fn : BitVec 5} {p : BitVec 4} (hf : fn.toNat = p.toNat + 1)
    (hr : (s.partOf p).registered = true) {off : BitVec 16} (ho : 0x0600 ≤ off.toNat) (val : Word) :
    exec (.registerWrite fn off val) s = .next
      (if off = 0x0800 then s.writeTinv p val
        else if off = 0x0810 then s.writeFres p val
        else if off = 0x0818 then
          if val &&& ~~~ 0x00FFFFF000000000#64 ≠ 0 then s.hostError p
          else s.mapPart p (fun x => { x with wbase := val })
        else s) := by
  rw [registerWrite_registered hf hr, doorbellQueue_eq_none (base := 0) (by omega),
    doorbellQueue_eq_none (base := 0x0400) (by omega)]

theorem mailbox_writes {s : State} (hu : s.mgmt.up = true) (off : BitVec 16) (val : Word) :
    (off = 0x0008 →
      exec (.registerWrite 0 off val) s = .next { s with mgmt := { s.mgmt with mbarg := val &&& ~~~ 0x3F#64 } }) ∧
    (off = 0x0000 → s.mgmt.busy = false → knownCommand (val.setWidth 8 : BitVec 8).toNat = true →
      exec (.registerWrite 0 off val) s =
        .next { s with mgmt := { s.mgmt with busy := true, code := val.setWidth 8 } }) ∧
    (off = 0x0000 → s.mgmt.busy = false → knownCommand (val.setWidth 8 : BitVec 8).toNat = false →
      exec (.registerWrite 0 off val) s =
        .next { s with mgmt := { s.mgmt with busy := false, mst := 3, mseq := s.mgmt.mseq + 1, code := val.setWidth 8 } }) ∧
    (off = 0x0000 → s.mgmt.busy = true → exec (.registerWrite 0 off val) s = .next s) := by
  simp only [registerWrite_mailbox, State.writeMailbox, hu, Bool.not_true, Bool.false_eq_true, if_false]
  refine ⟨?_, ?_, ?_, ?_⟩
  · rintro rfl; rfl
  · rintro rfl hb hk; simp only [hb, hk, Bool.false_eq_true, if_true, if_false]; rfl
  · rintro rfl hb hk; simp only [hb, hk, Bool.false_eq_true, if_true, if_false]; rfl
  · rintro rfl hb; simp [hb]

theorem virtual_function_writes {s : State} {fn : BitVec 5} {p : BitVec 4} (hf : fn.toNat = p.toNat + 1)
    (hr : (s.partOf p).registered = true) (off : BitVec 16) (val : Word) :
    (∀ q : BitVec 6, off.toNat = 8 * q.toNat → exec (.registerWrite fn off val) s = exec (.tail p q val) s) ∧
    (∀ q : BitVec 6, off.toNat = 0x400 + 8 * q.toNat →
      exec (.registerWrite fn off val) s = exec (.cancelDoorbell p q val) s) ∧
    (off = 0x0800 → exec (.registerWrite fn off val) s = exec (.tinv p val) s) ∧
    (off = 0x0810 → exec (.registerWrite fn off val) s = .next (s.writeFres p val)) ∧
    (off = 0x0818 → val &&& ~~~ 0x00FFFFF000000000#64 = 0 →
      exec (.registerWrite fn off val) s = .next (s.mapPart p (fun x => { x with wbase := val }))) ∧
    (off = 0x0818 → val &&& ~~~ 0x00FFFFF000000000#64 ≠ 0 → (s.partOf p).herr ≠ BitVec.allOnes 32 →
      exec (.registerWrite fn off val) s = .next (s.mapPart p (fun x => { x with herr := x.herr + 1 }))) := by
  refine ⟨fun q hq => ?_, fun q hq => ?_, ?_, ?_, ?_, ?_⟩
  · rw [registerWrite_registered hf hr, doorbellQueue_eq_some (base := 0) (q := q) rfl (by omega)]; rfl
  · rw [registerWrite_registered hf hr, doorbellQueue_eq_none (base := 0) (by omega),
      doorbellQueue_eq_some (base := 0x0400) rfl hq]; rfl
  · rintro rfl; rw [registerWrite_behind_doorbells hf hr (by decide)]; rfl
  · rintro rfl; rw [registerWrite_behind_doorbells hf hr (by decide)]; rfl
  · rintro rfl hv; rw [registerWrite_behind_doorbells hf hr (by decide), if_neg (not_not.mpr hv)]; rfl
  · rintro rfl hv he; rw [registerWrite_behind_doorbells hf hr (by decide), ← hostError_of_room he, if_pos hv]; rfl

/-- What a read of a virtual function of a registered partition returns (R482). -/
theorem readRegister_registered {s : State} {fn : BitVec 5} {p : BitVec 4} (hf : fn.toNat = p.toNat + 1)
    (hr : (s.partOf p).registered = true) (off : BitVec 16) :
    s.readRegister fn off =
      if off = 0x0808 then ((s.partOf p).tinvSeq ++ 0#31 ++ BitVec.ofBool (s.partOf p).tinvBusy : BitVec 64)
      else if off = 0x0818 then (s.partOf p).wbase
      else if off = 0x0820 then (s.partOf p).herr.setWidth 64
      else 0 := by
  obtain ⟨h0, h17, rfl⟩ := partition_of_function hf
  unfold State.readRegister
  rw [if_neg h0, if_neg h17]
  simp only [hr, Bool.not_true, Bool.false_eq_true, if_false]

/-- A doorbell reads as zero (R412). -/
theorem readRegister_doorbell {s : State} {fn : BitVec 5} {p : BitVec 4} (hf : fn.toNat = p.toNat + 1)
    (hr : (s.partOf p).registered = true) {n : Nat} (hn : n < 0x0800) : s.readRegister fn (BitVec.ofNat 16 n) = 0 := by
  have hne {m : Nat} (hm : 0x0800 ≤ m) (hm' : m < 2 ^ 16) : BitVec.ofNat 16 n ≠ BitVec.ofNat 16 m := by
    intro e
    have := congrArg BitVec.toNat e
    simp only [BitVec.toNat_ofNat] at this
    omega
  exact (readRegister_registered hf hr _).trans ((if_neg (hne (m := 0x0808) (by omega) (by omega))).trans
    ((if_neg (hne (m := 0x0818) (by omega) (by omega))).trans (if_neg (hne (m := 0x0820) (by omega) (by omega)))))

/-- The fields of TINVS (R437). -/
theorem tinvs_fields (seq : BitVec 32) (busy : Bool) :
    let w : BitVec 64 := seq ++ 0#31 ++ BitVec.ofBool busy
    w.getLsbD 0 = busy ∧ w.extractLsb' 1 31 = 0 ∧ w.extractLsb' 32 32 = seq := by
  refine ⟨by rw [BitVec.getLsbD_append]; simp, ?_, ?_⟩ <;>
  · ext i hi
    simp [BitVec.getElem_extractLsb']
    grind

theorem virtual_function_reads {s : State} {fn : BitVec 5} {p : BitVec 4} (hf : fn.toNat = p.toNat + 1)
    (hr : (s.partOf p).registered = true) :
    (∀ q : BitVec 6, s.readRegister fn (BitVec.ofNat 16 (8 * q.toNat)) = 0 ∧
      s.readRegister fn (BitVec.ofNat 16 (0x400 + 8 * q.toNat)) = 0) ∧
    s.readRegister fn 0x0800 = 0 ∧ s.readRegister fn 0x0810 = 0 ∧
    (s.readRegister fn 0x0808).getLsbD 0 = (s.partOf p).tinvBusy ∧
    (s.readRegister fn 0x0808).extractLsb' 1 31 = 0 ∧ (s.readRegister fn 0x0808).extractLsb' 32 32 = (s.partOf p).tinvSeq ∧
    s.readRegister fn 0x0818 = (s.partOf p).wbase ∧
    s.readRegister fn 0x0820 = (s.partOf p).herr.setWidth 64 := by
  have htinvs : s.readRegister fn 0x0808 = _ := readRegister_registered hf hr 0x0808
  obtain ⟨hbusy, hzero, hseq⟩ := tinvs_fields (s.partOf p).tinvSeq (s.partOf p).tinvBusy
  refine ⟨fun q => ?_, readRegister_registered hf hr 0x0800, readRegister_registered hf hr 0x0810,
    htinvs ▸ hbusy, htinvs ▸ hzero, htinvs ▸ hseq, readRegister_registered hf hr 0x0818, readRegister_registered hf hr 0x0820⟩
  have hq := q.isLt
  exact ⟨readRegister_doorbell hf hr (by omega), readRegister_doorbell hf hr (by omega)⟩

/-! ## BAR4 (R483) -/

theorem bar4Read_pieces {s : State} {p : BitVec 4} {off : BitVec 36} {len : Nat} {ps : List Piece}
    (hr : (s.partOf p).registered = true) (hp : s.bar4Pieces p off .read len = some ps) :
    let t := s.readErrors ⟨none, p, (s.partOf p).rcb, BitVec.allOnes 64, s.bar4Addr p off⟩ ps
    exec (.bar4Read p off len) s =
      .next { t with hostOut := some (t.piecesBytes ps, (t.carriedBytes ps).any (·.2)) :: s.hostOut } := by
  change execBar4Read p off len s = _
  unfold execBar4Read
  simp only [hr, hp, Bool.not_true, Bool.false_eq_true, if_false]
  rfl

theorem bar4Read_refused {s : State} {p : BitVec 4} {off : BitVec 36} {len : Nat}
    (hr : (s.partOf p).registered = true) (hp : s.bar4Pieces p off .read len = none)
    (he : (s.partOf p).herr ≠ BitVec.allOnes 32) :
    exec (.bar4Read p off len) s =
      .next { s.mapPart p (fun x => { x with herr := x.herr + 1 }) with hostOut := none :: s.hostOut } := by
  change execBar4Read p off len s = _
  unfold execBar4Read
  simp only [hr, hp, hostError_of_room he, Bool.not_true, Bool.false_eq_true, if_false]
  rfl

/-- A write through the window puts its bytes at the one run of storage that it reaches (R483). -/
theorem bar4Write_piece {s : State} {p : BitVec 4} {off : BitVec 36} {bytes : List Byte} {key : Nat} (hs : s.sound)
    (hr : (s.partOf p).registered = true) (hp : s.bar4Pieces p off .write bytes.length = some [⟨key, bytes.length⟩]) :
    ∃ u : State, exec (.bar4Write p off bytes) s = .next u ∧ u.bytesAt key bytes.length = bytes ∧
      sameOutside s u key bytes.length ∧ u.ctxs = s.ctxs := by
  refine ⟨(s.putBytes key bytes).wakeOn [⟨key, bytes.length⟩], ?_, bytesAt_putBytes hs key bytes,
    sameOutside_putBytes hs key bytes, rfl⟩
  change execBar4Write p off bytes s = _
  simp [execBar4Write, hr, hp, State.putPieces]

theorem bar4Write_refused {s : State} {p : BitVec 4} {off : BitVec 36} {bytes : List Byte}
    (hr : (s.partOf p).registered = true) (hp : s.bar4Pieces p off .write bytes.length = none)
    (he : (s.partOf p).herr ≠ BitVec.allOnes 32) :
    exec (.bar4Write p off bytes) s = .next (s.mapPart p (fun x => { x with herr := x.herr + 1 })) := by
  change execBar4Write p off bytes s = _
  simp [execBar4Write, hr, hp, hostError_of_room he]

theorem bar4_unregistered {s : State} {p : BitVec 4} (hr : (s.partOf p).registered = false) (off : BitVec 36) :
    (∀ len, exec (.bar4Read p off len) s =
      .next { s with hostOut := some (List.replicate len 0, false) :: s.hostOut }) ∧
    ∀ bytes, exec (.bar4Write p off bytes) s = .next s := by
  refine ⟨fun len => ?_, fun bytes => ?_⟩
  · change execBar4Read p off len s = _
    simp [execBar4Read, hr]
  · change execBar4Write p off bytes s = _
    simp [execBar4Write, hr]

/-! ## Errors of storage (R453, R454, R477, R478) -/

/-- A partial write whose metadata is lost poisons the block once, and tells the writer or the owner (R453, R454). -/
theorem mdpw_poisons {s : State} {block : BitVec 44} (writers : List Writer) (h : block.toNat * 256 ∉ s.poison) :
    ∃ u : State, exec (.mdpw block writers) s = .next u ∧ u.ctxs = s.ctxs ∧
      (s.ownerOf (block.toNat * 256) = none → writers = [] →
        u = { s with poison := keyAdd s.poison (block.toNat * 256) }) := by
  have hc : s.poison.contains (block.toNat * 256) = false := by simpa using h
  refine ⟨_, rfl, ?_, ?_⟩
  · simp only [hc, Bool.false_eq_true, if_false]
    split
    · split
      · exact (storesOnly_post ..).ctxs
      · rfl
    · exact (storesOnly_post ..).ctxs
  · rintro ho rfl
    simp [h, ho]

theorem mdpw_poisoned {s : State} {block : BitVec 44} (writers : List Writer) (h : block.toNat * 256 ∈ s.poison) :
    exec (.mdpw block writers) s = .next s := by
  change execMdpw block writers s = _
  simp [execMdpw, h]

/-- Scrubbing a word of the package while the compute domain is up finds the error that it holds (R148, R478). -/
theorem patrolScrubbing_word {s : State} {key : Nat} (hh : isHostKey key = false) (hk : key < 2 ^ 55)
    (hc : s.mgmt.computeUp = true) :
    let t : State := { s with damaged := s.damaged.filter (fun d => d.1 != poisonBase key) }
    exec (.patrolScrubbing (.word key) true) s = .next (t.scoreError key) ∧
    exec (.patrolScrubbing (.word key) false) s =
      .next (({ t with poison := keyAdd s.poison (poisonBase key) } : State).recordError key none) := by
  have hr : ¬ (isHostKey key = true ∨ 2 ^ 55 ≤ key) := by simp [hh]; omega
  have hx (ok : Bool) : exec (.patrolScrubbing (.word key) ok) s = execPatrolScrubbing (.word key) ok s := rfl
  constructor <;>
  simp only [hx, execPatrolScrubbing, State.scrubbed, hc, Bool.true_or, if_true, Bool.false_eq_true, if_false,
    State.arrayError, State.foundError, if_neg hr]

/-- The score of a corrected word: its core, or its channel (R469). -/
theorem scoreError_core {s : State} {key : Nat} (h : 2 ^ 53 ≤ key) (h' : key < 2 ^ 54) :
    s.scoreError key = s.raiseScore .core ((key - 2 ^ 53) / 2 ^ 20) 1 0 := by
  rw [State.scoreError, if_pos ⟨h, h'⟩]

theorem scoreError_channel {s : State} {key : Nat} (h : key < 2 ^ 52) :
    s.scoreError key = s.raiseScore .channel (s.channelAt key) 1 0 := by
  rw [State.scoreError, if_neg (by omega), if_neg (by omega)]

theorem patrolScrubbing_word_effects {s : State} {key : Nat} (hh : isHostKey key = false) (hk : key < 2 ^ 55)
    (hc : s.mgmt.computeUp = true) :
    let t : State := { s with damaged := s.damaged.filter (fun d => d.1 != poisonBase key) }
    (∃ u : State, exec (.patrolScrubbing (.word key) true) s = .next u ∧ u.mem = s.mem ∧ u.poison = s.poison ∧
      u.ctxs = s.ctxs ∧
      (2 ^ 53 ≤ key → key < 2 ^ 54 → u = t.raiseScore .core ((key - 2 ^ 53) / 2 ^ 20) 1 0) ∧
      (key < 2 ^ 52 → u = t.raiseScore .channel (s.channelAt key) 1 0)) ∧
    (∃ u : State, exec (.patrolScrubbing (.word key) false) s = .next u ∧ u.ctxs = s.ctxs ∧
      (s.localOwner key = none → s.ownerOf key = none → u = { t with poison := keyAdd s.poison (poisonBase key) })) := by
  intro t
  obtain ⟨hmem, hpoison⟩ := scoreError_mem t key
  obtain ⟨hcorrected, hpoisoned⟩ := patrolScrubbing_word hh hk hc
  refine ⟨⟨_, hcorrected, hmem, hpoison, (storesOnly_scoreError t key).ctxs, scoreError_core, scoreError_channel⟩,
    ⟨_, hpoisoned, (storesOnly_recordError _ key none).ctxs, fun hl ho => ?_⟩⟩
  exact recordError_unowned hl ho

/-- An error of an array that scrubbing does not read stays there until an instruction meets it (R451, R477). -/
theorem patrolScrubbing_unread {s : State} {e : ErrorAt} (ok : Bool) (hc : s.mgmt.computeUp = true) (hn : e ∉ s.parity)
    (he : (∃ c r, e = .s c r) ∨ (∃ c r, e = .v c r) ∨ (∃ c r, e = .p c r) ∨ (∃ c a, e = .acc c a) ∨ (∃ k, e = .bank k) ∨
      (∃ k n, e = .ring k n)) :
    exec (.patrolScrubbing e ok) s = .next { s with parity := e :: s.parity } := by
  change execPatrolScrubbing e ok s = _
  obtain ⟨c, r, rfl⟩ | ⟨c, r, rfl⟩ | ⟨c, r, rfl⟩ | ⟨c, a, rfl⟩ | ⟨k, rfl⟩ | ⟨k, n, rfl⟩ := he <;>
  simp [execPatrolScrubbing, State.scrubbed, hc, State.arrayError, hn]

theorem patrolScrubbing_held {s : State} {e : ErrorAt} (h : s.scrubbed e = false) (ok : Bool) :
    exec (.patrolScrubbing e ok) s = .next s := by
  change execPatrolScrubbing e ok s = _
  simp [execPatrolScrubbing, h]

/-- Settles O54: BAR0 register by register, BAR4 by what the window reaches, storage errors by what finds them. -/
theorem hostAccessAndStorageErrors : Obligations.HostAccessAndStorageErrors := by
  unfold Obligations.HostAccessAndStorageErrors
  refine ⟨fun s fn off val => ⟨fun h => registerWrite_absent h off val, ?_, fun p hf => ⟨?_, ?_⟩⟩, ?_, ?_, ?_, ?_, ?_, ?_⟩
  · rintro rfl hu
    exact mailbox_writes hu off val
  · exact fun hr => registerWrite_unregistered hf hr off val
  · exact fun hr => virtual_function_writes hf hr off val
  · exact fun s p fn hf hr => virtual_function_reads hf hr
  · exact fun s p off => ⟨fun len hr => (bar4_unregistered hr off).1 len, fun _ _ => bar4Read_pieces,
      fun _ => bar4Read_refused, fun bytes hr => (bar4_unregistered hr off).2 bytes, fun _ _ => bar4Write_piece,
      fun _ => bar4Write_refused⟩
  · exact fun s block writers => ⟨mdpw_poisoned writers, mdpw_poisons writers⟩
  · exact fun s e ok h => patrolScrubbing_held h ok
  · exact fun s key => patrolScrubbing_word_effects
  · exact fun s e ok => patrolScrubbing_unread ok

end Sys2Proof.Machine
end

section
/-!
O58: what the resets of the compute domain, the porch domain and the device leave, and what power-on decides (spec/19, spec/20,
spec/21).
-/
namespace Sys2Proof.Machine

/-! ## Flits leave by the ports alone (R494 to R497) -/

/-- A state with the link ports of another: what a flit on its way may change. -/
def State.withPorts (s t : State) : State := { s with porch := { s.porch with ports := t.porch.ports } }

/-- The states differ at most in their link ports. -/
def PortsOnly (s t : State) : Prop := t = s.withPorts t

theorem PortsOnly.refl (s : State) : PortsOnly s s := rfl

theorem PortsOnly.trans {s t u : State} (h : PortsOnly s t) (k : PortsOnly t u) : PortsOnly s u :=
  calc u = t.withPorts u := k
    _ = (s.withPorts t).withPorts u := congrArg (·.withPorts u) h
    _ = s.withPorts u := rfl

theorem PortsOnly.foldl {α : Type} {f : State → α → State} (hf : ∀ t x, PortsOnly t (f t x)) (l : List α) (s : State) :
    PortsOnly s (l.foldl f s) := foldl_related refl trans hf l s

theorem portsOnly_mapPort (s : State) (p : Nat) (f : Port → Port) : PortsOnly s (s.mapPort p f) := by
  unfold State.mapPort
  split <;> exact rfl

theorem portsOnly_sendFlit (s : State) (f : Flit) : PortsOnly s (s.sendFlit f) := by
  unfold State.sendFlit
  split
  · exact portsOnly_mapPort ..
  · exact .refl s

theorem portsOnly_answer (s : State) (f : Flit) (kind : BitVec 4) : PortsOnly s (s.answer f kind) :=
  portsOnly_sendFlit ..

theorem portsOnly_returnCredits (s : State) (vc : BitVec 4) (chip : BitVec 6) (n : Nat) :
    PortsOnly s (s.returnCredits vc chip n) := by
  unfold State.returnCredits
  split
  · exact portsOnly_mapPort ..
  · exact .refl s

theorem portsOnly_dropInbound (s : State) : PortsOnly s s.dropInbound := by
  unfold State.dropInbound
  refine (PortsOnly.foldl (fun t f => portsOnly_returnCredits ..) _ s).trans (PortsOnly.foldl (fun t x => ?_) _ _)
  split
  · exact portsOnly_returnCredits ..
  · exact .refl t

theorem portAt_eq (s : State) (p : Nat) : s.portAt p = if h : p < 12 then some (s.porch.ports[p]'h) else none := by
  unfold State.portAt
  split <;> simp_all

/-! ## The reset of the compute domain (R498, R499) -/

/-- What is read of cells of which some keys are left out. -/
theorem memRead_filter (m : List Host.Cell) (p : Nat → Bool) (k : Nat) :
    memRead (m.filter (fun c => p c.1)) k = if p k then memRead m k else 0 := by
  induction m with
  | nil => simp [memRead, blankByte]
  | cons c m ih =>
    obtain ⟨j, b⟩ := c
    by_cases hj : j = k
    · subst hj; cases hp : p j <;> simp_all [memRead]
    · cases hp : p j <;> simp_all [memRead]

theorem computeDomainReset_leaves (s : State) :
    ∃ u : State, exec .computeDomainReset s = .next u ∧ u.ctxs = State.reset.ctxs ∧ u.launches = [] ∧
    u.copies = [] ∧ u.posts = [] ∧ u.tlb = [] ∧ u.empties = [] ∧ u.porch.absent = true ∧ u.porch.inbound = [] ∧
    u.porch.outstanding = [] ∧ u.porch.inbox = [] ∧ u.porch.routes = s.porch.routes ∧ u.mgmt.computeUp = false ∧
    u.van = s.van ∧ u.gcc = s.gcc ∧ (∀ k, k < 2 ^ 53 → memRead u.mem k = memRead s.mem k) ∧
    ∀ k, 2 ^ 53 ≤ k → memRead u.mem k = 0 := by
  let s1 : State := { s with porch := { s.porch with absent := true } }
  let s2 := s1.porch.inbound.foldl (fun u x => u.answer x.2 8) s1
  let s3 := s2.porch.outstanding.foldl (fun u o =>
    u.sendFlit { vc := o.2.1, kind := 8, dchip := o.2.2.1, schip := u.chip, psn := false, last := true, tag := o.1, seq := 0, pay := 0 }) s2
  have hflits : PortsOnly s1 s3.dropInbound :=
    ((PortsOnly.foldl (fun t x => portsOnly_answer ..) _ s1).trans
      (PortsOnly.foldl (fun t o => portsOnly_sendFlit ..) _ s2)).trans (portsOnly_dropInbound s3)
  have field {α : Type} (f : State → α) : f s3.dropInbound = f (s1.withPorts s3.dropInbound) := congrArg f hflits
  have hmem (k : Nat) : memRead (s3.dropInbound.mem.filter (fun c => decide (c.1 < 2 ^ 53))) k =
      if decide (k < 2 ^ 53) then memRead s.mem k else 0 := by
    rw [memRead_filter _ (fun a => decide (a < 2 ^ 53)), field (·.mem)]; rfl
  refine ⟨_, rfl, rfl, rfl, rfl, rfl, rfl, rfl, field (·.porch.absent), rfl, rfl, rfl, field (·.porch.routes), rfl,
    field (·.van), field (·.gcc), fun k hk => ?_, fun k hk => ?_⟩
  · exact (hmem k).trans (if_pos (by simpa using hk))
  · exact (hmem k).trans (if_neg (by simpa using hk))

/-! ## The reset of the porch domain (R500, R501) -/

/-- What the end of a request over a link leaves: the routes, the phases, and, where no phase samples writes, every context. -/
structure EndsRequest (s t : State) : Prop where
  routes : t.porch.routes = s.porch.routes
  phases : t.phases = s.phases
  ctxs : s.phases = [] → t.ctxs = s.ctxs

namespace EndsRequest

theorem refl (s : State) : EndsRequest s s := ⟨rfl, rfl, fun _ => rfl⟩

theorem trans {s t u : State} (h : EndsRequest s t) (k : EndsRequest t u) : EndsRequest s u :=
  ⟨k.routes.trans h.routes, k.phases.trans h.phases, fun hp => (k.ctxs (h.phases.trans hp)).trans (h.ctxs hp)⟩

theorem foldl {α : Type} {f : State → α → State} (hf : ∀ t x, EndsRequest t (f t x)) (l : List α) (s : State) :
    EndsRequest s (l.foldl f s) := foldl_related refl trans hf l s

theorem of_storesOnly {s t : State} (h : StoresOnly s t) : EndsRequest s t :=
  ⟨congrArg (·.routes) h.porch, h.phases, fun _ => h.ctxs⟩

theorem of_portsOnly {s t : State} (h : PortsOnly s t) : EndsRequest s t :=
  ⟨(congrArg (·.porch.routes) h).trans rfl, (congrArg (·.phases) h).trans rfl, fun _ => (congrArg (·.ctxs) h).trans rfl⟩

end EndsRequest

/-- A sampled write touches neither the porch nor the phases (R177). -/
theorem setDcf_keeps (s : State) (c : CtxId) (serial : Nat) (va : Word) :
    ((s.setDcf c serial va).porch, (s.setDcf c serial va).phases) = (s.porch, s.phases) := by
  unfold State.setDcf State.mapTask
  dsimp only
  split <;> rfl

theorem sampleGranule_keeps (s : State) (w : PhaseWrite) :
    ((s.sampleGranule w).porch, (s.sampleGranule w).phases) = (s.porch, s.phases) := by
  unfold State.sampleGranule
  dsimp only
  split
  · split <;> rfl
  · rw [foldl_keeps (fun u : State => (u.porch, u.phases)) (fun t o => setDcf_keeps ..)]
    split <;> rfl

/-- The sampling of writes: where there is no phase, nothing is sampled (R177). -/
theorem endsRequest_sampleCells (s : State) (phase : Option Nat) (l : List (Word × Touch)) (gs : List Nat) :
    EndsRequest s (s.sampleCells phase l gs) := by
  have hkeeps : ((s.sampleCells phase l gs).porch, (s.sampleCells phase l gs).phases) = (s.porch, s.phases) := by
    unfold State.sampleCells
    split
    · rfl
    · exact foldl_keeps (fun u : State => (u.porch, u.phases)) (fun t g => sampleGranule_keeps ..) _ s
  obtain ⟨hporch, hphases⟩ := Prod.mk.inj hkeeps
  refine ⟨congrArg (·.routes) hporch, hphases, fun hp => ?_⟩
  have hnone : s.sampler phase = none := by simp [State.sampler, hp]
  simp [State.sampleCells, hnone]

theorem endsRequest_postUnspecified (s : State) (p : Post) : EndsRequest s (s.postUnspecified p) := by
  unfold State.postUnspecified
  split
  · split
    · exact .refl s
    · unfold State.postPart State.writePost
      dsimp only
      refine .trans ?_ (.trans (endsRequest_sampleCells ..) ⟨rfl, rfl, fun _ => rfl⟩)
      exact ⟨rfl, rfl, fun _ => rfl⟩
  · exact .refl s

theorem endsRequest_wakeOn (s : State) (ps : List Piece) : EndsRequest s (s.wakeOn ps) := ⟨rfl, rfl, fun _ => rfl⟩

theorem endsRequest_holdsDue (s : State) (p : BitVec 4) : EndsRequest s (s.holdsDue p) := by
  unfold State.holdsDue
  split <;> exact ⟨rfl, rfl, fun _ => rfl⟩

/-- The contributions and the requests of a post that ends are forgotten. -/
theorem endsRequest_forgetPost (s : State) (p : Post) (f : Post → Post) :
    EndsRequest s (((s.mapPost p.id f).dropContribs p.die p.gid p.inst).dropRequests p.id) := ⟨rfl, rfl, fun _ => rfl⟩

theorem endsRequest_eventPut (s : State) (r : Reader) (key : Nat) (st : BitVec 3) : EndsRequest s (s.eventPut r key st) := by
  unfold State.eventPut
  dsimp only
  split
  · exact .of_storesOnly (storesOnly_readErrors ..)
  · refine .trans (.of_storesOnly ((storesOnly_readErrors ..).trans (storesOnly_putBytes ..)))
      ((endsRequest_wakeOn ..).trans (endsRequest_holdsDue ..))

theorem endsRequest_endPost (s : State) (p : Post) (st : PostSt) (rsn : BitVec 3) : EndsRequest s (s.endPost p st rsn) := by
  unfold State.endPost
  split
  · exact .refl s
  · exact (endsRequest_postUnspecified s p).trans ((endsRequest_forgetPost ..).trans (endsRequest_eventPut ..))

theorem endsRequest_endMember (s : State) (gid : BitVec 16) (inst : Nat) (st : PostSt) (rsn : BitVec 3) (die : BitVec 2) :
    EndsRequest s (s.endMember gid inst st rsn die) := by
  unfold State.endMember
  split
  · exact endsRequest_endPost ..
  · dsimp only
    split <;> exact ⟨rfl, rfl, fun _ => rfl⟩

theorem endsRequest_request (s : State) (n : Nat) (vc : BitVec 4) (chip : BitVec 6) (use : LinkUse) (poison : Bool) :
    EndsRequest s (s.request n vc chip use poison) := by
  unfold State.request
  refine .trans ?_ (.of_portsOnly (PortsOnly.foldl portsOnly_sendFlit _ _))
  exact ⟨rfl, rfl, fun _ => rfl⟩

theorem endsRequest_endInstance (s : State) (p : Post) (st : PostSt) (rsn : BitVec 3) :
    EndsRequest s (s.endInstance p st rsn) := by
  unfold State.endInstance State.reportAbroad
  dsimp only
  refine (endsRequest_endPost s p st rsn).trans (.trans (.foldl (fun t d => ?_) _ _) (.foldl (fun t c => endsRequest_request ..) _ _))
  split
  · exact .refl t
  · exact endsRequest_endMember ..

theorem endsRequest_failRequest (s : State) (f : Flit) : EndsRequest s (s.failRequest f) := by
  have hclose : EndsRequest s (s.closeRequest f) := ⟨rfl, rfl, fun _ => rfl⟩
  unfold State.failRequest
  split
  · exact .refl s
  · dsimp only
    split
    · exact hclose.trans ⟨rfl, rfl, fun _ => rfl⟩
    · split
      · split
        · exact hclose.trans (endsRequest_endInstance ..)
        · exact hclose
      · exact hclose
    · exact hclose

theorem porchDomainReset_leaves (s : State) :
    ∃ u : State, exec .porchDomainReset s = .next u ∧ u.porch.up = false ∧ u.porch.inbound = [] ∧
    u.porch.inbox = [] ∧ u.porch.outstanding = [] ∧ u.porch.routes = s.porch.routes ∧ (s.phases = [] → u.ctxs = s.ctxs) ∧
    (∀ p, (u.portAt p).map (fun x => (x.trained, x.held, x.sent, x.txSeq, x.rxSeq)) =
      (s.portAt p).map (fun _ => (false, [], [], 0, 0))) ∧
    (s.porch.outstanding = [] → u = { s with porch := u.porch }) := by
  have hends := EndsRequest.foldl (f := fun u (o : BitVec 16 × BitVec 4 × BitVec 6 × LinkUse) =>
    u.failRequest { vc := o.2.1, kind := 7, dchip := u.chip, schip := o.2.2.1, psn := false, last := true, tag := o.1, seq := 0, pay := 0 })
    (fun t o => endsRequest_failRequest ..) s.porch.outstanding s
  refine ⟨_, rfl, rfl, rfl, rfl, rfl, hends.routes, hends.ctxs, fun p => ?_, fun ho => ?_⟩
  · simp only [portAt_eq]
    split
    · simp [Port.reset]
    · rfl
  · simp only [ho, List.foldl_nil]

/-! ## The domains come up (R499, R501, R502, R505) -/

theorem computeDomainBringUp_effects (s : State) :
    (s.mgmt.safe = true → exec .computeDomainBringUp s = .next s) ∧
    (s.mgmt.safe = false → exec .computeDomainBringUp s = .next { s with
      mgmt := { s.mgmt with computeUp := true },
      porch := { s.porch with absent := false } }) := by
  have hexec : exec .computeDomainBringUp s = execComputeDomainBringUp s := rfl
  rw [hexec, execComputeDomainBringUp]
  exact ⟨fun h => by rw [if_pos h], fun h => by rw [if_neg (by simp [h])]⟩

theorem porchUp_refused {s : State} (h : s.porchPassed = false) : exec .porchUp s = .next s := by
  change execPorchUp s = _
  simp [execPorchUp, h]

theorem porchUp_trains {s : State} (h : s.porchPassed = true) :
    ∃ u : State, exec .porchUp s = .next u ∧ u = { s with porch := u.porch } ∧ u.porch.up = true ∧
    ∀ p x, s.portAt p = some x → (u.portAt p).map (fun y => y.trained) = some (decide (p < portCount s.part ∧ x.service ≠ .retired)) := by
  refine ⟨_, congrArg Host.Outcome.next (if_pos h), rfl, rfl, fun p x hx => ?_⟩
  rw [portAt_eq] at hx ⊢
  split at hx
  · rename_i hp
    cases hx
    rw [dif_pos hp]
    have htrained (y : Port) (b : Bool) : (y.train b).trained = decide (b = true ∧ y.service ≠ .retired) := by
      rw [Bool.eq_iff_iff]; simp [Port.train]
    simp [htrained]
  · cases hx

end Sys2Proof.Machine
end

section
/-!
O58, continued: the leases that a device reset ends, and the units that a power-on holds out (spec/19, spec/21).
-/
namespace Sys2Proof.Machine

/-! ## The books of the brake van (R431, R464, R465) -/

/-- GCC, the scores, the running leases and the controller's lease records. -/
def State.leaseBooks (s : State) :
    Word × Vector (Vector (BitVec 10) 512) 3 × Vector (Option Lease) 3 × List (BitVec 256) :=
  (s.gcc, s.van.scores, s.van.running, s.van.log)

theorem leaseBooks_portsOnly {s t : State} (h : PortsOnly s t) : t.leaseBooks = s.leaseBooks :=
  (congrArg State.leaseBooks h).trans rfl

/-- The lease records that wait are written to the log in memory; the books stand (R431). -/
theorem leaseBooks_flushOne {s t : State} (h : s.flushOne = some t) : t.leaseBooks = s.leaseBooks := by
  unfold State.flushOne at h
  split at h
  · cases h
  · obtain ⟨u, hu, rfl⟩ := Option.map_eq_some_iff.mp h
    unfold State.putLog at hu
    dsimp only at hu
    split at hu
    · rw [← Option.some.inj hu]
      simp only [State.leaseBooks, State.mapVan, State.putNat, putBytes_gcc, putBytes_van]
    · cases hu

theorem leaseBooks_flushLog (s : State) (n : Nat) : (s.flushLog n).leaseBooks = s.leaseBooks := by
  induction n generalizing s with
  | zero => rfl
  | succ n ih =>
    unfold State.flushLog
    cases h : s.flushOne with
    | none => rfl
    | some t => exact (ih t).trans (leaseBooks_flushOne h)

/-- A lease record joins the 64 that the controller keeps, as the newest (R465). -/
theorem leaseBooks_logLease (s : State) (r : BitVec 256) :
    (s.logLease r).leaseBooks =
      (s.gcc, s.van.scores, s.van.running, (s.van.log ++ [r]).drop (s.van.log.length + 1 - 64)) := by
  unfold State.logLease
  dsimp only
  split
  · rfl
  · split
    · exact leaseBooks_flushLog _ 256
    · exact (leaseBooks_flushLog _ 257).trans (leaseBooks_flushLog _ 256)

theorem leaseBooks_withGroups (s : State) (l : List Group) : State.leaseBooks { s with groups := l } = s.leaseBooks := rfl

/-- A capacity notice is none of the books' business (R473). -/
theorem leaseBooks_notice (s : State) (region : Nat) : (s.notice region).leaseBooks = s.leaseBooks := by
  unfold State.notice
  dsimp only
  split
  · rfl
  · refine (leaseBooks_withGroups _ _).trans ((foldl_keeps State.leaseBooks (fun t c => ?_) _ _).trans rfl)
    split
    · split <;> rfl
    · rfl

/-- A unit that comes back from a lease leaves the books alone (R461, R462). -/
theorem leaseBooks_closeLease (s : State) (cls : UnitClass) (unit : Nat) :
    (s.closeLease cls unit false).leaseBooks = s.leaseBooks := by
  cases cls with
  | core => rfl
  | link =>
    have hport : PortsOnly s (s.returnPort unit) := (portsOnly_mapPort ..).trans (portsOnly_mapPort ..)
    show ((s.returnPort unit).noticePort unit).leaseBooks = _
    rw [State.noticePort, foldl_keeps State.leaseBooks (fun t r => leaseBooks_notice ..), leaseBooks_portsOnly hport]
  | channel => rfl

/-! ## Leases that end ABORTED (R464, R465) -/

/-- The lease of a class ends ABORTED. -/
def State.abortLease (s : State) (cls : UnitClass) : State := Out.state (execLeaseEnd cls .aborted 0 0 s) s

theorem abortLeases_eq (s : State) : s.abortLeases = ((s.abortLease .core).abortLease .link).abortLease .channel := rfl

theorem abortLease_none {s : State} {cls : UnitClass} (h : s.van.running[classNo cls] = none) : s.abortLease cls = s := by
  simp [State.abortLease, execLeaseEnd, h, Out.state]

/-- A score is a matter of the books. -/
theorem score_of_leaseBooks {s t : State} (h : t.leaseBooks = s.leaseBooks) (cls : UnitClass) (unit : Nat) :
    t.van.score cls unit = s.van.score cls unit := by
  have hscores : t.van.scores = s.van.scores := congrArg (·.2.1) h
  simp only [Van.score, hscores]

/-- The end of a running lease leaves the scores, and its record is the newest (R464, R465). -/
theorem leaseBooks_abortLease {s : State} {cls : UnitClass} {l : Lease} (h : s.van.running[classNo cls] = some l) :
    (s.abortLease cls).leaseBooks =
      (s.gcc, s.van.scores, s.van.running.set (classNo cls).val none (classNo cls).isLt,
        (s.van.log ++ [leaseRecord cls l .aborted s.gcc (s.van.score cls l.unit)]).drop (s.van.log.length + 1 - 64)) := by
  let ended : State := s.mapVan (fun v => v.setRunning cls none)
  have hlog (t : State) (ht : t.leaseBooks = ended.leaseBooks) :
      ((t.closeLease cls l.unit false).logLease
        (leaseRecord cls l .aborted s.gcc ((t.closeLease cls l.unit false).van.score cls l.unit))).leaseBooks =
      (s.gcc, s.van.scores, s.van.running.set (classNo cls).val none (classNo cls).isLt,
        (s.van.log ++ [leaseRecord cls l .aborted s.gcc (s.van.score cls l.unit)]).drop (s.van.log.length + 1 - 64)) := by
    have hbooks := (leaseBooks_closeLease t cls l.unit).trans ht
    have hscore : (t.closeLease cls l.unit false).van.score cls l.unit = s.van.score cls l.unit :=
      score_of_leaseBooks hbooks cls l.unit
    obtain ⟨hgcc, hrest⟩ := Prod.mk.inj hbooks
    obtain ⟨hscores, hrest⟩ := Prod.mk.inj hrest
    obtain ⟨hrunning, hrecords⟩ := Prod.mk.inj hrest
    rw [leaseBooks_logLease, hscore, hgcc, hscores, hrunning, hrecords]
    rfl
  unfold State.abortLease execLeaseEnd
  rw [h]
  cases hforced : l.forced with
  | false =>
    simp only [hforced]
    exact hlog (ended.mapVan (fun v => { v with next := v.next.set (classNo cls).val l.unit (classNo cls).isLt })) rfl
  | true =>
    simp only [hforced]
    exact hlog ended rfl

/-- A lease of another class runs on, the scores stand, and so does GCC. -/
theorem abortLease_other (s : State) {cls c : UnitClass} (hc : cls ≠ c) :
    (s.abortLease cls).gcc = s.gcc ∧ (s.abortLease cls).van.scores = s.van.scores ∧
    (s.abortLease cls).van.running[classNo c] = s.van.running[classNo c] := by
  cases h : s.van.running[classNo cls] with
  | none => rw [abortLease_none h]; exact ⟨rfl, rfl, rfl⟩
  | some l =>
    obtain ⟨hgcc, hrest⟩ := Prod.mk.inj (leaseBooks_abortLease h)
    obtain ⟨hscores, hrest⟩ := Prod.mk.inj hrest
    obtain ⟨hrunning, -⟩ := Prod.mk.inj hrest
    refine ⟨hgcc, hscores, ?_⟩
    rw [hrunning]
    have hne : (classNo cls).val ≠ (classNo c).val := by
      cases cls <;> cases c <;> simp_all [classNo]
    exact Vector.getElem_set_ne _ _ hne

theorem abortLeases_scores (s : State) : s.abortLeases.van.scores = s.van.scores := by
  have hkeep (t : State) (cls : UnitClass) : (t.abortLease cls).van.scores = t.van.scores := by
    cases h : t.van.running[classNo cls] with
    | none => rw [abortLease_none h]
    | some l => exact congrArg (·.2.1) (leaseBooks_abortLease h)
  rw [abortLeases_eq, hkeep, hkeep, hkeep]

theorem abortLeases_none {s : State} (h : ∀ cls, s.van.running[classNo cls] = none) : s.abortLeases = s := by
  rw [abortLeases_eq, abortLease_none (h .core), abortLease_none (h .link), abortLease_none (h .channel)]

/-- The lease of the channels ends last, so its record is the newest (R464, R465). -/
theorem abortLeases_getLast {s : State} {l : Lease} (h : s.van.running[classNo .channel] = some l) :
    s.abortLeases.van.log.getLast? = some (leaseRecord .channel l .aborted s.gcc (s.van.score .channel l.unit)) := by
  obtain ⟨hgcc, hscores, hrunning⟩ := abortLease_other s (cls := .core) (c := .channel) (by decide)
  obtain ⟨hgcc', hscores', hrunning'⟩ := abortLease_other (s.abortLease .core) (cls := .link) (c := .channel) (by decide)
  have hend := leaseBooks_abortLease (hrunning'.trans (hrunning.trans h))
  have hlog := congrArg (·.2.2.2) hend
  have hscore : ((s.abortLease .core).abortLease .link).van.score .channel l.unit = s.van.score .channel l.unit := by
    simp only [Van.score, hscores', hscores]
  simp only [State.leaseBooks, hscore, hgcc', hgcc] at hlog
  rw [abortLeases_eq, hlog, List.getLast?_drop, if_neg (by simp), List.getLast?_concat]

theorem deviceReset_leaves (s : State) :
    ∃ u : State, exec .deviceReset s = .next u ∧ u.gcc = 0 ∧ u.ctxs = State.reset.ctxs ∧
    u.cores = State.reset.cores ∧ u.mem = [] ∧ u.parts = State.reset.parts ∧ u.launches = [] ∧ u.access = [] ∧
    u.van.store = s.van.store ∧ u.van.scores = s.van.scores ∧ u.van.cfg = Van.reset.cfg ∧ u.van.running = Van.reset.running ∧
    ((∀ cls, s.van.running[classNo cls] = none) → u.van.log = s.van.log) ∧
    (∀ l, s.van.running[2] = some l →
      u.van.log.getLast? = some (leaseRecord .channel l .aborted s.gcc (s.van.score .channel l.unit))) ∧
    u.mgmt.boot = s.mgmt.boot ∧ u.mgmt.svnMin = s.mgmt.svnMin ∧ u.mgmt.serialNo = s.mgmt.serialNo ∧
    u.mgmt.up = false ∧ u.mgmt.safe = false ∧ u.part = s.part :=
  ⟨_, rfl, rfl, rfl, rfl, rfl, rfl, rfl, rfl, rfl, abortLeases_scores s, rfl, rfl,
    fun h => congrArg (·.van.log) (abortLeases_none h), fun _ h => abortLeases_getLast h, rfl, rfl, rfl, rfl, rfl, rfl⟩

end Sys2Proof.Machine
end

section
/-!
O58, continued: what a power-on finds and decides (spec/21).
-/
namespace Sys2Proof.Machine

/-! ## What self-test may change (R467, R502, R504) -/

/-- A state with the cores, the brake van and the link ports of another: what self-test and training may change. -/
def State.withUnits (s t : State) : State :=
  { s with cores := t.cores, van := t.van, porch := { s.porch with ports := t.porch.ports } }

/-- A port trains only where it is a port of the part and the findings let it. -/
def TrainsOnly (part : PartNo) (b : BootFindings) (s : State) : Prop :=
  ∀ p x, s.portAt p = some x → x.trained = true → p < portCount part ∧ b.trained.getLsbD p = true

/-- A step of the self-test: it changes units alone, and no port trains that may not. -/
structure SelfTests (b : BootFindings) (s t : State) : Prop where
  eq : t = s.withUnits t
  trains : TrainsOnly s.part b s → TrainsOnly s.part b t

namespace SelfTests

variable {b : BootFindings}

theorem refl (s : State) : SelfTests b s s := ⟨rfl, id⟩

theorem trans {s t u : State} (h : SelfTests b s t) (k : SelfTests b t u) : SelfTests b s u := by
  have hpart : t.part = s.part := (congrArg State.part h.eq).trans rfl
  refine ⟨?_, fun hs => hpart ▸ k.trains (hpart ▸ h.trains hs)⟩
  calc u = t.withUnits u := k.eq
    _ = (s.withUnits t).withUnits u := congrArg (·.withUnits u) h.eq
    _ = s.withUnits u := rfl

theorem foldl {α : Type} {f : State → α → State} (hf : ∀ t x, SelfTests b t (f t x)) (l : List α) (s : State) :
    SelfTests b s (l.foldl f s) := foldl_related refl trans hf l s

end SelfTests

theorem selfTests_mapPort (b : BootFindings) (s : State) (p : Nat) (f : Port → Port)
    (hf : ∀ x, (f x).trained = true → x.trained = true ∨ (p < portCount s.part ∧ b.trained.getLsbD p = true)) :
    SelfTests b s (s.mapPort p f) := by
  unfold State.mapPort
  split
  · rename_i hp
    refine ⟨rfl, fun hs q x hx ht => ?_⟩
    rw [portAt_eq] at hx
    split at hx
    · rename_i hq
      obtain rfl := Option.some.inj hx
      by_cases hpq : p = q
      · subst hpq
        rw [Vector.getElem_set_self] at ht
        rcases hf _ ht with h | h
        · exact hs p _ (by rw [portAt_eq, dif_pos hp]) h
        · exact h
      · rw [Vector.getElem_set_ne _ _ hpq] at ht
        exact hs q _ (by rw [portAt_eq, dif_pos hq]) ht
    · cases hx
  · exact .refl s

theorem selfTests_mapVan (b : BootFindings) (s : State) (f : Van → Van) : SelfTests b s (s.mapVan f) := ⟨rfl, id⟩

theorem selfTests_holdOut (b : BootFindings) (s : State) (cls : UnitClass) (unit : Nat) : SelfTests b s (s.holdOut cls unit) := by
  cases cls with
  | core => exact ⟨rfl, id⟩
  | link =>
    unfold State.holdOut
    exact (selfTests_mapVan b s _).trans (selfTests_mapPort _ _ _ _ (fun _ h => nomatch h))
  | channel => exact ⟨rfl, id⟩

theorem selfTests_holdStored (b : BootFindings) (s : State) : SelfTests b s s.holdStored :=
  .foldl (fun _ _ => .foldl (fun _ _ => selfTests_holdOut ..) _ _) _ s

theorem selfTests_retireAtBoot (b : BootFindings) (s : State) (cls : UnitClass) (unit : Nat) (pat : BitVec 16) (fdet : Word) :
    SelfTests b s (s.retireAtBoot cls unit pat fdet) := by
  unfold State.retireAtBoot
  split
  · exact .refl s
  · exact (selfTests_mapVan b s _).trans (selfTests_holdOut ..)

theorem selfTests_bootUnits (b : BootFindings) (s : State) (ran : Bool) : SelfTests b s (s.bootUnits b ran) := by
  unfold State.bootUnits
  dsimp only
  split
  · exact (selfTests_holdStored b s).trans (.foldl (fun _ _ => selfTests_retireAtBoot ..) _ _)
  · exact selfTests_holdStored b s

/-- A port of the part that the findings let train trains; another is retired (R502, R504). -/
theorem selfTests_bootPorch (b : BootFindings) (s : State) (ok : Bool) : SelfTests b s (s.bootPorch b ok) := by
  unfold State.bootPorch
  split
  · have hports (l : List Nat) (t : State) (hl : ∀ p ∈ l, p < portCount t.part) :
        SelfTests b t (l.foldl (fun u p =>
          if b.trained.getLsbD p ∧ u.isRetired .link p = false then u.mapPort p (fun x => { x with trained := true })
          else u.retireAtBoot .link p 0xFFFF 0) t) := by
      induction l generalizing t with
      | nil => exact .refl t
      | cons p l ih =>
        have hone : SelfTests b t (if b.trained.getLsbD p ∧ t.isRetired .link p = false
            then t.mapPort p (fun x => { x with trained := true }) else t.retireAtBoot .link p 0xFFFF 0) := by
          split
          · rename_i hp
            exact selfTests_mapPort _ _ _ _ (fun _ _ => .inr ⟨hl p (by simp), hp.1⟩)
          · exact selfTests_retireAtBoot ..
        have hpart := (congrArg State.part hone.eq).trans rfl
        exact hone.trans (ih _ (fun q hq => by rw [hpart]; exact hl q (by simp [hq])))
    exact hports _ s (fun p hp => List.mem_range.mp hp)
  · exact .refl s

/-! ## What power-on decides (R502 to R505) -/

/-- No port has trained before power-on. -/
theorem trainsOnly_of_reset (part : PartNo) (b : BootFindings) {s : State} (h : s.porch = Porch.reset) : TrainsOnly part b s := by
  intro p x hx ht
  rw [portAt_eq, h] at hx
  split at hx
  · simp only [Porch.reset, Vector.getElem_replicate, Option.some.injEq] at hx
    subst hx
    cases ht
  · cases hx

/-- The image that boots has passed: its digest, its signatures, and the SVN (R503). -/
theorem bootSlot_passes {b : BootFindings} {least : BitVec 32} {n : Nat} {v : FirmwareImage}
    (h : bootSlot b least = some (n, v)) :
    least.toNat ≤ v.svn.toNat ∧ v.digest = v.foundDigest ∧ v.rsa = true ∧ v.slh = true := by
  have hpass : imagePasses v least = true := by
    unfold bootSlot at h
    split at h
    · cases h; assumption
    · split at h
      · cases h; assumption
      · cases h
  simp only [imagePasses, Bool.and_eq_true, decide_eq_true_eq, beq_iff_eq] at hpass
  obtain ⟨⟨⟨⟨-, hdigest⟩, hrsa⟩, hslh⟩, hsvn⟩ := hpass
  exact ⟨hsvn, hdigest, hrsa, hslh⟩

/-- The islands of the porch are judged whether or not the firmware runs (R502). -/
theorem porchIslands (islands : BitVec 16) (ran : Bool) :
    ((if ran then islands else islands &&& 0xE000).extractLsb' 13 3 : BitVec 3) = islands.extractLsb' 13 3 := by
  cases ran
  · ext i hi
    have hmask : (0xE000#16).getLsbD (13 + i) = true := by
      interval_cases i <;> decide
    simp [hmask]
  · rfl

/-- Power-on ends in the safe state for want of firmware or for an island that fails (R502, R504). -/
theorem bootReason_ne_zero {α : Type} (slot : Option α) (islands : BitVec 16) :
    (if slot.isNone then 1 else if (if slot.isSome then islands else islands &&& 0xE000) ≠ 0 then 2 else 0) ≠ 0 ↔
      slot = none ∨ islands ≠ 0 := by
  cases slot <;> simp

theorem powerOn_decides (s : State) (b : BootFindings) :
    ∃ u : State, exec (.powerOn b) s = .next u ∧ u.ctxs = State.reset.ctxs ∧
    u.mem = [] ∧ u.mgmt.up = true ∧ u.mgmt.boot = s.mgmt.boot + 1 ∧ u.mgmt.svnMin = s.mgmt.svnMin ∧
    u.gcc = (if 1 < s.chips ∧ u.porch.up = true ∧ u.trainedPorts ≠ 0 then b.gcc else 0) ∧ u.van.lastHour = hourOf u.gcc ∧
    (u.mgmt.safe = true ↔ bootSlot b s.mgmt.svnMin = none ∨ b.islands ≠ 0) ∧
    (∀ p x, u.portAt p = some x → x.trained = true → p < portCount s.part ∧ b.trained.getLsbD p = true) ∧
    u.mgmt.computeUp = !u.mgmt.safe ∧ (u.porch.up = true ↔ (b.islands.extractLsb' 13 3 : BitVec 3) = 0) ∧
    ∀ n v, bootSlot b s.mgmt.svnMin = some (n, v) → u.mgmt.svn = v.svn ∧ u.mgmt.digest = v.digest ∧
      s.mgmt.svnMin.toNat ≤ v.svn.toNat ∧ v.digest = v.foundDigest ∧ v.rsa = true ∧ v.slh = true := by
  let s0 := s.kept
  let s1 : State := { s0 with mgmt := { s0.mgmt with boot := s0.mgmt.boot + 1, removed := storedUnits s0.van.store .channel } }
  let slot := bootSlot b s1.mgmt.svnMin
  let islands : BitVec 16 := if slot.isSome then b.islands else b.islands &&& 0xE000
  let porchOk := (islands.extractLsb' 13 3 : BitVec 3) == 0
  let s3 := (s1.bootUnits b slot.isSome).bootPorch b porchOk
  have htests : SelfTests b s1 s3 := (selfTests_bootUnits ..).trans (selfTests_bootPorch ..)
  have field {α : Type} (f : State → α) : f s3 = f (s1.withUnits s3) := congrArg f htests.eq
  have hgcc : (if 1 < s3.chips ∧ porchOk ∧ s3.trainedPorts ≠ 0 then b.gcc else 0) =
      if 1 < s.chips ∧ porchOk = true ∧ s3.trainedPorts ≠ 0 then b.gcc else 0 := by
    rw [show s3.chips = s.chips from field State.chips]
  refine ⟨_, rfl, (field State.ctxs).trans rfl, (field State.mem).trans rfl, rfl, (field (·.mgmt.boot)).trans rfl,
    (field (·.mgmt.svnMin)).trans rfl, hgcc, rfl, ?_, htests.trains (trainsOnly_of_reset _ b rfl), ?_, ?_, fun n v h => ?_⟩
  · exact decide_eq_true_iff.trans (bootReason_ne_zero slot b.islands)
  · simp only [ne_eq, decide_not, Bool.not_not]
  · exact beq_iff_eq.trans (by rw [porchIslands])
  · have hslot : slot = some (n, v) := h
    refine ⟨?_, ?_, bootSlot_passes h⟩
    · exact congrArg (fun o : Option (Nat × FirmwareImage) => (o.map (·.2.svn)).getD 0) hslot
    · exact congrArg (fun o : Option (Nat × FirmwareImage) => (o.map (·.2.digest)).getD 0) hslot

/-- Settles O58: each part is a lemma above; memory below 2^53, the brake van's books and the fused state outlive the resets that
leave them. -/
theorem resetsAndPowerOn : Obligations.ResetsAndPowerOn :=
  ⟨computeDomainReset_leaves, computeDomainBringUp_effects, porchDomainReset_leaves, fun _ => porchUp_refused,
    fun _ => porchUp_trains, deviceReset_leaves, powerOn_decides⟩

end Sys2Proof.Machine
end

section
/-!
O52: what is left to perform when a region stops, and the resume group of a region with one context on one core (spec/16).
-/
namespace Sys2Proof.Machine

/-! ## The rest of wide accesses (R154, R160) -/

/-- A state with the storage, the contexts and the wide accesses of another that are still to come. -/
def State.withRest (s t : State) : State := { s.withStores t with ctxs := t.ctxs, late := t.late }

/-- The rest of wide accesses of contexts other than c is performed: storage, the results of those contexts, and the list of what
is still to come change. -/
structure Performs (c : CtxId) (s t : State) : Prop where
  eq : t = s.withRest t
  ctx : t.ctx c = s.ctx c
  task : ∀ d, (t.ctx d).task = (s.ctx d).task
  late : ∀ l ∈ t.late, l ∈ s.late

namespace Performs

variable {c : CtxId} {s t : State}

theorem refl (s : State) : Performs c s s := ⟨rfl, rfl, fun _ => rfl, fun _ => id⟩

theorem trans {u : State} (h : Performs c s t) (k : Performs c t u) : Performs c s u where
  eq := calc u = t.withRest u := k.eq
    _ = (s.withRest t).withRest u := congrArg (·.withRest u) h.eq
    _ = s.withRest u := rfl
  ctx := k.ctx.trans h.ctx
  task := fun d => (k.task d).trans (h.task d)
  late := fun l hl => h.late l (k.late l hl)

theorem of_storesOnly (h : StoresOnly s t) : Performs c s t := by
  have hctx (d : CtxId) : t.ctx d = s.ctx d := (congrArg (·.ctx d) h).trans rfl
  have hlate : t.late = s.late := (congrArg State.late h).trans rfl
  have heq : t = s.withRest t := by
    unfold State.withRest
    rw [hlate, h.ctxs]
    exact h
  exact ⟨heq, hctx c, fun d => by rw [hctx], fun l hl => hlate ▸ hl⟩

theorem mapCtx {d : CtxId} (hd : d ≠ c) (s : State) (f : Ctx → Ctx) (hf : (f (s.ctx d)).task = (s.ctx d).task) :
    Performs c s (s.mapCtx d f) := by
  refine ⟨rfl, ?_, fun e => ?_, fun _ => id⟩
  · rw [State.mapCtx, ctx_setCtx, if_neg (Ne.symm hd)]
  · rw [State.mapCtx, ctx_setCtx]
    split
    · rename_i he; rw [he, hf]
    · rfl

theorem gcc (h : Performs c s t) : t.gcc = s.gcc := (congrArg State.gcc h.eq).trans rfl
theorem groups (h : Performs c s t) : t.groups = s.groups := (congrArg State.groups h.eq).trans rfl
theorem copies (h : Performs c s t) : t.copies = s.copies := (congrArg State.copies h.eq).trans rfl
theorem conds (h : Performs c s t) : t.conds = s.conds := (congrArg State.conds h.eq).trans rfl
theorem posts (h : Performs c s t) : t.posts = s.posts := (congrArg State.posts h.eq).trans rfl
theorem preempts (h : Performs c s t) : t.preempts = s.preempts := (congrArg State.preempts h.eq).trans rfl

end Performs

theorem performs_readLane {c : CtxId} (s : State) {l : Late} (hl : l.cid ≠ c) (p : Nat × Nat) :
    Performs c s (s.readLane l p) := by
  unfold State.readLane
  split
  · exact .refl s
  · exact .trans (.of_storesOnly (storesOnly_readErrors ..)) (.mapCtx hl _ _ rfl)

theorem performs_perform {c : CtxId} (s : State) {l : Late} (hl : l.cid ≠ c) : Performs c s (s.perform l) :=
  .trans (.of_storesOnly (storesOnly_putCells ..))
    (foldl_related .refl .trans (fun t p => performs_readLane t hl p) _ _)

/-- Where nothing of c is still to come, what a settled context has still to perform is not c's (R154). -/
theorem performs_settle {c : CtxId} {s : State} (h : ∀ l ∈ s.late, l.cid ≠ c) (d : CtxId) : Performs c s (s.settle d) := by
  have hfold (ls : List Late) (hls : ∀ l ∈ ls, l.cid ≠ c) (t : State) : Performs c t (ls.foldl State.perform t) := by
    induction ls generalizing t with
    | nil => exact .refl t
    | cons l ls ih =>
      exact (performs_perform t (hls l (by simp))).trans (ih (fun k hk => hls k (by simp [hk])) _)
  have hdrop : Performs c s { s with late := s.late.filter (fun l => l.cid != d) } :=
    ⟨rfl, rfl, fun _ => rfl, fun _ hl => (List.mem_filter.mp hl).1⟩
  exact hdrop.trans (hfold _ (fun l hl => h l (List.mem_filter.mp hl).1) _)

theorem performs_settles {c : CtxId} (l : List CtxId) {s : State} (h : ∀ l ∈ s.late, l.cid ≠ c) :
    Performs c s (l.foldl State.settle s) := by
  induction l generalizing s with
  | nil => exact .refl s
  | cons d l ih =>
    have hd := performs_settle h d
    exact hd.trans (ih (fun k hk => h k (hd.late k hk)))

/-! ## Engines of a region without threads (R423) -/

/-- No engine thread is a region's. -/
structure Quiet (region : Nat) (s : State) : Prop where
  copies : ∀ k ∈ s.copies, k.region ≠ region
  conds : ∀ k ∈ s.conds, k.region ≠ region
  posts : ∀ k ∈ s.posts, k.region ≠ region

theorem Quiet.of_performs {region : Nat} {c : CtxId} {s t : State} (h : Quiet region s) (k : Performs c s t) : Quiet region t :=
  ⟨k.copies ▸ h.copies, k.conds ▸ h.conds, k.posts ▸ h.posts⟩

/-- A map that changes no element of a list leaves it. -/
theorem map_eq_self {α : Type} {f : α → α} {l : List α} (h : ∀ x ∈ l, f x = x) : l.map f = l :=
  (List.map_congr_left h).trans (List.map_id l)

/-- Engines of a region without threads need not stop. -/
theorem stopEngines_of_quiet {region : Nat} {s : State} (h : Quiet region s) (k : CoreId) : s.stopEngines region k = s := by
  have hrun : s.copies.filter (fun c => (c.region == region && c.cid.core == k) && c.st == .run) = [] :=
    List.filter_eq_nil_iff.mpr (fun x hx => by simp [h.copies x hx])
  unfold State.stopEngines
  dsimp only
  rw [hrun, List.foldl_nil, map_eq_self (fun x hx => ?_), map_eq_self (fun x hx => ?_), map_eq_self (fun x hx => ?_)]
  · simp [h.posts x hx]
  · simp [h.conds x hx]
  · simp [h.copies x hx]

/-! ## The contexts of a core -/

theorem of_core_num (c : CtxId) : CtxId.of c.core c.num = c := by
  ext i hi
  simp

theorem core_of (k : CoreId) (n : BitVec 2) : (CtxId.of k n).core = k := BitVec.extractLsb'_append_eq_left

theorem num_of (k : CoreId) (n : BitVec 2) : (CtxId.of k n).num = n := BitVec.extractLsb'_append_eq_right

theorem coreCtxs_eq (k : CoreId) : coreCtxs k = [0, 1, 2, 3].map (CtxId.of k) := rfl

theorem mem_coreCtxs (k : CoreId) (d : CtxId) : d ∈ coreCtxs k ↔ d.core = k := by
  rw [coreCtxs_eq, List.mem_map]
  constructor
  · rintro ⟨n, -, rfl⟩
    exact core_of k n
  · rintro rfl
    have hnum : ∀ n : BitVec 2, n ∈ [0#2, 1, 2, 3] := by decide
    exact ⟨d.num, hnum _, of_core_num d⟩

theorem nodup_coreCtxs (k : CoreId) : (coreCtxs k).Nodup := by
  have hinj : Function.Injective (CtxId.of k) := fun a b h => by rw [← num_of k a, h, num_of]
  have hnums : [0#2, 1, 2, 3].Nodup := by decide
  exact hnums.map hinj

/-- Of the contexts of a core one alone is picked. -/
theorem filter_coreCtxs {c : CtxId} {p : CtxId → Bool} (hp : ∀ d, p d = true ↔ d = c) : (coreCtxs c.core).filter p = [c] := by
  have hpc : p = (· == c) := funext fun d => Bool.eq_iff_iff.mpr ((hp d).trans beq_iff_eq.symm)
  rw [hpc, List.filter_beq, List.count_eq_one_of_mem (nodup_coreCtxs _) ((mem_coreCtxs _ c).mpr rfl)]
  rfl

end Sys2Proof.Machine
end

section
/-!
O52, continued: a region with one context on one core is pre-empted (spec/16 R422 to R427).
-/
namespace Sys2Proof.Machine

/-! ## Storage that moves with its frame (R425) -/

/-- A group as it is after its storage has moved. -/
def Group.rekey (f : Nat → Nat) (g : Group) : Group := { g with images := g.images.map (fun i => (i.1, i.2.rekey f)) }

theorem rekey_groups (s : State) (f : Nat → Nat) : (s.rekey f).groups = s.groups.map (Group.rekey f) := rfl

theorem rekey_ctx (s : State) (f : Nat → Nat) (d : CtxId) : (s.rekey f).ctx d = (s.ctx d).rekey f := by
  simp [State.rekey, State.ctx]

theorem rekey_task (x : Ctx) (f : Nat → Nat) : (x.rekey f).task = x.task := rfl

theorem rekey_copies (s : State) (f : Nat → Nat) {region : Nat} (h : ∀ k ∈ s.copies, k.region ≠ region) :
    ∀ k ∈ (s.rekey f).copies, k.region ≠ region := by
  intro k hk
  obtain ⟨x, hx, rfl⟩ := List.mem_map.mp hk
  exact h x hx

/-! ## A group slot is written (R426, R427) -/

/-- The writing of a group slot changes storage and draws free values. -/
def WritesSlot (s t : State) : Prop := t = { s.withStores t with free := t.free }

theorem WritesSlot.refl (s : State) : WritesSlot s s := rfl

theorem WritesSlot.trans {s t u : State} (h : WritesSlot s t) (k : WritesSlot t u) : WritesSlot s u :=
  calc u = { t.withStores u with free := u.free } := k
    _ = { ({ s.withStores t with free := t.free } : State).withStores u with free := u.free } :=
      congrArg (fun x : State => ({ x.withStores u with free := u.free } : State)) h
    _ = { s.withStores u with free := u.free } := rfl

theorem WritesSlot.of_storesOnly {s t : State} (h : StoresOnly s t) : WritesSlot s t := by
  have hfree : t.free = s.free := (congrArg State.free h).trans rfl
  unfold WritesSlot
  rw [hfree]
  exact h

theorem storesOnly_poison (s : State) (l : List Nat) : StoresOnly s { s with poison := l } := rfl

theorem writesSlot_writeSlot (s : State) (r : Rgn) (slot : Nat) (k : CoreId) (holder : Option (BitVec 2))
    (images : List (BitVec 2 × Ctx)) : WritesSlot s (s.writeSlot r slot k holder images) := by
  unfold State.writeSlot
  dsimp only
  refine .trans (.of_storesOnly ?_) (foldl_related .refl .trans (fun t i => ?_) _ _)
  · exact (storesOnly_readErrors ..).trans ((storesOnly_globalPut ..).trans (storesOnly_poison ..))
  · have hdraw : WritesSlot t { t with free := t.free + 2 ^ 24 } := rfl
    exact hdraw.trans (.of_storesOnly (storesOnly_globalPut ..))

/-! ## The contexts of a core become a group (R423 to R426) -/

/-- A core with no context of the region gives no group: its contexts are settled. -/
theorem freezeCore_idle {u : State} {r : Rgn} {k : CoreId} (hquiet : Quiet r.id ((coreCtxs k).foldl State.settle u))
    (hidle : ∀ d ∈ coreCtxs k, (((coreCtxs k).foldl State.settle u).ctx d).task.map (·.region) ≠ some r.id) (w kept : Bool) :
    u.freezeCore r k w kept = (coreCtxs k).foldl State.settle u := by
  unfold State.freezeCore
  rw [stopEngines_of_quiet hquiet k]
  extract_lets s cids
  have hcids : cids = [] := by
    refine List.filter_eq_nil_iff.mpr (fun d hd => ?_)
    have hd := hidle d hd
    cases h : (s.ctx d).task <;> simp_all [s]
  exact if_pos hcids

/-- What becomes of a state w whose context c alone of its core holds a task of the region, when the core is frozen: v. -/
structure Freezes (r : Rgn) (c : CtxId) (w v : State) (f : Nat → Nat) (g : Group) : Prop where
  groups : v.groups = w.groups.map (Group.rekey f) ++ [g.rekey f]
  region : g.region = r.id
  core : g.core = c.core
  images : g.images = [(c.num, w.imageOf c)]
  vacated : v.ctx c = ((w.ctx c).vacated).rekey f
  others : ∀ d, d ≠ c → v.ctx d = (w.ctx d).rekey f
  late : v.late = w.late
  preempts : v.preempts = w.preempts
  quiet : Quiet r.id w → Quiet r.id v

/-- The slot is written, the group joins the others, the context is vacated, and its storage moves. -/
theorem freezes_of_writesSlot {r : Rgn} {c : CtxId} {w t : State} {n : Nat} (hslot : WritesSlot { w with nextId := n } t)
    (frames : List (CoreId × List Nat × Option CoreId)) (h : Core → Core) (f : Nat → Nat) {g : Group} (hregion : g.region = r.id)
    (hcore : g.core = c.core) (himages : g.images = [(c.num, w.imageOf c)]) :
    Freezes r c w (((({ t with groups := t.groups ++ [g], frames := frames } : State).mapCtx c Ctx.vacated).mapCore c.core h).rekey f)
      f g := by
  have field {α : Type} (p : State → α) : p t = p { ({ w with nextId := n } : State).withStores t with free := t.free } :=
    congrArg p hslot
  have hctx (d : CtxId) : t.ctx d = w.ctx d := (field (·.ctx d)).trans rfl
  constructor
  case groups =>
    have hgroups : t.groups = w.groups := (field (·.groups)).trans rfl
    rw [rekey_groups, ← hgroups]
    exact List.map_append ..
  case region => exact hregion
  case core => exact hcore
  case images => exact himages
  case vacated => rw [rekey_ctx, ctx_mapCore, ctx_mapCtx_self, ← hctx]; rfl
  case others => intro d hd; rw [rekey_ctx, ctx_mapCore, ctx_mapCtx_ne _ _ hd, ← hctx]; rfl
  case late => exact (field (·.late)).trans rfl
  case preempts => exact (field (·.preempts)).trans rfl
  case quiet =>
    intro hw
    have hcopies : t.copies = w.copies := (field (·.copies)).trans rfl
    have hconds : t.conds = w.conds := (field (·.conds)).trans rfl
    have hposts : t.posts = w.posts := (field (·.posts)).trans rfl
    exact ⟨rekey_copies _ f (fun k hk => hw.copies k (hcopies ▸ hk)), fun k hk => hw.conds k (hconds ▸ hk),
      fun k hk => hw.posts k (hposts ▸ hk)⟩

theorem freezeCore_single {u : State} {r : Rgn} {c : CtxId} (hquiet : Quiet r.id ((coreCtxs c.core).foldl State.settle u))
    (hown : ∀ d, (((coreCtxs c.core).foldl State.settle u).ctx d).task.map (·.region) = some r.id ↔ d = c) (wd kept : Bool) :
    ∃ f g, Freezes r c ((coreCtxs c.core).foldl State.settle u) (u.freezeCore r c.core wd kept) f g ∧ g.withdrawn = wd := by
  unfold State.freezeCore
  rw [stopEngines_of_quiet hquiet c.core]
  extract_lets s cids f images slot core live mine old frames g s1 s2 s3
  have hcids : cids = [c] := by
    refine filter_coreCtxs (fun d => Iff.trans ?_ (hown d))
    cases h : (s.ctx d).task <;> simp_all [s]
  rw [if_neg (by rw [hcids]; exact List.cons_ne_nil c [])]
  have hs3 : s3 = (s2.mapCtx c Ctx.vacated).mapCore c.core (fun c =>
      { c with rings := Vector.replicate 64 Ring.reset, bank := Vector.replicate 2 Bank.reset, act := false, holder := none }) := by
    simp only [s3, hcids, List.foldl_cons, List.foldl_nil]
  have hslot : WritesSlot f.2 s1 := writesSlot_writeSlot ..
  rw [hs3]
  exact ⟨_, g, freezes_of_writesSlot hslot _ _ _ rfl rfl (by simp only [g, images, hcids, List.map_cons, List.map_nil]), rfl⟩

end Sys2Proof.Machine
end

section
/-!
O52, continued: the pre-emption of a region with one context (spec/16 R422, R423).
-/
namespace Sys2Proof.Machine

/-! ## The cores of a region (R423) -/

theorem mem_allCtxs (c : CtxId) : c ∈ allCtxs := by
  refine List.mem_map.mpr ⟨c.toNat, List.mem_range.mpr c.isLt, ?_⟩
  simp

theorem mem_occupied {s : State} {c : CtxId} {t : Task} (h : (s.ctx c).task = some t) :
    (⟨c, t.region, t.launch, t.nacc⟩ : Occ) ∈ s.occupied := by
  refine List.mem_append_left _ (List.mem_filterMap.mpr ⟨c, mem_allCtxs c, ?_⟩)
  rw [h]; rfl

/-- The core of a context of a region is one of the region's. -/
theorem core_mem_regionCores {s : State} {c : CtxId} {t : Task} (h : (s.ctx c).task = some t) :
    c.core ∈ s.regionCores t.region := by
  unfold State.regionCores
  refine List.mem_dedup.mpr (List.mem_append_left _ (List.mem_append_left _ (List.mem_append_left _ ?_)))
  exact List.mem_map.mpr ⟨_, List.mem_filter.mpr ⟨mem_occupied h, by simp⟩, rfl⟩

/-! ## Every core of the region in turn (R423) -/

/-- The cores of a list become groups of a region, one after another. -/
def State.freezeCores (s : State) (r : Rgn) (wd kept : CoreId → Bool) (l : List CoreId) : State :=
  l.foldl (fun u k => u.freezeCore r k (wd k) (kept k)) s

/-- Cores without a context of the region give no group. -/
theorem performs_freezeCores {c : CtxId} {r : Rgn} (wd kept : CoreId → Bool) (l : List CoreId) {u : State} (hquiet : Quiet r.id u)
    (hlate : ∀ x ∈ u.late, x.cid ≠ c) (hidle : ∀ k ∈ l, ∀ d ∈ coreCtxs k, (u.ctx d).task.map (·.region) ≠ some r.id) :
    Performs c u (u.freezeCores r wd kept l) := by
  induction l generalizing u with
  | nil => exact .refl u
  | cons k l ih =>
    have hsettle : Performs c u ((coreCtxs k).foldl State.settle u) := performs_settles _ hlate
    have hstep : u.freezeCore r k (wd k) (kept k) = (coreCtxs k).foldl State.settle u :=
      freezeCore_idle (hquiet.of_performs hsettle) (fun d hd => hsettle.task d ▸ hidle k (by simp) d hd) _ _
    have hrest := ih (hquiet.of_performs hsettle) (fun x hx => hlate x (hsettle.late x hx))
      (fun j hj d hd => hsettle.task d ▸ hidle j (by simp [hj]) d hd)
    rw [State.freezeCores, List.foldl_cons, hstep]
    exact hsettle.trans hrest

/-- The cores of a region whose one context is c: c's core gives a group, and what is still to come elsewhere is performed. -/
theorem freezeCores_single {s : State} {r : Rgn} {c : CtxId} (wd kept : CoreId → Bool) {l : List CoreId} (hl : l.Nodup)
    (hc : c.core ∈ l) (hown : ∀ d, (s.ctx d).task.map (·.region) = some r.id ↔ d = c) (hquiet : Quiet r.id s)
    (hlate : ∀ x ∈ s.late, x.cid ≠ c) :
    ∃ w v f g, Performs c s w ∧ Freezes r c w v f g ∧ g.withdrawn = wd c.core ∧ Performs c v (s.freezeCores r wd kept l) := by
  obtain ⟨l₁, l₂, rfl⟩ := List.append_of_mem hc
  obtain ⟨-, hl₂, hdisj⟩ := List.nodup_append.mp hl
  have hbefore : Performs c s (s.freezeCores r wd kept l₁) := by
    refine performs_freezeCores wd kept l₁ hquiet hlate (fun k hk d hd h => ?_)
    rw [(hown d).mp h, mem_coreCtxs] at hd
    exact hdisj k hk c.core (by simp) hd.symm
  have hsettle : Performs c s ((coreCtxs c.core).foldl State.settle (s.freezeCores r wd kept l₁)) :=
    hbefore.trans (performs_settles _ (fun x hx => hlate x (hbefore.late x hx)))
  have hown' (d : CtxId) : (((coreCtxs c.core).foldl State.settle (s.freezeCores r wd kept l₁)).ctx d).task.map (·.region) = some r.id ↔
      d = c := by rw [hsettle.task, hown]
  obtain ⟨f, g, hfreeze, hwd⟩ := freezeCore_single (hquiet.of_performs hsettle) hown' (wd c.core) (kept c.core)
  refine ⟨_, _, f, g, hsettle, hfreeze, hwd, ?_⟩
  have hsplit : s.freezeCores r wd kept (l₁ ++ c.core :: l₂) =
      ((s.freezeCores r wd kept l₁).freezeCore r c.core (wd c.core) (kept c.core)).freezeCores r wd kept l₂ := by
    simp only [State.freezeCores, List.foldl_append, List.foldl_cons]
  rw [hsplit]
  refine performs_freezeCores wd kept l₂ (hfreeze.quiet (hquiet.of_performs hsettle))
    (fun x hx => hlate x (hsettle.late x (hfreeze.late ▸ hx))) (fun k hk d hd h => ?_)
  by_cases hdc : d = c
  · rw [hdc, mem_coreCtxs] at hd
    exact (List.nodup_cons.mp hl₂).1 (hd ▸ hk)
  · rw [hfreeze.others d hdc, rekey_task, hown' d] at h
    exact hdc h

/-! ## The region (R422, R423) -/

/-- A coach of one context without a missed promise and with a clear boundary has nothing to settle. -/
theorem settleBoundary_clear {s : State} {c : CtxId} (hmembers : s.members c = [c]) (hclear : s.boundary c = .clear)
    (hcopies : ∀ k ∈ s.copies, k.cid ≠ c) : s.settleBoundary c = s := by
  have hmissed : s.copies.filter (s.missed c) = [] := by
    refine List.filter_eq_nil_iff.mpr (fun k hk => ?_)
    unfold State.missed
    split
    · exact Bool.false_ne_true
    · simp [hcopies k hk]
  have hnote : s.noteMissed c = s := by
    unfold State.noteMissed
    rw [hmissed]
  have hboundary : s.coachBoundary c = none := by
    simp [State.coachBoundary, hmembers, hclear]
  unfold State.settleBoundary
  rw [hmembers, List.foldl_cons, List.foldl_nil, hnote]
  dsimp only
  rw [hboundary]

/-- Updates that each leave a state leave it together. -/
theorem foldl_eq_self {α : Type} {f : State → α → State} {l : List α} {s : State} (h : ∀ x ∈ l, f s x = s) : l.foldl f s = s := by
  induction l with
  | nil => rfl
  | cons x l ih => rw [List.foldl_cons, h x (by simp), ih (fun y hy => h y (by simp [hy]))]

/-- A pre-empted region keeps no core: none of its groups is held for it any more. -/
def Group.release (region : Nat) (g : Group) : Group := if g.region = region then { g with kept := false } else g

/-- Release leaves what a group is and holds. -/
theorem release_fields (region : Nat) (g : Group) :
    (g.release region).region = g.region ∧ (g.release region).core = g.core ∧ (g.release region).withdrawn = g.withdrawn ∧
    (g.release region).images = g.images := by
  unfold Group.release
  split <;> exact ⟨rfl, rfl, rfl, rfl⟩

/-- A region's groups are released, and the scheduler looks again. -/
def State.release (s : State) (region : Nat) : State :=
  { s with sched := { s.sched with again := true }, groups := s.groups.map (Group.release region) }

theorem preemptRegion_eq {s : State} {r : Rgn} {c : CtxId} (hown : ∀ d, (s.ctx d).task.map (·.region) = some r.id ↔ d = c)
    (hclear : s.settleBoundary c = s) :
    s.preemptRegion r none =
      (s.freezeCores r (fun k => (none : Option CoreId) == some k) (fun k => (none : Option CoreId).any (· != k))
        (s.regionCores r.id)).release r.id := by
  obtain ⟨t, ht, hregion⟩ := Option.map_eq_some_iff.mp ((hown c).mpr rfl)
  have hocc : ¬ s.occupied.all (fun o => o.region != r.id) = true := by
    intro h
    have := List.all_eq_true.mp h _ (mem_occupied ht)
    simp [hregion] at this
  unfold State.preemptRegion
  rw [if_neg hocc]
  extract_lets mine s1 s2
  have hs1 : s1 = s := by
    refine foldl_eq_self (fun d hd => ?_)
    have hdc : d = c := by
      refine (hown d).mp ?_
      have hd := (List.mem_filter.mp hd).2
      cases h : (s.ctx d).task <;> simp_all
    rw [hdc, hclear]
  have hs2 : s2 = s1.freezeCores r (fun k => (none : Option CoreId) == some k) (fun k => (none : Option CoreId).any (· != k))
      (s1.regionCores r.id) := rfl
  rw [hs1] at hs2
  exact congrArg (·.release r.id) hs2

/-- A context's image holds its registers, and its deadline clock as it stood (R423). -/
theorem imageOf_rekey {c : CtxId} {s w : State} (h : Performs c s w) (f : Nat → Nat) :
    (w.imageOf c).rekey f = (s.imageOf c).rekey f := by
  simp only [State.imageOf, State.dtc, h.ctx, h.gcc]

theorem preemption_freezes {s : State} {r : Rgn} {c : CtxId} (hr : s.rgnOf r.id = some r) (hpreempts : s.preempts = [r.id])
    (hown : ∀ d, (s.ctx d).task.map (·.region) = some r.id ↔ d = c) (hmembers : s.members c = [c])
    (hclear : s.boundary c = .clear) (hcopies : ∀ k ∈ s.copies, k.cid ≠ c) (hquiet : Quiet r.id s)
    (hlate : ∀ l ∈ s.late, l.cid ≠ c) :
    ∃ (u : State) (g : Group) (f : Nat → Nat), exec (.preemption r.id) s = .next u ∧ u.groups.getLast? = some g ∧
      u.groups.length = s.groups.length + 1 ∧ g.region = r.id ∧ g.core = c.core ∧ g.withdrawn = false ∧
      g.images = [(c.num, (s.imageOf c).rekey f)] ∧ (u.ctx c).task = none ∧ (u.ctx c).run = .idle ∧ u.preempts = [] := by
  obtain ⟨t, ht, hregion⟩ := Option.map_eq_some_iff.mp ((hown c).mpr rfl)
  have hcore : c.core ∈ s.regionCores r.id := hregion ▸ core_mem_regionCores ht
  have hexec : exec (.preemption r.id) s = execPreemption r.id s := rfl
  have hsome : s.preempts.contains r.id ∨ s.mustYield r.id = true := .inl (by simp [hpreempts])
  rw [hexec, execPreemption, hr]
  dsimp only
  rw [if_pos hsome, preemptRegion_eq hown (settleBoundary_clear hmembers hclear hcopies)]
  obtain ⟨w, v, f, g, hw, hv, hwd, hrest⟩ := freezeCores_single (fun k => (none : Option CoreId) == some k)
    (fun k => (none : Option CoreId).any (· != k)) (l := s.regionCores r.id) (List.nodup_dedup _) hcore hown hquiet hlate
  generalize s.freezeCores r _ _ _ = t' at hrest
  have hgroups : (t'.release r.id).groups =
      (s.groups.map (Group.rekey f) ++ [g.rekey f]).map (Group.release r.id) := by
    rw [State.release, hrest.groups, hv.groups, hw.groups]
  have hctx : t'.ctx c = ((w.ctx c).vacated).rekey f := hrest.ctx.trans hv.vacated
  obtain ⟨hgregion, hgcore, hgwd, hgimages⟩ := release_fields r.id (g.rekey f)
  refine ⟨_, (g.rekey f).release r.id, f, rfl, ?_, ?_, ?_, ?_, ?_, ?_, ?_, ?_, ?_⟩
  · show (t'.release r.id).groups.getLast? = _
    rw [hgroups, List.map_append, List.map_singleton, List.getLast?_concat]
  · show (t'.release r.id).groups.length = _
    simp [hgroups]
  · exact hgregion.trans hv.region
  · exact hgcore.trans hv.core
  · exact hgwd.trans hwd
  · rw [hgimages, ← imageOf_rekey hw]
    simp only [Group.rekey, hv.images, List.map_cons, List.map_nil]
  · exact congrArg Ctx.task hctx
  · exact congrArg Ctx.run hctx
  · show (t'.release r.id).preempts.filter (fun x => x != r.id) = []
    have hkept : (t'.release r.id).preempts = [r.id] :=
      hrest.preempts.trans (hv.preempts.trans (hw.preempts.trans hpreempts))
    simp [hkept]

end Sys2Proof.Machine
end

section
/-!
O52, continued: a resume group goes on, or its resume is refused (spec/16 R424, R425, R428).
-/
namespace Sys2Proof.Machine

/-! ## Engines go on without the contexts (R142, R143, R288) -/

/-- The contexts, the resume groups and GCC. -/
def State.placement (s : State) : Vector Ctx 2048 × List Group × Word := (s.ctxs, s.groups, s.gcc)

theorem placement_storesOnly {s t : State} (h : StoresOnly s t) : t.placement = s.placement := by
  simp only [State.placement, h.ctxs, h.groups, h.gcc]

theorem placement_reduce (s : State) (r : Red) : (s.reduce r).placement = s.placement := rfl

theorem placement_applyBuffered (s : State) (barrier : Nat) (ph : BitVec 32) :
    (s.applyBuffered barrier ph).placement = s.placement := by
  unfold State.applyBuffered
  exact (foldl_keeps State.placement (fun t r => placement_reduce ..) _ _).trans rfl

theorem placement_putBarrier (s : State) (k : Nat) (b : Barrier) : (s.putBarrier k b).placement = s.placement :=
  placement_storesOnly ((storesOnly_putNat ..).trans (storesOnly_putNat ..))

theorem placement_wake (s : State) (k : Nat) : (s.wake k).placement = s.placement := rfl

/-- Sampled writes and ended phases that go are no contexts. -/
theorem placement_endPhases (s : State) (ws : List PhaseWrite) (k : Nat) :
    (({ s with writes := ws } : State).endPhases k).placement = s.placement := rfl

theorem placement_completePhases (s : State) (k n : Nat) : (s.completePhases k n).placement = s.placement := by
  induction n generalizing s with
  | zero => rfl
  | succ n ih =>
    unfold State.completePhases
    extract_lets b s1 s2 b2
    split
    · calc _ = ((s2.putBarrier k { b2 with ph := b.ph + 1, arr := b.arr - b.tgt }).wake k).placement := ih _
        _ = s2.placement := (placement_wake ..).trans (placement_putBarrier ..)
        _ = s1.placement := placement_endPhases ..
        _ = s.placement := placement_applyBuffered ..
    · rfl

theorem placement_subPending (s : State) (k n : Nat) : (s.subPending k n).placement = s.placement :=
  (placement_completePhases ..).trans (placement_putBarrier ..)

theorem placement_mapCopy (s : State) (id : Nat) (f : Copy → Copy) : (s.mapCopy id f).placement = s.placement := rfl

theorem placement_returnBytes (s : State) (k : Copy) : (s.returnBytes k).placement = s.placement := by
  unfold State.returnBytes
  split
  · rfl
  · split
    · rfl
    · exact (placement_subPending ..).trans (placement_mapCopy ..)

theorem placement_restartEngines (s before : State) (region : Nat) :
    (s.restartEngines before region).placement = s.placement := by
  unfold State.restartEngines
  extract_lets waits s1 s2
  have hcopies : s1.placement = s.placement := foldl_keeps State.placement (fun t c => placement_mapCopy t.drawPromise.2 ..) _ s
  have hbytes : s2.placement = s1.placement := foldl_keeps State.placement placement_returnBytes _ s1
  exact (show _ = s2.placement from rfl).trans (hbytes.trans hcopies)

/-! ## The lead of a coach (R101, R424) -/

/-- Contexts differ at most in what their tasks name as lead, and nothing else differs. -/
structure Releads (s t : State) : Prop where
  groups : t.groups = s.groups
  gcc : t.gcc = s.gcc
  ctx : ∀ d, t.ctx d = { s.ctx d with task := (t.ctx d).task }

namespace Releads

theorem refl (s : State) : Releads s s := ⟨rfl, rfl, fun _ => rfl⟩

theorem trans {s t u : State} (h : Releads s t) (k : Releads t u) : Releads s u := by
  refine ⟨k.groups.trans h.groups, k.gcc.trans h.gcc, fun d => ?_⟩
  calc u.ctx d = { t.ctx d with task := (u.ctx d).task } := k.ctx d
    _ = { ({ s.ctx d with task := (t.ctx d).task } : Ctx) with task := (u.ctx d).task } :=
      congrArg (fun x : Ctx => ({ x with task := (u.ctx d).task } : Ctx)) (h.ctx d)
    _ = { s.ctx d with task := (u.ctx d).task } := rfl

theorem foldl {α : Type} {f : State → α → State} (hf : ∀ t x, Releads t (f t x)) (l : List α) (s : State) :
    Releads s (l.foldl f s) := foldl_related refl trans hf l s

theorem mapCtx (s : State) (d : CtxId) (f : Option Task → Option Task) :
    Releads s (s.mapCtx d (fun x => { x with task := f x.task })) := by
  refine ⟨rfl, rfl, fun e => ?_⟩
  by_cases h : e = d
  · subst h; rw [ctx_mapCtx_self]
  · rw [ctx_mapCtx_ne _ _ h]

end Releads

/-! ## A group on the core that takes it (R424, R425) -/

/-- A partition without a trace ring has no records of its contexts (R511). -/
theorem trace_of_none {s : State} {c : CtxId} {t : Task} (ht : (s.ctx c).task = some t) (hn : (s.partOf t.part).trace = none)
    (kind : Nat) (ctm addr : Word) (cnt : Nat) : s.trace c kind ctm addr cnt = s := by
  have hpart : s.ctxPart c = t.part := by simp [State.ctxPart, ht]
  unfold State.trace
  rw [hpart]
  dsimp only
  rw [hn]

/-- A context thawed in a partition without a trace ring leaves no record (R511). -/
theorem trace_thawed {t : State} {c : CtxId} {x : Ctx} {q : Task} (hq : x.task = some q) (hn : (t.partOf q.part).trace = none)
    (kind : Nat) (ctm addr : Word) (cnt : Nat) :
    (t.setCtx c (t.thawed c x)).trace c kind ctm addr cnt = t.setCtx c (t.thawed c x) :=
  trace_of_none (s := t.setCtx c (t.thawed c x)) (by rw [ctx_setCtx_self]; exact hq) hn kind ctm addr cnt

/-- PM that is written back is storage and tags (R425). -/
theorem restorePm_leaves (s : State) (k : CoreId) (pm : List (Byte × Bool)) (tags : List Byte) :
    (s.restorePm k pm tags).groups = s.groups ∧ (s.restorePm k pm tags).gcc = s.gcc ∧
    (s.restorePm k pm tags).parts = s.parts := by
  unfold State.restorePm
  extract_lets s1 empties bad
  exact ⟨rfl, rfl, rfl⟩

/-- The group's core as the group left it, and the group gone: the state in which its images go into contexts. -/
def State.vacateGroup (s : State) (g : Group) (frames : List (CoreId × List Nat × Option CoreId)) (k : CoreId) (h : Core → Core) :
    State :=
  ({ s with groups := s.groups.filter (fun x => x.id != g.id), frames := frames } : State).mapCore k h

/-- A resumed context with its coach's lead named anew. -/
def State.nameLead (s : State) (k : CoreId) (i : BitVec 2 × Ctx) : State :=
  match i.2.task with
  | none => s
  | some t =>
    if i.2.coachPos = 0 then
      (s.members (CtxId.of k i.1)).foldl (fun w d =>
        w.mapCtx d (fun x => { x with task := x.task.map (fun q => { q with lead := CtxId.of k i.1 }) })) s
    else
      match (s.members (CtxId.of k i.1)).find? (fun d => (s.ctx d).coachPos == 0) with
      | some d => s.mapCtx (CtxId.of k i.1) (fun x => { x with task := some { t with lead := d } })
      | none => s

theorem releads_nameLead (s : State) (k : CoreId) (i : BitVec 2 × Ctx) : Releads s (s.nameLead k i) := by
  unfold State.nameLead
  split
  · exact .refl s
  · split
    · exact .foldl (fun t d => .mapCtx t d _) _ s
    · split
      · exact .mapCtx s _ (fun _ => _)
      · exact .refl s

/-- A group of one context is placed in steps. -/
theorem placeGroup_eq (s : State) (r : Rgn) {g : Group} (k : CoreId) {n : BitVec 2} {x : Ctx} (himages : g.images = [(n, x)])
    (pm : List (Byte × Bool)) (tags : List Byte) : ∃ frames h serials,
    s.placeGroup r g k pm tags =
      let t := (s.restorePm k pm tags).vacateGroup g frames k h
      let v := (t.setCtx (CtxId.of k n) (t.thawed (CtxId.of k n) x)).trace (CtxId.of k n) 5 x.ctm x.flow.pc 0
      (((v.rebind r.id serials g.core k).rekey (moveKey (awayKey g.id) (pmKey k 0) (awayRing g.id) (ringKeys k))).restartEngines s
        r.id).nameLead k (n, x) := by
  unfold State.placeGroup
  rw [himages]
  exact ⟨_, _, _, rfl⟩

/-- The deadline clock of a thawed image runs from where it stood (R117, R424). -/
theorem thawed_dtc {s : State} {x : Ctx} {v : Word} (h : x.dtc = .frozen v) (c : CtxId) :
    (s.thawed c x).dtc = .running (s.gcc - v) := by
  simp [State.thawed, h]

/-- What the last steps of placing a group leave of a state: names of storage and of leads are new in it. -/
theorem ctx_placed (t before : State) (region : Nat) (serials : List Nat) (a k : CoreId) (f : Nat → Nat) (i : BitVec 2 × Ctx) :
    let u := (((t.rebind region serials a k).rekey f).restartEngines before region).nameLead k i
    u.groups = t.groups.map (Group.rekey f) ∧ u.gcc = t.gcc ∧
    ∀ d, u.ctx d = { (t.ctx d).rekey f with task := (u.ctx d).task } := by
  intro u
  have hleads : Releads (((t.rebind region serials a k).rekey f).restartEngines before region) u := releads_nameLead ..
  have hengines := placement_restartEngines ((t.rebind region serials a k).rekey f) before region
  obtain ⟨hctxs, hrest⟩ := Prod.mk.inj hengines
  obtain ⟨hgroups, hgcc⟩ := Prod.mk.inj hrest
  refine ⟨hleads.groups.trans hgroups, hleads.gcc.trans hgcc, fun d => ?_⟩
  have hctx : (((t.rebind region serials a k).rekey f).restartEngines before region).ctx d = (t.ctx d).rekey f := by
    rw [State.ctx, hctxs]
    exact rekey_ctx (t.rebind region serials a k) f d
  rw [← hctx]
  exact hleads.ctx d

/-- A group of one context on a core: the group is gone, and the context is the image thawed, its storage's names and its coach's
lead made new. -/
theorem placeGroup_single {s : State} {r : Rgn} {g : Group} {k : CoreId} {n : BitVec 2} {x : Ctx} {q : Task}
    (himages : g.images = [(n, x)]) (hq : x.task = some q) (htrace : (s.partOf q.part).trace = none)
    (pm : List (Byte × Bool)) (tags : List Byte) :
    (∀ y ∈ (s.placeGroup r g k pm tags).groups, y.id ≠ g.id) ∧ (s.placeGroup r g k pm tags).gcc = s.gcc ∧
    ∃ (t : State) (f : Nat → Nat) (o : Option Task), t.gcc = s.gcc ∧
      (s.placeGroup r g k pm tags).ctx (CtxId.of k n) = { (t.thawed (CtxId.of k n) x).rekey f with task := o } := by
  obtain ⟨frames, h, serials, hplace⟩ := placeGroup_eq s r k himages pm tags
  obtain ⟨hgroups, hgcc, hparts⟩ := restorePm_leaves s k pm tags
  rw [hplace]
  generalize s.restorePm k pm tags = s' at hgroups hgcc hparts
  dsimp only
  generalize ht : s'.vacateGroup g frames k h = t
  have htgroups : t.groups = s.groups.filter (fun y => y.id != g.id) := by
    rw [← ht, ← hgroups]; rfl
  have htgcc : t.gcc = s.gcc := by rw [← ht, ← hgcc]; rfl
  have htparts : t.parts = s.parts := by rw [← ht, ← hparts]; rfl
  rw [trace_thawed hq (by rw [← htrace, State.partOf, State.partOf, htparts])]
  generalize moveKey (awayKey g.id) (pmKey k 0) (awayRing g.id) (ringKeys k) = f
  obtain ⟨hugroups, hugcc, huctx⟩ :=
    ctx_placed (t.setCtx (CtxId.of k n) (t.thawed (CtxId.of k n) x)) s r.id serials g.core k f (n, x)
  have hplaced := huctx (CtxId.of k n)
  rw [ctx_setCtx_self] at hplaced
  refine ⟨fun y hy => ?_, hugcc.trans htgcc, t, f, _, htgcc, hplaced⟩
  rw [hugroups, setCtx_groups, htgroups] at hy
  obtain ⟨y', hy', rfl⟩ := List.mem_map.mp hy
  exact bne_iff_ne.mp (List.mem_filter.mp hy').2

end Sys2Proof.Machine
end

section
/-!
O52, continued: the step REGION_RESUME (spec/16 R392, R424, R428).
-/
namespace Sys2Proof.Machine

variable {s : State} {g : Group} {r : Rgn}

/-! ## The step's branches -/

/-- No group that resumes together goes on: the state stands. -/
theorem regionResume_none (hfind : s.groups.find? (fun y => y.id == g.id) = some g) (hr : s.rgnOf g.region = some r)
    (hgroups : s.resumeGroups r (s.resumeWith g) = none) : exec (.regionResume g.id) s = .next s := by
  have hexec : exec (.regionResume g.id) s = execRegionResume g.id s := rfl
  rw [hexec, execRegionResume, hfind]
  dsimp only
  rw [hr]
  dsimp only
  rw [hgroups, ite_self]

/-- A region of which a resume was refused stays pre-empted (R428). -/
theorem regionResume_refused (hfind : s.groups.find? (fun y => y.id == g.id) = some g) (hr : s.rgnOf g.region = some r)
    (hrefused : ∃ y ∈ s.groups, y.region = g.region ∧ y.refused = true) : exec (.regionResume g.id) s = .next s := by
  have hany : s.groups.any (fun x => x.region == g.region && x.refused) = true := by
    obtain ⟨y, hy, hregion, hy'⟩ := hrefused
    exact List.any_eq_true.mpr ⟨y, hy, by simp [hregion, hy']⟩
  have hexec : exec (.regionResume g.id) s = execRegionResume g.id s := rfl
  rw [hexec, execRegionResume, hfind]
  dsimp only
  rw [hr]
  dsimp only
  rw [hany, Bool.true_or, if_pos rfl]

/-- Where no launch outranks the group and no resume was refused, the groups that resume together have what becomes of them. -/
theorem regionResume_some {t : State} (hfind : s.groups.find? (fun y => y.id == g.id) = some g) (hr : s.rgnOf g.region = some r)
    (hrefused : ∀ y ∈ s.groups, y.region = g.region → y.refused = false) (htop : s.topLevel = none)
    (hgroups : s.resumeGroups r (s.resumeWith g) = some t) (hkept : g.withdrawn = true → ∃ y ∈ t.groups, y.id = g.id) :
    exec (.regionResume g.id) s = .next t := by
  have hany : s.groups.any (fun x => x.region == g.region && x.refused) = false := by
    refine List.any_eq_false.mpr (fun y hy => ?_)
    by_cases h : y.region = g.region
    · simp [hrefused y hy h]
    · simp [h]
  have hexec : exec (.regionResume g.id) s = execRegionResume g.id s := rfl
  rw [hexec, execRegionResume, hfind]
  dsimp only
  rw [hr]
  dsimp only
  rw [hany, htop, hgroups]
  refine congrArg Host.Outcome.next ((if_neg (by simp)).trans (if_neg ?_))
  rintro ⟨hwd, hall⟩
  obtain ⟨y, hy, hid⟩ := hkept hwd
  exact absurd (List.all_eq_true.mp hall y hy) (by simp [hid])

/-! ## Strange tags (R3, R428) -/

theorem strangeTag_eq_false {tgs : List Byte} (h : s.slotTags r g = some tgs) (hown : ∀ b ∈ tgs, b = gtagOf s.part) :
    s.strangeTag r g = false := by
  simp only [State.strangeTag, h, Option.any_some, List.any_eq_false]
  intro b hb
  simp [hown b hb]

theorem strangeTag_eq_true {tgs : List Byte} (h : s.slotTags r g = some tgs) (hstrange : ∃ b ∈ tgs, b ≠ gtagOf s.part) :
    s.strangeTag r g = true := by
  obtain ⟨b, hb, hne⟩ := hstrange
  simp only [State.strangeTag, h, Option.any_some]
  exact List.any_eq_true.mpr ⟨b, hb, bne_iff_ne.mpr hne⟩

theorem resumeGroups_of_own {l : List Group} (h : ∀ y ∈ l, s.strangeTag r y = false) :
    s.resumeGroups r l = s.resumeAll r l := by
  have hfind : l.find? (s.strangeTag r) = none := List.find?_eq_none.mpr (fun y hy => by simp [h y hy])
  unfold State.resumeGroups
  rw [hfind]

theorem resumeGroups_of_strange (h : s.strangeTag r g = true) : s.resumeGroups r [g] = some (s.refuseGroup r g) := by
  have hfind : [g].find? (s.strangeTag r) = some g := by simp [h]
  unfold State.resumeGroups
  rw [hfind]

/-- A refused group stays, marked, and contexts and cores stand (R428). -/
theorem refuseGroup_leaves (s : State) (r : Rgn) (g : Group) :
    (s.refuseGroup r g).ctxs = s.ctxs ∧ (s.refuseGroup r g).cores = s.cores ∧
    (s.refuseGroup r g).groups = s.groups.map (fun y => if y.id = g.id then { y with refused := true } else y) := by
  have hpost : StoresOnly { s with groups := s.groups.map (fun y => if y.id = g.id then { y with refused := true } else y) }
      (s.refuseGroup r g) := storesOnly_postEvent ..
  exact ⟨hpost.ctxs, hpost.cores, hpost.groups⟩

theorem regionResume_strange {tgs : List Byte} (hfind : s.groups.find? (fun y => y.id == g.id) = some g)
    (hr : s.rgnOf g.region = some r) (hrefused : ∀ y ∈ s.groups, y.region = g.region → y.refused = false)
    (htop : s.topLevel = none) (hwith : s.resumeWith g = [g]) (htags : s.slotTags r g = some tgs)
    (hstrange : ∃ b ∈ tgs, b ≠ gtagOf s.part) :
    ∃ u : State, exec (.regionResume g.id) s = .next u ∧ u.ctxs = s.ctxs ∧ u.cores = s.cores ∧
      u.groups = s.groups.map (fun y => if y.id = g.id then { y with refused := true } else y) := by
  obtain ⟨hctxs, hcores, hgroups⟩ := refuseGroup_leaves s r g
  refine ⟨_, regionResume_some hfind hr hrefused htop ?_ (fun _ => ?_), hctxs, hcores, hgroups⟩
  · rw [hwith]
    exact resumeGroups_of_strange (strangeTag_eq_true htags hstrange)
  · rw [hgroups]
    exact ⟨_, List.mem_map.mpr ⟨g, List.mem_of_find?_eq_some hfind, rfl⟩, by rw [if_pos rfl]⟩

/-- A group that a core takes goes on there (R424). -/
theorem regionResume_single {k : CoreId} {n : BitVec 2} {x : Ctx} {t : Task} {v : Word} {pm : List (Byte × Bool)}
    {tags tgs : List Byte} (hfind : s.groups.find? (fun y => y.id == g.id) = some g) (hr : s.rgnOf g.region = some r)
    (hrefused : ∀ y ∈ s.groups, y.region = g.region → y.refused = false) (hwd : g.withdrawn = false) (htop : s.topLevel = none)
    (hwith : s.resumeWith g = [g]) (hcore : s.resumeCore r g = some k) (htags : s.slotTags r g = some tgs)
    (hown : ∀ b ∈ tgs, b = gtagOf s.part) (hslot : s.readSlot r g.slot = some (pm, tags)) (himages : g.images = [(n, x)])
    (hx : x.task = some t) (hdtc : x.dtc = .frozen v) (htrace : (s.partOf t.part).trace = none) :
    ∃ u : State, exec (.regionResume g.id) s = .next u ∧ (∀ y ∈ u.groups, y.id ≠ g.id) ∧
      (let y := u.ctx (CtxId.of k n)
       y.s = x.s ∧ y.v = x.v ∧ y.p = x.p ∧ y.acc = x.acc ∧ y.ctl = x.ctl ∧ y.flow = x.flow ∧ y.level = x.level ∧
       y.ctm = x.ctm ∧ y.run = x.run ∧ y.dtc = .running (s.gcc - v)) ∧ u.gcc = s.gcc := by
  obtain ⟨hgone, hgcc, w, f, o, hwgcc, hctx⟩ := placeGroup_single (r := r) (k := k) himages hx htrace pm tags
  have hone : s.resumeOne r g = some (s.placeGroup r g k pm tags) := by
    unfold State.resumeOne
    rw [hcore, hslot]
  have hgroups : s.resumeGroups r (s.resumeWith g) = some (s.placeGroup r g k pm tags) := by
    rw [hwith, resumeGroups_of_own (by simpa using strangeTag_eq_false htags hown), State.resumeAll, List.foldl_cons,
      List.foldl_nil, Option.bind_some, hone]
  refine ⟨_, regionResume_some hfind hr hrefused htop hgroups (fun h => absurd h (by simp [hwd])), hgone, ?_, hgcc⟩
  have hclock := thawed_dtc (s := w) hdtc (CtxId.of k n)
  rw [hwgcc] at hclock
  dsimp only
  rw [hctx]
  exact ⟨rfl, rfl, rfl, rfl, rfl, rfl, rfl, rfl, rfl, hclock⟩

end Sys2Proof.Machine

namespace Sys2Proof.Machine

/-- Settles O52: the frozen context's image is the context's with a still clock, and placing the group thaws it. -/
theorem preemptionAndResume : Obligations.PreemptionAndResume := by
  refine ⟨?preempt, ?resume, ?together, ?strange, ?norgn, ?nogroup⟩
  case preempt =>
    intro s r c hr hpreempts hown _ _ hmembers hclear hcopies hconds hposts hregions hlate
    obtain ⟨u, g, f, hexec, hlast, hlength, hregion, hcore, hwd, himages, htask, hrun, hempty⟩ :=
      preemption_freezes hr hpreempts hown hmembers hclear hcopies ⟨hregions, hconds, hposts⟩ hlate
    exact ⟨u, g, _, hexec, hlast, hlength, hregion, hcore, hwd, himages, rfl, rfl, rfl, rfl, rfl, rfl, rfl, rfl, rfl, htask, hrun,
      hempty⟩
  case resume =>
    intro s g r k n x t v pm tags tgs hfind hr hrefused hwd htop hwith hcore htags hown hslot himages hx hdtc htrace
    exact regionResume_single hfind hr hrefused hwd htop hwith hcore htags hown hslot himages hx hdtc htrace
  case together =>
    exact fun s g r hfind hr => ⟨regionResume_refused hfind hr, fun _ _ hown hall =>
      regionResume_none hfind hr ((resumeGroups_of_own hown).trans hall)⟩
  case strange =>
    exact fun s g r tgs hfind hr hrefused htop hwith htags hstrange =>
      regionResume_strange hfind hr hrefused htop hwith htags hstrange
  case norgn =>
    intro s id h
    have hexec : exec (.preemption id) s = execPreemption id s := rfl
    rw [hexec, execPreemption, h]
  case nogroup =>
    intro s id h
    have hfind : s.groups.find? (fun g => g.id == id) = none := List.find?_eq_none.mpr (fun g hg => by simp [h g hg])
    have hexec : exec (.regionResume id) s = execRegionResume id s := rfl
    rw [hexec, execRegionResume, hfind]

end Sys2Proof.Machine
end

section
/-!
O9: results that are due take effect in order, and the others stay in flight (spec/04 R93, R94, R95).
-/
namespace Sys2Proof.Machine

/-! ## The order of two results (R93) -/

/-- Of two results the one that is due earlier, or at the same time comes from the lower slot, goes before the other, which
does not go before it. -/
theorem before_of_due_or_pos {a b : Result}
    (h : a.due.toNat < b.due.toNat ∨ (a.due = b.due ∧ a.pos.toNat < b.pos.toNat)) : a.before b = true ∧ b.before a = false := by
  unfold Result.before
  rcases h with hdue | ⟨hdue, hpos⟩
  · have hne : b.due ≠ a.due := fun h => by simp [h] at hdue
    simp [hdue, hdue.le, hne]
  · have hne : b.pos ≠ a.pos := fun h => by simp [h] at hpos
    simp [hdue, hpos, hpos.le, hne]

theorem sortResults_singleton (a : Result) : sortResults [a] = [a] := rfl

/-- Two results are taken in their order, however they stand in the list. -/
theorem sortResults_pair {l : List Result} {a b : Result} (hl : l = [a, b] ∨ l = [b, a]) (hab : a.before b = true)
    (hba : b.before a = false) : sortResults l = [a, b] := by
  rcases hl with rfl | rfl
  · simp [sortResults, insertResult, hab]
  · simp [sortResults, insertResult, hba]

/-! ## What a result leaves in flight (R93, R253) -/

/-- A result keeps nothing for results that do not go before it. -/
theorem keptFor_eq_self {r : Result} {l : List Result} (h : ∀ y ∈ l, y.before r = false) : keptFor r l = l :=
  (List.map_congr_left fun y hy => by simp [h y hy]).trans (List.map_id l)

/-- A result overtakes no results that do not go before it. -/
theorem overtaken_eq_self {r : Result} {l : List Result} (h : ∀ y ∈ l, y.before r = false) : overtaken r l = l :=
  (List.map_congr_left fun y hy => by simp [h y hy]).trans (List.map_id l)

/-! ## One result for a scalar register (R93, R107) -/

/-- A context with one scalar register written: no other register differs. -/
structure WroteScalar (x y : Ctx) (d : SReg) (w : Word) : Prop where
  same : y.rs d = w
  others : ∀ q, q ≠ d → y.rs q = x.rs q
  v : y.v = x.v
  p : y.p = x.p

/-- Of two writes of one register the later one stands. -/
theorem WroteScalar.trans {x y z : Ctx} {d : SReg} {w w' : Word} (h : WroteScalar x y d w) (k : WroteScalar y z d w') :
    WroteScalar x z d w' :=
  ⟨k.same, fun q hq => (k.others q hq).trans (h.others q hq), k.v.trans h.v, k.p.trans h.p⟩

/-- What was written depends on the registers alone. -/
theorem WroteScalar.of_regs {x x' y : Ctx} {d : SReg} {w : Word} (h : WroteScalar x y d w) (hs : x.s = x'.s) (hv : x.v = x'.v)
    (hp : x.p = x'.p) : WroteScalar x' y d w :=
  ⟨h.same, fun q hq => (h.others q hq).trans (by simp only [Ctx.rs, hs]), h.v.trans hv, h.p.trans hp⟩

theorem wroteScalar_ws (x : Ctx) {d : SReg} (hd : d ≠ 0) (w : Word) : WroteScalar x (x.ws d w) d w :=
  ⟨by rw [rs_ws x d d w hd, if_pos rfl], fun q hq => by rw [rs_ws x d q w hd, if_neg hq], ws_v .., ws_p ..⟩

/-- The note of what wrote a register touches no register and no result in flight (R216). -/
theorem markMade_keeps (x : Ctx) (r : Result) :
    (x.markMade r).s = x.s ∧ (x.markMade r).v = x.v ∧ (x.markMade r).p = x.p ∧ (x.markMade r).results = x.results := by
  unfold Ctx.markMade
  dsimp only
  split
  · split <;> exact ⟨rfl, rfl, rfl, rfl⟩
  · exact ⟨rfl, rfl, rfl, rfl⟩
  · exact ⟨rfl, rfl, rfl, rfl⟩

theorem WroteScalar.markMade {x y : Ctx} {d : SReg} {w : Word} (h : WroteScalar x y d w) (r : Result) :
    WroteScalar x (y.markMade r) d w := by
  obtain ⟨hs, hv, hp, _⟩ := markMade_keeps y r
  have hrs (q : SReg) : (y.markMade r).rs q = y.rs q := by simp only [Ctx.rs, hs]
  exact ⟨(hrs d).trans h.same, fun q hq => (hrs q).trans (h.others q hq), hv.trans h.v, hp.trans h.p⟩

/-- A value that no trap enable suppresses is written to its destination; results in flight that do not go before it stand
(R36, R37). -/
theorem ctx_applyResult {s : State} {c : CtxId} {r : Result} (hfpx : r.fpx = none) (hdest : r.dest ≠ .wait)
    (hflight : ∀ y ∈ (s.ctx c).results, y.before r = false) :
    ∃ ctl : Ctl, (s.applyResult c r).ctx c = (({ s.ctx c with ctl := ctl } : Ctx).writeDest r).markMade r := by
  simp only [State.applyResult, hfpx, if_neg hdest, ctx_setCtx_self, keptFor_eq_self hflight, ite_self,
    overtaken_eq_self hflight]
  exact ⟨_, rfl⟩

/-- A result for a scalar register writes that register, its stride added. -/
theorem applyResult_scalar {s : State} {c : CtxId} {r : Result} {d : SReg} (hdest : r.dest = .s d) (hfpx : r.fpx = none)
    (hd : d ≠ 0) (hflight : ∀ y ∈ (s.ctx c).results, y.before r = false) :
    ((s.applyResult c r).ctx c).results = (s.ctx c).results ∧
    WroteScalar (s.ctx c) ((s.applyResult c r).ctx c) d (toWord r.val + r.stride) := by
  obtain ⟨ctl, hctx⟩ := ctx_applyResult hfpx (by simp [hdest]) hflight
  have hwrite (x : Ctx) : x.writeDest r = x.ws d (toWord r.val + r.stride) := by simp only [Ctx.writeDest, hdest]
  rw [hctx, hwrite]
  obtain ⟨_, _, _, hresults⟩ := markMade_keeps (({ s.ctx c with ctl := ctl } : Ctx).ws d (toWord r.val + r.stride)) r
  exact ⟨hresults.trans (ws_results ..), ((wroteScalar_ws _ hd _).markMade r).of_regs rfl rfl rfl⟩

/-! ## The results of a context (R93, R94) -/

/-- A result takes effect at a context time: it has arrived and is due (R94, R95). -/
def Result.dueBy (now : Word) (r : Result) : Bool := r.arrived && decide (r.due.toNat ≤ now.toNat)

/-- A context of which only the results at hand stay in flight. -/
def Ctx.withResults (x : Ctx) (l : List Result) : Ctx := { x with results := l }

theorem applyDue_eq (s : State) (c : CtxId) :
    s.applyDue c =
      (sortResults ((s.ctx c).results.filter (·.dueBy (s.ctx c).ctm))).foldl (·.applyResult c ·)
        (s.setCtx c ((s.ctx c).withResults ((s.ctx c).results.filter (!·.dueBy (s.ctx c).ctm)))) := rfl

theorem dueBy_of_le {r : Result} {now : Word} (harrived : r.arrived = true) (h : r.due.toNat ≤ now.toNat) :
    r.dueBy now = true := by simp [Result.dueBy, harrived, h]

theorem dueBy_of_lt {r : Result} {now : Word} (h : now.toNat < r.due.toNat) : r.dueBy now = false := by
  simp [Result.dueBy, h]

section
variable {s : State} {c : CtxId} {a b : Result} {d : SReg}
  (hpair : (s.ctx c).results = [a, b] ∨ (s.ctx c).results = [b, a]) (hda : a.dest = .s d) (hfa : a.fpx = none) (hd : d ≠ 0)
  (hduea : a.dueBy (s.ctx c).ctm = true)
include hpair hda hfa hd hduea

/-- Of two results that are due for one scalar register the later one stands. -/
theorem applyDue_both (hdb : b.dest = .s d) (hfb : b.fpx = none) (hdueb : b.dueBy (s.ctx c).ctm = true)
    (hab : a.before b = true) (hba : b.before a = false) :
    ((s.applyDue c).ctx c).results = [] ∧
    WroteScalar (s.ctx c) ((s.applyDue c).ctx c) d (toWord b.val + b.stride) := by
  have hsort : sortResults ((s.ctx c).results.filter (·.dueBy (s.ctx c).ctm)) = [a, b] := by
    refine sortResults_pair ?_ hab hba
    rcases hpair with h | h <;> simp [h, hduea, hdueb]
  have hrest : (s.ctx c).results.filter (!·.dueBy (s.ctx c).ctm) = [] := by
    rcases hpair with h | h <;> simp [h, hduea, hdueb]
  rw [applyDue_eq, hsort, hrest, List.foldl_cons, List.foldl_cons, List.foldl_nil]
  generalize ht : s.setCtx c ((s.ctx c).withResults []) = t
  have hctx : t.ctx c = (s.ctx c).withResults [] := by rw [← ht, ctx_setCtx_self]
  have hempty : (t.ctx c).results = [] := by rw [hctx]; rfl
  obtain ⟨hresults, hwrote⟩ := applyResult_scalar (s := t) (c := c) hda hfa hd (by simp [hempty])
  obtain ⟨hresults', hwrote'⟩ :=
    applyResult_scalar (s := t.applyResult c a) (c := c) hdb hfb hd (by simp [hresults, hempty])
  rw [hctx] at hwrote
  exact ⟨hresults'.trans (hresults.trans hempty), (hwrote.trans hwrote').of_regs rfl rfl rfl⟩

/-- Of two results the one that is not due stays in flight while the other takes effect. -/
theorem applyDue_one (hlate : b.dueBy (s.ctx c).ctm = false) (hba : b.before a = false) :
    ((s.applyDue c).ctx c).results = [b] ∧
    WroteScalar (s.ctx c) ((s.applyDue c).ctx c) d (toWord a.val + a.stride) := by
  have hfirst : (s.ctx c).results.filter (·.dueBy (s.ctx c).ctm) = [a] := by
    rcases hpair with h | h <;> simp [h, hduea, hlate]
  have hrest : (s.ctx c).results.filter (!·.dueBy (s.ctx c).ctm) = [b] := by
    rcases hpair with h | h <;> simp [h, hduea, hlate]
  rw [applyDue_eq, hfirst, hrest, sortResults_singleton, List.foldl_cons, List.foldl_nil]
  generalize ht : s.setCtx c ((s.ctx c).withResults [b]) = t
  have hctx : t.ctx c = (s.ctx c).withResults [b] := by rw [← ht, ctx_setCtx_self]
  have hflight : (t.ctx c).results = [b] := by rw [hctx]; rfl
  obtain ⟨hresults, hwrote⟩ := applyResult_scalar (s := t) (c := c) hda hfa hd (by simp [hflight, hba])
  rw [hctx] at hwrote
  exact ⟨hresults.trans hflight, hwrote.of_regs rfl rfl rfl⟩

end

end Sys2Proof.Machine

namespace Sys2Proof.Machine

/-- Settles O9: the results that are due are taken in their order, each an overwrite of its register, and none of them touches
a result that goes after it. -/
theorem resultsTakeEffectInOrder : Obligations.ResultsTakeEffectInOrder := by
  refine ⟨?order, ?discarded⟩
  case order =>
    intro s c a b d x y hpair hda hdb haa hab hfa hfb hdue hd
    have hduea : a.dueBy x.ctm = true := dueBy_of_le haa hdue
    refine ⟨fun hdueb horder => ?_, fun hlate => ?_⟩
    · obtain ⟨hbefore, hafter⟩ := before_of_due_or_pos horder
      obtain ⟨hresults, hw⟩ := applyDue_both hpair hda hfa hd hduea hdb hfb (dueBy_of_le hab hdueb) hbefore hafter
      exact ⟨hresults, hw.same, hw.others, hw.v, hw.p⟩
    · obtain ⟨_, hafter⟩ := before_of_due_or_pos (Or.inl (hdue.trans_lt hlate))
      obtain ⟨hresults, hw⟩ := applyDue_one hpair hda hfa hd hduea (dueBy_of_lt hlate) hafter
      exact ⟨hresults, hw.same, hw.others, hw.v, hw.p⟩
  case discarded =>
    exact fun x => ⟨rs_zero x, rp_zero x, fun w => ⟨ws_zero x w, wp_zero x w⟩⟩

end Sys2Proof.Machine
end

section
/-!
O36: the passes of the pair i8 (spec/02 R43; spec/12 R321, R324, R325).
-/
namespace Sys2Proof.Machine

/-! ## Lanes of a vector made of lanes (R297) -/

/-- A lane of a vector made of lanes; beyond them it is zero. -/
theorem lane_ofLanes (l : List Lane) {i : Nat} (hi : i < 64) : lane (ofLanes l) i = l[i]?.getD 0 := by
  induction l generalizing i with
  | nil => simp [lane, ofLanes]
  | cons x l ih =>
    ext k hk
    cases i with
    | zero => simp [lane, ofLanes, hk, show k < 2048 by omega]
    | succ i =>
      have hbit : (lane (ofLanes l) i).getLsbD k = (l[i]?.getD 0).getLsbD k := by rw [ih (by omega)]
      have hpos : 32 * (i + 1) + k - 32 = 32 * i + k := by omega
      have hhigh : x.getLsbD (32 * (i + 1) + k) = false := BitVec.getLsbD_of_ge _ _ (by omega)
      have hshift : ¬ 32 * (i + 1) + k < 32 := by omega
      simp [lane, hk, show 32 * i + k < 2048 by omega] at hbit
      simp [lane, ofLanes, hpos, hhigh, hshift, hbit, show 32 * (i + 1) + k < 2048 by omega]

/-- A column of a vector computed column by column. -/
theorem lane_columns (f : Nat → Lane) {n : Nat} (hn : n < 64) : lane (columns f) n = f n := by
  simp [columns, lane_ofLanes _ hn, hn]

/-! ## Rows of a tile (R317) -/

theorem row_setRow_self (a : Acc) (q : BitVec 6) (v : VecWord) : (a.setRow q v).row q = v := by
  simp [Acc.row, Acc.setRow]

theorem row_setRow_ne (a : Acc) {q r : BitVec 6} (h : r ≠ q) (v : VecWord) : (a.setRow q v).row r = a.row r := by
  have hne : q.toNat ≠ r.toNat := fun e => h (BitVec.eq_of_toNat_eq e.symm)
  simp [Acc.row, Acc.setRow, hne]

/-! ## Elements and weights of i8 (R29, R321, R324) -/

/-- The integer of an i8 element is that of its byte in two's complement. -/
theorem fmtInt_i8 (n : Nat) : fmtInt .i8 (BitVec.ofNat 64 n) = (BitVec.ofNat 8 n).toInt := by
  have hbyte : n % 2 ^ 64 % 2 ^ 8 = n % 2 ^ 8 := Nat.mod_mod_of_dvd n (by decide)
  simp only [fmtInt, fmtSigned, Fmt.bytes, BitVec.toNat_ofNat, BitVec.toInt_eq_toNat_cond, Nat.testBit_eq_decide_div_mod_eq,
    Bool.true_and, decide_eq_true_eq, Nat.mul_one, hbyte]
  have hlt : n % 2 ^ 8 < 2 ^ 8 := Nat.mod_lt _ (by decide)
  generalize n % 2 ^ 8 = m at hlt
  split <;> split <;> omega

/-- A weight of an i8 bank is a byte of the bank's image. -/
theorem weightInt_eq (b : Bank) (j n : Nat) :
    b.weightInt j n = (b.img.extractLsb' (8 * (64 * j + n)) 8 : BitVec 8).toInt := by
  have hbyte : BitVec.ofNat 8 (b.natAt (64 * j + n) 1) = b.img.extractLsb' (8 * (64 * j + n)) 8 := by
    apply BitVec.eq_of_toNat_eq
    simp [Bank.natAt, Nat.shiftRight_eq_div_pow]
  rw [Bank.weightInt, fmtInt_i8, hbyte]

/-! ## The passes of a row (R43, R325) -/

/-- The exact sum of the 64 products of a row of i8 elements and a column of a bank's weights (R43). -/
def dotI8 (b : Bank) (es : List Nat) (n : Nat) : Int :=
  ((List.range 64).map (fun j =>
    ((BitVec.ofNat 8 (es[j]?.getD 0)).toInt * (b.img.extractLsb' (8 * (64 * j + n)) 8 : BitVec 8).toInt))).sum

/-- A list with the numbers of its places is the list of its places with what stands there. -/
theorem zip_range_eq_map {α : Type} (d : α) (l : List α) :
    l.zip (List.range l.length) = (List.range l.length).map (fun j => (l[j]?.getD d, j)) := by
  refine List.ext_getElem (by simp) (fun j h _ => ?_)
  have hj : j < l.length := by simpa using h
  simp [hj]

/-- A pass of the pair i8 writes one row of the tile: its column sums join what the row held. -/
theorem pass_i8 (b : Bank) (q : BitVec 6) (a : Acc) {es : List Nat} (hes : es.length = 64) (enc : Bool) (eb : Int) :
    (Stream.pass ⟨.i8, enc, false, eb⟩ b q a (es.map some)).1 =
      a.setRow q (columns (fun n => lane (a.row q) n + BitVec.ofInt 32 (dotI8 b es n))) := by
  have hsum (n : Nat) : ((((es.map some).map (fun e => fmtInt .i8 (BitVec.ofNat 64 (e.getD 0)))).zip (List.range 64)).map
      (fun p => p.1 * b.weightInt p.2 n)).sum = dotI8 b es n := by
    have hzip := zip_range_eq_map 0 es
    rw [hes] at hzip
    rw [List.map_map, List.zip_map_left, hzip]
    simp [dotI8, Function.comp_def, fmtInt_i8, weightInt_eq]
  simp only [Stream.pass, Bool.false_eq_true, if_false, if_true, hsum]

/-- A stream instruction outside mode ABS with one row of one pass puts it at the row cursor, which moves on (R325). -/
theorem rows_single {st : Stream} (habs : st.abs = false) (banks : Bool → Bank) (a : Acc) (bk : Bool) (es : List (Option Nat)) :
    (st.rows banks a [[(bk, es)]]).1 = { (st.pass (banks bk) a.rc a es).1 with rc := a.rc + 1 } := by
  simp [Stream.rows, Stream.row, habs]

end Sys2Proof.Machine

namespace Sys2Proof.Machine

/-- Settles O36: a pass of one row is one write of the tile, at the cursor. -/
theorem integerPassIsExact : Obligations.IntegerPassIsExact := by
  intro banks bk a es hes r
  have hr : r = { a.setRow a.rc (columns (fun n => lane (a.row a.rc) n + BitVec.ofInt 32 (dotI8 (banks bk) es n))) with
      rc := a.rc + 1 } := by
    simp only [r, rows_single, pass_i8 _ _ _ hes]
  have hrow (q : BitVec 6) : r.row q =
      (a.setRow a.rc (columns (fun n => lane (a.row a.rc) n + BitVec.ofInt 32 (dotI8 (banks bk) es n)))).row q := by
    rw [hr]; rfl
  refine ⟨by rw [hr], fun q hq => ?_, fun n hn => ?_⟩
  · rw [hrow, row_setRow_ne a hq]
  · rw [hrow, row_setRow_self, lane_columns _ hn, dotI8]

end Sys2Proof.Machine
end

section
/-!
O48: the traps that a boundary takes, the notices and promises that it looks at, and the unwinding of a containment region, in a
context alone in its coach (spec/09 R252; spec/18 R445; spec/19 R475).
-/
namespace Sys2Proof.Machine

/-! ## Changes of one context -/

theorem onlyContext_mapCtx (s : State) (c : CtxId) (f : Ctx → Ctx) : onlyContext s (s.mapCtx c f) c :=
  ⟨fun _ hd => ctx_mapCtx_ne s f hd, rfl⟩

/-- Changes that make the same of the context are the same change. -/
theorem mapCtx_congr {s : State} {c : CtxId} {f g : Ctx → Ctx} (h : f (s.ctx c) = g (s.ctx c)) : s.mapCtx c f = s.mapCtx c g :=
  congrArg (s.setCtx c) h

theorem mapCtx_mapCtx (s : State) (c : CtxId) (f g : Ctx → Ctx) : (s.mapCtx c f).mapCtx c g = s.mapCtx c (fun x => g (f x)) := by
  simp [State.mapCtx, State.setCtx, State.ctx]

/-! ## The members of a coach (R101) -/

theorem insertByPos_congr {s t : State} (h : ∀ d, (t.ctx d).ctl = (s.ctx d).ctl) (c : CtxId) (l : List CtxId) :
    insertByPos t c l = insertByPos s c l := by
  induction l with
  | nil => rfl
  | cons d l ih => simp only [insertByPos, h, ih]

/-- Tasks and control registers decide who is in a coach. -/
theorem members_congr {s t : State} (htask : ∀ d, (t.ctx d).task = (s.ctx d).task) (hctl : ∀ d, (t.ctx d).ctl = (s.ctx d).ctl)
    (c : CtxId) : t.members c = s.members c := by
  have hinsert : insertByPos t = insertByPos s := funext₂ (insertByPos_congr hctl)
  simp only [State.members, Ctx.coachPos, htask, hctl, hinsert]

theorem members_mapCtx {s : State} {c : CtxId} {f : Ctx → Ctx} (htask : (f (s.ctx c)).task = (s.ctx c).task)
    (hctl : (f (s.ctx c)).ctl = (s.ctx c).ctl) (e : CtxId) : (s.mapCtx c f).members e = s.members e := by
  refine members_congr (fun d => ?_) (fun d => ?_) e <;> by_cases hd : d = c
  · rw [hd, ctx_mapCtx_self, htask]
  · rw [ctx_mapCtx_ne _ _ hd]
  · rw [hd, ctx_mapCtx_self, hctl]
  · rw [ctx_mapCtx_ne _ _ hd]

/-! ## Taking a pending trap (R102, R445) -/

/-- A context with a list of pending boundary traps. -/
def Ctx.withTraps (x : Ctx) (l : List BTrap) : Ctx := { x with btraps := l }

theorem cause_of_pendingTrap {x : Ctx} {cause : Cause} {t : BTrap} (h : x.pendingTrap cause = some t) : t.cause = cause := by
  have hfound := List.find?_some h
  simp only [Bool.and_eq_true, beq_iff_eq] at hfound
  exact hfound.1

/-- A context alone in its coach takes the trap that its boundary calls for. -/
theorem takeAt_alone {s : State} {c : CtxId} {cause : Cause} {t : BTrap} (hrun : (s.ctx c).run = .running)
    (hmembers : s.members c = [c]) (hboundary : s.boundary c = .trap cause) (ht : (s.ctx c).pendingTrap cause = some t) :
    s.takeAt c cause =
      (s.mapCtx c (fun x => x.withTraps (x.btraps.erase t))).enterHandler c
        ⟨cause, t.det, t.tad, t.sfm, slotCauses t.sfm cause, 0⟩ := by
  have hcause := cause_of_pendingTrap ht
  subst hcause
  rw [State.takeAt, if_pos ⟨hrun, hboundary⟩, State.takePending, ht]
  dsimp only
  rw [State.takeBTrap, hmembers, List.foldl_cons, List.foldl_nil, if_pos rfl]
  rfl

/-- A boundary that calls for no such trap takes none. -/
theorem takeAt_none {s : State} {c : CtxId} {cause : Cause} (h : s.boundary c ≠ .trap cause) : s.takeAt c cause = s :=
  if_neg (fun hc => h hc.2)

/-! ## Missed promises (R139) -/

theorem noteMissed_none {s : State} {c : CtxId} (h : ∀ k ∈ s.copies, s.missed c k = false) : s.noteMissed c = s := by
  have hnone : s.copies.filter (s.missed c) = [] := List.filter_eq_nil_iff.mpr (fun k hk => by simp [h k hk])
  rw [State.noteMissed, hnone]

theorem noteMissed_some {s : State} {c : CtxId} (h : s.copies.filter (s.missed c) ≠ []) :
    s.noteMissed c =
      ({ s with copies := s.copies.map (fun k => if s.missed c k then { k with pms := true } else k) } : State).mapCtx c
        (fun x => x.withTraps (x.btraps ++
          (s.copies.filter (s.missed c)).map (fun k => ⟨x.level, .pmiss, x.flow.pc, 0, k.num.setWidth 32, x.ctm⟩))) := by
  unfold State.noteMissed
  split
  · contradiction
  · rfl

/-- A copy whose promise has been missed once in a run is not missed again. -/
theorem missed_of_pms {s : State} {c : CtxId} {k : Copy} (h : k.pms = true) : s.missed c k = false := by
  unfold State.missed
  split
  · rfl
  · simp [h]

/-- A missed promise is a pending trap with the copy's number. -/
theorem noteMissed_pends {s : State} {c : CtxId} {k : Copy} (hk : k ∈ s.copies) (hmissed : s.missed c k = true) :
    ∃ t ∈ ((s.noteMissed c).ctx c).btraps, t.cause = .pmiss ∧ t.det = k.num.setWidth 32 := by
  have hmem : k ∈ s.copies.filter (s.missed c) := List.mem_filter.mpr ⟨hk, hmissed⟩
  rw [noteMissed_some (List.ne_nil_of_mem hmem), ctx_mapCtx_self]
  exact ⟨_, List.mem_append_right _ (List.mem_map_of_mem hmem), rfl, rfl⟩

/-- Once noted, no copy of the context is missed. -/
theorem noteMissed_once {s : State} {c : CtxId} {q : Copy} (hq : q ∈ (s.noteMissed c).copies) : s.missed c q = false := by
  by_cases hsome : s.copies.filter (s.missed c) = []
  · have hnone : ∀ k ∈ s.copies, s.missed c k = false := fun k hk => by simpa using List.filter_eq_nil_iff.mp hsome k hk
    exact hnone q (noteMissed_none hnone ▸ hq)
  · rw [noteMissed_some hsome, mapCtx_copies] at hq
    obtain ⟨k, -, rfl⟩ := List.mem_map.mp hq
    split
    · exact missed_of_pms rfl
    · rename_i h
      exact eq_false_of_ne_true h

/-! ## Notices of capacity (R475) -/

theorem pendingTrap_of_nil {x : Ctx} (h : x.btraps = []) (cause : Cause) : x.pendingTrap cause = none := by
  rw [Ctx.pendingTrap, h]; rfl

theorem pendingTrap_of_single {x : Ctx} {t : BTrap} (h : x.btraps = [t]) (hlevel : t.level = x.level) (cause : Cause) :
    x.pendingTrap cause = if t.cause = cause then some t else none := by
  by_cases hc : t.cause = cause <;> simp [Ctx.pendingTrap, h, hlevel, hc]

theorem dropCapc_acknowledged {x : Ctx} (h : (x.ctl.capn.setWidth 32 : BitVec 32).toNat ≤ x.ack.toNat) :
    x.dropCapc = { x with btraps := x.btraps.filter (fun t => t.cause != .capc) } :=
  if_pos (decide_eq_true h)

theorem dropCapc_unacknowledged {x : Ctx} (h : x.ack.toNat < (x.ctl.capn.setWidth 32 : BitVec 32).toNat) : x.dropCapc = x :=
  if_neg (fun hc => absurd (of_decide_eq_true hc) (Nat.not_le.mpr h))

/-- A boundary without pending traps is clear. -/
theorem boundary_clear {s : State} {c : CtxId} (hunwind : (s.ctx c).unwind = none) (hnil : (s.ctx c).btraps = []) :
    s.boundary c = .clear := by
  have hdrop : (s.ctx c).dropCapc.btraps = [] := by
    unfold Ctx.dropCapc
    split
    · simp [hnil]
    · exact hnil
  simp [State.boundary, hunwind, pendingTrap_of_nil hnil, pendingTrap_of_nil hdrop]

/-- A boundary at which a notice alone is pending, and not acknowledged, calls for CAPC. -/
theorem boundary_capc {s : State} {c : CtxId} {t : BTrap} (hunwind : (s.ctx c).unwind = none) (hsingle : (s.ctx c).btraps = [t])
    (hcause : t.cause = .capc) (hlevel : t.level = (s.ctx c).level)
    (hack : (s.ctx c).ack.toNat < ((s.ctx c).ctl.capn.setWidth 32 : BitVec 32).toNat) : s.boundary c = .trap .capc := by
  simp [State.boundary, hunwind, pendingTrap_of_single hsingle hlevel, dropCapc_unacknowledged hack, hcause]

theorem slotCauses_zero (c : Cause) : slotCauses 0#8 c = 0#64 := by
  simp [slotCauses, List.range_succ]

/-- A pending notice as CAPC takes it: with the number that CAPN holds now and the bundle that would issue next (R475). -/
def BTrap.renew (t : BTrap) (x : Ctx) : BTrap := { t with det := x.ctl.capn.setWidth 32, tad := x.flow.pc, sfm := 0 }

/-- The notices of a context that CAPC finds: none that is acknowledged, the others renewed. -/
def Ctx.renewNotices (x : Ctx) : Ctx :=
  x.dropCapc.withTraps (x.dropCapc.btraps.map (fun t => if t.cause = .capc then t.renew x else t))

theorem exec_capc (s : State) (c : CtxId) : exec (.capc c) s = .next ((s.mapCtx c Ctx.renewNotices).takeAt c .capc) := rfl

/-- An acknowledged notice is dropped, and no trap is taken. -/
theorem capc_acknowledged {s : State} {c : CtxId} {t : BTrap} (hunwind : (s.ctx c).unwind = none)
    (hsingle : (s.ctx c).btraps = [t]) (hcause : t.cause = .capc)
    (hack : ((s.ctx c).ctl.capn.setWidth 32 : BitVec 32).toNat ≤ (s.ctx c).ack.toNat) :
    exec (.capc c) s = .next (s.mapCtx c (fun x => x.withTraps [])) := by
  have hrenew : (s.ctx c).renewNotices = (s.ctx c).withTraps [] := by
    simp [Ctx.renewNotices, Ctx.withTraps, dropCapc_acknowledged hack, hsingle, hcause]
  rw [exec_capc, mapCtx_congr (g := fun x => x.withTraps []) hrenew]
  generalize hu : s.mapCtx c (fun x => x.withTraps []) = u
  have hctx : u.ctx c = (s.ctx c).withTraps [] := by rw [← hu, ctx_mapCtx_self]
  have hclear : u.boundary c = .clear := boundary_clear (by rw [hctx]; exact hunwind) (by rw [hctx]; rfl)
  rw [takeAt_none (by rw [hclear]; exact Boundary.noConfusion)]

/-- A notice that is not acknowledged traps with the number that CAPN holds. -/
theorem capc_unacknowledged {s : State} {c : CtxId} {t : BTrap} (hrun : (s.ctx c).run = .running) (hmembers : s.members c = [c])
    (hunwind : (s.ctx c).unwind = none) (hsingle : (s.ctx c).btraps = [t]) (hcause : t.cause = .capc)
    (hlevel : t.level = (s.ctx c).level) (hack : (s.ctx c).ack.toNat < ((s.ctx c).ctl.capn.setWidth 32 : BitVec 32).toNat) :
    exec (.capc c) s = .next ((s.mapCtx c (fun x => x.withTraps [])).enterHandler c
      ⟨.capc, (s.ctx c).ctl.capn.setWidth 32, (s.ctx c).flow.pc, 0, 0, 0⟩) := by
  generalize hn : t.renew (s.ctx c) = n
  have hrenew : (s.ctx c).renewNotices = (s.ctx c).withTraps [n] := by
    simp [Ctx.renewNotices, dropCapc_unacknowledged hack, hsingle, hcause, hn]
  rw [exec_capc, mapCtx_congr (g := fun x => x.withTraps [n]) hrenew]
  generalize hu : s.mapCtx c (fun x => x.withTraps [n]) = u
  have hctx : u.ctx c = (s.ctx c).withTraps [n] := by rw [← hu, ctx_mapCtx_self]
  have hrun' : (u.ctx c).run = .running := by rw [hctx]; exact hrun
  have hmembers' : u.members c = [c] := by rw [← hu]; exact (members_mapCtx rfl rfl c).trans hmembers
  have hsingle' : (u.ctx c).btraps = [n] := by rw [hctx]; rfl
  have hcause' : n.cause = .capc := by rw [← hn]; exact hcause
  have hlevel' : n.level = (u.ctx c).level := by rw [← hn, hctx]; exact hlevel
  have hboundary : u.boundary c = .trap .capc :=
    boundary_capc (by rw [hctx]; exact hunwind) hsingle' hcause' hlevel' (by rw [hctx]; exact hack)
  have hpending : (u.ctx c).pendingTrap .capc = some n := by
    rw [pendingTrap_of_single hsingle' hlevel', if_pos hcause']
  have hgone : u.mapCtx c (fun x => x.withTraps (x.btraps.erase n)) = s.mapCtx c (fun x => x.withTraps []) := by
    rw [← hu, mapCtx_mapCtx]
    exact mapCtx_congr (by simp [Ctx.withTraps])
  rw [takeAt_alone hrun' hmembers' hboundary hpending, hgone, ← hn]
  simp [BTrap.renew, slotCauses_zero]

/-! ## Containment (R252) -/

/-- A context without a granule still to perform has nothing to settle. -/
theorem settle_of_none {s : State} {c : CtxId} (h : ∀ l ∈ s.late, l.cid ≠ c) : s.settle c = s := by
  have hmine : s.late.filter (fun l => l.cid == c) = [] := List.filter_eq_nil_iff.mpr (fun l hl => by simp [h l hl])
  have hothers : s.late.filter (fun l => l.cid != c) = s.late := List.filter_eq_self.mpr (fun l hl => by simp [h l hl])
  rw [State.settle, hmine, hothers, List.foldl_nil]

/-- A context alone in its coach unwinds to the handler of its innermost region. -/
theorem containmentUnwinding_alone {s : State} {c : CtxId} {r : Region} {rs : List Region} {lk : Word}
    (hrun : (s.ctx c).run = .running) (hmembers : s.members c = [c]) (hunwind : (s.ctx c).unwind = some lk)
    (hcregs : (s.ctx c).cregs = r :: rs) (hlate : ∀ l ∈ s.late, l.cid ≠ c) :
    exec (.containmentUnwinding c) s = .next (s.mapCtx c (fun x => x.unwound r lk)) := by
  have hexec : exec (.containmentUnwinding c) s = execContainmentUnwinding c s := rfl
  rw [hexec, execContainmentUnwinding, if_pos hrun, State.unwindCoach, hunwind]
  dsimp only
  rw [hmembers, List.foldl_cons, List.foldl_nil, hcregs]
  dsimp only
  rw [settle_of_none hlate]

/-- The unwinding context goes on at the handler, out of the region and with no delay slot. -/
theorem unwound_goesOn (x : Ctx) (r : Region) (lk : Word) :
    (x.unwound r lk).flow.pc = r.handler ∧ (x.unwound r lk).flow.dsl = 0 ∧ (x.unwound r lk).cregs = x.cregs.tail ∧
    (x.unwound r lk).unwind = none := by
  simp [Ctx.unwound, Flow.reset]

/-- Vector registers, predicates, accumulators and control registers stand. -/
theorem unwound_leaves (x : Ctx) (r : Region) (lk : Word) :
    (x.unwound r lk).v = x.v ∧ (x.unwound r lk).p = x.p ∧ (x.unwound r lk).acc = x.acc ∧ (x.unwound r lk).ctl = x.ctl := by
  simp [Ctx.unwound]

/-- The results and entries that stay are those issued no later than the region was opened. -/
theorem unwound_keeps (x : Ctx) (r : Region) (lk : Word) :
    (x.unwound r lk).results = x.results.filter (fun e => decide (e.issued.toNat ≤ r.opened.toNat)) ∧
    (x.unwound r lk).slip = x.slip.filter (fun e => decide (e.ctm.toNat ≤ r.opened.toNat)) := by
  simp only [Ctx.unwound, ws_results, ws_slip, ← Nat.not_lt, decide_not, and_self]

/-- Of the scalar registers the link alone is written. -/
theorem unwound_rs (x : Ctx) (r : Region) (lk : Word) (q : SReg) : (x.unwound r lk).rs q = if q = 63 then lk else x.rs q := by
  simp only [Ctx.unwound, rs_ws _ 63 q lk (by decide)]
  rfl

end Sys2Proof.Machine
end

section
/-!
O48, continued: bundles that cannot be fetched or decoded, and the expansion of a segment (spec/04 R110 to R114; spec/08 R219).
-/
namespace Sys2Proof.Machine

/-! ## Fetch and decode (R113, R219) -/

theorem atBundle_of {s : State} {c : CtxId} (hrun : (s.ctx c).run = .running) (hclear : s.boundary c = .clear) :
    s.atBundle c = true := by
  simp [State.atBundle, hrun, hclear]

/-- A bundle that fails a check of decoding traps in a context alone in its coach. -/
theorem bundleDecodeFailure_alone {s : State} {c : CtxId} {g : Segment} {b : Bundle} {cause : Cause} {m : BitVec 8}
    (hmembers : s.members c = [c]) (hbundle : s.atBundle c = true)
    (hg : (s.ctx c).loaded (bundleSeg (s.ctx c).flow.pc) = some g) (hb : g.bundles[bundleIdx (s.ctx c).flow.pc]? = some b)
    (hfails : s.decodeChecked c b = .error (cause, m)) :
    exec (.bundleDecodeFailure c) s =
      .next (s.enterHandler c ⟨cause, 0, (s.ctx c).flow.pc, m, slotCauses m cause, 0⟩) := by
  have hexec : exec (.bundleDecodeFailure c) s = execBundleDecodeFailure c s := rfl
  simp only [hexec, execBundleDecodeFailure, hbundle, hg, hb, hfails, hmembers, Option.bind_some, Bool.not_true, if_false,
    Bool.false_eq_true, List.foldl_cons, List.foldl_nil]

/-- A context alone in its coach that is stopped by HFLT keeps everything else (R449). -/
theorem ctx_hflt {s : State} {c : CtxId} (hmembers : s.members c = [c]) (entered own : BitVec 6) (kind : BitVec 2) (tad : Word) :
    (s.hflt c entered own kind tad).ctx c = { s.ctx c with run := .hflt } := by
  unfold State.hflt
  rw [hmembers, List.foldl_cons, List.foldl_nil]
  dsimp only
  split
  · simp only [State.ctx, (storesOnly_postEvent ..).ctxs]
    exact ctx_mapCtx_self ..
  · exact ctx_mapCtx_self ..

/-- What FETCH_FAULT does in a context alone in its coach. -/
theorem fetchFault_alone {s : State} {c : CtxId} {cause : Cause} {det : BitVec 32} {far : Word} (hmembers : s.members c = [c])
    (hbundle : s.atBundle c = true) (hfault : (s.ctx c).fetchFaultOf = some (cause, det, far)) :
    ((s.ctx c).flow.entering = none ∨ firstFetchFault cause = false →
      exec (.fetchFault c) s =
        .next ((s.mapCtx c Ctx.dropFaulty).enterHandler c ⟨cause, det, (s.ctx c).flow.pc, 0, 0, far⟩)) ∧
    (∀ entered, (s.ctx c).flow.entering = some entered → firstFetchFault cause = true →
      exec (.fetchFault c) s =
        .next ((s.mapCtx c Ctx.dropFaulty).hflt c entered.code cause.code 0 (s.ctx c).trap.tad)) := by
  have hexec : exec (.fetchFault c) s = execFetchFault c s := rfl
  have hdropped : (s.mapCtx c Ctx.dropFaulty).members c = [c] := (members_mapCtx rfl rfl c).trans hmembers
  have hpc : ((s.mapCtx c Ctx.dropFaulty).ctx c).flow.pc = (s.ctx c).flow.pc := by rw [ctx_mapCtx_self]; rfl
  simp only [hexec, execFetchFault, hbundle, hfault, hdropped, hpc, Bool.not_true, Bool.false_eq_true, if_false, List.foldl_cons,
    List.foldl_nil]
  refine ⟨fun h => ?_, fun entered hentered hfirst => ?_⟩
  · cases hentering : (s.ctx c).flow.entering with
    | none => rfl
    | some entered =>
      have hordinary : firstFetchFault cause = false := h.resolve_left (by rw [hentering]; exact Option.some_ne_none entered)
      simp only [hordinary, Bool.false_eq_true, if_false]
  · simp only [hentered, hfirst, if_true]

/-! ## The expansion of a segment (R110 to R113) -/

/-- An expanded segment names itself, whatever was found while expanding it. -/
theorem expandSegment_seg (s : State) (core : CoreId) (part : BitVec 4) (seg : BitVec 56) :
    (s.expandSegment core part seg).seg = seg := by
  unfold State.expandSegment
  dsimp only
  repeat' split
  all_goals rfl

/-- A walk changes no context. -/
theorem noteTlb_ctx (s : State) (core : CoreId) (r : Reader) (d : CtxId) : (s.noteTlb core r).ctx d = s.ctx d := by
  unfold State.noteTlb
  split
  · rfl
  · dsimp only
    split <;> rfl

/-- The loop buffer once a segment has been expanded: of the others the one that executes stays, or else one. -/
def Ctx.holdSegment (x : Ctx) (seg : BitVec 56) (g : Segment) : Ctx :=
  let others := x.lbuf.filter (fun y => y.seg != seg)
  let keep := others.filter (fun y => y.seg == bundleSeg x.flow.pc) ++ others.filter (fun y => y.seg != bundleSeg x.flow.pc)
  { x with lbuf := g :: keep.take 1 }

theorem loaded_holdSegment (x : Ctx) {seg : BitVec 56} {g : Segment} (hg : g.seg = seg) :
    (x.holdSegment seg g).loaded seg = some g := by
  simp [Ctx.holdSegment, Ctx.loaded, hg]

theorem length_holdSegment (x : Ctx) (seg : BitVec 56) (g : Segment) : (x.holdSegment seg g).lbuf.length ≤ 2 := by
  simp only [Ctx.holdSegment, List.length_cons, List.length_take]
  omega

/-- The executing segment stays in the loop buffer while another one is expanded. -/
theorem loaded_holdSegment_executing (x : Ctx) {seg : BitVec 56} {g : Segment} (hg : g.seg = seg)
    (hne : seg ≠ bundleSeg x.flow.pc) :
    (x.holdSegment seg g).loaded (bundleSeg x.flow.pc) = x.loaded (bundleSeg x.flow.pc) := by
  generalize hpc : bundleSeg x.flow.pc = p at hne
  generalize hothers : x.lbuf.filter (fun y => y.seg != seg) = others
  have hloaded : x.lbuf.find? (fun y => y.seg == p) = (others.filter (fun y => y.seg == p)).head? := by
    have hseg (y : Segment) : (y.seg == p) = decide ((y.seg != seg) = true ∧ (y.seg == p) = true) := by
      by_cases hy : y.seg = p <;> simp [hy, hne.symm]
    rw [List.head?_filter, ← hothers, List.find?_filter]
    exact congrArg (fun q => x.lbuf.find? q) (funext hseg)
  have hhead : (x.holdSegment seg g).loaded p =
      (((others.filter (fun y => y.seg == p)) ++ others.filter (fun y => y.seg != p)).take 1).find? (fun y => y.seg == p) := by
    simp [Ctx.holdSegment, Ctx.loaded, hpc, hothers, hg, hne]
  rw [hhead, Ctx.loaded, hloaded]
  cases hfilter : others.filter (fun y => y.seg == p) with
  | nil =>
    refine List.find?_eq_none.mpr (fun y hy => ?_)
    have hkept := (List.mem_filter.mp (List.mem_of_mem_take hy)).2
    simpa using hkept
  | cons y ys =>
    have hy : y.seg = p := by
      have hmem : y ∈ others.filter (fun y => y.seg == p) := by rw [hfilter]; exact List.mem_cons_self
      simpa using (List.mem_filter.mp hmem).2
    simp [hy]

end Sys2Proof.Machine

namespace Sys2Proof.Machine

/-- Settles O48: each part is the lemma above about its event; the expansion is one change of the loop buffer after the errors of
its storage have been found. -/
theorem boundaryAndFetchTraps : Obligations.BoundaryAndFetchTraps := by
  refine ⟨?traps, ?promises, ?notices, ?unwinding, ?fetch, ?expansion⟩
  case traps =>
    intro s c t hrun hmembers taken
    refine ⟨fun hb ht => ?_, fun hb ht => ?_, fun hmissed hb ht => ?_⟩
    · exact congrArg Host.Outcome.next (takeAt_alone hrun hmembers hb ht)
    · exact congrArg Host.Outcome.next (takeAt_alone hrun hmembers hb ht)
    · have hexec : exec (.pmiss c) s = .next ((s.noteMissed c).takeAt c .pmiss) := rfl
      rw [hexec, noteMissed_none hmissed, takeAt_alone hrun hmembers hb ht]
      rfl
  case promises =>
    exact fun s c k hk hmissed => ⟨noteMissed_pends hk hmissed, fun q hq _ => noteMissed_once hq⟩
  case notices =>
    intro s c t hrun hmembers hunwind hsingle hcause hlevel seq clear
    exact ⟨capc_acknowledged hunwind hsingle hcause, capc_unacknowledged hrun hmembers hunwind hsingle hcause hlevel⟩
  case unwinding =>
    intro s c r rs lk hrun hmembers hunwind hcregs hlate
    refine ⟨_, containmentUnwinding_alone hrun hmembers hunwind hcregs hlate, rfl, onlyContext_mapCtx .., ?_⟩
    rw [ctx_mapCtx_self]
    obtain ⟨hpc, hdsl, hregions, hdone⟩ := unwound_goesOn (s.ctx c) r lk
    obtain ⟨hv, hp, hacc, hctl⟩ := unwound_leaves (s.ctx c) r lk
    obtain ⟨hresults, hslip⟩ := unwound_keeps (s.ctx c) r lk
    have hrs : (s.ctx c).cregs.tail = rs := by rw [hcregs, List.tail_cons]
    exact ⟨hpc, hdsl, by rw [unwound_rs, if_pos rfl], hregions.trans hrs, hdone, fun q hq => by rw [unwound_rs, if_neg hq],
      hv, hp, hacc, hctl, hresults, hslip⟩
  case fetch =>
    intro s c hmembers hrun hclear x
    have hbundle := atBundle_of hrun hclear
    refine ⟨fun g b cause m hg hb hfails => bundleDecodeFailure_alone hmembers hbundle hg hb hfails,
      fun cause det far hfault => ?_⟩
    obtain ⟨henters, hstops⟩ := fetchFault_alone hmembers hbundle hfault
    refine ⟨henters, fun entered hentered hfirst => ⟨_, hstops entered hentered hfirst, ?_⟩⟩
    rw [ctx_hflt ((members_mapCtx rfl rfl c).trans hmembers), ctx_mapCtx_self]
    exact ⟨rfl, rfl⟩
  case expansion =>
    intro s c seg hrun v
    have hctx : v.ctx c = s.ctx c := noteTlb_ctx ..
    have hexec : exec (.segmentExpansion c seg) s =
        .next (v.mapCtx c (fun x => x.holdSegment seg (v.expandSegment c.core (s.ctxPart c) seg))) :=
      congrArg Host.Outcome.next (if_neg (not_not.mpr hrun))
    have hseg := expandSegment_seg v c.core (s.ctxPart c) seg
    refine ⟨_, hexec, rfl, onlyContext_mapCtx .., ?_⟩
    rw [ctx_mapCtx_self, hctx]
    exact ⟨loaded_holdSegment _ hseg, length_holdSegment .., loaded_holdSegment_executing _ hseg, rfl⟩

end Sys2Proof.Machine
end

section
/-!
O39: what rlxb and rlx deliver, and what a poisoned rule table does to it (spec/12 R336 to R338; spec/18 R451).
-/
namespace Sys2Proof.Machine

/-! ## Vector results without flags (R298) -/

/-- The lanes of a vector register that a predicate activates, computed without flags; marked where poison was consumed. -/
def laneResult (vd : VReg) (mask : Word) (marked : Bool) (f : Nat → Lane) : Result :=
  { Result.base with dest := .v vd, val := ofLanes ((List.range 64).map f), mask := mask, preg := marked }

theorem flags_union_none (l : List Nat) : Flags.union (l.map (fun _ => Flags.none)) = Flags.none := by
  induction l with
  | nil => rfl
  | cons n l ih => exact ih

/-- Lanes that raise no flag are one result under the predicate. -/
theorem gainsLanes_flagless (s : State) (lat : Nat) (vd : VReg) (p : PReg) (f : Nat → Lane) :
    s.gainsLanes lat vd p false (fun i => (f i, Flags.none)) = s.gains lat (laneResult vd (s.cx.rp p) false f) := by
  simp only [State.gainsLanes, ite_self, flags_union_none]
  rfl

/-- A function of the lanes of two vectors, lane by lane. -/
theorem lanes_zip_map {α : Type} (f : Lane × Lane → α) (x y : VecWord) :
    ((lanes x).zip (lanes y)).map f = (List.range 64).map (fun i => f (lane x i, lane y i)) := by
  simp [lanes, List.zip_map']

/-- A predicate reads the same while a result is in flight. -/
theorem rp_gains (s : State) (n : Nat) (r : Result) (p : PReg) : (s.gains n r).cx.rp p = s.cx.rp p := by
  simp [State.gains, Ctx.rp]

/-! ## rlxb (R67, R336) -/

/-- Two results of an instruction that comes from its bundle join the results in flight, for a register and the next one. -/
theorem deliverTriple_pair {s : State} (h : s.env.slipped = none) (lat : Nat) (vd : VReg) (mask : Word) (f g : Nat → Lane) :
    s.deliverTriple lat vd mask [ofLanes ((List.range 64).map f), ofLanes ((List.range 64).map g)] =
      (s.gains lat (laneResult vd mask false f)).gains lat (laneResult (vd + 1) mask false g) := by
  have hfold : s.deliverTriple lat vd mask [ofLanes ((List.range 64).map f), ofLanes ((List.range 64).map g)] =
      (s.deliverR lat (laneResult (vd + 0#5) mask false f)).deliverR lat (laneResult (vd + 1) mask false g) := rfl
  rw [hfold, BitVec.add_zero, deliverR_of_bundle h, deliverR_of_bundle (s := s.gains _ _) h]

theorem exec_rlxb {s : State} {vd va : VReg} {vb : VOpd} {q : PReg} (h : s.issues (.p q :: .v va :: VOpd.src vb)) :
    let b := fun i => boundsOf (lane (s.cx.rv va) i) (lane (s.operandV vb) i)
    exec (.rlxb vd va vb q) s =
      .next ((s.gains 8 (laneResult vd (s.cx.rp q) false (fun i => (b i).1))).gains 8
        (laneResult (vd + 1) (s.cx.rp q) false (fun i => (b i).2))) := by
  have hexec : exec (.rlxb vd va vb q) s = execRlxb vd va vb q s := rfl
  rw [hexec, execRlxb, compute_issues (g := []) h (conflict_of_unordered s rfl)]
  simp only [rv_of_bundle h.1, rvo_of_bundle h.1, rp_of_bundle h.1, lanes_zip_map, List.map_map]
  rw [← deliverTriple_pair h.1]
  rfl

/-! ## rlx (R337, R338) -/

/-- The three results of rlx, the first marked as one that has consumed poison or not (R451). -/
def State.gainsRelaxed (s : State) (vd : VReg) (mask : Word) (marked : Bool) (r : Nat → Lane × Lane × Lane) : State :=
  ((s.gains 14 (laneResult vd mask marked (fun n => (r n).1))).gains 14
    (laneResult (vd + 1) mask false (fun n => (r n).2.1))).gains 14 (laneResult (vd + 2) mask false (fun n => (r n).2.2))

/-- Three results of an instruction that comes from its bundle join the results in flight. -/
theorem gainsRelaxed_of_bundle {s : State} (h : s.env.slipped = none) (vd : VReg) (mask : Word) (marked : Bool)
    (r : Nat → Lane × Lane × Lane) :
    ((s.deliverR 14 (laneResult (vd + 0#5) mask (marked && true) (fun n => (r n).1))).deliverR 14
      (laneResult (vd + 1) mask (marked && false) (fun n => (r n).2.1))).deliverR 14
      (laneResult (vd + 2) mask (marked && false) (fun n => (r n).2.2)) = s.gainsRelaxed vd mask marked r := by
  rw [BitVec.add_zero, Bool.and_true, Bool.and_false, deliverR_of_bundle h, deliverR_of_bundle (s := s.gains _ _) h,
    deliverR_of_bundle (s := (s.gains _ _).gains _ _) h]
  rfl

/-- Lanes without flags that follow one another are the results of rlx. -/
theorem gainsLanes_relaxed (s : State) (vd : VReg) (q : PReg) (r : Nat → Lane × Lane × Lane) :
    ((s.gainsLanes 14 vd q false (fun n => ((r n).1, Flags.none))).gainsLanes 14 (vd + 1) q false
      (fun n => ((r n).2.1, Flags.none))).gainsLanes 14 (vd + 2) q false (fun n => ((r n).2.2, Flags.none)) =
      s.gainsRelaxed vd (s.cx.rp q) false r := by
  simp only [gainsLanes_flagless, rp_gains]
  rfl

/-- The state in which rlx acts: the errors of a user table have been found (R148). -/
def State.readTable (s : State) (ut : Bool) (ta : SReg) (tc : List Touch) : State :=
  if ut then s.reading .read (s.cx.rs ta) tc else s

@[simp] theorem readTable_cx (s : State) (ut : Bool) (ta : SReg) (tc : List Touch) : (s.readTable ut ta tc).cx = s.cx := by
  unfold State.readTable; split
  · exact accessed_cx ..
  · rfl

@[simp] theorem readTable_env (s : State) (ut : Bool) (ta : SReg) (tc : List Touch) : (s.readTable ut ta tc).env = s.env := by
  unfold State.readTable; split
  · exact accessed_env ..
  · rfl

/-- Poison that is consumed unwinds the bundle at most (R252, R451). -/
theorem consume_env (s : State) (poison : Bool) : (s.consume poison).1.env = s.env := by
  unfold State.consume; split
  · rfl
  · split <;> rfl

/-- The bounds of a lane relaxed by the rules of a table (R338). -/
def State.relaxed (s : State) (vl : VReg) (ar : SReg) (rules : List Rule) (n : Nat) : Lane × Lane × Lane :=
  (rlxLane rules ((s.cx.rs ar).setWidth 32) (lane (s.cx.rv vl) n) (lane (s.cx.rv (vl + 1)) n)).getD (0, 0, 0)

/-- What rlx does on the storage of its table (R338, R451). -/
def State.relax (s : State) (vd vl : VReg) (q : PReg) (fs : BitVec 3) (ut : Bool) (ta ar : SReg) (tc : List Touch) : State :=
  let u := s.readTable ut ta tc
  let p := u.consume (u.piecesPoisoned (piecesOf tc))
  p.1.gainsRelaxed vd (s.cx.rp q) p.2 (s.relaxed vl ar (u.rlxRules ut fs tc))

/-- The registers that rlx reads. -/
def rlxOperands (vl : VReg) (q : PReg) (ut : Bool) (ta ar : SReg) : List Src :=
  [Src.v vl, .v (vl + 1), .p q, .s ar] ++ if ut then [Src.s ta] else []

/-- The checks of rlx: its table's storage, then its rules (R71, R337). -/
def State.rlxCheck (s : State) (vl : VReg) (q : PReg) (fs : BitVec 3) (ut : Bool) (ta ar : SReg) :
    Except IssueTrap (List Touch) :=
  match (if ut then s.checkAccess .pm .read 0 3 (s.rs ta) 2048 256 else .ok []) with
  | .error t => .error t
  | .ok tc => if s.rlxFails ut fs tc vl q ((s.rs ar).setWidth 32) then .error ⟨.rule, 0, 0⟩ else .ok tc

section
variable {s : State} {vd vl : VReg} {q : PReg} {fs : BitVec 3} {ut : Bool} {ta ar : SReg} {tc : List Touch}
variable (h : s.issuesInOrder (.rlx vd vl q fs ut ta ar) (rlxOperands vl q ut ta ar))
include h

/-- Where the table can be read, its rules decide. -/
theorem rlxCheck_of_table (hc : ut = true → s.checkAccess .pm .read 0 3 (s.cx.rs ta) 2048 256 = .ok tc)
    (hn : ut = false → tc = []) :
    s.rlxCheck vl q fs ut ta ar =
      if s.rlxFails ut fs tc vl q ((s.cx.rs ar).setWidth 32) then .error ⟨.rule, 0, 0⟩ else .ok tc := by
  have htable : (if ut then s.checkAccess .pm .read 0 3 (s.cx.rs ta) 2048 256 else .ok []) = Except.ok tc := by
    cases ut with
    | true => exact hc rfl
    | false => rw [hn rfl]; rfl
  rw [State.rlxCheck, rs_of_bundle h.1.1, rs_of_bundle h.1.1, htable]

/-- An rlx whose check fails traps. -/
theorem exec_rlx_error {t : IssueTrap} (hc : s.rlxCheck vl q fs ut ta ar = .error t) :
    exec (.rlx vd vl q fs ut ta ar) s = .next (s.traps (.rlx vd vl q fs ut ta ar) t.cause t.det t.far) := by
  obtain ⟨⟨hbundle, hneeds, -, -⟩, horder⟩ := h
  refine (if_neg (by simp [horder])).trans ?_
  refine congrArg Host.Outcome.next (Eq.trans (congrArg (fun c => s.operate _ c _) hc) ?_)
  exact operate_error hbundle hneeds

/-- An rlx whose check passes relaxes its lanes. -/
theorem exec_rlx_ok (hc : s.rlxCheck vl q fs ut ta ar = .ok tc) :
    exec (.rlx vd vl q fs ut ta ar) s = .next (s.relax vd vl q fs ut ta ar tc) := by
  obtain ⟨hready, horder⟩ := h
  have hbundle := hready.1
  refine (if_neg (by simp [horder])).trans ?_
  refine congrArg Host.Outcome.next (Eq.trans (congrArg (fun c => s.operate _ c _) hc) ?_)
  refine (operate_ok (by rw [List.append_nil]; exact hready) horder).trans ?_
  have htable : (if ut then s.accessed .read (s.rs ta) (piecesOf tc) else s) = s.readTable ut ta tc := by
    rw [rs_of_bundle hbundle]; rfl
  have hu : (s.readTable ut ta tc).env.slipped = none := by rw [readTable_env]; exact hbundle
  simp only [htable, rv_of_bundle hu, rs_of_bundle hu, rp_of_bundle hu, readTable_cx, lanes_zip_map, List.map_map]
  exact gainsRelaxed_of_bundle ((congrArg Env.slipped (consume_env ..)).trans hu) ..
end

/-- Memory and the registers of the context stand while results join those in flight. -/
theorem gainsRelaxed_cx (s : State) (vd : VReg) (mask : Word) (marked : Bool) (r : Nat → Lane × Lane × Lane) :
    let t := s.gainsRelaxed vd mask marked r
    t.mem = s.mem ∧ t.cx.s = s.cx.s ∧ t.cx.v = s.cx.v ∧ t.cx.p = s.cx.p ∧ t.cx.unwind = s.cx.unwind ∧
      ∃ x ∈ t.cx.results, x.dest = .v vd ∧ x.due = s.env.ctm + 14 ∧ x.preg = marked := by
  simp only [State.gainsRelaxed, State.gains, cx_mapCx, mapCx_mem, true_and]
  exact ⟨_, List.mem_append_left _ (List.mem_append_left _ (List.mem_append_right _ (List.mem_singleton_self _))), rfl, rfl, rfl⟩

theorem consume_poison (s : State) :
    let p := s.consume true
    p.1.mem = s.mem ∧ p.1.cx.s = s.cx.s ∧ p.1.cx.v = s.cx.v ∧ p.1.cx.p = s.cx.p ∧ (s.cx.cregs = [] → p.2 = true) ∧
      (s.cx.cregs ≠ [] → p.1.cx.unwind.isSome = true) := by
  by_cases hc : s.cx.cregs = []
  · simp [State.consume, hc]
  · simp [State.consume, hc]

/-- Poison in the table marks the first result, or unwinds the region that the context is in (R451). -/
theorem relax_poisoned (s : State) (vd vl : VReg) (q : PReg) (fs : BitVec 3) (ut : Bool) (ta ar : SReg) (tc : List Touch)
    (hp : (s.readTable ut ta tc).piecesPoisoned (piecesOf tc) = true) :
    let t := s.relax vd vl q fs ut ta ar tc
    t.mem = (s.readTable ut ta tc).mem ∧ t.cx.s = s.cx.s ∧ t.cx.v = s.cx.v ∧ t.cx.p = s.cx.p ∧
      (s.cx.cregs = [] → ∃ x ∈ t.cx.results, x.dest = .v vd ∧ x.due = s.env.ctm + 14 ∧ x.preg = true) ∧
      (s.cx.cregs ≠ [] → t.cx.unwind.isSome = true) := by
  obtain ⟨hmem, hs, hv, hpr, hmarks, hunwinds⟩ := consume_poison (s.readTable ut ta tc)
  have henv := (consume_env (s.readTable ut ta tc) true).trans (readTable_env ..)
  rw [readTable_cx] at hs hv hpr hmarks hunwinds
  simp only [State.relax, hp]
  generalize (s.readTable ut ta tc).consume true = p at *
  obtain ⟨hmem', hs', hv', hpr', hunwind, x, hx, hdest, hdue, hmarked⟩ :=
    gainsRelaxed_cx p.1 vd (s.cx.rp q) p.2 (s.relaxed vl ar ((s.readTable ut ta tc).rlxRules ut fs tc))
  rw [henv] at hdue
  rw [hmem', hs', hv', hpr', hunwind]
  exact ⟨hmem, hs, hv, hpr, fun hc => ⟨x, hx, hdest, hdue, hmarked.trans (hmarks hc)⟩, hunwinds⟩

/-- Without poison nothing but the results of rlx joins the state in which it acts. -/
theorem relax_clean (s : State) (vd vl : VReg) (q : PReg) (fs : BitVec 3) (ut : Bool) (ta ar : SReg) (tc : List Touch)
    (hp : (s.readTable ut ta tc).piecesPoisoned (piecesOf tc) = false) :
    s.relax vd vl q fs ut ta ar tc =
      (s.readTable ut ta tc).gainsRelaxed vd (s.cx.rp q) false (s.relaxed vl ar ((s.readTable ut ta tc).rlxRules ut fs tc)) := by
  have hconsume (u : State) : u.consume false = (u, false) := by simp [State.consume]
  simp only [State.relax, hp, hconsume]

/-- Settles O39: rlxb and rlx are their results one after another, whose registers are those of the statement. -/
theorem relaxationResults : Obligations.RelaxationResults := by
  refine ⟨fun s vd va vb q h => ?rlxb, fun s vd vl q fs ut ta ar tc => ?rlx, fun rules arg l u h => ?bad⟩
  case rlxb =>
    intro b
    refine (exec_rlxb h).trans ?_
    rw [gainsLanes_flagless, gainsLanes_flagless, rp_gains]
  case bad => rw [rlxLane, if_pos (by simpa [or_assoc] using h)]
  case rlx =>
    intro i h hc hn arg u r
    have hcheck := rlxCheck_of_table h hc hn
    refine ⟨fun hf => ?_, fun hf hp => ?_, fun hf hp => ?_⟩
    · exact (exec_rlx_error h (hcheck.trans (if_pos hf)) :)
    · have hdone := exec_rlx_ok h (hcheck.trans (if_neg (ne_true_of_eq_false hf)))
      rw [relax_clean s vd vl q fs ut ta ar tc hp, ← readTable_cx s ut ta tc, ← gainsLanes_relaxed] at hdone
      exact hdone
    · have hdone := exec_rlx_ok h (hcheck.trans (if_neg (ne_true_of_eq_false hf)))
      exact ⟨_, hdone, relax_poisoned s vd vl q fs ut ta ar tc hp⟩

end Sys2Proof.Machine
end

section
/-!
O42: the commands of the pantry, each by what its checks answer (spec/03 R81; spec/12 R339 to R343).
-/
namespace Sys2Proof.Machine

/-! ## Checks that decide a command (R339) -/

@[simp] theorem orTrap_true {α : Type} (t : IssueTrap) (k : Except IssueTrap α) : orTrap true t k = k := rfl
@[simp] theorem orTrap_false {α : Type} (t : IssueTrap) (k : Except IssueTrap α) : orTrap false t k = .error t := rfl

theorem orTrap_symx {α : Type} (reason : BitVec 32) (k : Except IssueTrap α) :
    orTrap false (symx reason) k = .error ⟨.symx, reason, 0⟩ := rfl

/-- A command that stands ready and whose check fails raises the trap of the check. -/
theorem issueOrBlock_error {s : State} {i : Instr} {l : List Src} {t : IssueTrap} (h : s.issuesInOrder i l) :
    s.issueOrBlock i l (.error t) = s.traps i t.cause t.det t.far := by
  obtain ⟨⟨-, hneeds, hslot, -⟩, horder⟩ := h
  simp [State.issueOrBlock, hneeds, hslot, horder, State.traps]

section
variable {s : State} {i : Instr} {l : List Src} {c : Except IssueTrap (State → State)} (h : s.issuesInOrder i l)
variable (hexec : exec i s = .next (s.issueOrBlock i l c))
include h hexec

/-- A command whose check finds a trap takes it; one whose check passes acts. -/
theorem traps_of_check {cause : Cause} {det : BitVec 32} {far : Word} (hc : c = .error ⟨cause, det, far⟩) :
    exec i s = .next (s.traps i cause det far) := by
  rw [hexec, hc, issueOrBlock_error h]

theorem acts_of_check {k : State → State} (hc : c = .ok k) : exec i s = .next (k s) := by
  rw [hexec, hc, issueOrBlock_ok h]
end

/-! ## What a write of storage leaves, continued (R148, R149) -/

/-- What the stores do not hold, a state that differs in them alone has too. -/
theorem StoresOnly.keeps {β : Type} {s t : State} (h : StoresOnly s t) (f : State → β) (hf : f (s.withStores t) = f s) :
    f t = f s := (congrArg f h.eq).trans hf

/-- A byte outside the pieces that are written is as it was. -/
theorem memRead_putPieces {s : State} (h : s.sound) {ps : List Piece} {k : Nat} (hk : outsidePieces ps k) (bs : List Byte) :
    memRead (s.putPieces ps bs).mem k = memRead s.mem k := by
  induction ps generalizing s bs with
  | nil => rfl
  | cons p ps ih =>
    obtain ⟨hp, hps⟩ := List.forall_mem_cons.mp hk
    have hlen : (bs.take p.len).length ≤ p.len := by simp
    refine (ih (sound_putBytes h ..) hps _).trans (sameOutside_putBytes h _ _ k ?_)
    omega

/-- A byte outside every range of a list of global writes is as it was (R339). -/
theorem memRead_globalPutAll {s : State} (h : s.sound) {p c : BitVec 4} {ws : List (Word × List Byte)} {k : Nat}
    (hk : s.beyondWrites p c ws k) : memRead (s.globalPutAll p c ws).mem k = memRead s.mem k := by
  have hfold (l : List (Option (List Piece) × List Byte)) (hl : ∀ x ∈ l, ∀ ps, x.1 = some ps → outsidePieces ps k) :
      ∀ t : State, t.sound →
        memRead (l.foldl (fun u p => match p.1 with | some ps => u.putPieces ps p.2 | none => u) t).mem k = memRead t.mem k := by
    induction l with
    | nil => exact fun t _ => rfl
    | cons x l ih =>
      obtain ⟨o, bs⟩ := x
      obtain ⟨hx, hrest⟩ := List.forall_mem_cons.mp hl
      intro t ht
      cases o with
      | none => exact ih hrest t ht
      | some ps => exact (ih hrest _ (sound_putPieces ht ..)).trans (memRead_putPieces ht (hx ps rfl) bs)
  refine hfold _ (fun x hx ps hps => ?_) s h
  obtain ⟨w, hw, rfl⟩ := List.mem_map.mp hx
  exact hk w hw ps hps

/-! ## Translation does not ask the pantry (R432) -/

/-- A state with other entries and serials in its pantry. -/
def State.withSyms (s : State) (syms : List Sym) (serials : List (Nat × Nat)) : State :=
  { s with syms := syms, symSerial := serials }

theorem walkFrom_withSyms (s : State) (syms : List Sym) (serials : List (Nat × Nat)) (va : Word) (fuel table level : Nat) :
    (s.withSyms syms serials).walkFrom va fuel table level = s.walkFrom va fuel table level := by
  induction fuel generalizing table level with
  | zero => rfl
  | succ fuel ih => simp only [State.walkFrom, ih]; rfl

theorem leafOf_withSyms (s : State) (syms : List Sym) (serials : List (Nat × Nat)) (core : Option CoreId) (p : BitVec 4) (va : Word) :
    (s.withSyms syms serials).leafOf core p va = s.leafOf core p va := by
  unfold State.leafOf
  rw [walkFrom_withSyms]
  rfl

theorem translate_withSyms (s : State) (syms : List Sym) (serials : List (Nat × Nat)) (core : Option CoreId) (p : BitVec 4)
    (a : Access) (fuel : Nat) (va : Word) (n : Nat) :
    (s.withSyms syms serials).translate core p a fuel va n = s.translate core p a fuel va n := by
  induction fuel generalizing va n with
  | zero => rfl
  | succ fuel ih => simp only [State.translate, leafOf_withSyms, ih]

theorem globalPieces_withSyms (s : State) (syms : List Sym) (serials : List (Nat × Nat)) (p c : BitVec 4) (a : Access) (va : Word)
    (n : Nat) : (s.withSyms syms serials).globalPieces p c a va n = s.globalPieces p c a va n := by
  unfold State.globalPieces State.piecesFor State.translateAll
  rw [translate_withSyms]
  rfl

theorem beyondWrites_withSyms {s : State} {p c : BitVec 4} {ws : List (Word × List Byte)} {k : Nat} (h : s.beyondWrites p c ws k)
    (syms : List Sym) (serials : List (Nat × Nat)) : (s.withSyms syms serials).beyondWrites p c ws k :=
  fun w hw ps hps => h w hw ps ((globalPieces_withSyms ..).symm.trans hps)

end Sys2Proof.Machine
end

section
/-!
O42, continued: sym.new (spec/03 R81; spec/12 R340).
-/
namespace Sys2Proof.Machine

/-! ## What the pantry answers -/

section
variable {s : State} {d a b : SReg} (h : s.issuesInOrder (.symNew d a b) [.s a, .s b])
include h

/-- A sym.new is its check. -/
theorem exec_symNew : exec (.symNew d a b) s =
    .next (s.issueOrBlock (.symNew d a b) [.s a, .s b] (s.symNewCheck d (s.cx.rs a) (s.cx.rs b))) := by
  rw [← rs_of_bundle h.1.1, ← rs_of_bundle h.1.1]
  rfl

theorem symNew_denied (hp : s.pantryAdmits .write = false) :
    exec (.symNew d a b) s = .next (s.traps (.symNew d a b) .accv 0 0) :=
  traps_of_check h (exec_symNew h) (by rw [State.symNewCheck, hp, orTrap_false])

variable (hp : s.pantryAdmits .write = true)
include hp

theorem symNew_limited {reason : BitVec 32} (hc : s.symNewAnswer d (s.cx.rs a) (s.cx.rs b) = .error ⟨.symx, reason, 0⟩) :
    exec (.symNew d a b) s = .next (s.traps (.symNew d a b) .symx reason 0) :=
  traps_of_check h (exec_symNew h) (by rw [State.symNewCheck, hp, orTrap_true, hc])

theorem symNew_answered {k : State → State} (hc : s.symNewAnswer d (s.cx.rs a) (s.cx.rs b) = .ok k) :
    exec (.symNew d a b) s = .next (k s) :=
  acts_of_check h (exec_symNew h) (by rw [State.symNewCheck, hp, orTrap_true, hc])
end

section
variable {s : State} {d : SReg} {va slab : Word} {t : Tensor}
variable (hread : s.pantryReach .read va 64 64 = none) (hwrite : s.pantryReach .write va 64 64 = none)
variable (htensor : readTensor s.pantryRead va = some t)
include hread hwrite htensor

/-- A broken tensor is answered with its status (R57, R340). -/
theorem symNewAnswer_broken (hst : s.tensorStatus (s.jobOf s.myRegion) t ≠ .ok) :
    s.symNewAnswer d va slab = .ok (fun u => (u.tensorErrors t).deliverS 6 d
      (symNewWord 0 (s.tensorStatus (s.jobOf s.myRegion) t).newCode 0)) := by
  have hfirst : firstTrap [s.pantryReach .read va 64 64, s.pantryReach .write va 64 64] = none := by rw [hread, hwrite]; rfl
  simp only [State.symNewAnswer, hfirst, htensor]

variable (hst : s.tensorStatus (s.jobOf s.myRegion) t = .ok)
include hst

/-- A full list is answered with a status of its own (R340). -/
theorem symNewAnswer_full (hfull : t.atd.nslab = t.atd.slcap) :
    s.symNewAnswer d va slab = .ok (fun u => (u.tensorErrors t).deliverS 6 d (symNewWord 0 6 0)) := by
  have hfirst : firstTrap [s.pantryReach .read va 64 64, s.pantryReach .write va 64 64] = none := by rw [hread, hwrite]; rfl
  simp only [State.symNewAnswer, hfirst, htensor, hst, hfull, if_true]

/-- Where the slab can be written, the capacities decide (R81). -/
theorem symNewAnswer_room (hroom : t.atd.nslab ≠ t.atd.slcap) (halign : slab.toNat % t.atd.esize = 0)
    (hlist : s.pantryReach .write t.atd.sladdr (16 * (t.atd.nslab + 1)) 16 = none)
    (hmap : s.pantryReach .write (liveMapAddr slab t.atd.n t.atd.esize) (liveMapLen t.atd.n) 1 = none) :
    s.symNewAnswer d va slab =
      orTrap (decide (s.symCount + t.atd.n ≤ 1048576)) (symx 0)
        (orTrap (s.symBudget s.myRegion t.atd.n) (symx 1)
          (orTrap (decide (s.nextSerial (s.jobOf s.myRegion) + t.atd.n ≤ 2 ^ 26)) (symx 2)
            (.ok (fun u => (u.tensorErrors t).mint d (s.jobOf s.myRegion) s.myRegion t slab)))) := by
  have hfirst : firstTrap [s.pantryReach .read va 64 64, s.pantryReach .write va 64 64] = none := by rw [hread, hwrite]; rfl
  have hsecond : firstTrap [if slab.toNat % t.atd.esize = 0 then none else some ⟨.align, 0, slab⟩,
      s.pantryReach .write t.atd.sladdr (16 * (t.atd.nslab + 1)) 16,
      s.pantryReach .write (liveMapAddr slab t.atd.n t.atd.esize) (liveMapLen t.atd.n) 1] = none := by
    rw [hlist, hmap, if_pos halign]; rfl
  simp only [State.symNewAnswer, hfirst, htensor, hst, hroom, if_false, hsecond]
end

/-! ## The mint (R77, R340) -/

theorem storesOnly_tensorErrors (s : State) (t : Tensor) : StoresOnly s (s.tensorErrors t) := storesOnly_readErrors ..

/-- The serials of the other jobs stand when one job takes n more. -/
theorem nextSerial_cons (s : State) (job j : Nat) (n : Nat) (syms : List Sym) :
    (s.withSyms syms ((job, n) :: s.symSerial.filter (fun p => p.1 != job))).nextSerial j =
      if j = job then n else s.nextSerial j := by
  by_cases hj : j = job
  · simp [State.nextSerial, State.withSyms, hj]
  · have hfind : (s.symSerial.filter (fun p => p.1 != job)).find? (fun p => p.1 == j) =
        s.symSerial.find? (fun p => p.1 == j) := by
      rw [List.find?_filter]
      refine congrArg (fun q => s.symSerial.find? q) (funext fun p => ?_)
      by_cases hp : p.1 = j <;> simp [hp, hj]
    simp only [State.nextSerial, State.withSyms, if_neg hj]
    rw [List.find?_cons_of_neg (by simpa using Ne.symm hj), hfind]

/-- A scalar in the value field of a result is that scalar. -/
theorem toWord_ofWord (w : Word) : toWord (ofWord w) = w := by
  simp [toWord, ofWord]

/-- What a mint does: new entries, serials that are used up, the result, and the writes of the tensor. -/
theorem mint_effects {v : State} (hbundle : v.env.slipped = none) (hs : v.sound) (d : SReg) (job region : Nat) (t : Tensor)
    (slab : Word) :
    let base := v.nextBase job
    let u := v.mint d job region t slab
    u.syms = v.syms ++ mintEntries t job region base ∧ (∀ j, u.nextSerial j = if j = job then v.nextSerial job + t.atd.n else v.nextSerial j) ∧
      (∃ r : Result, u.cx = { v.cx with results := v.cx.results ++ [r], nextRid := v.cx.nextRid + 1 } ∧ r.dest = .s d ∧
        r.due = v.env.ctm + 6 ∧ toWord r.val = mintResult t base) ∧
      ∀ k, v.beyondWrites (v.ctxPart v.env.cid) 3 (mintWrites t slab base) k → memRead u.mem k = memRead v.mem k := by
  intro base u
  let s1 := v.withSyms (v.syms ++ mintEntries t job region base)
    ((job, v.nextSerial job + t.atd.n) :: v.symSerial.filter (fun p => p.1 != job))
  let w := s1.globalPutAll (v.ctxPart v.env.cid) 3 (mintWrites t slab base)
  have hw : StoresOnly s1 w := storesOnly_globalPutAll ..
  have hu : u = w.gainsWord 6 d (mintResult t base) := deliverS_of_bundle ((congrArg Env.slipped (hw.keeps State.env rfl)).trans hbundle) ..
  have hcx : w.cx = v.cx := hw.keeps State.cx rfl
  have henv : w.env = v.env := hw.keeps State.env rfl
  refine ⟨?_, fun j => ?_, ⟨(Result.issue { Result.base with dest := .s d, val := ofWord (mintResult t base) } w.env 6 w.cx.nextRid), ?_⟩,
    fun k hk => ?_⟩
  · rw [hu]; exact hw.keeps State.syms rfl
  · have hserial : u.nextSerial j = s1.nextSerial j := by rw [hu]; exact hw.keeps (State.nextSerial · j) rfl
    exact hserial.trans (nextSerial_cons ..)
  · refine ⟨?_, rfl, by rw [henv]; rfl, toWord_ofWord _⟩
    rw [hu, ← hcx]
    exact cx_mapCx ..
  · rw [hu]
    exact memRead_globalPutAll (s := s1) hs (beyondWrites_withSyms hk _ _)

/-- A sym.new that meets no limit mints its slab (R340), on the tensor whose errors have been found (R148). -/
theorem tensorErrors_mint {s : State} (hbundle : s.env.slipped = none) (hs : s.sound) (d : SReg) (t : Tensor) (slab : Word) :
    let job := s.jobOf s.myRegion
    let base := s.nextBase job
    let v := s.tensorErrors t
    ∃ r : Result,
      let u := v.mint d job s.myRegion t slab
      u.syms = s.syms ++ mintEntries t job s.myRegion base ∧ u.nextSerial job = s.nextSerial job + t.atd.n ∧
        (∀ j, j ≠ job → u.nextSerial j = s.nextSerial j) ∧
        u.cx = { s.cx with results := s.cx.results ++ [r], nextRid := s.cx.nextRid + 1 } ∧ r.dest = .s d ∧
        r.due = s.env.ctm + 6 ∧ toWord r.val = mintResult t base ∧
        ∀ k, v.beyondWrites (s.ctxPart s.env.cid) 3 (mintWrites t slab base) k → memRead u.mem k = memRead v.mem k := by
  intro job base v
  have hv : StoresOnly s v := storesOnly_tensorErrors s t
  have henv : v.env = s.env := hv.keeps State.env rfl
  have hcx : v.cx = s.cx := hv.keeps State.cx rfl
  have hsyms : v.syms = s.syms := hv.keeps State.syms rfl
  have hbase : v.nextBase job = base := hv.keeps (State.nextBase · job) rfl
  have hserial (j : Nat) : v.nextSerial j = s.nextSerial j := hv.keeps (State.nextSerial · j) rfl
  have hpart : v.ctxPart v.env.cid = s.ctxPart s.env.cid := hv.keeps (fun x => x.ctxPart x.env.cid) rfl
  obtain ⟨hminted, hserials, ⟨r, hresult, hdest, hdue, hval⟩, hmem⟩ :=
    mint_effects (v := v) ((congrArg Env.slipped henv).trans hbundle) (sound_readErrors hs ..) d job s.myRegion t slab
  rw [hsyms, hbase] at hminted
  rw [hcx] at hresult
  rw [henv] at hdue
  rw [hbase] at hval
  rw [hbase, hpart] at hmem
  refine ⟨r, hminted, ?_, fun j hj => ?_, hresult, hdest, hdue, hval, hmem⟩
  · rw [hserials, if_pos rfl, hserial]
  · rw [hserials, if_neg hj, hserial]

end Sys2Proof.Machine
end

section
/-!
O42, continued: sym.sig, sym.qry and sym.rel (spec/03 R78, R81; spec/12 R341 to R343).
-/
namespace Sys2Proof.Machine

/-- Some id of a list fails a test, or all pass it. -/
theorem all_eq_false_of {l : List (BitVec 32)} {f : BitVec 32 → Bool} (h : ∃ id ∈ l, f id = false) : l.all f = false := by
  simpa using h

theorem any_eq_true_of {l : List (BitVec 32)} {f : BitVec 32 → Bool} (h : ∃ id ∈ l, f id = true) : l.any f = true := by
  simpa using h

theorem any_eq_false_of {l : List (BitVec 32)} {f : BitVec 32 → Bool} (h : ∀ id ∈ l, f id = false) : l.any f = false := by
  simpa using h

/-! ## sym.sig (R341) -/

/-- A sym.sig with the operands that it has in s leaves a job for the pantry. -/
def State.leaveSig (s : State) (a b c : SReg) (u : State) : State :=
  { u with
    nextId := u.nextId + 1,
    sigs := u.sigs ++ [{ u.owner with
      id := u.nextId, job := s.jobOf s.myRegion, first := (s.cx.rs a).setWidth 32, src := (u.rs b).toNat,
      n := ((s.cx.rs c).extractLsb' 32 26).toNat + 1, group := (s.cx.rs c).extractLsb' 0 16,
      et := (s.cx.rs c).extractLsb' 16 8 }] }

/-- What decides a sym.sig beyond its word and its values: the pantry's table and the ids (R81). -/
def State.sigTargets (s : State) (job : Nat) (first : BitVec 32) (n : Nat) (g : BitVec 16) (et : Byte) (k : State → State) :
    Except IssueTrap (State → State) :=
  orTrap (s.pantryAdmits .write) ⟨.accv, 0, 0⟩
    (orTrap (oneChip first n) (symx 6)
      (orTrap ((idRange first n).all (s.symAlive job)) (symx 3)
        (orTrap (!(idRange first n).any (s.etDiffers job g et)) (symx 4) (.ok k))))

/-- The checks of a sym.sig. -/
def State.symSigCheck (s : State) (a b c : SReg) : Except IssueTrap (State → State) :=
  let w := s.cx.rs c
  orTrap (w.extractLsb' 24 8 == 0 && w.extractLsb' 58 6 == 0) ⟨.ill, 0, 0⟩
    (match s.checkAccess .pm .read 3 1 (s.cx.rs b) (4 * ((w.extractLsb' 32 26).toNat + 1)) 4 with
     | .error t => .error t
     | .ok _ => s.sigTargets (s.jobOf s.myRegion) ((s.cx.rs a).setWidth 32) ((w.extractLsb' 32 26).toNat + 1)
         (w.extractLsb' 0 16) (w.extractLsb' 16 8) (s.leaveSig a b c))

theorem exec_symSig {s : State} {a b c : SReg} (h : s.issuesInOrder (.symSig a b c) [.s a, .s b, .s c]) :
    exec (.symSig a b c) s = .next (s.issueOrBlock (.symSig a b c) [.s a, .s b, .s c] (s.symSigCheck a b c)) := by
  unfold State.symSigCheck State.leaveSig
  rw [← rs_of_bundle h.1.1 a, ← rs_of_bundle h.1.1 b, ← rs_of_bundle h.1.1 c]
  rfl

/-- A reserved bit of the word is set (R341). -/
theorem symSigCheck_reserved {s : State} {a b c : SReg}
    (hw : (s.cx.rs c).extractLsb' 24 8 ≠ 0 ∨ (s.cx.rs c).extractLsb' 58 6 ≠ 0) :
    s.symSigCheck a b c = .error ⟨.ill, 0, 0⟩ := by
  have hbad : ((s.cx.rs c).extractLsb' 24 8 == 0 && (s.cx.rs c).extractLsb' 58 6 == 0) = false := by
    simpa [imp_iff_not_or] using hw
  rw [State.symSigCheck, hbad, orTrap_false]

/-- With a sound word and values that can be read, the pantry's table and the ids decide (R81, R341). -/
theorem symSigCheck_ids {s : State} {a b c : SReg} {tc : List Touch} (hlow : (s.cx.rs c).extractLsb' 24 8 = 0)
    (hhigh : (s.cx.rs c).extractLsb' 58 6 = 0)
    (htc : s.checkAccess .pm .read 3 1 (s.cx.rs b) (4 * (((s.cx.rs c).extractLsb' 32 26).toNat + 1)) 4 = .ok tc) : s.symSigCheck a b c =
      s.sigTargets (s.jobOf s.myRegion) ((s.cx.rs a).setWidth 32) (((s.cx.rs c).extractLsb' 32 26).toNat + 1)
        ((s.cx.rs c).extractLsb' 0 16) ((s.cx.rs c).extractLsb' 16 8) (s.leaveSig a b c) := by
  have hgood : ((s.cx.rs c).extractLsb' 24 8 == 0 && (s.cx.rs c).extractLsb' 58 6 == 0) = true := by simp [hlow, hhigh]
  simp only [State.symSigCheck, hgood, htc, orTrap_true]

/-! ## sym.qry (R342) -/

/-- The check of a sym.qry: its word, then the pantry's table. -/
theorem exec_symQry {s : State} {d a b : SReg} (h : s.issuesInOrder (.symQry d a b) [.s a, .s b]) :
    exec (.symQry d a b) s = .next (s.issueOrBlock (.symQry d a b) [.s a, .s b]
      (orTrap (decide ((s.cx.rs b).toNat ≤ 3)) ⟨.ill, 0, 0⟩
        (orTrap (s.pantryAdmits .read) ⟨.accv, 0, 0⟩
          (.ok (fun u => u.deliverS 6 d
            (match u.symSeen (u.jobOf u.myRegion) ((u.rs a).setWidth 32) with
             | some e => (u.symShown e).word (s.cx.rs b)
             | none => 0)))))) := by
  rw [← rs_of_bundle h.1.1 b]
  rfl

/-! ## sym.rel (R343) -/

/-- A sym.rel with the operands that it has in s leaves a job for the pantry. -/
def State.leaveRel (s : State) (a b c : SReg) (u : State) : State :=
  { u with
    nextId := u.nextId + 1,
    rels := u.rels ++ [{ u.owner with
      id := u.nextId, job := s.jobOf s.myRegion, first := (s.cx.rs a).setWidth 32, n := (s.cx.rs b).toNat,
      add := decide (s.cx.rs c = 1) }] }

/-- What decides a sym.rel beyond its operands: the pantry's table and the ids (R81). -/
def State.relTargets (s : State) (job : Nat) (first : BitVec 32) (n : Nat) (add : Bool) (k : State → State) :
    Except IssueTrap (State → State) :=
  orTrap (s.pantryAdmits .write) ⟨.accv, 0, 0⟩
    (orTrap (oneChip first n) (symx 6)
      (orTrap ((idRange first n).all (s.symAlive job)) (symx 3)
        (orTrap (!add || (idRange first n).all (fun id => decide (s.refsComing job id < 65535))) (symx 5) (.ok k))))

/-- The checks of a sym.rel. -/
def State.symRelCheck (s : State) (a b c : SReg) : Except IssueTrap (State → State) :=
  orTrap (decide ((s.cx.rs c).toNat ≤ 1) && decide (1 ≤ (s.cx.rs b).toNat) && decide ((s.cx.rs b).toNat < 2 ^ 26)) ⟨.ill, 0, 0⟩
    (s.relTargets (s.jobOf s.myRegion) ((s.cx.rs a).setWidth 32) (s.cx.rs b).toNat (decide (s.cx.rs c = 1)) (s.leaveRel a b c))

theorem exec_symRel {s : State} {a b c : SReg} (h : s.issuesInOrder (.symRel a b c) [.s a, .s b, .s c]) :
    exec (.symRel a b c) s = .next (s.issueOrBlock (.symRel a b c) [.s a, .s b, .s c] (s.symRelCheck a b c)) := by
  unfold State.symRelCheck State.leaveRel
  rw [← rs_of_bundle h.1.1 a, ← rs_of_bundle h.1.1 b, ← rs_of_bundle h.1.1 c]
  rfl

/-- An operand is out of its range (R343). -/
theorem symRelCheck_bad {s : State} {a b c : SReg}
    (hw : 1 < (s.cx.rs c).toNat ∨ (s.cx.rs b).toNat = 0 ∨ 2 ^ 26 ≤ (s.cx.rs b).toNat) :
    s.symRelCheck a b c = .error ⟨.ill, 0, 0⟩ := by
  have hbad : (decide ((s.cx.rs c).toNat ≤ 1) && decide (1 ≤ (s.cx.rs b).toNat) && decide ((s.cx.rs b).toNat < 2 ^ 26)) = false := by
    simp only [Bool.and_eq_false_iff, decide_eq_false_iff_not]
    omega
  rw [State.symRelCheck, hbad, orTrap_false]

theorem symRelCheck_ids {s : State} {a b c : SReg} (hc : (s.cx.rs c).toNat ≤ 1) (hlow : 1 ≤ (s.cx.rs b).toNat)
    (hhigh : (s.cx.rs b).toNat < 2 ^ 26) : s.symRelCheck a b c =
      s.relTargets (s.jobOf s.myRegion) ((s.cx.rs a).setWidth 32) (s.cx.rs b).toNat (decide (s.cx.rs c = 1)) (s.leaveRel a b c) := by
  rw [State.symRelCheck, decide_eq_true hc, decide_eq_true hlow, decide_eq_true hhigh]
  rfl

/-- Counters have room for the references that a sym.rel adds, if it adds any (R81). -/
theorem references_fit {w : Word} {ids : List (BitVec 32)} {f : BitVec 32 → Nat} (h : w = 0 ∨ ∀ id ∈ ids, f id < 65535) :
    (!decide (w = 1) || ids.all (fun id => decide (f id < 65535))) = true := by
  obtain rfl | h := h
  · rfl
  · simpa using .inr h

end Sys2Proof.Machine

namespace Sys2Proof.Machine

/-- Settles O42: each command is its check, whose reasons are asked one after another. -/
theorem pantryCommands : Obligations.PantryCommands := by
  refine ⟨fun s d a b h hp => symNew_denied h hp, ?new, ?sig, ?qry, ?rel, rfl⟩
  case new =>
    intro s d a b t hs h hp hread hwrite htensor i job slab base v
    have hbundle : v.env.slipped = none := (congrArg Env.slipped ((storesOnly_tensorErrors s t).keeps State.env rfl)).trans h.1.1
    refine ⟨fun hst => ?_, fun hst hfull => ?_, fun hst hroom halign hlist hmap => ?_⟩
    · rw [symNew_answered h hp (symNewAnswer_broken hread hwrite htensor hst), deliverS_of_bundle hbundle]
    · rw [symNew_answered h hp (symNewAnswer_full hread hwrite htensor hst hfull), deliverS_of_bundle hbundle]
    · have hanswer := symNewAnswer_room (d := d) hread hwrite htensor hst hroom halign hlist hmap
      refine ⟨fun hcount => ?_, fun hcount hbudget => ?_, fun hcount hbudget hserial => ?_, fun hcount hbudget hserial => ?_⟩
      · exact symNew_limited h hp (by rw [hanswer, decide_eq_false (Nat.not_le.mpr hcount), orTrap_symx])
      · exact symNew_limited h hp (by rw [hanswer, decide_eq_true hcount, hbudget, orTrap_true, orTrap_symx])
      · exact symNew_limited h hp (by
          rw [hanswer, decide_eq_true hcount, hbudget, decide_eq_false (Nat.not_le.mpr hserial), orTrap_true, orTrap_true, orTrap_symx])
      · rw [decide_eq_true hcount, hbudget, decide_eq_true hserial, orTrap_true, orTrap_true, orTrap_true] at hanswer
        obtain ⟨r, heffects⟩ := tensorErrors_mint h.1.1 hs d t slab
        exact ⟨_, r, symNew_answered h hp hanswer, heffects⟩
  case sig =>
    intro s a b c h i w first n job
    refine ⟨fun hw => traps_of_check h (exec_symSig h) (symSigCheck_reserved hw), fun tc hlow hhigh htc => ?_⟩
    have hcheck : s.symSigCheck a b c = s.sigTargets job first n (w.extractLsb' 0 16) (w.extractLsb' 16 8) (s.leaveSig a b c) :=
      symSigCheck_ids hlow hhigh htc
    unfold State.sigTargets at hcheck
    refine ⟨fun hp => ?_, fun hp hchip => ?_, fun hp hchip halive => ?_, fun hp hchip halive het => ?_, fun hp hchip halive het => ?_⟩
    · exact traps_of_check h (exec_symSig h) (hcheck.trans (by rw [hp, orTrap_false]))
    · exact traps_of_check h (exec_symSig h) (hcheck.trans (by rw [hp, hchip, orTrap_true, orTrap_symx]))
    · exact traps_of_check h (exec_symSig h) (hcheck.trans (by
        rw [hp, hchip, all_eq_false_of halive, orTrap_true, orTrap_true, orTrap_symx]))
    · exact traps_of_check h (exec_symSig h) (hcheck.trans (by
        rw [hp, hchip, List.all_eq_true.mpr halive, any_eq_true_of het, orTrap_true, orTrap_true, orTrap_true, Bool.not_true, orTrap_symx]))
    · rw [acts_of_check h (exec_symSig h) (hcheck.trans (by
        rw [hp, hchip, List.all_eq_true.mpr halive, any_eq_false_of het, orTrap_true, orTrap_true, orTrap_true,
          Bool.not_false, orTrap_true])), State.leaveSig, rs_of_bundle h.1.1]
  case qry =>
    intro s d a b h
    refine ⟨fun hw => ?_, fun hw hp => ?_, fun hw hp => ?_⟩
    · exact traps_of_check h (exec_symQry h) (by rw [decide_eq_false (Nat.not_le.mpr hw), orTrap_false])
    · exact traps_of_check h (exec_symQry h) (by rw [decide_eq_true hw, hp, orTrap_true, orTrap_false])
    · rw [acts_of_check h (exec_symQry h) (by rw [decide_eq_true hw, hp, orTrap_true, orTrap_true]), deliverS_of_bundle h.1.1,
        rs_of_bundle h.1.1]
      rfl
  case rel =>
    intro s a b c h i first n job
    refine ⟨fun hw => traps_of_check h (exec_symRel h) (symRelCheck_bad hw), fun hc hlow hhigh => ?_⟩
    have hcheck : s.symRelCheck a b c = s.relTargets job first n (decide (s.cx.rs c = 1)) (s.leaveRel a b c) :=
      symRelCheck_ids hc hlow hhigh
    unfold State.relTargets at hcheck
    refine ⟨fun hp => ?_, fun hp hchip => ?_, fun hp hchip halive => ?_, fun hp hchip halive => ⟨fun hadd hfull => ?_, fun hfit => ?_⟩⟩
    · exact traps_of_check h (exec_symRel h) (hcheck.trans (by rw [hp, orTrap_false]))
    · exact traps_of_check h (exec_symRel h) (hcheck.trans (by rw [hp, hchip, orTrap_true, orTrap_symx]))
    · exact traps_of_check h (exec_symRel h) (hcheck.trans (by
        rw [hp, hchip, all_eq_false_of halive, orTrap_true, orTrap_true, orTrap_symx]))
    · have hover : (idRange first n).all (fun id => decide (s.refsComing job id < 65535)) = false :=
        all_eq_false_of (by simpa using hfull)
      exact traps_of_check h (exec_symRel h) (hcheck.trans (by
        rw [hp, hchip, List.all_eq_true.mpr halive, hover, decide_eq_true hadd, orTrap_true, orTrap_true, orTrap_true, Bool.not_true,
          Bool.false_or, orTrap_symx]))
    · exact acts_of_check h (exec_symRel h) (hcheck.trans (by
        rw [hp, hchip, List.all_eq_true.mpr halive, references_fit hfit, orTrap_true, orTrap_true, orTrap_true, orTrap_true]))

end Sys2Proof.Machine
end

section
/-!
O43: what a sym.sig, a sym.rel and a condensation do to the entries of the pantry, id by id (spec/03 R79, R80, R84).
-/
namespace Sys2Proof.Machine

/-! ## Entries changed one after another -/

/-- An entry after changes of entries of a job one after another, each of the one with its key. -/
def Sym.changed {α : Type} (job : Nat) (key : α → BitVec 32) (f : α → Sym → Sym) (l : List α) (e : Sym) : Sym :=
  l.foldl (fun e p => if e.job = job ∧ e.id = key p then f p e else e) e

/-- Changes of entries change each entry by itself, and nothing else. -/
theorem foldl_mapSym {α : Type} (job : Nat) (key : α → BitVec 32) (f : α → Sym → Sym) (l : List α) (s : State) :
    l.foldl (fun u p => u.mapSym job (key p) (f p)) s = { s with syms := s.syms.map (Sym.changed job key f l) } := by
  induction l generalizing s with
  | nil =>
    have hsame : s.syms.map (Sym.changed job key f []) = s.syms := List.map_id s.syms
    rw [hsame]
    rfl
  | cons p l ih =>
    rw [List.foldl_cons, ih]
    simp only [State.mapSym, List.map_map]
    rfl

section
variable {α : Type} {job : Nat} {key : α → BitVec 32} {f : α → Sym → Sym} {l : List α}

/-- An entry that none of the changes that meet it alters is as it was. -/
theorem changed_eq_self {e : Sym} (h : ∀ p ∈ l, e.job = job → e.id = key p → f p e = e) : Sym.changed job key f l e = e := by
  induction l with
  | nil => rfl
  | cons p l ih =>
    have hp : (if e.job = job ∧ e.id = key p then f p e else e) = e := by
      split
      · rename_i hmeets; exact h p List.mem_cons_self hmeets.1 hmeets.2
      · rfl
    rw [Sym.changed, List.foldl_cons, hp]
    exact ih (fun q hq => h q (List.mem_cons_of_mem _ hq))

/-- An entry of another job, or with an id that is not named, is as it was. -/
theorem changed_of_unnamed {e : Sym} (h : e.job ≠ job ∨ e.id ∉ l.map key) : Sym.changed job key f l e = e := by
  refine changed_eq_self (fun p hp hjob hid => ?_)
  obtain h | h := h
  · exact absurd hjob h
  · exact absurd (hid ▸ List.mem_map_of_mem hp) h

/-- An entry whose id is named once is changed once, where a change leaves its job and id. -/
theorem changed_of_named (hf : ∀ p e, (f p e).job = e.job ∧ (f p e).id = e.id) (hnodup : (l.map key).Nodup) {p : α} (hp : p ∈ l)
    {e : Sym} (hjob : e.job = job) (hid : e.id = key p) : Sym.changed job key f l e = f p e := by
  induction l with
  | nil => cases hp
  | cons q l ih =>
    obtain ⟨hq, hrest⟩ := List.nodup_cons.mp hnodup
    obtain rfl | hp := List.mem_cons.mp hp
    · rw [Sym.changed, List.foldl_cons, if_pos ⟨hjob, hid⟩]
      exact changed_of_unnamed (.inr (by rw [(hf p e).2, hid]; exact hq))
    · have hne : ¬ (e.job = job ∧ e.id = key q) := fun hm => hq (by rw [← hm.2, hid]; exact List.mem_map_of_mem hp)
      rw [Sym.changed, List.foldl_cons, if_neg hne]
      exact ih hrest hp
end

/-! ## Ranges of ids (R81) -/

theorem mem_idRange {first : BitVec 32} {n k : Nat} (h : k < n) : first + BitVec.ofNat 32 k ∈ idRange first n :=
  List.mem_map_of_mem (List.mem_range.mpr h)

/-- A range that does not go round names each id once. -/
theorem nodup_idRange (first : BitVec 32) {n : Nat} (h : n ≤ 2 ^ 32) : (idRange first n).Nodup := by
  refine List.Nodup.map_on (fun x hx y hy hxy => ?_) List.nodup_range
  rw [List.mem_range] at hx hy
  have hnat := congrArg BitVec.toNat ((BitVec.add_right_inj first).mp hxy)
  rwa [BitVec.toNat_ofNat, BitVec.toNat_ofNat, Nat.mod_eq_of_lt (hx.trans_le h), Nat.mod_eq_of_lt (hy.trans_le h)] at hnat

theorem length_elements (n e : Nat) (bs : List Byte) : (elements n e bs).length = n := by
  induction n generalizing bs with
  | zero => rfl
  | succ n ih => simp [elements, ih]

/-! ## Contributions (R79, R341) -/

theorem contribute_names (e : Sym) (g : BitVec 16) (et : Byte) (v : Num) :
    (e.contribute g et v).job = e.job ∧ (e.contribute g et v).id = e.id := by
  unfold Sym.contribute
  split <;> exact ⟨rfl, rfl⟩

/-- What the value p.1 of a sym.sig does to the entry with the id p.2. -/
def SigJob.apply (j : SigJob) (p : Nat × BitVec 32) (e : Sym) : Sym :=
  if e.st = .free then e else e.contribute j.group j.et (f32 (BitVec.ofNat 32 p.1))

theorem sigApply_names (j : SigJob) (p : Nat × BitVec 32) (e : Sym) : (j.apply p e).job = e.job ∧ (j.apply p e).id = e.id := by
  unfold SigJob.apply
  split
  · exact ⟨rfl, rfl⟩
  · exact contribute_names ..

/-- The values of a sym.sig with their ids. -/
def SigJob.values (j : SigJob) (bs : List Byte) : List (Nat × BitVec 32) := (elements j.n 4 bs).zip (idRange j.first j.n)

theorem values_ids (j : SigJob) (bs : List Byte) : (j.values bs).map Prod.snd = idRange j.first j.n :=
  List.map_snd_zip (by simp [idRange, length_elements])

theorem mem_values (j : SigJob) (bs : List Byte) {k : Nat} (h : k < j.n) :
    ((elements j.n 4 bs).getD k 0, j.first + BitVec.ofNat 32 k) ∈ j.values bs := by
  have hk : k < (elements j.n 4 bs).length := by rw [length_elements]; exact h
  refine List.mem_iff_getElem.mpr ⟨k, by simp [SigJob.values, length_elements, idRange, h], ?_⟩
  simp [SigJob.values, idRange, List.getElem?_eq_getElem hk]

/-- An entry that is not named, or is free, keeps its significances. -/
theorem changed_by_sig_unnamed {j : SigJob} {e : Sym} (bs : List Byte)
    (h : e.job ≠ j.job ∨ e.id ∉ idRange j.first j.n ∨ e.st = .free) :
    Sym.changed j.job Prod.snd j.apply (j.values bs) e = e := by
  obtain h | h | hfree := h
  · exact changed_of_unnamed (.inl h)
  · exact changed_of_unnamed (.inr (by rwa [values_ids]))
  · exact changed_eq_self (fun _ _ _ _ => if_pos hfree)

/-- The entry with the k-th id takes the k-th value. -/
theorem changed_by_sig_named {j : SigJob} {e : Sym} {k : Nat} (bs : List Byte) (hk : k < j.n) (hn : j.n ≤ 2 ^ 32)
    (hjob : e.job = j.job) (hid : e.id = j.first + BitVec.ofNat 32 k) (hlive : e.st ≠ .free) :
    Sym.changed j.job Prod.snd j.apply (j.values bs) e =
      e.contribute j.group j.et (f32 (BitVec.ofNat 32 ((elements j.n 4 bs).getD k 0))) := by
  rw [changed_of_named (sigApply_names j) (by rw [values_ids]; exact nodup_idRange _ hn) (mem_values j bs hk) hjob hid]
  exact if_neg hlive

theorem significanceContribution_applies {s : State} {j : SigJob} {ps : List Piece}
    (hj : s.sigs.find? (fun x => x.id == j.id) = some j)
    (hps : s.enginePieces j.toOwner 3 .read .pm (BitVec.ofNat 64 j.src) (4 * j.n) = some ps) :
    exec (.significanceContribution j.id) s = .next
      { s.readErrors (s.ownerAt j.toOwner (BitVec.ofNat 64 j.src)) ps with
        sigs := s.sigs.filter (fun x => x.id != j.id),
        syms := s.syms.map (Sym.changed j.job Prod.snd j.apply (j.values (s.piecesBytes ps))) } := by
  have hexec : exec (.significanceContribution j.id) s = execSignificanceContribution j.id s := rfl
  rw [hexec, execSignificanceContribution, hj]
  simp only [hps]
  exact congrArg Host.Outcome.next (foldl_mapSym j.job Prod.snd j.apply ..)

/-! ## References (R80, R343) -/

theorem release_names (e : Sym) : e.release.job = e.job ∧ e.release.id = e.id := by
  unfold Sym.release
  split <;> exact ⟨rfl, rfl⟩

/-- What a sym.rel does to an entry that it names. -/
def RelJob.apply (j : RelJob) (e : Sym) : Sym :=
  if e.st = .free then e else if j.add then { e with refs := e.refs + 1 } else e.release

theorem relApply_names (j : RelJob) (e : Sym) : (j.apply e).job = e.job ∧ (j.apply e).id = e.id := by
  unfold RelJob.apply
  split
  · exact ⟨rfl, rfl⟩
  · split
    · exact ⟨rfl, rfl⟩
    · exact release_names e

/-- A sym.rel names each id once, so that an entry of its range is changed once. -/
theorem changed_by_rel (j : RelJob) (hn : j.n ≤ 2 ^ 32) (e : Sym) :
    Sym.changed j.job id (fun _ => j.apply) (idRange j.first j.n) e =
      if e.job = j.job ∧ e.id ∈ idRange j.first j.n ∧ e.st ≠ .free then
        (if j.add then { e with refs := e.refs + 1 } else e.release) else e := by
  have hnodup : ((idRange j.first j.n).map id).Nodup := by rw [List.map_id]; exact nodup_idRange _ hn
  by_cases hnamed : e.job = j.job ∧ e.id ∈ idRange j.first j.n
  · rw [changed_of_named (fun _ => relApply_names j) hnodup hnamed.2 hnamed.1 rfl, RelJob.apply]
    by_cases hfree : e.st = .free <;> simp [hnamed, hfree]
  · rw [changed_of_unnamed (by rw [List.map_id]; exact not_and_or.mp hnamed), if_neg (fun h => hnamed ⟨h.1, h.2.1⟩)]

theorem referenceUpdate_applies {s : State} {j : RelJob} (hj : s.rels.find? (fun x => x.id == j.id) = some j) (hn : j.n ≤ 2 ^ 32) :
    exec (.referenceUpdate j.id) s = .next { s with
      rels := s.rels.filter (fun x => x.id != j.id),
      syms := s.syms.map (fun e =>
        if e.job = j.job ∧ e.id ∈ idRange j.first j.n ∧ e.st ≠ .free then
          (if j.add then { e with refs := e.refs + 1 } else e.release) else e) } := by
  have hexec : exec (.referenceUpdate j.id) s = execReferenceUpdate j.id s := rfl
  rw [hexec, execReferenceUpdate, hj, ← funext (changed_by_rel j hn)]
  exact congrArg Host.Outcome.next (foldl_mapSym j.job id (fun _ => j.apply) ..)

end Sys2Proof.Machine
end

section
/-!
O43, continued: cond and cond.qry (spec/12 R344, R347).
-/
namespace Sys2Proof.Machine

/-! ## cond (R134, R344) -/

/-- The attic of the context's cluster has room, and the ring operand is satisfied. -/
def State.atticReady (s : State) (h : HReg) (re : Bool) : Bool :=
  decide (s.atticUse s.myCore.cluster < 16) && (!re || s.ringReady h true 1)

theorem atticReady_iff (s : State) (h : HReg) (re : Bool) :
    s.atticReady h re = true ↔ s.atticUse s.myCore.cluster < 16 ∧ (re = true → s.ringReady h true 1 = true) := by
  cases re <;> simp [State.atticReady]

section
variable {s : State} {d a b c e : SReg} {h : HReg} {re : Bool} {tc : List Touch}
variable (hi : s.issuesInOrder (.cond d a b c e h re) [.s a, .s b, .s c, .s e])
variable (hc : s.checkCond a e h re = .ok tc) (haway : tc.any (·.away) = false)
include hi hc

/-- A cond that passes its checks waits for its attic, and has its addresses translated. -/
theorem exec_cond : exec (.cond d a b c e h re) s = .next
    (((s.implicitWait ⟨.cond d a b c e h re, [.s a, .s b, .s c, .s e], [], [(.s d, 6)], false, 0⟩ tc (s.atticReady h re)
      (fun u => u.acceptCond d a b c (if e = 0 then none else some (keyOf tc)) h re)).noteIssue s .glob (s.cx.rs a) 64).noteIssue
        s .glob (s.cx.rs e) (if e = 0 then 0 else 16)) := by
  have hexec : exec (.cond d a b c e h re) s = execCond d a b c e h re s := rfl
  rw [hexec, execCond, hc, operate_ok (by rw [List.append_nil]; exact hi.1) hi.2, rs_of_bundle hi.1.1, rs_of_bundle hi.1.1]
  rfl
end

/-- The owner of what a context forks is that context. -/
theorem owner_cid (s : State) : s.owner.cid = s.env.cid := by
  unfold State.owner
  split <;> rfl

/-- The cond that the attic accepts (R344). -/
def State.condAsked (s : State) (a b c : SReg) (event : Option Nat) (h : HReg) (re : Bool) : Cond :=
  let ring : Option (BitVec 6) := if re then (s.ringNamed h).map (·.1) else none
  { s.owner with
    id := s.nextId, num := s.cx.condNum, cluster := s.myCore.cluster, atd := s.rs a,
    m := ((s.rs b).setWidth 32 : BitVec 32).toNat, vec := if c = 0 then none else some (s.rs c),
    event := event, ring := ring, st := .run, mc := 0, stopped := false, revoked := none, work := none,
    published := ring.isNone, done := [] }

/-- A cond joins those of the attics and has a number of its context. -/
def State.withCond (s : State) (k : Cond) : State :=
  ({ s with nextId := s.nextId + 1, conds := s.conds ++ [k] } : State).mapCx (fun x => { x with condNum := x.condNum + 1 })

theorem withCond_cx (s : State) (k : Cond) : (s.withCond k).cx = { s.cx with condNum := s.cx.condNum + 1 } := cx_mapCx ..

/-- One slot of a ring of the context's core is reserved, if there is a ring (R134). -/
def State.reserveSlot (s : State) (ring : Option (BitVec 6)) : State :=
  match ring with
  | some r => s.mapRing s.myCore r (fun y => y.reserve 1)
  | none => s

theorem acceptCond_eq (s : State) (d a b c : SReg) (event : Option Nat) (h : HReg) (re : Bool) :
    let k := s.condAsked a b c event h re
    s.acceptCond d a b c event h re = ((s.withCond k).reserveSlot k.ring).deliverS 6 d (s.cx.condNum.setWidth 64) := rfl

/-- A reservation changes the ring tables alone. -/
theorem reserveSlot_eq (s : State) (ring : Option (BitVec 6)) :
    s.reserveSlot ring = { s with cores := (s.reserveSlot ring).cores } := by
  cases ring <;> rfl

theorem ringAt_mapRing (s : State) (c : CoreId) (n : BitVec 6) (f : Ring → Ring) :
    (s.mapRing c n f).ringAt c n = f (s.ringAt c n) := by
  simp [State.ringAt, State.mapRing, core_mapCore]

theorem ringAt_gainsWord (s : State) (lat : Nat) (d : SReg) (x : Word) (c : CoreId) (n : BitVec 6) :
    (s.gainsWord lat d x).ringAt c n = s.ringAt c n := rfl

theorem ringOf_eq_some {s : State} {h : HReg} {n : BitVec 6} {y : Ring} (hy : s.ringOf h = some (n, y)) : y = s.ringAt s.myCore n := by
  unfold State.ringOf at hy
  split at hy
  · cases hy
  · split at hy
    · cases hy; rfl
    · cases hy

theorem ringNamed_of_bundle {s : State} (hbundle : s.env.slipped = none) (h : HReg) : s.ringNamed h = s.ringOf h := by
  simp [State.ringNamed, hbundle]

theorem acceptCond_effects {s : State} (hbundle : s.env.slipped = none) (d a b c : SReg) (event : Option Nat) (h : HReg) (re : Bool) :
    let u := s.acceptCond d a b c event h re
    ∃ (k : Cond) (r : Result), u.mem = s.mem ∧ u.conds = s.conds ++ [k] ∧ k.cid = s.env.cid ∧ k.num = s.cx.condNum ∧
      k.cluster = s.myCore.cluster ∧ k.atd = s.cx.rs a ∧ k.m = (s.cx.rs b).toNat % 2 ^ 32 ∧
      k.vec = (if c = 0 then none else some (s.cx.rs c)) ∧ k.event = event ∧
      k.ring = (if re = true then (s.ringOf h).map (·.1) else none) ∧ k.st = .run ∧ k.work = none ∧
      (re = false → u.cores = s.cores) ∧
      (∀ n y, re = true → s.ringOf h = some (n, y) → u.ringAt s.myCore n = y.reserve 1) ∧
      u.cx = { s.cx with condNum := s.cx.condNum + 1, results := s.cx.results ++ [r], nextRid := s.cx.nextRid + 1 } ∧
      r.dest = .s d ∧ r.due = s.env.ctm + 6 ∧ toWord r.val = s.cx.condNum.setWidth 64 := by
  intro u
  let k := s.condAsked a b c event h re
  let w := (s.withCond k).reserveSlot k.ring
  have hring : k.ring = if re = true then (s.ringOf h).map (·.1) else none := by
    rw [← ringNamed_of_bundle hbundle]
    rfl
  have hcores : w = { s.withCond k with cores := w.cores } := reserveSlot_eq ..
  have henv : w.env = s.env := (congrArg State.env hcores).trans rfl
  have hcx : w.cx = { s.cx with condNum := s.cx.condNum + 1 } :=
    ((congrArg State.cx hcores).trans rfl).trans (withCond_cx s k)
  have hu : u = w.gainsWord 6 d (s.cx.condNum.setWidth 64) := deliverS_of_bundle ((congrArg Env.slipped henv).trans hbundle) ..
  refine ⟨k, Result.issue { Result.base with dest := .s d, val := ofWord (s.cx.condNum.setWidth 64) } w.env 6 w.cx.nextRid,
    ?_, ?_, owner_cid s, rfl, rfl, rs_of_bundle hbundle a, ?_, ?_, rfl, hring, rfl, rfl, fun hre => ?_, fun n y hre hn => ?_, ?_,
    rfl, by rw [henv]; rfl, toWord_ofWord _⟩
  · rw [hu]; exact (congrArg State.mem hcores).trans rfl
  · rw [hu]; exact (congrArg State.conds hcores).trans rfl
  · show ((s.rs b).setWidth 32 : BitVec 32).toNat = _
    rw [rs_of_bundle hbundle, BitVec.toNat_setWidth]
  · show (if c = 0 then none else some (s.rs c)) = _
    rw [rs_of_bundle hbundle]
  · have hnone : k.ring = none := by rw [hring, if_neg (by simp [hre])]
    have hw : w = s.withCond k := by simp only [w, hnone, State.reserveSlot]
    rw [hu, hw]
    rfl
  · have hsome : k.ring = some n := by rw [hring, if_pos hre, hn]; rfl
    have hw : w = (s.withCond k).mapRing s.myCore n (fun y => y.reserve 1) := by simp only [w, hsome, State.reserveSlot]; rfl
    rw [hu, hw, ringOf_eq_some hn]
    exact (ringAt_gainsWord ..).trans (ringAt_mapRing (s.withCond k) s.myCore n (fun y => y.reserve 1))
  · rw [hu]
    refine (cx_mapCx ..).trans ?_
    rw [hcx]

end Sys2Proof.Machine
end

section
/-!
O43, continued: whether a cond is accepted, and cond.qry (spec/12 R344, R347).
-/
namespace Sys2Proof.Machine

section
variable {s : State} {d a b c e : SReg} {h : HReg} {re : Bool} {tc : List Touch}
variable (hi : s.issuesInOrder (.cond d a b c e h re) [.s a, .s b, .s c, .s e])
variable (hc : s.checkCond a e h re = .ok tc) (haway : tc.any (·.away) = false)
include hi hc

include haway in
theorem exec_cond_ready (hready : s.atticReady h re = true) : exec (.cond d a b c e h re) s = .next
    (((s.acceptCond d a b c (if e = 0 then none else some (keyOf tc)) h re).noteIssue s .glob (s.cx.rs a) 64).noteIssue
      s .glob (s.cx.rs e) (if e = 0 then 0 else 16)) := by
  rw [exec_cond hi hc, implicitWait_ready _ _ hi.1.1 hready haway]

theorem exec_cond_waits (hbusy : s.atticReady h re = false) (hlimit : s.mayWait s.cx.ctl.dlw) :
    ∃ u : State, exec (.cond d a b c e h re) s = .next
        ((u.noteIssue s .glob (s.cx.rs a) 64).noteIssue s .glob (s.cx.rs e) (if e = 0 then 0 else 16)) ∧
      s.waitsUnder u (.cond d a b c e h re) s.cx.ctl.dlw := by
  have hin := hi.1
  obtain ⟨hbundle, -, hslip, -⟩ := hin
  refine ⟨_, ?_, waitsUnder_slipIn
    ⟨.cond d a b c e h re, [.s a, .s b, .s c, .s e], [], [(.s d, 6)], false, 0⟩ tc s.cx.ctl.dlw none hslip⟩
  rw [exec_cond hi hc, implicitWait_waits _ _ hbundle hlimit (by rw [hbusy]; rfl)]
end

section
variable {s : State} {d a : SReg} (hi : s.issuesInOrder (.condQry d a) [.s a])
include hi

/-- cond.qry answers from the cond that its window still holds. -/
theorem exec_condQry : exec (.condQry d a) s = .next
    (match s.recentCond ((s.cx.rs a).setWidth 16) with
     | some k => s.gainsWord 6 d (((if k.st = .ok then k.mc else 0#32) ++ 0#5 ++ k.st.code : BitVec 40).setWidth 64)
     | none => ({ s with free := s.free + 1 } : State).gainsWord 6 d (Config.freeWord s.free)) := by
  have hexec : exec (.condQry d a) s = execCondQry d a s := rfl
  rw [hexec, execCondQry, compute_issues (g := [.s a]) (d := []) hi.1 hi.2, rs_of_bundle hi.1.1]
  congr 1
  cases s.recentCond ((s.cx.rs a).setWidth 16) with
  | some k => exact deliverS_of_bundle hi.1.1 ..
  | none => exact deliverS_of_bundle (s := { s with free := s.free + 1 }) hi.1.1 ..
end

end Sys2Proof.Machine
end

section
/-!
O43, continued: condensations (spec/12 R345, R346).
-/
namespace Sys2Proof.Machine

/-! ## What the report of a cond holds -/

/-- What of a cond its publication, its event and its writes leave: its name, its state, its count and its work. -/
def Cond.report (x : Cond) : Nat × CondSt × BitVec 32 × Option (List (BitVec 32) × List CondWrite) := (x.id, x.st, x.mc, x.work)

/-- The reports of the conds, and the entries of the pantry. -/
def State.reports (s : State) : List (Nat × CondSt × BitVec 32 × Option (List (BitVec 32) × List CondWrite)) × List Sym :=
  (s.conds.map Cond.report, s.syms)

theorem reports_mapRingOf (s : State) (o : Owner) (e : BitVec 6) (f : Ring → Ring) : (s.mapRingOf o e f).reports = s.reports := by
  unfold State.mapRingOf
  split <;> rfl

theorem reports_markPublished (s : State) (id : Nat) : (s.markPublished id).reports = s.reports := by
  refine Prod.ext ?_ rfl
  simp only [State.markPublished, State.reports, List.map_map]
  refine List.map_congr_left (fun x _ => ?_)
  simp only [Function.comp_apply]
  split <;> rfl

theorem reports_publishFrom (s : State) (o : Owner) (e : BitVec 6) (n : Nat) : (s.publishFrom o e n).reports = s.reports := by
  induction n generalizing s with
  | zero => rfl
  | succ n ih =>
    unfold State.publishFrom
    split
    · rw [ih, reports_markPublished, reports_mapRingOf]
    · rfl

theorem reports_publish (s : State) (o : Owner) (ring : Option (BitVec 6)) : (s.publish o ring).reports = s.reports := by
  cases ring with
  | none => rfl
  | some e => exact reports_publishFrom ..

theorem reports_holdsDue (s : State) (p : BitVec 4) : (s.holdsDue p).reports = s.reports := by
  unfold State.holdsDue
  split <;> rfl

theorem reports_wakeOn (s : State) (ps : List Piece) : (s.wakeOn ps).reports = s.reports := rfl

theorem reports_eventPut (s : State) (r : Reader) (key : Nat) (st : BitVec 3) : (s.eventPut r key st).reports = s.reports := by
  have hread (ps : List Piece) : (s.readErrors r ps).reports = s.reports := (storesOnly_readErrors s r ps).keeps State.reports rfl
  have hput (u : State) (bs : List Byte) : (u.putBytes key bs).reports = u.reports := rfl
  unfold State.eventPut
  dsimp only
  split
  · exact hread _
  · rw [reports_holdsDue, State.wake, reports_wakeOn, hput, hread]

/-! ## The completion of a cond (R346) -/

/-- The report of a cond that completes. -/
def State.reportCond (s : State) (k : Cond) (st : CondSt) (mc : Nat) : State :=
  { s with conds := s.conds.map (fun x =>
      if x.id = k.id then { x with st := st, mc := BitVec.ofNat 32 mc, stopped := false, revoked := none, work := none } else x) }

/-- The ring slot of a cond that completes: published, or given back. -/
def State.publishCond (s : State) (k : Cond) (st : CondSt) : State :=
  match k.ring with
  | some e =>
    if st = .ok then s.publish k.toOwner k.ring
    else ((s.mapRingOf k.toOwner e (fun r => r.giveBack 1)).markPublished k.id).publish k.toOwner k.ring
  | none => s

theorem finishCond_signals {k : Cond} {key : Nat} (hevent : k.event = some key) (s : State) (st : CondSt) (mc : Nat) :
    let u := (s.reportCond k st mc).publishCond k st
    s.finishCond k st mc = u.eventPut (u.ownerAt k.toOwner k.atd) key (if st = .ok then 0 else if st = .cancelled then 5 else 4) := by
  rw [State.finishCond, hevent]
  rfl

theorem finishCond_unsignalled {k : Cond} (hevent : k.event = none) (s : State) (st : CondSt) (mc : Nat) :
    s.finishCond k st mc = (s.reportCond k st mc).publishCond k st := by
  rw [State.finishCond, hevent]
  rfl

theorem publishCond_ringless (s : State) {k : Cond} (st : CondSt) (hring : k.ring = none) : s.publishCond k st = s := by
  rw [State.publishCond, hring]

theorem reports_reportCond (s : State) (k : Cond) (st : CondSt) (mc : Nat) : (s.reportCond k st mc).reports =
    (s.conds.map (fun x => if x.id = k.id then (x.id, st, BitVec.ofNat 32 mc, none) else x.report), s.syms) := by
  refine Prod.ext ?_ rfl
  simp only [State.reportCond, State.reports, List.map_map]
  refine List.map_congr_left (fun x _ => ?_)
  simp only [Function.comp_apply]
  split <;> rfl

theorem reports_publishCond (s : State) (k : Cond) (st : CondSt) : (s.publishCond k st).reports = s.reports := by
  unfold State.publishCond
  split
  · split
    · exact reports_publish ..
    · rw [reports_publish, reports_markPublished, reports_mapRingOf]
  · rfl

/-- The completion of a cond writes its report, and leaves those of the others and the entries of the pantry. -/
theorem reports_finishCond (s : State) (k : Cond) (st : CondSt) (mc : Nat) : (s.finishCond k st mc).reports =
    (s.conds.map (fun x => if x.id = k.id then (x.id, st, BitVec.ofNat 32 mc, none) else x.report), s.syms) := by
  rw [← reports_reportCond]
  cases hevent : k.event with
  | none => rw [finishCond_unsignalled hevent, reports_publishCond]
  | some key => rw [finishCond_signals hevent, reports_eventPut, reports_publishCond]

/-- With neither ring nor event, that is all that it does. -/
theorem finishCond_eq (s : State) {k : Cond} (st : CondSt) (mc : Nat) (hevent : k.event = none) (hring : k.ring = none) :
    s.finishCond k st mc = { s with conds := s.conds.map (fun x =>
      if x.id = k.id then { x with st := st, mc := BitVec.ofNat 32 mc, stopped := false, revoked := none, work := none } else x) } := by
  rw [finishCond_unsignalled hevent, publishCond_ringless _ _ hring]
  rfl

/-! ## The step that reads -/

/-- The contexts, the entries of the pantry and the conds. -/
def State.pantryView (s : State) : Vector Ctx 2048 × List Sym × List Cond := (s.ctxs, s.syms, s.conds)

theorem pantryView_noteTlb (s : State) (core : CoreId) (r : Reader) : (s.noteTlb core r).pantryView = s.pantryView := by
  unfold State.noteTlb
  split
  · rfl
  · dsimp only
    split <;> rfl

theorem pantryView_noteReach (s : State) (o : Owner) (l : List Reach) : (s.noteReach o l).pantryView = s.pantryView :=
  foldl_keeps State.pantryView (fun t _ => foldl_keeps State.pantryView (fun _ _ => pantryView_noteTlb ..) _ t) l s

theorem condPlan_broken {s : State} {k : Cond} {r : CondRead} (hr : s.condReads k = some r)
    (hst : s.tensorStatus (s.jobOf k.region) r.t ≠ .ok) :
    s.condPlan k = some (.error (s.tensorStatus (s.jobOf k.region) r.t).condSt) := by
  rw [State.condPlan, hr]
  dsimp only
  split
  · contradiction
  · rfl

theorem condPlan_ok {s : State} {k : Cond} {r : CondRead} {l : List CondWrite} (hr : s.condReads k = some r)
    (hst : s.tensorStatus (s.jobOf k.region) r.t = .ok)
    (hl : s.reachWrites k (if k.m = 0 then [] else condWrites r (s.condSelect k r)) = some l) :
    s.condPlan k = some (.ok ((s.condSelect k r).map (·.sym), l)) := by
  rw [State.condPlan, hr]
  simp only [hst, hl, Option.map_some]

section
variable {s : State} {k : Cond} (hk : s.conds.find? (fun x => x.id == k.id) = some k)
include hk

theorem condensation_behind (hbehind : s.condBehind k = true) : exec (.condensation k.id) s = .next s := by
  have hexec : exec (.condensation k.id) s = execCondensation k.id s := rfl
  rw [hexec, execCondensation, hk]
  simp [hbehind]

variable (hrun : k.st = .run) (hbehind : s.condBehind k = false) (hrevoked : k.revoked = none)
include hrun hbehind hrevoked

theorem condensation_begins (hwork : k.work = none) (hstopped : k.stopped = false) (hout : s.isOut k.toOwner = false) :
    exec (.condensation k.id) s = .next (s.condBegin k) := by
  have hexec : exec (.condensation k.id) s = execCondensation k.id s := rfl
  rw [hexec, execCondensation, hk]
  simp [hbehind, hrun, hrevoked, hwork, hstopped, hout]

theorem condensation_ends {w : List (BitVec 32) × List CondWrite} (hwork : k.work = some w) :
    exec (.condensation k.id) s = .next (s.condEnd k w) := by
  have hexec : exec (.condensation k.id) s = execCondensation k.id s := rfl
  rw [hexec, execCondensation, hk]
  simp [hbehind, hrun, hrevoked, hwork]
end

theorem condBegin_denied {s : State} {k : Cond} (h : s.atticAdmitted k = false) : s.condBegin k = s.finishCond k .fault 0 := by
  simp [State.condBegin, h]

/-- The state in which a cond has read what it reads, with the translations of its ranges in the caches (R148, R436). -/
def State.condRead (s : State) (k : Cond) : State :=
  (s.readErrors (s.ownerAt k.toOwner k.atd) (s.condPieces k)).noteReach k.toOwner (s.condReach k)

theorem pantryView_condRead (s : State) (k : Cond) : (s.condRead k).pantryView = s.pantryView :=
  (pantryView_noteReach ..).trans rfl

theorem condBegin_broken {s : State} {k : Cond} {st : CondSt} (h : s.atticAdmitted k = true)
    (hp : s.condPlan k = some (.error st)) : s.condBegin k = (s.condRead k).finishCond k st 0 := by
  simp [State.condBegin, h, hp, State.condRead]

theorem condBegin_chooses {s : State} {k : Cond} {w : List (BitVec 32) × List CondWrite} (h : s.atticAdmitted k = true)
    (hp : s.condPlan k = some (.ok w)) :
    s.condBegin k = { s.condRead k with
      conds := (s.condRead k).conds.map (fun x => if x.id = k.id then { x with work := some w } else x) } := by
  simp [State.condBegin, h, hp, State.condRead]

/-! ## The step that writes -/

theorem setDcf_leaves (s : State) (c : CtxId) (serial : Nat) (va : Word) :
    ((s.setDcf c serial va).conds, (s.setDcf c serial va).syms) = (s.conds, s.syms) := by
  unfold State.setDcf State.mapTask
  dsimp only
  split <;> rfl

theorem sampleGranule_leaves (s : State) (w : PhaseWrite) :
    ((s.sampleGranule w).conds, (s.sampleGranule w).syms) = (s.conds, s.syms) := by
  unfold State.sampleGranule
  dsimp only
  split
  · split <;> rfl
  · rw [foldl_keeps (fun u : State => (u.conds, u.syms)) (fun t o => setDcf_leaves ..)]
    split <;> rfl

theorem sampleCells_leaves (s : State) (phase : Option Nat) (l : List (Word × Touch)) (gs : List Nat) :
    ((s.sampleCells phase l gs).conds, (s.sampleCells phase l gs).syms) = (s.conds, s.syms) := by
  unfold State.sampleCells
  split
  · rfl
  · exact foldl_keeps (fun u : State => (u.conds, u.syms)) (fun t g => sampleGranule_leaves ..) _ s

/-- What a cond writes changes neither a cond nor an entry of the pantry. -/
theorem writeCond_leaves (s : State) (k : Cond) (ws : List CondWrite) (l : List (Nat × Carried)) :
    ((s.writeCond k ws l).conds, (s.writeCond k ws l).syms) = (s.conds, s.syms) :=
  (sampleCells_leaves ..).trans rfl

/-- With no phase, nothing is sampled: the bytes are written, and waits are due to be tested (R177). -/
theorem writeCond_unphased (s : State) {k : Cond} (hphase : k.phase = none) (ws : List CondWrite) (l : List (Nat × Carried)) :
    s.writeCond k ws l = (s.putCells l).wakeOn (ws.flatMap CondWrite.pieces) := by
  simp [State.writeCond, State.sampleCells, State.sampler, hphase]

/-- The pantry after the release of symbols of a cond one after another (R84). -/
def State.releaseAll (s : State) (job : Nat) (ids : List (BitVec 32)) : State :=
  { s with syms := s.syms.map (Sym.changed job id (fun _ => Sym.release) ids) }

theorem condEnd_eq (s : State) (k : Cond) (w : List (BitVec 32) × List CondWrite) :
    s.condEnd k w = ((s.writeCond k w.2 ((condCells w.2).filter (fun c => !k.done.contains (c.1 / 8)))).releaseAll
      (s.jobOf k.region) w.1).finishCond k .ok w.1.length :=
  congrArg (State.finishCond · k .ok w.1.length) (foldl_mapSym (s.jobOf k.region) id (fun _ => Sym.release) w.1 _)

/-- What the reports and the entries of the pantry are when a condensation ends (R84, R346). -/
theorem reports_condEnd (s : State) (k : Cond) (w : List (BitVec 32) × List CondWrite) : (s.condEnd k w).reports =
    (s.conds.map (fun x => if x.id = k.id then (x.id, .ok, BitVec.ofNat 32 w.1.length, none) else x.report),
      s.syms.map (Sym.changed (s.jobOf k.region) id (fun _ => Sym.release) w.1)) := by
  obtain ⟨hconds, hsyms⟩ :=
    Prod.mk.inj (writeCond_leaves s k w.2 ((condCells w.2).filter (fun c => !k.done.contains (c.1 / 8))))
  rw [condEnd_eq, reports_finishCond, ← hconds, ← hsyms]
  rfl

theorem syms_condEnd (s : State) (k : Cond) (w : List (BitVec 32) × List CondWrite) :
    (s.condEnd k w).syms = s.syms.map (Sym.changed (s.jobOf k.region) id (fun _ => Sym.release) w.1) :=
  congrArg Prod.snd (reports_condEnd s k w)

/-- A cond that completes is in the list with its report. -/
theorem condEnd_reports {s : State} {k : Cond} (hk : k ∈ s.conds) (w : List (BitVec 32) × List CondWrite) :
    ∃ x ∈ (s.condEnd k w).conds, x.id = k.id ∧ x.st = .ok ∧ x.mc = BitVec.ofNat 32 w.1.length ∧ x.work = none := by
  have hreport : (k.id, CondSt.ok, BitVec.ofNat 32 w.1.length, none) ∈ (s.condEnd k w).conds.map Cond.report := by
    rw [show (s.condEnd k w).conds.map Cond.report = _ from congrArg Prod.fst (reports_condEnd s k w)]
    exact List.mem_map.mpr ⟨k, hk, if_pos rfl⟩
  obtain ⟨x, hx, hfields⟩ := List.mem_map.mp hreport
  obtain ⟨hid, hst, hmc, hwork⟩ : x.id = _ ∧ x.st = _ ∧ x.mc = _ ∧ x.work = _ := by simpa [Cond.report] using hfields
  exact ⟨x, hx, hid, hst, hmc, hwork⟩

/-- A cond with neither event, ring nor phase writes its bytes and its report, and gives back its symbols. -/
theorem condEnd_quiet (s : State) {k : Cond} (w : List (BitVec 32) × List CondWrite) (hevent : k.event = none)
    (hring : k.ring = none) (hphase : k.phase = none) :
    (s.condEnd k w).mem = (s.putCells ((condCells w.2).filter (fun c => !k.done.contains (c.1 / 8)))).mem ∧
      (s.condEnd k w).ctxs = s.ctxs ∧
      (s.condEnd k w).conds = s.conds.map (fun x => if x.id = k.id then
        { x with st := .ok, mc := BitVec.ofNat 32 w.1.length, stopped := false, revoked := none, work := none } else x) := by
  rw [condEnd_eq, finishCond_eq _ _ _ hevent hring, writeCond_unphased s hphase]
  exact ⟨rfl, rfl, rfl⟩

end Sys2Proof.Machine
end

section
/-!
O43: the settlement.
-/
namespace Sys2Proof.Machine

/-- Settles O43: each clause from what its step does to the entries of the pantry and to the conds. -/
theorem pantryEventsAndCondensation : Obligations.PantryEventsAndCondensation := by
  refine ⟨fun s j ps hj hps => ?_, fun s j hj hn => referenceUpdate_applies hj hn, fun s d a b c e h re tc => ?_,
    fun s d a hi => ⟨fun k hk => ?_, fun hk => ⟨Config.freeWord s.free, ?_⟩⟩, fun s k hk hrun => ?_,
    fun s k st mc hevent hring => finishCond_eq s st mc hevent hring⟩
  · refine ⟨_, significanceContribution_applies hj hps, rfl, rfl, rfl, List.length_map .., fun e he h => ?_,
      fun n hlt hle e he hjob hid hlive => ?_⟩
    · exact List.mem_map.mpr ⟨e, he, changed_by_sig_unnamed _ h⟩
    · exact List.mem_map.mpr ⟨e, he, changed_by_sig_named _ hlt hle hjob hid hlive⟩
  · intro i ready hi noted hc haway
    refine ⟨fun hready => ?_, fun hbusy hlimit => ?_⟩
    · obtain ⟨k, r, hfields⟩ := acceptCond_effects hi.1.1 d a b c (if e = 0 then none else some (keyOf tc)) h re
      exact ⟨_, k, r, exec_cond_ready hi hc haway ((atticReady_iff ..).mpr hready), hfields⟩
    · exact exec_cond_waits hi hc (by simpa using mt (atticReady_iff s h re).mp hbusy) hlimit
  · rw [exec_condQry hi, hk]
  · rw [exec_condQry hi, hk]
  · intro job read
    refine ⟨fun hbehind => ?_, fun hbehind hrevoked hwork hstopped hout hdenied => ?_,
      fun r hbehind hrevoked hwork hstopped hout hadm hr => ⟨fun hst => ?_, fun hst l hl => ?_⟩,
      fun w hbehind hrevoked hwork => ?_⟩
    · exact condensation_behind hk hbehind
    · rw [condensation_begins hk hrun hbehind hrevoked hwork hstopped hout, condBegin_denied hdenied]
    · rw [condensation_begins hk hrun hbehind hrevoked hwork hstopped hout, condBegin_broken hadm (condPlan_broken hr hst)]
      rfl
    · refine ⟨_, condensation_begins hk hrun hbehind hrevoked hwork hstopped hout, ?_⟩
      obtain ⟨hctxs, hsyms, hconds⟩ : _ ∧ _ ∧ _ := by simpa [State.pantryView] using pantryView_condRead s k
      rw [condBegin_chooses hadm (condPlan_ok hr hst hl)]
      exact ⟨rfl, hctxs, hsyms, by rw [hconds]⟩
    · have hmem := List.mem_of_find?_eq_some hk
      refine ⟨_, condensation_ends hk hrun hbehind hrevoked hwork, fun e he h => ?_, fun hnodup e he hjob hid => ?_,
        condEnd_reports hmem w, condEnd_quiet s w⟩
      all_goals rw [syms_condEnd]; refine List.mem_map.mpr ⟨e, he, ?_⟩
      · exact changed_of_unnamed (by rwa [List.map_id])
      · exact changed_of_named (fun _ => release_names) (by rwa [List.map_id]) hid hjob rfl

end Sys2Proof.Machine
end

section
/-!
O8: what is written reads back (spec/05 R123, R150).
-/
namespace Sys2Proof.Machine

/-! ## Canonical memories that read alike (R123) -/

/-- The first cell of a canonical memory does not read blank. -/
theorem memRead_head {lo k : Nat} {b : Byte} {l : List Host.Cell} (w : cellsFrom lo ((k, b) :: l) = true) :
    memRead ((k, b) :: l) k ≠ blankByte := by
  simp only [cellsFrom, Bool.and_eq_true, decide_eq_true_eq] at w
  simpa [memRead] using w.1.2

/-- Behind its first cell, a canonical memory reads as it does without it, and its first address reads blank. -/
theorem memRead_tail {lo k : Nat} {b : Byte} {l : List Host.Cell} (w : cellsFrom lo ((k, b) :: l) = true) (a : Nat) :
    memRead l a = if a = k then blankByte else memRead ((k, b) :: l) a := by
  simp only [cellsFrom, Bool.and_eq_true, decide_eq_true_eq] at w
  split
  · exact memRead_below w.2 (by omega)
  · simp only [memRead, if_neg (show k ≠ a by omega)]

/-- Canonical memories that read alike list their first cell at the same address: the lower of two would read blank in the
other. -/
theorem le_of_reads_alike {lo lo' k j : Nat} {b c : Byte} {l m : List Host.Cell} (wl : cellsFrom lo ((k, b) :: l) = true)
    (wm : cellsFrom lo' ((j, c) :: m) = true) (h : ∀ a, memRead ((k, b) :: l) a = memRead ((j, c) :: m) a) : j ≤ k := by
  by_contra hlt
  have hm : cellsFrom j ((j, c) :: m) = true := by
    simp only [cellsFrom, Bool.and_eq_true, decide_eq_true_eq] at wm ⊢
    exact ⟨⟨Nat.le_refl j, wm.1.2⟩, wm.2⟩
  exact memRead_head wl ((h k).trans (memRead_below hm (by omega)))

/-- Canonical memories that read alike are equal. -/
theorem eq_of_reads_alike {lo lo' : Nat} {l m : List Host.Cell} (wl : cellsFrom lo l = true) (wm : cellsFrom lo' m = true)
    (h : ∀ a, memRead l a = memRead m a) : l = m := by
  induction l generalizing lo lo' m with
  | nil =>
    cases m with
    | nil => rfl
    | cons y m => exact absurd (h y.1).symm (memRead_head wm)
  | cons x l ih =>
    cases m with
    | nil => exact absurd (h x.1) (memRead_head wl)
    | cons y m =>
      obtain ⟨k, b⟩ := x
      obtain ⟨j, c⟩ := y
      obtain rfl : k = j := Nat.le_antisymm (le_of_reads_alike wm wl (fun a => (h a).symm)) (le_of_reads_alike wl wm h)
      obtain rfl : b = c := by simpa [memRead] using h k
      have htails (a : Nat) : memRead l a = memRead m a := by rw [memRead_tail wl, memRead_tail wm, h a]
      simp only [cellsFrom, Bool.and_eq_true] at wl wm
      rw [ih wl.2 wm.2 htails]

/-- Settles O8: a write is read back where it stands and nowhere else, and the canonical form is the only one of what is read.
-/
theorem memoryReadsBack : Obligations.MemoryReadsBack := by
  unfold Obligations.MemoryReadsBack
  refine ⟨fun m a b w => ⟨wf_memWrite w a b, fun k => memRead_memWrite w a k b⟩, fun s key bs hs => ?_,
    fun m n wm wn h => eq_of_reads_alike wm wn h⟩
  exact ⟨sound_putBytes hs key bs, bytesAt_putBytes hs key bs, sameOutside_putBytes hs key bs⟩

end Sys2Proof.Machine
end

section
/-!
O10: the checks of an access, in their order (spec/05 R124, R130; spec/10 R269).
-/
namespace Sys2Proof.Machine

/-! ## Effective addresses (R269) -/

/-- A signed count of n bytes is the product of the sign-extended count and n. -/
theorem signExtend_mul_ofNat {w : Nat} (off : BitVec w) (n : Nat) :
    off.signExtend 64 * BitVec.ofNat 64 n = BitVec.ofInt 64 (off.toInt * n) := by
  rw [BitVec.ofInt_mul, BitVec.ofInt_natCast]
  rfl

theorem eaMS_of_bundle {s : State} (h : s.env.slipped = none) (ba : SOpd) (off : BitVec 4) (n : Nat) :
    s.eaMS ba off n = s.operandS ba + BitVec.ofInt 64 (off.toInt * n) := by
  rw [State.eaMS, rso_of_bundle h, signExtend_mul_ofNat]

theorem eaMV_of_bundle {s : State} (h : s.env.slipped = none) (ba : SOpd) (off : BitVec 5) :
    s.eaMV ba off = s.operandS ba + BitVec.ofInt 64 (off.toInt * 256) := by
  rw [State.eaMV, rso_of_bundle h]
  exact congrArg _ (signExtend_mul_ofNat off 256)

/-! ## The checks of a window access (R124, R269) -/

section
variable {s : State} {sp : Space} (hsp : sp ≠ .glob) (a : Access) (m : BitVec 4) (cls : Nat) {va : Word} {n align : Nat}
include hsp

/-- Outside its window, an access raises LWIN before any other check. -/
theorem checkAccess_outside (hk : s.windowKey sp va n = none) :
    s.checkAccess sp a m cls va n align = .error ⟨.lwin, 0, va⟩ := by
  cases sp <;> simp_all [State.checkAccess]

/-- Inside its window, alignment is the next check, and the access table the one behind it. -/
theorem checkAccess_misaligned {k : Nat} (hk : s.windowKey sp va n = some k) (ha : va.toNat % align ≠ 0) :
    s.checkAccess sp a m cls va n align = .error ⟨.align, 0, va⟩ := by
  cases sp <;> simp_all [State.checkAccess]

theorem checkAccess_denied {k : Nat} (hk : s.windowKey sp va n = some k) (ha : va.toNat % align = 0)
    (hp : s.windowPermits sp m a va k n = false) :
    s.checkAccess sp a m cls va n align = .error ⟨.accv, 0, va⟩ := by
  cases sp <;> simp_all [State.checkAccess]

end

/-! ## The checks of a global access (R123, R130, R269) -/

theorem checkAccess_noncanonical (s : State) (a : Access) (m : BitVec 4) (cls : Nat) {va : Word} (n align : Nat)
    (hc : canonical va = false) : s.checkAccess .glob a m cls va n align = .error ⟨.pflt, 4, va⟩ := by
  simp [State.checkAccess, hc]

theorem checkAccess_global_misaligned (s : State) (a : Access) (m : BitVec 4) (cls : Nat) {va : Word} (n : Nat) {align : Nat}
    (hc : canonical va = true) (ha : va.toNat % align ≠ 0) :
    s.checkAccess .glob a m cls va n align = .error ⟨.align, 0, va⟩ := by
  simp [State.checkAccess, hc, ha]

theorem checkAccess_untranslated {s : State} {a : Access} (m : BitVec 4) (cls : Nat) {va : Word} {n align : Nat}
    {f : TransFault} (hc : canonical va = true) (ha : va.toNat % align = 0)
    (hf : s.translateAll (some s.myCore) (s.ctxPart s.env.cid) a va n = .error f) :
    s.checkAccess .glob a m cls va n align = .error ⟨.pflt, f.det, f.va⟩ := by
  simp [State.checkAccess, hc, ha, hf]

/-! ## Canonical addresses and windows (R123, R124) -/

theorem canonical_iff (va : Word) : canonical va = true ↔ ∀ k, 55 ≤ k → k < 64 → va.getLsbD k = va.getLsbD 63 := by
  have hbit (j : Nat) (hj : j < 9) : (va.extractLsb' 55 9).getLsbD j = va.getLsbD (55 + j) := by simp [hj]
  constructor
  · intro h k h1 h2
    have hk := hbit (k - 55) (by omega)
    rw [show 55 + (k - 55) = k by omega] at hk
    rw [← hk, ← hbit 8 (by omega)]
    obtain h | h : va.extractLsb' 55 9 = 0 ∨ va.extractLsb' 55 9 = BitVec.allOnes 9 := by simpa [canonical] using h
    · rw [h, BitVec.ofNat_eq_ofNat, BitVec.getLsbD_zero, BitVec.getLsbD_zero]
    · rw [h, BitVec.getLsbD_allOnes, BitVec.getLsbD_allOnes]
      simp; omega
  · intro h
    have hall (j : Nat) (hj : j < 9) : (va.extractLsb' 55 9).getLsbD j = va.getLsbD 63 :=
      (hbit j hj).trans (h _ (by omega) (by omega))
    cases htop : va.getLsbD 63 with
    | false =>
      have hzero : va.extractLsb' 55 9 = 0 := BitVec.eq_of_getLsbD_eq (fun j hj => by rw [hall j hj, htop]; simp)
      simp [canonical, hzero]
    | true =>
      have hones : va.extractLsb' 55 9 = BitVec.allOnes 9 := BitVec.eq_of_getLsbD_eq (fun j hj => by
        rw [hall j hj, htop, BitVec.getLsbD_allOnes]; simp [hj])
      simp [canonical, hones]

theorem windowKey_pm_isSome (s : State) (va : Word) (n : Nat) :
    (s.windowKey .pm va n).isSome = true ↔ va.toNat < 0x100000 ∧ va.toNat + n ≤ 0x100000 := by
  unfold State.windowKey State.windowKeyOf
  dsimp only
  split <;> simp_all

theorem windowKey_hall_isSome (s : State) (va : Word) (n : Nat) :
    (s.windowKey .hall va n).isSome = true ↔
      0x20000000 ≤ va.toNat ∧ va.toNat < 0x22000000 ∧ va.toNat + n ≤ 0x22000000 := by
  unfold State.windowKey State.windowKeyOf
  dsimp only
  split <;> simp_all

theorem windowKey_peer_isSome (s : State) (va : Word) (n : Nat) :
    (s.windowKey .peer va n).isSome = true ↔
      0x10000000 ≤ va.toNat ∧ va.toNat < 0x14000000 ∧ (va.toNat - 0x10000000) % 0x100000 + n ≤ 0x100000 := by
  unfold State.windowKey State.windowKeyOf
  dsimp only
  split
  · split <;> simp_all
  · simp_all

/-! ## ld and st (R272) -/

theorem exec_ld (s : State) (sp : Space) (ty : Fmt) (d : SReg) (ba : SOpd) (off : BitVec 4) :
    exec (.ld sp ty d ba off) s =
      s.memOp ⟨.ld sp ty d ba off, SOpd.src ba, [], [(.s d, 6)], false, 0⟩ sp .read (s.eaMS ba off (s.accessFmt ty).bytes)
        (s.accessFmt ty).bytes (s.accessFmt ty).bytes
        (fun tc t => t.loadScalar (s.accessFmt ty) d (isStatic sp) (piecesOf tc)) := rfl

theorem exec_st (s : State) (sp : Space) (ty : Fmt) (a : SReg) (ba : SOpd) (off : BitVec 4) :
    exec (.st sp ty a ba off) s =
      s.memOp ⟨.st sp ty a ba off, SOpd.src ba, [.s a], [], false, 0⟩ sp .write (s.eaMS ba off (s.accessFmt ty).bytes)
        (s.accessFmt ty).bytes (s.accessFmt ty).bytes
        (fun tc t => t.storeAt (s.eaMS ba off (s.accessFmt ty).bytes) tc (leBytes (s.accessFmt ty).bytes (t.rs a).toNat)) := rfl

/-- An ld or st that comes from its bundle with its address there raises the trap of its failing check. -/
theorem ld_st_traps {s : State} {sp : Space} {ty : Fmt} {d : SReg} {ba : SOpd} {off : BitVec 4} {i : Instr} {a : Access}
    (hi : (i, a) ∈ [(Instr.ld sp ty d ba off, Access.read), (.st sp ty d ba off, .write)]) (hb : s.env.slipped = none)
    (hn : s.needs (SOpd.src ba) = []) {va : Word}
    (hva : va = s.operandS ba + BitVec.ofInt 64 (off.toInt * (s.accessFmt ty).bytes)) (hout : s.frameOut sp va = false)
    {c : Cause} {det : BitVec 32} {far : Word}
    (hc : s.checkAccess sp a 0 1 va (s.accessFmt ty).bytes (s.accessFmt ty).bytes = .error ⟨c, det, far⟩) :
    exec i s = .next (s.traps i c det far) := by
  subst hva
  rw [← eaMS_of_bundle hb] at hout hc
  obtain ⟨rfl, rfl⟩ | ⟨rfl, rfl⟩ : (i = .ld sp ty d ba off ∧ a = .read) ∨ (i = .st sp ty d ba off ∧ a = .write) := by
    simpa using hi
  · rw [exec_ld]
    exact memOp_error _ hb hn hout hc
  · rw [exec_st]
    exact memOp_error _ hb hn hout hc

/-- Settles O10: each check is a branch of `checkAccess`, and the trap of the failing one is raised. -/
theorem accessChecksTrapInOrder : Obligations.AccessChecksTrapInOrder := by
  unfold Obligations.AccessChecksTrapInOrder
  refine ⟨fun s sp ty d ba off i a hi hb hn hout => ⟨fun hsp => ⟨fun hk => ?_, fun k hk => ⟨fun ha => ?_, fun ha hp => ?_⟩⟩, ?_⟩,
    fun s sp a m cls va n align => ⟨fun hsp hk => checkAccess_outside hsp a m cls hk, checkAccess_noncanonical s a m cls n align⟩,
    canonical_iff, rfl, fun s va n => ⟨windowKey_pm_isSome s va n, windowKey_hall_isSome s va n, windowKey_peer_isSome s va n⟩⟩
  · exact ld_st_traps hi hb hn rfl hout (checkAccess_outside hsp a 0 1 hk)
  · exact ld_st_traps hi hb hn rfl hout (checkAccess_misaligned hsp a 0 1 hk ha)
  · exact ld_st_traps hi hb hn rfl hout (checkAccess_denied hsp a 0 1 hk ha hp)
  · rintro rfl
    refine ⟨fun hc => ?_, fun hc ha => ?_, fun hc ha f hf => ?_⟩
    · exact ld_st_traps hi hb hn rfl hout (checkAccess_noncanonical s a 0 1 _ _ hc)
    · exact ld_st_traps hi hb hn rfl hout (checkAccess_global_misaligned s a 0 1 _ hc ha)
    · exact ld_st_traps hi hb hn rfl hout (checkAccess_untranslated 0 1 hc ha hf)

end Sys2Proof.Machine
end

section
/-!
O23: loads of scalars and vectors, whole, strided and gathered (spec/10 R269 to R274; spec/05 R148, R154).
-/
namespace Sys2Proof.Machine

/-! ## Elements of memory (R272, R273) -/

/-- A number below 2^w read in two's complement at that width. -/
theorem toInt_ofNat_testBit {w v : Nat} (hw : 0 < w) (hv : v < 2 ^ w) :
    (BitVec.ofNat w v).toInt = if v.testBit (w - 1) then (v : Int) - 2 ^ w else v := by
  have hmsb : (BitVec.ofNat w v).msb = v.testBit (w - 1) := by
    rw [BitVec.msb_eq_getLsbD_last, BitVec.getLsbD_ofNat]
    simp [hw]
  rw [BitVec.toInt_eq_msb_cond, hmsb, BitVec.toNat_ofNat, Nat.mod_eq_of_lt hv]
  push_cast
  rfl

/-- The model's extension of an element that fits its format is that of the statement. -/
theorem extScalar_eq_extended {f : Fmt} {v : Nat} (h : v < 2 ^ (8 * f.bytes)) : extScalar f v = extended f v := by
  cases f
  case i8 => exact congrArg (BitVec.ofInt 64) (toInt_ofNat_testBit (w := 8) (by omega) h).symm
  case i16 => exact congrArg (BitVec.ofInt 64) (toInt_ofNat_testBit (w := 16) (by omega) h).symm
  case i32 => exact congrArg (BitVec.ofInt 64) (toInt_ofNat_testBit (w := 32) (by omega) h).symm
  all_goals rfl

theorem getElem?_elements (n e : Nat) (bs : List Byte) {i : Nat} (h : i < n) :
    (elements n e bs)[i]? = some (leNat ((bs.drop (i * e)).take e)) := by
  induction n generalizing bs i with
  | zero => omega
  | succ n ih =>
    cases i with
    | zero => simp [elements]
    | succ i => simp [elements, ih (bs.drop e) (i := i) (by omega), Nat.succ_mul, Nat.add_comm]

theorem lane_lanesOfBytes (f : Fmt) (bs : List Byte) {i : Nat} (h : i < 64) :
    lane (lanesOfBytes f bs) i = extLane f (leNat ((bs.drop (i * f.bytes)).take f.bytes)) := by
  rw [lanesOfBytes, lane_ofLanes _ h, List.getElem?_map, getElem?_elements 64 f.bytes bs h]
  rfl

/-! ## Lanes loaded one by one (R274) -/

theorem lane_setLane (v : VecWord) (x : Lane) {i j : Nat} (hi : i < 64) (hj : j < 64) :
    lane (setLane v i x) j = if j = i then x else lane v j := by
  ext k hk
  have hones (n : Nat) : (0xFFFFFFFF#2048).getLsbD n = decide (n < 32) := by
    rw [BitVec.getLsbD_ofNat, show 0xFFFFFFFF = 2 ^ 32 - 1 by decide, Nat.testBit_two_pow_sub_one]
    simp; omega
  have hx (n : Nat) (hn : 32 ≤ n) : x.getLsbD n = false := BitVec.getLsbD_of_ge x n hn
  have hlt : 32 * j + k < 2048 := by omega
  simp only [lane, setLane, BitVec.getElem_extractLsb', BitVec.getLsbD_or, BitVec.getLsbD_and, BitVec.getLsbD_not,
    BitVec.getLsbD_shiftLeft, BitVec.getLsbD_setWidth, hones, hlt, decide_true, Bool.true_and]
  obtain hlow | rfl | hhigh := Nat.lt_trichotomy j i
  · have h1 : 32 * j + k < 32 * i := by omega
    simp [h1, Nat.ne_of_lt hlow]
  · simp [hk, show ¬ 32 * j + k < 32 * j by omega, show k < 2048 by omega]
  · have h1 : ¬ 32 * j + k < 32 * i := by omega
    have h2 : ¬ 32 * j + k - 32 * i < 32 := by omega
    simp [h1, h2, hx _ (Nat.le_of_not_lt h2), Nat.ne_of_gt hhigh]

/-- Of lanes that are loaded one after another, each holds its own element, and the others what they held. -/
theorem lane_loaded (s : State) (f : Fmt) {l : List (Nat × Touch)} (hl : ∀ p ∈ l, p.1 < 64) (hn : (l.map Prod.fst).Nodup) {i : Nat}
    (hi : i < 64) (v : VecWord) :
    let w := l.foldl (fun v p => setLane v p.1 (extLane f (s.natAt p.2.key p.2.len))) v
    (∀ t, (i, t) ∈ l → lane w i = extLane f (s.natAt t.key t.len)) ∧ (i ∉ l.map Prod.fst → lane w i = lane v i) := by
  induction l generalizing v with
  | nil => exact ⟨fun t ht => absurd ht List.not_mem_nil, fun _ => rfl⟩
  | cons p l ih =>
    obtain ⟨hp, hrest⟩ := List.forall_mem_cons.mp hl
    rw [List.map_cons, List.nodup_cons] at hn
    obtain ⟨hmem, hkeep⟩ := ih hrest hn.2 (setLane v p.1 (extLane f (s.natAt p.2.key p.2.len)))
    refine ⟨fun t ht => ?_, fun hne => ?_⟩
    · obtain rfl | ht := List.mem_cons.mp ht
      · exact (hkeep hn.1).trans ((lane_setLane _ _ hp hi).trans (if_pos rfl))
      · exact hmem t ht
    · rw [List.map_cons, List.mem_cons, not_or] at hne
      exact (hkeep hne.2).trans ((lane_setLane _ _ hp hi).trans (if_neg hne.1))

theorem lane_loadLanes_mem (s : State) (f : Fmt) {l : List (Nat × Touch)} (hl : ∀ p ∈ l, p.1 < 64) (hn : (l.map Prod.fst).Nodup)
    {i : Nat} {t : Touch} (ht : (i, t) ∈ l) : lane (s.loadLanes f l) i = extLane f (s.natAt t.key t.len) :=
  (lane_loaded s f hl hn (hl _ ht) 0).1 t ht

theorem lane_loadLanes_not_mem (s : State) (f : Fmt) {l : List (Nat × Touch)} (hl : ∀ p ∈ l, p.1 < 64)
    (hn : (l.map Prod.fst).Nodup) {i : Nat} (hi : i < 64) (h : i ∉ l.map Prod.fst) : lane (s.loadLanes f l) i = 0 :=
  ((lane_loaded s f hl hn hi 0).2 h).trans (by simp [lane])

/-! ## Active lanes (R274) -/

/-- The numbers of a zip come from its first list. -/
theorem map_fst_zip_sublist {α β : Type} (l : List α) (m : List β) : ((l.zip m).map Prod.fst).Sublist l := by
  induction l generalizing m with
  | nil => simp
  | cons x l ih => cases m <;> simp [ih]

/-- Lane i is the active lane whose number counts the active lanes below it. -/
theorem getElem?_active (on : Nat → Bool) {i n : Nat} (hi : i < n) (hon : on i = true) :
    ((List.range n).filter on)[(List.range i).countP on]? = some i := by
  obtain ⟨j, rfl⟩ : ∃ j, n = i + (j + 1) := ⟨n - i - 1, by omega⟩
  rw [List.range_add, List.range_succ_eq_map, List.filter_append, List.getElem?_append_right (by rw [List.countP_eq_length_filter]),
    List.countP_eq_length_filter]
  simp [hon]

/-- The lanes of a list that a test picks, zipped with touches, are lanes of a vector, each once. -/
theorem active_lanes_distinct (on : Nat → Bool) (tc : List Touch) :
    (∀ p ∈ ((List.range 64).filter on).zip tc, p.1 < 64) ∧ ((((List.range 64).filter on).zip tc).map Prod.fst).Nodup := by
  have hsub := map_fst_zip_sublist ((List.range 64).filter on) tc
  refine ⟨fun p hp => ?_, hsub.nodup (List.nodup_range.filter _)⟩
  have := hsub.subset (List.mem_map_of_mem hp)
  simpa using (List.mem_filter.mp this).1

/-- An index is active where its bit 31 is clear (R274). -/
def activeLane (idx : VecWord) (i : Nat) : Bool := !(lane idx i).getLsbD 31

theorem laneTouches_activeLanes (idx : VecWord) (tc : List Touch) :
    laneTouches (activeLanes idx) tc = ((List.range 64).filter (activeLane idx)).zip tc := by
  refine congrArg (fun l : List Nat => l.zip tc) (List.filter_congr (fun i hi => ?_))
  simp [activeLanes, lanes, activeLane, List.mem_range.mp hi]

theorem laneTouches_all (tc : List Touch) : laneTouches (List.replicate 64 true) tc = (List.range 64).zip tc := by
  refine congrArg (fun l : List Nat => l.zip tc) (List.filter_eq_self.mpr (fun i hi => ?_))
  rw [List.getElem?_replicate, if_pos (List.mem_range.mp hi)]
  rfl

/-- What is chosen and computed in one go is computed of what is chosen. -/
theorem filterMap_ite_none {α β : Type} (p : α → Bool) (g : α → β) (l : List α) :
    l.filterMap (fun x => if p x = true then none else some (g x)) = (l.filter (fun x => !p x)).map g := by
  induction l with
  | nil => rfl
  | cons x l ih => cases h : p x <;> simp [h, ih]

theorem indexedAddrs_eq (base : Word) (e : Nat) (idx : VecWord) :
    indexedAddrs base e idx = ((List.range 64).filter (activeLane idx)).map (fun i =>
      base + (lane idx i).signExtend 64 * BitVec.ofNat 64 e) := by
  rw [indexedAddrs, filterMap_ite_none, lanes, List.filter_map, List.map_map]
  rfl

theorem gathered_inactive (u : State) (f : Fmt) (idx : VecWord) (tc : List Touch) {i : Nat} (hi : i < 64)
    (h : activeLane idx i = false) : lane (u.loadLanes f (((List.range 64).filter (activeLane idx)).zip tc)) i = 0 := by
  obtain ⟨hlt, hnodup⟩ := active_lanes_distinct (activeLane idx) tc
  refine lane_loadLanes_not_mem u f hlt hnodup hi (fun hmem => ?_)
  have := (List.mem_filter.mp ((map_fst_zip_sublist ..).subset hmem)).2
  simp [h] at this

theorem gathered_active (u : State) (f : Fmt) (on : Nat → Bool) {tc : List Touch} {i : Nat} {t : Touch} (hi : i < 64)
    (h : on i = true) (ht : tc[(List.range i).countP on]? = some t) :
    lane (u.loadLanes f (((List.range 64).filter on).zip tc)) i = extLane f (u.natAt t.key t.len) := by
  obtain ⟨hlt, hnodup⟩ := active_lanes_distinct on tc
  refine lane_loadLanes_mem u f hlt hnodup (List.mem_of_getElem? (i := (List.range i).countP on) ?_)
  simp [List.getElem?_zip_eq_some, ht, getElem?_active on hi h]

/-! ## Loads that stand ready (R272 to R274) -/

theorem reading_env (s : State) (a : Access) (va : Word) (tc : List Touch) : (s.reading a va tc).env = s.env := accessed_env ..

theorem reading_cx (s : State) (a : Access) (va : Word) (tc : List Touch) : (s.reading a va tc).cx = s.cx := accessed_cx ..

theorem reading_slipped {s : State} (h : s.env.slipped = none) (a : Access) (va : Word) (tc : List Touch) :
    (s.reading a va tc).env.slipped = none := by rw [reading_env, h]

/-- An instruction of a bundle delivers its next result under the next number of its context. -/
theorem ridOf_of_bundle {s : State} (h : s.env.slipped = none) (d : Dest) : s.ridOf d = s.cx.nextRid := by
  simp [State.ridOf, h]

theorem reading_ridOf {s : State} (h : s.env.slipped = none) (a : Access) (va : Word) (tc : List Touch) (d : Dest) :
    (s.reading a va tc).ridOf d = s.cx.nextRid := by
  rw [ridOf_of_bundle (reading_slipped h a va tc), reading_cx]

theorem reading_rso {s : State} (h : s.env.slipped = none) (a : Access) (va : Word) (tc : List Touch) (ba : SOpd) :
    (s.reading a va tc).rso ba = s.operandS ba := by
  rw [rso_of_bundle (reading_slipped h a va tc)]
  cases ba with
  | reg r => exact congrArg (·.rs r) (reading_cx s a va tc)
  | port => exact congrArg (fun e : Env => e.port.getD 0) (reading_env s a va tc)

/-- An instruction that stands ready comes from its bundle. -/
theorem issuesInOrder_slipped {s : State} {i : Instr} {l : List Src} (h : s.issuesInOrder i l) : s.env.slipped = none := h.1.1

theorem loadVector_of_bundle {s : State} (h : s.env.slipped = none) (f : Fmt) (vd : VReg) (static : Bool) (va : Word)
    (ps : List Piece) : s.loadVector f vd static va ps =
      (s.gainsLoad 8 (.v vd) (lanesOfBytes f (s.piecesBytes ps)) static (s.piecesPoisoned ps)).readWide s.cx.nextRid 8 va f
        (laneKeys f.bytes ps) := by
  rw [State.loadVector, deliverLoad_of_bundle h, ridOf_of_bundle h]

theorem gatherLanes_of_bundle {s : State} (h : s.env.slipped = none) (f : Fmt) (vd : VReg) (sp : Space) (va : Word)
    (l : List (Nat × Touch)) : s.gatherLanes f vd sp va l =
      (s.gainsLoad 8 (.v vd) (s.loadLanes f l) (sp == .pm) (s.piecesPoisoned (piecesOf (l.map (·.2))))).readWide s.cx.nextRid
        f.bytes va f (l.map (fun p => (p.1, p.2.key))) := by
  rw [State.gatherLanes, deliverLoad_of_bundle h, ridOf_of_bundle h]
  rfl

theorem ld_reaches {s : State} {sp : Space} {ty : Fmt} {d : SReg} {ba : SOpd} {off : BitVec 4} {tc : List Touch}
    (h : s.issuesInOrder (.ld sp ty d ba off) (SOpd.src ba)) :
    let f := s.accessFmt ty
    let va := s.operandS ba + BitVec.ofInt 64 (off.toInt * f.bytes)
    let u := s.reading .read va tc
    s.reaches sp .read va f.bytes f.bytes tc → u.valueAt tc < 2 ^ (8 * f.bytes) →
    exec (.ld sp ty d ba off) s = .next (s.accessDone sp va f.bytes tc
      (u.gainsLoad 6 (.s d) (ofWord (extended f (u.valueAt tc))) (sp == .pm) (u.piecesPoisoned (piecesOf tc)))) := by
  intro f va u hr hv
  have hb := issuesInOrder_slipped h
  rw [exec_ld, eaMS_of_bundle hb, memOp_reaches _ (by simpa using h.1) h.2 hr, ← extScalar_eq_extended hv]
  exact congrArg (fun w => Host.Outcome.next (s.accessDone sp va f.bytes tc w)) (deliverLoad_of_bundle (reading_slipped hb ..) ..)

theorem vld_reaches {s : State} {sp : Space} {ty : Fmt} {vd : VReg} {ba : SOpd} {off : BitVec 5} {tc : List Touch}
    (h : s.issuesInOrder (.vld sp ty vd ba off) (SOpd.src ba)) :
    let f := s.accessFmt ty
    let va := s.operandS ba + BitVec.ofInt 64 (off.toInt * 256)
    let u := s.reading .read va tc
    s.reaches sp .read va (64 * f.bytes) 8 tc →
    exec (.vld sp ty vd ba off) s = .next (s.accessDone sp va (64 * f.bytes) tc
      ((u.gainsLoad 8 (.v vd) (lanesOfBytes f (u.piecesBytes (piecesOf tc))) (sp == .pm)
        (u.piecesPoisoned (piecesOf tc))).readWide s.cx.nextRid 8 va f (laneKeys f.bytes (piecesOf tc)))) := by
  intro f va u hr
  have hb := issuesInOrder_slipped h
  have hload := loadVector_of_bundle (reading_slipped hb .read va tc) f vd (isStatic sp) va (piecesOf tc)
  rw [reading_cx] at hload
  show s.memOp ⟨.vld sp ty vd ba off, SOpd.src ba, [], [(.v vd, 8)], false, 0⟩ sp .read (s.eaMV ba off) (64 * f.bytes) 8
    (fun tc t => t.loadVector f vd (isStatic sp) (s.eaMV ba off) (piecesOf tc)) = _
  rw [eaMV_of_bundle hb, memOp_reaches _ (by simpa using h.1) h.2 hr, hload]
  rfl

theorem vlds_reaches {s : State} {sp : Space} {ty : Fmt} {vd : VReg} {ba : SOpd} {sr : SReg} {tc : List Touch}
    (h : s.issuesInOrder (.vlds sp ty vd ba sr) (.s sr :: SOpd.src ba)) :
    let f := s.accessFmt ty
    let vas := (List.range 64).map (fun i => s.operandS ba + BitVec.ofNat 64 i * s.cx.rs sr)
    let u := s.reading .read (vas.headD 0) tc
    let lanes' := (List.range 64).zip tc
    s.reachesLanes sp .read vas f.bytes tc →
    exec (.vlds sp ty vd ba sr) s = .next (s.lanesDone sp vas f.bytes tc
      ((u.gainsLoad 8 (.v vd) (u.loadLanes f lanes') (sp == .pm) (u.piecesPoisoned (piecesOf (lanes'.map (·.2))))).readWide
        s.cx.nextRid f.bytes (s.operandS ba) f (lanes'.map (fun p => (p.1, p.2.key))))) := by
  intro f vas u lanes' hr
  have hb := issuesInOrder_slipped h
  have hgather := gatherLanes_of_bundle (reading_slipped hb .read (vas.headD 0) tc) f vd sp (s.operandS ba) lanes'
  rw [reading_cx] at hgather
  show s.laneOp ⟨.vlds sp ty vd ba sr, .s sr :: SOpd.src ba, [], [(.v vd, 8)], false, 0⟩ sp .read
    (stridedAddrs (s.rso ba) (s.rs sr)) f.bytes
    (fun tc t => t.gatherLanes f vd sp (t.rso ba) (laneTouches (List.replicate 64 true) tc)) = _
  rw [rso_of_bundle hb, rs_of_bundle hb]
  rw [show stridedAddrs (s.operandS ba) (s.cx.rs sr) = vas from rfl, laneOp_reaches _ (by simpa using h.1) h.2 hr, laneTouches_all,
    reading_rso hb, hgather]

theorem gath_reaches {s : State} {sp : Space} {ty : Fmt} {vd vi : VReg} {ba : SOpd} {tc : List Touch}
    (h : s.issuesInOrder (.gath sp ty vd vi ba) (.v vi :: SOpd.src ba)) :
    let f := s.accessFmt ty
    let vas := ((List.range 64).filter (activeLane (s.cx.rv vi))).map (fun i =>
      s.operandS ba + (lane (s.cx.rv vi) i).signExtend 64 * BitVec.ofNat 64 f.bytes)
    let u := s.reading .read (vas.headD 0) tc
    let lanes' := ((List.range 64).filter (activeLane (s.cx.rv vi))).zip tc
    s.reachesLanes sp .read vas f.bytes tc →
    exec (.gath sp ty vd vi ba) s = .next (s.lanesDone sp vas f.bytes tc
      ((u.gainsLoad 8 (.v vd) (u.loadLanes f lanes') (sp == .pm) (u.piecesPoisoned (piecesOf (lanes'.map (·.2))))).readWide
        s.cx.nextRid f.bytes (vas.headD 0) f (lanes'.map (fun p => (p.1, p.2.key))))) := by
  intro f vas u lanes' hr
  have hb := issuesInOrder_slipped h
  have hgather := gatherLanes_of_bundle (reading_slipped hb .read (vas.headD 0) tc) f vd sp (vas.headD 0) lanes'
  rw [reading_cx] at hgather
  show s.laneOp ⟨.gath sp ty vd vi ba, .v vi :: SOpd.src ba, [], [(.v vd, 8)], false, 0⟩ sp .read
    (indexedAddrs (s.rso ba) f.bytes (s.rv vi)) f.bytes
    (fun tc t => t.gatherLanes f vd sp (((indexedAddrs (t.rso ba) f.bytes (s.rv vi)).head?).getD 0)
      (laneTouches (activeLanes (s.rv vi)) tc)) = _
  rw [rso_of_bundle hb, rv_of_bundle hb]
  rw [show indexedAddrs (s.operandS ba) f.bytes (s.cx.rv vi) = vas from indexedAddrs_eq .., laneOp_reaches _ (by simpa using h.1) h.2 hr,
    laneTouches_activeLanes, reading_rso hb,
    show indexedAddrs (s.operandS ba) f.bytes (s.cx.rv vi) = vas from indexedAddrs_eq .., ← List.headD_eq_head?_getD, hgather]

/-- Settles O23: each load does its action on the storage of its checks, and a lane holds the element that was loaded into it.
-/
theorem loadsFromMemory : Obligations.LoadsFromMemory := by
  unfold Obligations.LoadsFromMemory
  refine ⟨fun s sp ty d ba off tc h => ld_reaches h, fun s sp ty vd ba off tc h hr => ?_, fun s sp ty vd ba sr tc h hr => ?_,
    fun s sp ty vd vi ba tc h hr => ?_⟩
  · exact ⟨_, vld_reaches h hr, fun i hi => lane_lanesOfBytes _ _ hi⟩
  · refine ⟨_, vlds_reaches h hr, fun i t hi ht => ?_⟩
    have hall := fun u f => gathered_active u f (fun _ => true) (tc := tc) hi rfl (by simpa using ht)
    simp only [List.filter_true] at hall
    exact hall _ _
  · exact ⟨_, gath_reaches h hr, fun i hi => ⟨fun hoff => gathered_inactive _ _ (s.cx.rv vi) tc hi hoff,
      fun t hon ht => gathered_active _ _ (activeLane (s.cx.rv vi)) hi hon ht⟩⟩

end Sys2Proof.Machine
end

section
/-!
O32: UNPK after PACK (spec/05 R147).
-/
namespace Sys2Proof.Machine

/-! ## Runs of a list (R147) -/

theorem length_chunks {α : Type} (n k : Nat) (l : List α) : (chunks n k l).length = n := by
  induction n generalizing l with
  | zero => rfl
  | succ n ih => simp [chunks, ih]

theorem flatten_chunks {α : Type} {n k : Nat} {l : List α} (h : l.length = n * k) : (chunks n k l).flatten = l := by
  induction n generalizing l with
  | zero => simpa [chunks, eq_comm] using h
  | succ n ih =>
    rw [Nat.succ_mul] at h
    simp [chunks, ih (l := l.drop k) (by simp; omega)]

theorem length_of_mem_chunks {α : Type} {n k : Nat} {l : List α} (h : l.length = n * k) {w : List α} (hw : w ∈ chunks n k l) :
    w.length = k := by
  induction n generalizing l with
  | zero => simp [chunks] at hw
  | succ n ih =>
    rw [Nat.succ_mul] at h
    obtain rfl | hw := List.mem_cons.mp hw
    · simp; omega
    · exact ih (by simp; omega) hw

/-! ## Words without poison (R147, R149) -/

/-- A word of a block: eight bytes without poison. -/
def CleanWord (w : List Carried) : Prop := w.length = 8 ∧ ∀ x ∈ w, x.2 = false

theorem leNat_eq_zero {bs : List Byte} (h : leNat bs = 0) : bs = List.replicate bs.length 0 := by
  induction bs with
  | nil => rfl
  | cons b bs ih =>
    simp only [leNat] at h
    have hb : b = 0 := BitVec.eq_of_toNat_eq (by simp; omega)
    rw [List.length_cons, List.replicate_succ, ← ih (by omega), hb]

/-- A clean word is its bytes, marked alike. -/
theorem CleanWord.eq_carryAll {w : List Carried} (h : CleanWord w) : w = carryAll false (w.map (·.1)) := by
  rw [carryAll, List.map_map]
  exact (List.map_id w).symm.trans (List.map_congr_left (fun x hx => Prod.ext rfl (h.2 x hx)))

/-- The clean word of the number 0. -/
theorem CleanWord.eq_zeros {w : List Carried} (h : CleanWord w) (h0 : carriedNat w = 0) :
    w = carryAll false (List.replicate 8 0) := by
  rw [h.eq_carryAll, leNat_eq_zero h0, List.length_map, h.1]

/-- Laying a word out anew with no poison in the mask changes nothing. -/
theorem map_or_false (w : List Carried) : w.map (fun b => (b.1, b.2 || false)) = w :=
  (List.map_congr_left (fun x _ => by simp)).trans (List.map_id w)

theorem carriedPoison_carryAll_false (bs : List Byte) : carriedPoison (carryAll false bs) = false := by
  simp [carriedPoison, carryAll]

theorem length_carryAll (p : Bool) (bs : List Byte) : (carryAll p bs).length = bs.length := List.length_map _

theorem carriedNat_carryAll (p : Bool) (bs : List Byte) : carriedNat (carryAll p bs) = leNat bs := by
  simp [carriedNat, carryAll, Function.comp_def]

theorem cleanWord_of_mem_chunks {b : List Byte} (hb : b.length = 512) {w : List Carried} (hw : w ∈ chunks 64 8 (carryAll false b)) :
    CleanWord w := by
  have hlen : (carryAll false b).length = 64 * 8 := (length_carryAll ..).trans hb
  refine ⟨length_of_mem_chunks hlen hw, fun x hx => ?_⟩
  have hmem : x ∈ carryAll false b := flatten_chunks hlen ▸ List.mem_flatten_of_mem hw hx
  obtain ⟨y, -, rfl⟩ := List.mem_map.mp hmem
  rfl

/-! ## The mask (R147) -/

/-- Bit i of a mask tells whether word i is not zero; from bit k on the mask has been empty. -/
theorem zpMask_from (ws : List (List Carried)) (k m : Nat) (hm : m < 2 ^ k) :
    let r := (ws.zip (List.range' k ws.length)).foldl (fun m p => if carriedNat p.1 ≠ 0 then m + 2 ^ p.2 else m) m
    r < 2 ^ (k + ws.length) ∧ (∀ i, i < k → r.testBit i = m.testBit i) ∧
    ∀ j w, ws[j]? = some w → r.testBit (k + j) = decide (carriedNat w ≠ 0) := by
  induction ws generalizing k m with
  | nil => exact ⟨hm, fun i _ => rfl, fun j w hj => by simp at hj⟩
  | cons w ws ih =>
    have hdouble : 2 ^ (k + 1) = 2 ^ k + 2 ^ k := by omega
    have hlt : (if carriedNat w ≠ 0 then m + 2 ^ k else m) < 2 ^ (k + 1) := by split <;> omega
    obtain ⟨hr, hlow, hhigh⟩ := ih (k + 1) _ hlt
    simp only [List.length_cons, List.range'_succ, List.zip_cons_cons, List.foldl_cons]
    refine ⟨by rwa [show k + (ws.length + 1) = k + 1 + ws.length by omega], fun i hi => ?_, fun j v hj => ?_⟩
    · rw [hlow i (by omega)]
      split
      · rw [Nat.add_comm, Nat.testBit_two_pow_add_gt hi]
      · rfl
    · cases j with
      | zero =>
        obtain rfl : w = v := by simpa using hj
        refine (hlow k (by omega)).trans ?_
        have hmk : m.testBit k = false := Nat.testBit_lt_two_pow hm
        split
        · rename_i hw
          rw [Nat.add_comm, Nat.testBit_two_pow_add_eq, hmk]
          simp [hw]
        · rename_i hw
          simp [hmk, hw]
      | succ j =>
        rw [show k + (j + 1) = k + 1 + j by omega]
        exact hhigh j v (by simpa using hj)

theorem zpMask_lt {ws : List (List Carried)} (h : ws.length = 64) : zpMask ws < 2 ^ 64 := by
  have := (zpMask_from ws 0 0 (by decide)).1
  rwa [h, ← List.range_eq_range'] at this

theorem testBit_zpMask {ws : List (List Carried)} (h : ws.length = 64) {j : Nat} {w : List Carried} (hj : ws[j]? = some w) :
    (zpMask ws).testBit j = decide (carriedNat w ≠ 0) := by
  have := (zpMask_from ws 0 0 (by decide)).2.2 j w hj
  rwa [h, ← List.range_eq_range', Nat.zero_add] at this

/-- The mask counts the words that are not zero. -/
theorem count_zpMask {ws : List (List Carried)} (h : ws.length = 64) :
    ((List.range 64).filter (fun i => (zpMask ws).testBit i)).length = (nonZeroWords ws).length := by
  have hws : ws = (List.range 64).map (fun i => ws[i]?.getD []) := by
    refine List.ext_getElem (by simp [h]) (fun i h1 h2 => ?_)
    simp [h1]
  have hbits : (List.range 64).filter (fun i => (zpMask ws).testBit i) =
      (List.range 64).filter ((fun w => decide (carriedNat w ≠ 0)) ∘ fun i => ws[i]?.getD []) := by
    refine List.filter_congr (fun i hi => ?_)
    have hi : i < ws.length := by simpa [h] using hi
    rw [testBit_zpMask h (List.getElem?_eq_getElem hi)]
    simp [hi]
  rw [hbits, nonZeroWords]
  conv_rhs => rw [hws, List.filter_map, List.length_map]

/-! ## Laying words out (R147) -/

/-- The words that are not zero, laid out by a mask that names them, are the words. -/
theorem unpackWords_nonZeroWords (mask : Nat) (ws : List (List Carried)) (hclean : ∀ w ∈ ws, CleanWord w) (i : Nat)
    (hmask : ∀ j w, ws[j]? = some w → mask.testBit (i + j) = decide (carriedNat w ≠ 0)) (pad : List Carried) :
    unpackWords mask false ws.length i ((nonZeroWords ws).flatMap id ++ pad) = ws.flatten := by
  induction ws generalizing i with
  | nil => rfl
  | cons w ws ih =>
    obtain ⟨hw, hrest⟩ := List.forall_mem_cons.mp hclean
    have hbit : mask.testBit i = decide (carriedNat w ≠ 0) := hmask 0 w rfl
    have htail := ih hrest (i + 1) (fun j v hj => by
      rw [show i + 1 + j = i + (j + 1) by omega]; exact hmask (j + 1) v (by simpa using hj))
    rw [List.length_cons, unpackWords, hbit]
    by_cases h0 : carriedNat w = 0
    · have hskip : nonZeroWords (w :: ws) = nonZeroWords ws := by simp [nonZeroWords, h0]
      simp only [h0, ne_eq, not_true_eq_false, decide_false, Bool.false_eq_true, if_false, hskip, htail, List.flatten_cons]
      rw [← hw.eq_zeros h0]
    · have hkeep : nonZeroWords (w :: ws) = w :: nonZeroWords ws := by simp [nonZeroWords, h0]
      simp only [h0, ne_eq, not_false_eq_true, decide_true, if_true, hkeep, List.flatMap_cons, id_eq, List.append_assoc,
        List.flatten_cons, List.take_left' hw.1, List.drop_left' hw.1, map_or_false, htail]

/-! ## PACK and UNPK of one block (R147) -/

theorem carryAll_injective {p : Bool} {a b : List Byte} (h : carryAll p a = carryAll p b) : a = b := by
  have := congrArg (List.map Prod.fst) h
  simpa [carryAll, Function.comp_def] using this

/-- What PACK makes of a clean block that fits a class below 512: the mask, the words that are not zero, and zeros. -/
theorem packBlock_eq {cls : Nat} (hcls : cls ≠ 512) {b : List Byte} {q : List Carried}
    (h : packBlock cls (carryAll false b) = some q) :
    let ws := chunks 64 8 (carryAll false b)
    let nz := nonZeroWords ws
    nz.length * 8 + 8 ≤ cls ∧ q = carryAll false (leBytes 8 (zpMask ws)) ++
      (nz.flatMap id ++ List.replicate (cls - 8 - 8 * nz.length) ((0, false) : Carried)) := by
  unfold packBlock at h
  rw [if_neg hcls] at h
  dsimp only at h ⊢
  split at h
  · cases h
  · rename_i hfit
    rw [carriedPoison_carryAll_false, Option.some.injEq, List.append_assoc] at h
    exact ⟨by omega, h.symm⟩

theorem unpackBlock_packBlock {cls : Nat} (hcls : cls ≠ 512) {b : List Byte} (hb : b.length = 512) {q : List Carried}
    (h : packBlock cls (carryAll false b) = some q) : q.length = cls ∧ unpackBlock cls q = some (carryAll false b) := by
  obtain ⟨hfit, rfl⟩ := packBlock_eq hcls h
  have hlen : (carryAll false b).length = 64 * 8 := (length_carryAll ..).trans hb
  have hclean (w : List Carried) (hw : w ∈ chunks 64 8 (carryAll false b)) : CleanWord w := cleanWord_of_mem_chunks hb hw
  have hflat := flatten_chunks hlen
  have hws := length_chunks 64 8 (carryAll false b)
  generalize chunks 64 8 (carryAll false b) = ws at *
  have hhead : (carryAll false (leBytes 8 (zpMask ws))).length = 8 := (length_carryAll ..).trans (length_leBytes ..)
  have hmask : carriedNat (carryAll false (leBytes 8 (zpMask ws))) = zpMask ws := by
    rw [carriedNat_carryAll, leNat_leBytes, Nat.mod_eq_of_lt (zpMask_lt hws)]
  have hnz : ((nonZeroWords ws).flatMap id).length = 8 * (nonZeroWords ws).length := by
    have hlengths : (nonZeroWords ws).map List.length = (nonZeroWords ws).map (fun _ => 8) :=
      List.map_congr_left (fun w hw => (hclean w (List.mem_filter.mp hw).1).1)
    rw [List.flatMap_id, List.length_flatten, hlengths]
    simp [Nat.mul_comm]
  refine ⟨by simp only [List.length_append, hhead, hnz, List.length_replicate]; omega, ?_⟩
  unfold unpackBlock
  rw [if_neg hcls, List.take_left' hhead, List.drop_left' hhead, hmask]
  dsimp only
  rw [count_zpMask hws, if_neg (by omega), carriedPoison_carryAll_false, ← hflat]
  have hlay := unpackWords_nonZeroWords (zpMask ws) ws hclean 0 (fun j w hj => by rw [Nat.zero_add]; exact testBit_zpMask hws hj)
  rw [hws] at hlay
  rw [hlay]

/-- Settles O32: the mask tells which words were packed, in their order, and the others were zero. -/
theorem packThenUnpack : Obligations.PackThenUnpack := by
  unfold Obligations.PackThenUnpack
  intro cls b p _ hb h
  by_cases hcls : cls = 512
  · subst hcls
    have hp : b = p := carryAll_injective (by simpa [packBlock] using h)
    subst hp
    exact ⟨hb, by simp [unpackBlock]⟩
  · obtain ⟨hlen, hunpack⟩ := unpackBlock_packBlock hcls hb h
    exact ⟨(length_carryAll ..).symm.trans hlen, hunpack⟩

end Sys2Proof.Machine
end

section
/-!
What stores leave: samples of conflicting writes, wide stores unit by unit, and the bytes of elements (spec/05 R154; spec/06 R177).
-/
namespace Sys2Proof.Machine

/-! ## Samples of conflicting writes (R177) -/

/-- A context with the control registers, slip entries and frozen sets of another: what a sampled conflict may change (R177). -/
def Ctx.withSample (x y : Ctx) : Ctx := { x with ctl := y.ctl, slip := y.slip, frozen := y.frozen }

/-- The states differ at most in what the sampling of conflicts may change: of the contexts, only their control registers and
what waiting readers have of them (R177). -/
def SamplesOnly (s t : State) : Prop :=
  t = { s with ctxs := t.ctxs, groups := t.groups, writes := t.writes } ∧ ∀ c, t.ctx c = (s.ctx c).withSample (t.ctx c)

namespace SamplesOnly

theorem refl (s : State) : SamplesOnly s s := ⟨rfl, fun _ => rfl⟩

theorem trans {s t u : State} (h : SamplesOnly s t) (k : SamplesOnly t u) : SamplesOnly s u := by
  refine ⟨?_, fun c => ?_⟩
  · calc u = { t with ctxs := u.ctxs, groups := u.groups, writes := u.writes } := k.1
      _ = { s with ctxs := u.ctxs, groups := u.groups, writes := u.writes } :=
        congrArg (fun w : State => { w with ctxs := u.ctxs, groups := u.groups, writes := u.writes }) h.1
  · calc u.ctx c = (t.ctx c).withSample (u.ctx c) := k.2 c
      _ = (s.ctx c).withSample (u.ctx c) := by
        conv_lhs => rw [h.2 c]
        rfl

theorem foldl {α : Type} {f : State → α → State} (hf : ∀ t x, SamplesOnly t (f t x)) (l : List α) (s : State) :
    SamplesOnly s (l.foldl f s) := foldl_related refl trans hf l s

variable {s t : State} (h : SamplesOnly s t)
include h

theorem mem : t.mem = s.mem := (congrArg State.mem h.1).trans rfl
theorem late : t.late = s.late := (congrArg State.late h.1).trans rfl
theorem cores : t.cores = s.cores := (congrArg State.cores h.1).trans rfl
theorem env : t.env = s.env := (congrArg State.env h.1).trans rfl
theorem cx : t.cx = s.cx.withSample t.cx := by
  simp only [State.cx, h.env]
  exact h.2 _

end SamplesOnly

theorem change_eq (x : Ctx) (cr : CReg) (f : Word → Word) (g : Ctx → Ctx) (hg : g x = x.withSample (g x)) :
    x.change cr f g = x.withSample (x.change cr f g) := by
  simp only [Ctx.change]
  rw [hg]
  rfl

/-- A context changed as a sampled conflict changes it, in service or out of it. -/
theorem samplesOnly_mapTask (s : State) (c : CtxId) (serial : Nat) {f : Ctx → Ctx} (hf : ∀ x, f x = x.withSample (f x)) :
    SamplesOnly s (s.mapTask c serial f) := by
  unfold State.mapTask
  dsimp only
  split
  · refine ⟨rfl, fun d => ?_⟩
    by_cases hd : d = c
    · subst hd
      show (s.mapCtx d f).ctx d = _
      rw [ctx_mapCtx_self]
      exact (hf _).trans (congrArg _ (ctx_mapCtx_self s d f).symm)
    · show (s.mapCtx c f).ctx d = (s.ctx d).withSample ((s.mapCtx c f).ctx d)
      rw [ctx_mapCtx_ne s f hd]
      rfl
  · exact ⟨rfl, fun _ => rfl⟩

theorem samplesOnly_setDcf (s : State) (c : CtxId) (serial : Nat) (va : Word) : SamplesOnly s (s.setDcf c serial va) := by
  refine samplesOnly_mapTask s c serial (fun x => ?_)
  split <;> rfl

theorem samplesOnly_sampleGranule (s : State) (w : PhaseWrite) : SamplesOnly s (s.sampleGranule w) := by
  have hlist (b : Bool) : SamplesOnly s (if b = true then s else { s with writes := w :: s.writes }) := by
    cases b
    · exact ⟨rfl, fun _ => rfl⟩
    · exact .refl s
  unfold State.sampleGranule
  dsimp only
  split
  · exact hlist _
  · exact (hlist _).trans (SamplesOnly.foldl (fun t o => samplesOnly_setDcf ..) _ _)

theorem samplesOnly_sampleWrites (s : State) (phase : Option Nat) (l : List (Word × Touch)) :
    SamplesOnly s (s.sampleWrites phase l) := by
  unfold State.sampleWrites
  split
  · exact .refl s
  · exact SamplesOnly.foldl (fun t g => samplesOnly_sampleGranule ..) _ s

theorem samplesOnly_sampleCells (s : State) (phase : Option Nat) (l : List (Word × Touch)) (gs : List Nat) :
    SamplesOnly s (s.sampleCells phase l gs) := by
  unfold State.sampleCells
  split
  · exact .refl s
  · exact SamplesOnly.foldl (fun t g => samplesOnly_sampleGranule ..) _ s

/-! ## Bytes written one by one (R154) -/

/-- Bytes stored from an address on are bytes written one by one at its successors. -/
theorem memStore_eq_memPuts (m : List Host.Cell) (a : Nat) (bs : List Byte) :
    memStore m a bs = memPuts m (((List.range bs.length).map (a + ·)).zip bs) := by
  induction bs generalizing m a with
  | nil => rfl
  | cons b bs ih =>
    rw [memStore, ih, List.length_cons, List.range_succ_eq_map, List.map_cons, List.zip_cons_cons, List.map_map]
    have hnext : (a + ·) ∘ Nat.succ = (a + 1 + ·) := funext (fun i => by simp only [Function.comp_apply]; omega)
    rw [hnext]
    rfl

theorem memPuts_append (m : List Host.Cell) (l l' : List (Nat × Byte)) : memPuts m (l ++ l') = memPuts (memPuts m l) l' :=
  List.foldl_append ..

/-- A zip is that of a part of its first list with as much of the second, and of both rests. -/
theorem zip_append_left {α β : Type} (l l' : List α) (m : List β) :
    (l ++ l').zip m = l.zip (m.take l.length) ++ l'.zip (m.drop l.length) := by
  induction l generalizing m with
  | nil => simp
  | cons x l ih => cases m <;> simp [ih]

theorem zip_take_left {α β : Type} (l : List α) (m : List β) : (l.take m.length).zip m = l.zip m := by
  induction l generalizing m with
  | nil => simp
  | cons x l ih => cases m <;> simp [ih]

theorem zip_take_right {α β : Type} (l : List α) (m : List β) : l.zip (m.take l.length) = l.zip m := by
  induction l generalizing m with
  | nil => simp
  | cons x l ih => cases m <;> simp [ih]

/-- Bytes written over pieces are bytes written one by one at their keys. -/
theorem putPieces_mem (s : State) (ps : List Piece) (bs : List Byte) :
    (s.putPieces ps bs).mem = memPuts s.mem ((pieceKeys ps).zip bs) := by
  induction ps generalizing s bs with
  | nil => rfl
  | cons p ps ih =>
    have hfirst : (s.putBytes p.key (bs.take p.len)).mem =
        memPuts s.mem (((List.range p.len).map (p.key + ·)).zip (bs.take p.len)) := by
      show memStore s.mem p.key (bs.take p.len) = _
      rw [memStore_eq_memPuts, ← zip_take_left ((List.range p.len).map (p.key + ·)), ← List.map_take]
      have : (List.range p.len).take (bs.take p.len).length = List.range (bs.take p.len).length := by
        rw [List.take_range, List.length_take]; congr 1; omega
      rw [this]
    rw [State.putPieces, ih, hfirst, ← memPuts_append]
    show _ = memPuts s.mem ((((List.range p.len).map (p.key + ·)) ++ pieceKeys ps).zip bs)
    rw [zip_append_left, List.length_map, List.length_range]

/-- Where memories read alike at a byte, they do so after writes at that byte and others that leave it out or in together. -/
theorem memRead_memPuts_filter {m m' : List Host.Cell} (w : Memory.wf m = true) (w' : Memory.wf m' = true) (l : List (Nat × Byte))
    {p : Nat → Bool} {k : Nat} (hp : p k = true) (h : memRead m k = memRead m' k) :
    memRead (memPuts m (l.filter (fun x => p x.1))) k = memRead (memPuts m' l) k := by
  induction l generalizing m m' with
  | nil => exact h
  | cons x l ih =>
    have hstep : memRead (memWrite m' x.1 x.2) k = if k = x.1 then x.2 else memRead m' k := memRead_memWrite w' ..
    by_cases hx : p x.1 = true
    · rw [List.filter_cons, if_pos hx]
      refine ih (wf_memWrite w ..) (wf_memWrite w' x.1 x.2) ?_
      rw [hstep, memRead_memWrite w, h]
    · rw [List.filter_cons, if_neg hx]
      refine ih w (wf_memWrite w' x.1 x.2) ?_
      rw [hstep, if_neg (by rintro rfl; exact hx hp), h]

/-- Writes that leave a byte out leave it. -/
theorem memRead_memPuts_filter_out {m : List Host.Cell} (w : Memory.wf m = true) (l : List (Nat × Byte)) {p : Nat → Bool} {k : Nat}
    (hp : p k = false) : memRead (memPuts m (l.filter (fun x => p x.1))) k = memRead m k := by
  refine memRead_memPuts w (fun x hx => ?_)
  rintro rfl
  simp [hp] at hx

/-! ## Wide stores (R149, R154) -/

/-- Two bytes of one granule of 8 bytes lie in one unit of poison (R149). -/
theorem poisonBase_eq {k j : Nat} (h : k / 8 = j / 8) : poisonBase k = poisonBase j := by
  have hlocal : isLocalKey k = isLocalKey j := by
    simp only [isLocalKey, decide_eq_decide]
    omega
  simp only [poisonBase, poisonUnit, hlocal]
  split <;> omega

/-- Two bytes of one unit of a size that divides 8 are written at one time (R154). -/
theorem groupOf_eq (s : State) (keys : List Nat) {size k j : Nat} (hsize : size ∣ 8) (h : k / size = j / size) :
    s.groupOf keys size k = s.groupOf keys size j := by
  obtain ⟨m, hm⟩ := hsize
  have hgranule : k / 8 = j / 8 := by rw [hm, ← Nat.div_div_eq_div_mul, ← Nat.div_div_eq_div_mul, h]
  simp only [State.groupOf, poisonBase_eq hgranule, h]

/-- The part of a wide store's unit that a byte lies in is still to come (R154). -/
def State.comesLater (s : State) (ps : List Piece) (size k : Nat) : Bool :=
  Config.granuleLate s.free (s.groupOf (pieceKeys ps) size k)

theorem putWide_mem (s : State) (c : CtxId) (size : Nat) (va : Word) (ps : List Piece) (bs : List Byte) :
    (s.putWide c size va ps bs).mem =
      memPuts s.mem (((pieceKeys ps).zip bs).filter (fun x => !s.comesLater ps size x.1)) := by
  show memPuts s.mem (List.map _ (List.map _ (List.filter _ _))) = _
  rw [List.map_map]
  exact congrArg (memPuts s.mem) (List.map_id _)

theorem putWide_late (s : State) (c : CtxId) (size : Nat) (va : Word) (ps : List Piece) (bs : List Byte) :
    (s.putWide c size va ps bs).late =
      s.late ++ [⟨c, size, va, ((pieceKeys ps).zip bs).filter (fun x => s.comesLater ps size x.1), 0, .w64, []⟩] := rfl

/-- What is left of a store alone is written when the context's last accesses are performed (R154). -/
theorem settle_mem {t : State} {c : CtxId} {l : List Late} {a : Late} (hlate : t.late = l ++ [a]) (hl : ∀ x ∈ l, x.cid ≠ c)
    (hc : a.cid = c) (hlanes : a.lanes = []) : (t.settle c).mem = memPuts t.mem a.writes := by
  have hmine : t.late.filter (fun x => x.cid == c) = [a] := by
    rw [hlate, List.filter_append, List.filter_eq_nil_iff.mpr (fun x hx => by simpa using hl x hx)]
    simp [hc]
  show (((t.late.filter (fun x => x.cid == c)).foldl State.perform _ : State)).mem = _
  rw [hmine]
  simp only [List.foldl_cons, List.foldl_nil, State.perform, hlanes, State.putCells, List.map_map]
  exact congrArg (memPuts t.mem) (List.map_id _)

/-- A state with the memory and the late accesses of a wide store of the issuing context has stored wide: each unit is written
now or later as a whole, and all of them once the late ones are performed (R154). -/
theorem storesWide_of_putWide {s t : State} (hs : s.sound) (hset : s.settled) {size : Nat} (hsize : size ∣ 8) {va : Word}
    {ps : List Piece} {bs : List Byte} (hmem : t.mem = (s.putWide s.env.cid size va ps bs).mem)
    (hlate : t.late = (s.putWide s.env.cid size va ps bs).late) : s.storesWide t size ps bs := by
  have hpos : 0 < size := Nat.pos_of_dvd_of_pos hsize (by decide)
  rw [putWide_mem] at hmem
  have hwf : Memory.wf t.mem = true := by rw [hmem]; exact wf_memPuts hs _
  have hnow {k : Nat} (h : s.comesLater ps size k = false) : memRead t.mem k = memRead (s.putPieces ps bs).mem k := by
    rw [hmem, putPieces_mem]
    exact memRead_memPuts_filter hs hs _ (p := fun k => !s.comesLater ps size k) (by simp [h]) rfl
  have hkept {k : Nat} (h : s.comesLater ps size k = true) : memRead t.mem k = memRead s.mem k := by
    rw [hmem]
    exact memRead_memPuts_filter_out hs _ (p := fun k => !s.comesLater ps size k) (by simp [h])
  have hsettled : (t.settle s.env.cid).mem =
      memPuts t.mem (((pieceKeys ps).zip bs).filter (fun x => s.comesLater ps size x.1)) :=
    settle_mem (hlate.trans (putWide_late ..)) hset rfl rfl
  refine ⟨fun k => ?_, fun g => ?_, fun k hk => ?_⟩
  · rw [hsettled]
    cases h : s.comesLater ps size k
    · exact (memRead_memPuts_filter_out hwf _ h).trans (hnow h)
    · rw [putPieces_mem]
      exact memRead_memPuts_filter hwf hs _ h (hkept h)
  · have hunit {k : Nat} (h : k / size = g) : s.comesLater ps size k = s.comesLater ps size (g * size) :=
      congrArg (Config.granuleLate s.free) (groupOf_eq s _ hsize (h.trans (Nat.mul_div_cancel g hpos).symm))
    cases h : s.comesLater ps size (g * size)
    · exact .inr (fun k hk => hnow ((hunit hk).trans h))
    · exact .inl (fun k hk => hkept ((hunit hk).trans h))
  · cases h : s.comesLater ps size k
    · exact (hnow h).trans (memRead_putPieces hs hk bs)
    · exact hkept h

theorem bytes_dvd_eight (f : Fmt) : f.bytes ∣ 8 := by cases f <;> decide

/-! ## Elements that are stored (R272 to R274) -/

theorem memBytes_append (m : List Host.Cell) (a n k : Nat) : memBytes m a (n + k) = memBytes m a n ++ memBytes m (a + n) k := by
  induction n generalizing a with
  | zero => simp [memBytes]
  | succ n ih =>
    rw [show n + 1 + k = (n + k) + 1 by omega, memBytes, memBytes, ih, List.cons_append, show a + 1 + n = a + (n + 1) by omega]

/-- Bytes within a run are the middle part of the run's bytes. -/
theorem memBytes_slice (m : List Host.Cell) (a : Nat) {i n k : Nat} (h : i + k ≤ n) :
    memBytes m (a + i) k = ((memBytes m a n).drop i).take k := by
  obtain ⟨j, rfl⟩ : ∃ j, n = i + (k + j) := ⟨n - i - k, by omega⟩
  rw [memBytes_append, List.drop_left' (length_memBytes ..), memBytes_append, List.take_left' (length_memBytes ..)]

/-- A number at a key is what its bytes read. -/
theorem natAt_congr {s t : State} {key n : Nat} (h : ∀ k, key ≤ k → k < key + n → memRead t.mem k = memRead s.mem k) :
    t.natAt key n = s.natAt key n := congrArg leNat (memBytes_congr h)

/-- In a list of pieces of e values each, element i is what the i-th makes. -/
theorem flatMap_slice {α β : Type} {f : α → List β} {e : Nat} (hf : ∀ x, (f x).length = e) {l : List α} {i : Nat} {x : α}
    (h : l[i]? = some x) : ((l.flatMap f).drop (i * e)).take e = f x := by
  induction l generalizing i with
  | nil => simp at h
  | cons y l ih =>
    cases i with
    | zero =>
      obtain rfl : y = x := by simpa using h
      rw [Nat.zero_mul, List.drop_zero, List.flatMap_cons, List.take_left' (hf y)]
    | succ i =>
      rw [List.flatMap_cons, Nat.succ_mul, Nat.add_comm, ← List.drop_drop, List.drop_left' (hf y)]
      exact ih (by simpa using h)

/-- The stored elements of the lanes of a vector. -/
theorem slice_bytesOfLanes (f : Fmt) (v : VecWord) {i : Nat} (hi : i < 64) :
    ((bytesOfLanes f v).drop (i * f.bytes)).take f.bytes = leBytes f.bytes (lane v i).toNat :=
  flatMap_slice (fun x => length_leBytes ..) (by simp [lanes, hi])

theorem length_bytesOfLanes (f : Fmt) (v : VecWord) : (bytesOfLanes f v).length = 64 * f.bytes := by
  simp only [bytesOfLanes, List.length_flatMap, length_leBytes, List.map_const', List.sum_replicate, lanes, List.length_map,
    List.length_range, smul_eq_mul]

theorem putPieces_append (s : State) (ps qs : List Piece) (bs : List Byte) :
    s.putPieces (ps ++ qs) bs = (s.putPieces ps bs).putPieces qs (bs.drop (ps.map (·.len)).sum) := by
  induction ps generalizing s bs with
  | nil => rfl
  | cons p ps ih => simp only [List.cons_append, State.putPieces, ih, List.map_cons, List.sum_cons, List.drop_drop]

/-- Of the pieces that are written one after another, one that no later piece meets holds its own part of the bytes. -/
theorem bytesAt_putPieces {s : State} (hs : s.sound) (ps qs : List Piece) (p : Piece) {bs cs : List Byte}
    (hq : ∀ q ∈ qs, q.key + q.len ≤ p.key ∨ p.key + p.len ≤ q.key)
    (hcs : (bs.drop (ps.map (·.len)).sum).take p.len = cs) (hlen : cs.length = p.len) :
    (s.putPieces (ps ++ p :: qs) bs).bytesAt p.key p.len = cs := by
  rw [putPieces_append]
  have hu := sound_putPieces hs ps bs
  generalize s.putPieces ps bs = u at hu ⊢
  rw [State.putPieces, hcs]
  have hown : (u.putBytes p.key cs).bytesAt p.key p.len = cs := hlen ▸ bytesAt_putBytes hu p.key cs
  refine (memBytes_congr (fun k h1 h2 => ?_)).trans hown
  refine memRead_putPieces (sound_putBytes hu ..) (fun q hqm => ?_) _
  have := hq q hqm
  omega

/-- The same for touches of one width, with the i-th of some values in the i-th. -/
theorem natAt_putPieces_element {s : State} (hs : s.sound) {tc : List Touch} {e : Nat} (he : ∀ x ∈ tc, x.len = e)
    {vals : List Lane} {i : Nat} {x : Touch} {v : Lane} (hx : tc[i]? = some x) (hv : vals[i]? = some v)
    (hlater : ∀ j y, i < j → tc[j]? = some y → y.key + y.len ≤ x.key ∨ x.key + x.len ≤ y.key) :
    (s.putPieces (piecesOf tc) (vals.flatMap (fun x => leBytes e x.toNat))).natAt x.key x.len = v.toNat % 2 ^ (8 * x.len) := by
  obtain ⟨hi, hxi⟩ := List.getElem?_eq_some_iff.mp hx
  have hxe : x.len = e := he x (List.mem_of_getElem? hx)
  have hsplit : tc = tc.take i ++ x :: tc.drop (i + 1) := by
    rw [← hxi, List.getElem_cons_drop, List.take_append_drop]
  have hsum : ((piecesOf (tc.take i)).map (·.len)).sum = i * e := by
    have hmap : (piecesOf (tc.take i)).map (·.len) = (tc.take i).map (fun _ => e) := by
      rw [piecesOf, List.map_map]
      exact List.map_congr_left (fun y hy => he y (List.mem_of_mem_take hy))
    rw [hmap]
    simp [Nat.min_eq_left (Nat.le_of_lt hi)]
  have hbytes := bytesAt_putPieces hs (piecesOf (tc.take i)) (piecesOf (tc.drop (i + 1))) ⟨x.key, x.len⟩
    (bs := vals.flatMap (fun x => leBytes e x.toNat)) (cs := leBytes e v.toNat) (fun q hq => ?_)
    (by rw [hsum, hxe]; exact flatMap_slice (fun _ => length_leBytes ..) hv) (by rw [length_leBytes, hxe])
  · have hps : piecesOf tc = piecesOf (tc.take i) ++ ⟨x.key, x.len⟩ :: piecesOf (tc.drop (i + 1)) := by
      conv_lhs => rw [hsplit]
      simp [piecesOf]
    rw [State.natAt, hps, hbytes, leNat_leBytes, hxe]
  · obtain ⟨y, hy, rfl⟩ := List.mem_map.mp hq
    obtain ⟨j, hj⟩ := List.mem_iff_getElem?.mp hy
    rw [List.getElem?_drop] at hj
    exact hlater _ y (by omega) hj

end Sys2Proof.Machine
end

section
/-!
O24: stores of scalars and vectors, and the bytes that they leave alone (spec/10 R272 to R275; spec/05 R154).
-/
namespace Sys2Proof.Machine

/-! ## What an access leaves behind (R148, R436, R493) -/

/-- A walk or a mark: it leaves registers, slip buffers and cores, and where no unit holds an error, every byte, every mark of
poison and that no unit holds one (R148, R436, R493). -/
def LeavesAlone (s t : State) : Prop :=
  (∀ c, (s.ctx c).sameRegisters (t.ctx c) ∧ (t.ctx c).slip = (s.ctx c).slip) ∧ t.cores = s.cores ∧
  (s.damaged = [] → t.mem = s.mem ∧ t.poison = s.poison ∧ t.damaged = [])

theorem sameRegisters_refl (x : Ctx) : x.sameRegisters x := ⟨rfl, rfl, rfl, rfl, rfl, rfl, rfl, rfl, rfl, rfl⟩

theorem sameRegisters_trans {x y z : Ctx} (h : x.sameRegisters y) (k : y.sameRegisters z) : x.sameRegisters z := by
  unfold Ctx.sameRegisters at *
  obtain ⟨h1, h2, h3, h4, h5, h6, h7, h8, h9, h10⟩ := h
  obtain ⟨k1, k2, k3, k4, k5, k6, k7, k8, k9, k10⟩ := k
  exact ⟨k1.trans h1, k2.trans h2, k3.trans h3, k4.trans h4, k5.trans h5, k6.trans h6, k7.trans h7, k8.trans h8, k9.trans h9,
    k10.trans h10⟩

namespace LeavesAlone

theorem of_ctxs {s t : State} (hx : t.ctxs = s.ctxs) (hc : t.cores = s.cores)
    (hm : s.damaged = [] → t.mem = s.mem ∧ t.poison = s.poison ∧ t.damaged = []) : LeavesAlone s t := by
  refine ⟨fun c => ?_, hc, hm⟩
  have hctx : t.ctx c = s.ctx c := by simp only [State.ctx, hx]
  rw [hctx]
  exact ⟨sameRegisters_refl _, rfl⟩

theorem refl (s : State) : LeavesAlone s s := of_ctxs rfl rfl (fun h => ⟨rfl, rfl, h⟩)

theorem trans {s t u : State} (h : LeavesAlone s t) (k : LeavesAlone t u) : LeavesAlone s u := by
  obtain ⟨hctx, hcores, hmem⟩ := h
  obtain ⟨kctx, kcores, kmem⟩ := k
  refine ⟨fun c => ⟨sameRegisters_trans (hctx c).1 (kctx c).1, (kctx c).2.trans (hctx c).2⟩, kcores.trans hcores, fun hd => ?_⟩
  obtain ⟨h1, h2, h3⟩ := hmem hd
  obtain ⟨k1, k2, k3⟩ := kmem h3
  exact ⟨k1.trans h1, k2.trans h2, k3⟩

theorem foldl {α : Type} {f : State → α → State} (hf : ∀ t x, LeavesAlone t (f t x)) (l : List α) (s : State) :
    LeavesAlone s (l.foldl f s) := foldl_related refl trans hf l s

end LeavesAlone

/-- Where no unit holds an error, a read finds none. -/
theorem readErrors_of_undamaged {s : State} (h : s.damaged = []) (r : Reader) (ps : List Piece) : s.readErrors r ps = s := by
  have hs : ({ s with damaged := [] } : State) = s := by rw [← h]
  simp only [State.readErrors, State.errorsFound, h, List.filter_nil, List.foldl_nil, hs]

theorem leavesAlone_readErrors (s : State) (r : Reader) (ps : List Piece) : LeavesAlone s (s.readErrors r ps) :=
  .of_ctxs rfl rfl (fun h => by rw [readErrors_of_undamaged h]; exact ⟨rfl, rfl, h⟩)

theorem leavesAlone_noteTlb (s : State) (core : CoreId) (r : Reader) : LeavesAlone s (s.noteTlb core r) := by
  unfold State.noteTlb
  split
  · exact .refl s
  · have hread := leavesAlone_readErrors s r ((s.walkKeys r.va 4 (s.partOf r.part).root.toNat 0).map (fun k => ⟨k, 8⟩))
    dsimp only
    refine hread.trans ?_
    split
    · exact .of_ctxs rfl rfl (fun h => ⟨rfl, rfl, h⟩)
    · exact .refl _

theorem leavesAlone_noteIssue (t s : State) (sp : Space) (va : Word) (n : Nat) : LeavesAlone t (t.noteIssue s sp va n) := by
  unfold State.noteIssue
  split
  · exact .refl t
  · cases sp
    case glob => exact LeavesAlone.foldl (fun _ _ => leavesAlone_noteTlb ..) _ t
    all_goals exact .refl t

/-- The marks of HOST pages stand on results alone. -/
theorem leavesAlone_markHost (t : State) (tc : List Touch) (n : Nat) : LeavesAlone t (t.markHost tc n) := by
  unfold State.markHost
  split
  · refine ⟨fun c => ?_, rfl, fun h => ⟨rfl, rfl, h⟩⟩
    unfold State.mapCx
    by_cases hc : c = t.env.cid
    · subst hc
      rw [ctx_mapCtx_self]
      exact ⟨sameRegisters_refl _, rfl⟩
    · rw [ctx_mapCtx_ne _ _ hc]
      exact ⟨sameRegisters_refl _, rfl⟩
  · exact .refl t

theorem LeavesAlone.leavesAlone {t u : State} (h : LeavesAlone t u) : t.leavesAlone u := by
  obtain ⟨hctx, hcores, hmem⟩ := h
  exact ⟨hctx, hcores, fun hd => ⟨(hmem hd).1, (hmem hd).2.1⟩⟩

theorem leavesAlone_accessDone (s t : State) (sp : Space) (va : Word) (n : Nat) (tc : List Touch) :
    t.leavesAlone (s.accessDone sp va n tc t) :=
  ((leavesAlone_markHost ..).trans (leavesAlone_noteIssue ..)).leavesAlone

theorem leavesAlone_lanesDone (s t : State) (sp : Space) (vas : List Word) (n : Nat) (tc : List Touch) :
    t.leavesAlone (s.lanesDone sp vas n tc t) :=
  ((leavesAlone_markHost ..).trans (LeavesAlone.foldl (fun _ _ => leavesAlone_noteIssue ..) vas _)).leavesAlone

/-! ## What a store leaves of its context -/

/-- Nothing that a program reads of the issuing context or of the ring tables and banks has changed: the frame of a store. -/
def StoreFrame (s t : State) : Prop :=
  t.cx.s = s.cx.s ∧ t.cx.v = s.cx.v ∧ t.cx.p = s.cx.p ∧ t.cx.acc = s.cx.acc ∧ t.cx.h = s.cx.h ∧ t.cx.trap = s.cx.trap ∧
  t.cx.results = s.cx.results ∧ t.cores = s.cores

/-- A write of memory whose sampling follows is framed (R177). -/
theorem SamplesOnly.storeFrame {s u t : State} (h : SamplesOnly u t) (hx : u.cx = s.cx) (hc : u.cores = s.cores) : StoreFrame s t := by
  unfold StoreFrame
  rw [h.cx, h.cores, hx, hc]
  exact ⟨rfl, rfl, rfl, rfl, rfl, rfl, rfl, rfl⟩

theorem putPieces_cx (s : State) (ps : List Piece) (bs : List Byte) : (s.putPieces ps bs).cx = s.cx :=
  (storesOnly_putPieces s ps bs).keeps State.cx rfl

theorem storeAt_samples (s : State) (va : Word) (tc : List Touch) (bs : List Byte) :
    SamplesOnly ((s.putPieces (piecesOf tc) bs).wakeOn (piecesOf tc)) (s.storeAt va tc bs) := samplesOnly_sampleWrites ..

theorem storeAt_mem (s : State) (va : Word) (tc : List Touch) (bs : List Byte) :
    (s.storeAt va tc bs).mem = (s.putPieces (piecesOf tc) bs).mem := (storeAt_samples s va tc bs).mem

theorem storeAt_frame (s : State) (va : Word) (tc : List Touch) (bs : List Byte) : StoreFrame s (s.storeAt va tc bs) :=
  (storeAt_samples s va tc bs).storeFrame (putPieces_cx ..) (storesOnly_putPieces ..).cores

theorem storeWide_samples (s : State) (size : Nat) (runs : List (Word × Touch)) (bs : List Byte) :
    SamplesOnly ((s.putWide s.env.cid size ((runs.map (·.1)).headD 0) (piecesOf (runs.map (·.2))) bs).wakeOn
      (piecesOf (runs.map (·.2)))) (s.storeWide size runs bs) := samplesOnly_sampleWrites ..

theorem storeWide_frame (s : State) (size : Nat) (runs : List (Word × Touch)) (bs : List Byte) :
    StoreFrame s (s.storeWide size runs bs) := (storeWide_samples s size runs bs).storeFrame rfl rfl

theorem storeWide_storesWide {s : State} (hs : s.sound) (hset : s.settled) {size : Nat} (hsize : size ∣ 8)
    (runs : List (Word × Touch)) (bs : List Byte) :
    s.storesWide (s.storeWide size runs bs) size (piecesOf (runs.map (·.2))) bs :=
  storesWide_of_putWide hs hset hsize (storeWide_samples ..).mem (storeWide_samples ..).late

/-- Once all is performed, a wide store reads at every key like a store of the same bytes at once (R154). -/
theorem natAt_settle {s t : State} {size : Nat} {ps : List Piece} {bs : List Byte} (h : s.storesWide t size ps bs) (key n : Nat) :
    (t.settle s.env.cid).natAt key n = (s.putPieces ps bs).natAt key n := natAt_congr (fun k _ _ => h.1 k)

/-! ## The stores (R272 to R274) -/

theorem map_snd_withVa (va : Word) (tc : List Touch) : (withVa va tc).map (·.2) = tc := by
  induction tc generalizing va with
  | nil => rfl
  | cons t tc ih => rw [withVa, List.map_cons, ih]

/-- A run that is stored whole holds the bytes stored, and its elements theirs. -/
theorem natAt_putPieces_run {s : State} (hs : s.sound) (key : Nat) {bs : List Byte} {i e : Nat} (h : i + e ≤ bs.length) :
    (s.putPieces [⟨key, bs.length⟩] bs).natAt (key + i) e = leNat ((bs.drop i).take e) := by
  have hrun : (s.putPieces [⟨key, bs.length⟩] bs).bytesAt key bs.length = bs := by
    simp only [State.putPieces, List.take_length]
    exact bytesAt_putBytes hs key bs
  rw [State.natAt, State.bytesAt, memBytes_slice _ _ h]
  exact congrArg (fun l => leNat ((l.drop i).take e)) hrun

theorem st_reaches {s : State} {sp : Space} {ty : Fmt} {a : SReg} {ba : SOpd} {off : BitVec 4} {tc : List Touch} (hs : s.sound)
    (h : s.issuesInOrder (.st sp ty a ba off) (SOpd.src ba ++ [.s a])) :
    let f := s.accessFmt ty
    let va := s.operandS ba + BitVec.ofInt 64 (off.toInt * f.bytes)
    s.reaches sp .write va f.bytes f.bytes tc →
    ∃ t : State, exec (.st sp ty a ba off) s = .next (s.accessDone sp va f.bytes tc t) ∧ StoreFrame s t ∧
      (∀ k, memRead t.mem k = memRead (s.putPieces (piecesOf tc) (leBytes f.bytes (s.cx.rs a).toNat)).mem k) ∧
      (∀ k, outsidePieces (piecesOf tc) k → memRead t.mem k = memRead s.mem k) ∧
      ∀ key, tc = [⟨true, key, f.bytes⟩] → t.natAt key f.bytes = (s.cx.rs a).toNat % 2 ^ (8 * f.bytes) := by
  intro f va hr
  have hb := issuesInOrder_slipped h
  have hmem := storeAt_mem s va tc (leBytes f.bytes (s.cx.rs a).toNat)
  refine ⟨s.storeAt va tc (leBytes f.bytes (s.cx.rs a).toNat), ?_, storeAt_frame .., fun k => by rw [hmem],
    fun k hk => by rw [hmem]; exact memRead_putPieces hs hk _, ?_⟩
  · rw [exec_st, eaMS_of_bundle hb, memOp_reaches _ h.1 h.2 hr]
    show Host.Outcome.next (s.accessDone sp va f.bytes tc (s.storeAt va tc (leBytes f.bytes (s.rs a).toNat))) = _
    rw [rs_of_bundle hb]
  · rintro key rfl
    have hrun := natAt_putPieces_run hs key (bs := leBytes f.bytes (s.cx.rs a).toNat) (i := 0) (e := f.bytes)
      (by rw [length_leBytes, Nat.zero_add])
    rw [length_leBytes, List.drop_zero, List.take_of_length_le (by rw [length_leBytes]), leNat_leBytes] at hrun
    exact (natAt_congr (fun k _ _ => by rw [hmem]; rfl)).trans hrun

theorem vst_reaches {s : State} {sp : Space} {ty : Fmt} {va : VReg} {ba : SOpd} {off : BitVec 5} {tc : List Touch} (hs : s.sound)
    (hset : s.settled) (h : s.issuesInOrder (.vst sp ty va ba off) (SOpd.src ba ++ [.v va])) :
    let f := s.accessFmt ty
    let ea := s.operandS ba + BitVec.ofInt 64 (off.toInt * 256)
    s.reaches sp .write ea (64 * f.bytes) 8 tc →
    ∃ t : State, exec (.vst sp ty va ba off) s = .next (s.accessDone sp ea (64 * f.bytes) tc t) ∧ StoreFrame s t ∧
      s.storesWide t 8 (piecesOf tc) (bytesOfLanes f (s.cx.rv va)) ∧
      ∀ key, tc = [⟨true, key, 64 * f.bytes⟩] → ∀ i, i < 64 →
        (t.settle s.env.cid).natAt (key + i * f.bytes) f.bytes = (lane (s.cx.rv va) i).toNat % 2 ^ (8 * f.bytes) := by
  intro f ea hr
  have hb := issuesInOrder_slipped h
  have hwide := storeWide_storesWide hs hset (Nat.dvd_refl 8) (withVa ea tc) (bytesOfLanes f (s.cx.rv va))
  rw [map_snd_withVa] at hwide
  refine ⟨s.storeWide 8 (withVa ea tc) (bytesOfLanes f (s.cx.rv va)), ?_, storeWide_frame .., hwide, ?_⟩
  · show s.memOp ⟨.vst sp ty va ba off, SOpd.src ba, [.v va], [], false, 0⟩ sp .write (s.eaMV ba off) (64 * f.bytes) 8
      (fun tc t => t.storeWide 8 (withVa (s.eaMV ba off) tc) (bytesOfLanes f (t.rv va))) = _
    rw [eaMV_of_bundle hb, memOp_reaches _ h.1 h.2 hr]
    show Host.Outcome.next (s.accessDone sp ea (64 * f.bytes) tc (s.storeWide 8 (withVa ea tc) (bytesOfLanes f (s.rv va)))) = _
    rw [rv_of_bundle hb]
  · rintro key rfl i hi
    have hslot : i * f.bytes + f.bytes ≤ 64 * f.bytes := by
      rw [← Nat.succ_mul]
      exact Nat.mul_le_mul_right f.bytes hi
    have hrun := natAt_putPieces_run hs key (bs := bytesOfLanes f (s.cx.rv va)) (i := i * f.bytes) (e := f.bytes)
      (by rw [length_bytesOfLanes]; exact hslot)
    rw [length_bytesOfLanes, slice_bytesOfLanes f _ hi, leNat_leBytes] at hrun
    exact (natAt_settle hwide _ _).trans hrun

/-- A strided or indexed store of values, one an element: what it stores, and what it leaves (R154, R274). -/
theorem storeWide_elements {s : State} (hs : s.sound) (hset : s.settled) (f : Fmt) {vas : List Word} {tc : List Touch}
    (vals : List Lane) (hlen : tc.length ≤ vas.length) :
    let t := s.storeWide f.bytes (vas.zip tc) (vals.flatMap (fun x => leBytes f.bytes x.toNat))
    s.storesWide t f.bytes (piecesOf ((vas.zip tc).map (·.2))) (vals.flatMap (fun x => leBytes f.bytes x.toNat)) ∧
    ((∀ x ∈ tc, x.len = f.bytes) → ∀ (i : Nat) (x : Touch) (v : Lane), tc[i]? = some x → vals[i]? = some v →
      (∀ (j : Nat) (y : Touch), i < j → tc[j]? = some y → y.key + y.len ≤ x.key ∨ x.key + x.len ≤ y.key) →
      (t.settle s.env.cid).natAt x.key x.len = v.toNat % 2 ^ (8 * x.len)) := by
  intro t
  have hwide := storeWide_storesWide hs hset (bytes_dvd_eight f) (vas.zip tc) (vals.flatMap (fun x => leBytes f.bytes x.toNat))
  refine ⟨hwide, fun hwidth i x v hx hv hlater => ?_⟩
  rw [natAt_settle hwide, show (vas.zip tc).map (·.2) = tc from List.map_snd_zip hlen]
  exact natAt_putPieces_element hs hwidth hx hv hlater

/-- The checks of several elements may fix fewer or more pieces of storage than elements; what is stored lies in the first of
them, one an address. -/
theorem storeWide_elements_within {s : State} (hs : s.sound) (hset : s.settled) (f : Fmt) {vas : List Word} {tc : List Touch}
    (vals : List Lane) {n : Nat} (hvas : vas.length = n) :
    let t := s.storeWide f.bytes (vas.zip tc) (vals.flatMap (fun x => leBytes f.bytes x.toNat))
    s.storesWide t f.bytes (piecesOf ((vas.zip tc).map (·.2))) (vals.flatMap (fun x => leBytes f.bytes x.toNat)) ∧
    ((∀ x ∈ tc, x.len = f.bytes) → ∀ (i : Nat) (x : Touch) (v : Lane), i < n → tc[i]? = some x → vals[i]? = some v →
      (∀ (j : Nat) (y : Touch), i < j → j < n → tc[j]? = some y → y.key + y.len ≤ x.key ∨ x.key + x.len ≤ y.key) →
      (t.settle s.env.cid).natAt x.key x.len = v.toNat % 2 ^ (8 * x.len)) := by
  have hzip : vas.zip tc = vas.zip (tc.take n) := by rw [← hvas, zip_take_right]
  obtain ⟨hwide, helements⟩ := storeWide_elements hs hset f (vas := vas) (tc := tc.take n) vals (by simp [hvas])
  rw [← hzip] at hwide helements
  refine ⟨hwide, fun hwidth i x v hi hx hv hlater => ?_⟩
  refine helements (fun y hy => hwidth y (List.mem_of_mem_take hy)) i x v (by rw [List.getElem?_take, if_pos hi, hx]) hv
    (fun j y hij hy => ?_)
  rw [List.getElem?_take] at hy
  split at hy
  · exact hlater j y hij ‹_› hy
  · cases hy

theorem vsts_reaches {s : State} {sp : Space} {ty : Fmt} {va : VReg} {ba : SOpd} {sr : SReg} {tc : List Touch} (hs : s.sound)
    (hset : s.settled) (h : s.issuesInOrder (.vsts sp ty va ba sr) (.s sr :: SOpd.src ba ++ [.v va])) :
    let f := s.accessFmt ty
    let vas := (List.range 64).map (fun i => s.operandS ba + BitVec.ofNat 64 i * s.cx.rs sr)
    s.reachesLanes sp .write vas f.bytes tc →
    ∃ t : State, exec (.vsts sp ty va ba sr) s = .next (s.lanesDone sp vas f.bytes tc t) ∧ StoreFrame s t ∧
      s.storesWide t f.bytes (piecesOf ((vas.zip tc).map (·.2))) (bytesOfLanes f (s.cx.rv va)) ∧
      ((∀ x ∈ tc, x.len = f.bytes) → ∀ i x, i < 64 → tc[i]? = some x →
        (∀ j y, i < j → j < 64 → tc[j]? = some y → y.key + y.len ≤ x.key ∨ x.key + x.len ≤ y.key) →
        (t.settle s.env.cid).natAt x.key x.len = (lane (s.cx.rv va) i).toNat % 2 ^ (8 * x.len)) := by
  intro f vas hr
  have hb := issuesInOrder_slipped h
  obtain ⟨hwide, helements⟩ := storeWide_elements_within hs hset f (vas := vas) (tc := tc) (lanes (s.cx.rv va)) (n := 64) (by simp [vas])
  refine ⟨_, ?_, storeWide_frame .., hwide, fun hwidth i x hi hx hlater =>
    helements hwidth i x _ hi hx (by simp [lanes, hi]) hlater⟩
  show s.laneOp ⟨.vsts sp ty va ba sr, .s sr :: SOpd.src ba, [.v va], [], false, 0⟩ sp .write
    (stridedAddrs (s.rso ba) (s.rs sr)) f.bytes
    (fun tc t => t.storeWide f.bytes ((stridedAddrs (s.rso ba) (s.rs sr)).zip tc) (bytesOfLanes f (t.rv va))) = _
  rw [rso_of_bundle hb, rs_of_bundle hb, show stridedAddrs (s.operandS ba) (s.cx.rs sr) = vas from rfl, laneOp_reaches _ h.1 h.2 hr]
  show Host.Outcome.next (s.lanesDone sp vas f.bytes tc (s.storeWide f.bytes (vas.zip tc) (bytesOfLanes f (s.rv va)))) = _
  rw [rv_of_bundle hb]
  rfl

/-- The values of the active lanes of a vector. -/
theorem activeValues_eq (idx v : VecWord) :
    activeValues (activeLanes idx) v = ((List.range 64).filter (activeLane idx)).map (lane v) := by
  have hzip : (activeLanes idx).zip (lanes v) = (List.range 64).map (fun i => (activeLane idx i, lane v i)) := by
    rw [activeLanes, lanes, lanes, List.map_map, List.zip_map']
    rfl
  rw [activeValues, hzip, List.filter_map, List.map_map]
  rfl

theorem scat_reaches {s : State} {sp : Space} {ty : Fmt} {va vi : VReg} {ba : SOpd} {tc : List Touch} (hs : s.sound)
    (hset : s.settled) (h : s.issuesInOrder (.scat sp ty va vi ba) (.v vi :: SOpd.src ba ++ [.v va])) :
    let f := s.accessFmt ty
    let vas := ((List.range 64).filter (activeLane (s.cx.rv vi))).map (fun i =>
      s.operandS ba + (lane (s.cx.rv vi) i).signExtend 64 * BitVec.ofNat 64 f.bytes)
    let vals := ((List.range 64).filter (activeLane (s.cx.rv vi))).map (lane (s.cx.rv va))
    s.reachesLanes sp .write vas f.bytes tc →
    ∃ t : State, exec (.scat sp ty va vi ba) s = .next (s.lanesDone sp vas f.bytes tc t) ∧ StoreFrame s t ∧
      s.storesWide t f.bytes (piecesOf ((vas.zip tc).map (·.2))) (vals.flatMap (fun x => leBytes f.bytes x.toNat)) ∧
      ((∀ x ∈ tc, x.len = f.bytes) → ∀ i x v, tc[i]? = some x → vals[i]? = some v →
        (∀ j y, i < j → j < vals.length → tc[j]? = some y → y.key + y.len ≤ x.key ∨ x.key + x.len ≤ y.key) →
        (t.settle s.env.cid).natAt x.key x.len = v.toNat % 2 ^ (8 * x.len)) := by
  intro f vas vals hr
  have hb := issuesInOrder_slipped h
  obtain ⟨hwide, helements⟩ := storeWide_elements_within hs hset f (vas := vas) (tc := tc) vals (n := vals.length)
    (by simp [vas, vals])
  refine ⟨_, ?_, storeWide_frame .., hwide, fun hwidth i x v hx hv hlater =>
    helements hwidth i x v (List.getElem?_eq_some_iff.mp hv).1 hx hv hlater⟩
  show s.laneOp ⟨.scat sp ty va vi ba, .v vi :: SOpd.src ba, [.v va], [], false, 0⟩ sp .write
    (indexedAddrs (s.rso ba) f.bytes (s.rv vi)) f.bytes
    (fun tc t => t.storeWide f.bytes ((indexedAddrs (s.rso ba) f.bytes (s.rv vi)).zip tc)
      ((activeValues (activeLanes (s.rv vi)) (t.rv va)).flatMap (fun x => leBytes f.bytes x.toNat))) = _
  rw [rso_of_bundle hb, rv_of_bundle hb, show indexedAddrs (s.operandS ba) f.bytes (s.cx.rv vi) = vas from indexedAddrs_eq ..,
    laneOp_reaches _ h.1 h.2 hr]
  show Host.Outcome.next (s.lanesDone sp vas f.bytes tc (s.storeWide f.bytes (vas.zip tc)
    ((activeValues (activeLanes (s.cx.rv vi)) (s.rv va)).flatMap (fun x => leBytes f.bytes x.toNat)))) = _
  rw [rv_of_bundle hb, activeValues_eq]

/-- Settles O24: each store does its action on the storage of its checks; what follows it touches no register and no byte. -/
theorem storesAndTheirFrame : Obligations.StoresAndTheirFrame := by
  unfold Obligations.StoresAndTheirFrame
  refine ⟨⟨fun s sp ty a ba off tc hs h hr => st_reaches hs h hr, fun s sp ty va ba off tc hs hset h hr => vst_reaches hs hset h hr⟩,
    ⟨fun s sp ty va ba sr tc hs hset h hr => vsts_reaches hs hset h hr,
      fun s sp ty va vi ba tc hs hset h hr => scat_reaches hs hset h hr, fun s hint ba off => rfl⟩,
    fun s t sp va vas n tc => ⟨leavesAlone_accessDone .., leavesAlone_lanesDone ..⟩⟩

end Sys2Proof.Machine
end

section
/-!
O29: rings, their definition and pointers, and accesses through a ring operand (spec/05 R131 to R136; spec/10 R272, R273, R277 to
R279).
-/
namespace Sys2Proof.Machine

/-! ## Joins of copies (R36, R141) -/

/-- Flags of a bundle's instruction change its context alone. -/
theorem addFlags_env (s : State) (lat : Nat) (fl : Flags) (h : s.env.slipped = none) : (s.addFlags lat fl).env = s.env := by
  unfold State.addFlags
  split
  · rw [deliverR_of_bundle h]; rfl
  · rfl

theorem joinCopies_env {s : State} (h : s.env.slipped = none) (lat : Nat) (test : Copy → Bool) :
    (s.joinCopies lat test).env = s.env := by
  unfold State.joinCopies
  split
  · rfl
  · exact addFlags_env _ _ _ h

theorem joinRing_env {s : State} (h : s.env.slipped = none) (lat : Nat) (r : HReg) : (s.joinRing lat r).env = s.env := by
  unfold State.joinRing
  split
  · exact joinCopies_env h ..
  · rfl

/-! ## Handles and ring tables (R131, R133, R277) -/

theorem rh_bind (x : Ctx) (h g : HReg) (e : BitVec 6) :
    ({ x with h := x.h.set h.toNat (some e) h.isLt } : Ctx).rh g = if g = h then some e else x.rh g := by
  by_cases hg : g = h
  · subst hg; simp [Ctx.rh]
  · have hne : h.toNat ≠ g.toNat := fun e => hg (BitVec.eq_of_toNat_eq e.symm)
    simp [Ctx.rh, hg, hne]

theorem ringAt_mapRing_ne (s : State) (c : CoreId) {n e : BitVec 6} (f : Ring → Ring) (h : e ≠ n) :
    (s.mapRing c n f).ringAt c e = s.ringAt c e := by
  have hne : n.toNat ≠ e.toNat := fun x => h (BitVec.eq_of_toNat_eq x.symm)
  simp [State.ringAt, State.mapRing, core_mapCore, hne]

/-- With empty slip buffers no waiting instruction uses an entry that is to be defined. -/
theorem ringUsers_of_empty {s : State} (h : s.cx.slip = []) (e : BitVec 6) : s.ringUsers e = [] := by
  simp [State.ringUsers, h]

theorem exec_rdef {s : State} {h : HReg} {a : SReg} {tc : List Touch} (hi : s.issues [.s a]) (hslip : s.cx.slip = [])
    (hc : s.checkRdef h (s.cx.rs a) = .ok tc) : exec (.rdef h a) s = .next
      (if (s.cx.rs a).getLsbD 37 then
        s.mapCx (fun x => { x with h := x.h.set h.toNat (some ((s.cx.rs a).setWidth 6)) h.isLt })
      else
        ((s.mapRing s.myCore (s.ownEntry h) (fun _ => ringFrom (s.cx.rs a) s.myRegion)).mapCx
          (fun x => { x with h := x.h.set h.toNat (some (s.ownEntry h)) h.isLt })).loseRing (s.ownEntry h)) := by
  show execRdef h a s = _
  unfold execRdef
  dsimp only
  rw [if_neg (by simp [ringUsers_of_empty hslip]), rs_of_bundle hi.1, hc,
    operateNow_ok (sh := ⟨.rdef h a, [.s a], [], [], false, 0⟩) (l := []) hi]

theorem rdef_binds {s : State} {h : HReg} {a : SReg} {tc : List Touch} (hi : s.issues [.s a]) (hslip : s.cx.slip = [])
    (hc : s.checkRdef h (s.cx.rs a) = .ok tc) (hw : (s.cx.rs a).getLsbD 37 = true) :
    ∃ t : State, exec (.rdef h a) s = .next t ∧ t.mem = s.mem ∧ t.cores = s.cores ∧
      ∀ g, t.cx.rh g = if g = h then some ((s.cx.rs a).setWidth 6) else s.cx.rh g := by
  refine ⟨_, exec_rdef hi hslip hc, ?_⟩
  rw [if_pos hw]
  exact ⟨rfl, rfl, fun g => by rw [cx_mapCx, rh_bind]⟩

theorem rdef_defines {s : State} {h : HReg} {a : SReg} {tc : List Touch} (hi : s.issues [.s a]) (hslip : s.cx.slip = [])
    (hc : s.checkRdef h (s.cx.rs a) = .ok tc) (hw : (s.cx.rs a).getLsbD 37 = false) :
    ∃ t : State, exec (.rdef h a) s = .next t ∧ t.mem = s.mem ∧
      t.cores = (s.mapRing s.myCore (s.ownEntry h) (fun _ => ringFrom (s.cx.rs a) s.myRegion)).cores ∧
      ∀ g, t.cx.rh g = if g = h then some (s.ownEntry h) else s.cx.rh g := by
  refine ⟨_, exec_rdef hi hslip hc, ?_⟩
  rw [if_neg (by rw [hw]; exact Bool.false_ne_true)]
  refine ⟨rfl, rfl, fun g => ?_⟩
  unfold State.loseRing
  rw [cx_mapCx, cx_mapCx]
  exact rh_bind s.cx h g (s.ownEntry h)

/-! ## Pointer updates (R134, R278) -/

theorem min_decide_lt (a b : Nat) : decide (min a b < a) = decide (b < a) := decide_eq_decide.mpr (by omega)

/-- advp moves slots from FREE to FILL, as many as there are. -/
theorem advp_fields (r : Ring) (n : Nat) (hroom : r.free.toNat + r.fill.toNat ≤ 4096) :
    let q := r.advp n
    let m := min n r.free.toNat
    q.free.toNat = r.free.toNat - m ∧ q.fill.toNat = r.fill.toNat + m ∧ q.pend = r.pend ∧ q.rptr = r.rptr ∧
    q.wptr.toNat = (r.wptr.toNat + m) % r.nsl ∧ q.err = (r.err || decide (r.free.toNat < n)) := by
  have hnsl : r.nsl ≤ 4096 := by have := r.nslm.isLt; unfold Ring.nsl; omega
  have hptr : (r.wptr.toNat + min n r.free.toNat) % r.nsl < r.nsl := Nat.mod_lt _ (by unfold Ring.nsl; omega)
  refine ⟨?_, ?_, rfl, rfl, ?_, congrArg (r.err || ·) (min_decide_lt n r.free.toNat)⟩ <;>
    simp only [Ring.advp, BitVec.toNat_sub, BitVec.toNat_add, BitVec.toNat_ofNat] <;> omega

/-- advc moves them back. -/
theorem advc_fields (r : Ring) (n : Nat) (hroom : r.free.toNat + r.fill.toNat ≤ 4096) :
    let q := r.advc n
    let m := min n r.fill.toNat
    q.fill.toNat = r.fill.toNat - m ∧ q.free.toNat = r.free.toNat + m ∧ q.pend = r.pend ∧ q.wptr = r.wptr ∧
    q.rptr.toNat = (r.rptr.toNat + m) % r.nsl ∧ q.err = (r.err || decide (r.fill.toNat < n)) := by
  have hnsl : r.nsl ≤ 4096 := by have := r.nslm.isLt; unfold Ring.nsl; omega
  have hptr : (r.rptr.toNat + min n r.fill.toNat) % r.nsl < r.nsl := Nat.mod_lt _ (by unfold Ring.nsl; omega)
  refine ⟨?_, ?_, rfl, rfl, ?_, congrArg (r.err || ·) (min_decide_lt n r.fill.toNat)⟩ <;>
    simp only [Ring.advc, BitVec.toNat_sub, BitVec.toNat_add, BitVec.toNat_ofNat] <;> omega

section
variable {s : State} {h : HReg} {e : BitVec 6} {r : Ring} (hring : s.ringOf h = some (e, r))
include hring

theorem checkAdvance_ok {n : BitVec 13} (hn : n.toNat ≤ 4096) : s.checkAdvance h n = .ok [ringTouch s.myCore e true] := by
  simp [State.checkAdvance, hring, hn]

theorem advance_eq (hb : s.env.slipped = none) (f : Ring → Ring) : s.advance h f = s.mapRing s.myCore e f := by
  simp [State.advance, ringNamed_of_bundle hb, hring]

theorem ringAt_advance (hb : s.env.slipped = none) (f : Ring → Ring) : (s.advance h f).ringAt s.myCore e = f r := by
  rw [advance_eq hring hb, ringAt_mapRing, ringOf_eq_some hring]

theorem exec_advp {n : BitVec 13} (hn : n.toNat ≤ 4096) (hi : s.issuesInOrder (.advp h n) []) :
    exec (.advp h n) s = .next (s.advance h (fun r => r.advp n.toNat)) := by
  show execAdvp h n s = _
  rw [execAdvp, checkAdvance_ok hring hn, operate_ok (sh := ⟨.advp h n, [], [], [], false, 0⟩) hi.1 hi.2]

theorem exec_advc {n : BitVec 13} (hn : n.toNat ≤ 4096) (hi : s.issuesInOrder (.advc h n) []) :
    exec (.advc h n) s = .next (s.advance h (fun r => r.advc n.toNat)) := by
  show execAdvc h n s = _
  rw [execAdvc, checkAdvance_ok hring hn, operate_ok (sh := ⟨.advc h n, [], [], [], false, 0⟩) hi.1 hi.2]

/-- An advance changes the ring tables alone. -/
theorem advance_leaves (hb : s.env.slipped = none) (f : Ring → Ring) :
    (s.advance h f).mem = s.mem ∧ (s.advance h f).ctxs = s.ctxs := by
  rw [advance_eq hring hb]
  exact ⟨rfl, rfl⟩

theorem rqry_reports {d : SReg} {wd : Bool} (hi : s.issuesInOrder (.rqry d h wd) []) :
    exec (.rqry d h wd) s = .next ((s.joinRing 6 h).gainsWord 6 d (if wd then r.word1 else r.word0)) := by
  have hb := issuesInOrder_slipped hi
  show execRqry d h wd s = _
  unfold execRqry
  rw [hring]
  dsimp only
  rw [operate_ok (sh := ⟨.rqry d h wd, [], [], [(.s d, 6), (.none, 6)], false, 0⟩) hi.1 hi.2, ringNamed_of_bundle hb, hring]
  dsimp only
  rw [deliverS_of_bundle (by rw [joinRing_env hb, hb])]

end

/-! ## Accesses through a ring operand (R133, R272, R273) -/

theorem readingRing_slipped {s : State} (hb : s.env.slipped = none) (a : Access) (r : RingOpd) (n : Nat) :
    (s.readingRing a r n).env.slipped = none := by
  rw [State.readingRing, accessed_env, hb]

theorem readingRing_cx (s : State) (a : Access) (r : RingOpd) (n : Nat) : (s.readingRing a r n).cx = s.cx := accessed_cx ..

theorem exec_ldRing (s : State) (ty : Fmt) (d : SReg) (r : RingOpd) :
    exec (.ldRing ty d r) s = s.ringOp ⟨.ldRing ty d r, [], [], [(.s d, 6)], false, 0⟩ .read r (s.accessFmt ty).bytes
      (fun ps t => t.loadScalar (s.accessFmt ty) d false ps) := rfl

theorem ldRing_reaches {s : State} {ty : Fmt} {d : SReg} {r : RingOpd} (h : s.issuesInOrder (.ldRing ty d r) [])
    (hr : s.reachesRing .read r (s.accessFmt ty).bytes) :
    let f := s.accessFmt ty
    let ps := s.ringPieces r.h r.producer f.bytes
    let u := s.readingRing .read r f.bytes
    exec (.ldRing ty d r) s = .next
      ((u.gainsLoad 6 (.s d) (ofWord (extScalar f (leNat (u.piecesBytes ps)))) false (u.piecesPoisoned ps)).joinRing 1 r.h) := by
  intro f ps u
  rw [exec_ldRing, ringOp_reaches _ h.1 h.2 hr]
  exact congrArg (fun t : State => Host.Outcome.next (t.joinRing 1 r.h))
    (deliverLoad_of_bundle (readingRing_slipped h.1.1 .read r f.bytes) ..)

theorem vldRing_reaches {s : State} {ty : Fmt} {vd : VReg} {r : RingOpd} (h : s.issuesInOrder (.vldRing ty vd r) [])
    (hr : s.reachesRing .read r (64 * (s.accessFmt ty).bytes)) :
    let f := s.accessFmt ty
    let ps := s.ringPieces r.h r.producer (64 * f.bytes)
    let u := s.readingRing .read r (64 * f.bytes)
    exec (.vldRing ty vd r) s = .next
      (((u.gainsLoad 8 (.v vd) (lanesOfBytes f (u.piecesBytes ps)) false (u.piecesPoisoned ps)).readWide
        s.cx.nextRid 8 (piecesVa ps) f (laneKeys f.bytes ps)).joinRing 1 r.h) := by
  intro f ps u
  have hload := loadVector_of_bundle (readingRing_slipped h.1.1 .read r (64 * f.bytes)) f vd false (piecesVa ps) ps
  rw [readingRing_cx] at hload
  show s.ringOp ⟨.vldRing ty vd r, [], [], [(.v vd, 8)], false, 0⟩ .read r (64 * f.bytes)
    (fun ps t => t.loadVector f vd false (piecesVa ps) ps) = _
  rw [ringOp_reaches _ h.1 h.2 hr, hload]

theorem ldRing_waits {s : State} {ty : Fmt} {d : SReg} {r : RingOpd} {tc : List Touch} (h : s.issuesInOrder (.ldRing ty d r) [])
    (hlimit : s.mayWait s.cx.ctl.dlw) (hc : s.checkRing r.h r.n.toNat (s.accessFmt ty).bytes 1 .read 0 = .ok tc)
    (hready : s.ringReady r.h r.producer r.n.toNat = false) :
    ∃ t : State, exec (.ldRing ty d r) s = .next t ∧ s.waitsUnder t (.ldRing ty d r) s.cx.ctl.dlw := by
  obtain ⟨⟨hb, hn, hslip, hp⟩, hconf⟩ := h
  refine ⟨_, ?_, waitsUnder_slipIn ⟨.ldRing ty d r, [], [], [(.s d, 6), (.none, 1)], false, 0⟩ tc s.cx.ctl.dlw none hslip⟩
  rw [exec_ldRing, State.ringOp, hc]
  dsimp only
  rw [operate_ok (sh := ⟨.ldRing ty d r, [], [], [(Dest.s d, 6)] ++ [(Dest.none, 1)], false, 0⟩) ⟨hb, hn, hslip, hp⟩ hconf,
    implicitWait_waits _ _ hb hlimit (by rw [hready]; rfl)]
  rfl

theorem stRing_reaches {s : State} {ty : Fmt} {a : SReg} {r : RingOpd} (h : s.issuesInOrder (.stRing ty a r) [.s a])
    (hr : s.reachesRing .write r (s.accessFmt ty).bytes) :
    let f := s.accessFmt ty
    let ps := s.ringPieces r.h r.producer f.bytes
    exec (.stRing ty a r) s =
      .next (((s.putPieces ps (leBytes f.bytes (s.cx.rs a).toNat)).wakeOn ps).joinRing 1 r.h) := by
  intro f ps
  show s.ringOp ⟨.stRing ty a r, [], [.s a], [], false, 0⟩ .write r f.bytes
    (fun ps t => (t.putPieces ps (leBytes f.bytes (t.rs a).toNat)).wakeOn ps) = _
  rw [ringOp_reaches _ h.1 h.2 hr]
  show Host.Outcome.next (((s.putPieces ps (leBytes f.bytes (s.rs a).toNat)).wakeOn ps).joinRing 1 r.h) = _
  rw [rs_of_bundle h.1.1]

theorem vstRing_reaches {s : State} {ty : Fmt} {va : VReg} {r : RingOpd} (hs : s.sound)
    (h : s.issuesInOrder (.vstRing ty va r) [.v va]) (hset : s.settled)
    (hr : s.reachesRing .write r (64 * (s.accessFmt ty).bytes)) :
    let f := s.accessFmt ty
    ∃ t : State, exec (.vstRing ty va r) s = .next (t.joinRing 1 r.h) ∧ t.ctxs = s.ctxs ∧
      s.storesWide t 8 (s.ringPieces r.h r.producer (64 * f.bytes)) (bytesOfLanes f (s.cx.rv va)) := by
  intro f
  let ps := s.ringPieces r.h r.producer (64 * f.bytes)
  refine ⟨(s.putWide s.env.cid 8 (piecesVa ps) ps (bytesOfLanes f (s.cx.rv va))).wakeOn ps, ?_, rfl,
    storesWide_of_putWide hs hset (Nat.dvd_refl 8) rfl rfl⟩
  show s.ringOp ⟨.vstRing ty va r, [], [.v va], [], false, 0⟩ .write r (64 * f.bytes)
    (fun ps t => (t.putWide t.env.cid 8 (piecesVa ps) ps (bytesOfLanes f (t.rv va))).wakeOn ps) = _
  rw [ringOp_reaches _ h.1 h.2 hr]
  show Host.Outcome.next
    (((s.putWide s.env.cid 8 (piecesVa ps) ps (bytesOfLanes f (s.rv va))).wakeOn ps).joinRing 1 r.h) = _
  rw [rv_of_bundle h.1.1]

/-! ## Slot after slot (R135) -/

theorem slotPieces_sum (key : Nat → Nat) {size : Nat} (hsize : 0 < size) (fuel i : Nat) {n : Nat} (h : n ≤ fuel) :
    ((slotPieces key size fuel i n).map (·.len)).sum = n := by
  induction fuel generalizing i n with
  | zero => simp [slotPieces]; omega
  | succ fuel ih =>
    unfold slotPieces
    split
    · simp [*]
    · rw [List.map_cons, List.sum_cons, ih (i + 1) (by omega)]
      dsimp only
      omega

theorem slotPieces_getElem? (key : Nat → Nat) (size fuel i n : Nat) {j : Nat} {p : Piece}
    (h : (slotPieces key size fuel i n)[j]? = some p) : p.key = key (i + j) ∧ p.len ≤ size := by
  induction fuel generalizing i n j with
  | zero => simp [slotPieces] at h
  | succ fuel ih =>
    unfold slotPieces at h
    split at h
    · simp at h
    · cases j with
      | zero =>
        obtain rfl := Option.some.inj h
        exact ⟨rfl, Nat.min_le_right ..⟩
      | succ j =>
        obtain ⟨hkey, hlen⟩ := ih (i + 1) _ (by simpa using h)
        exact ⟨by rw [hkey]; congr 1; omega, hlen⟩

theorem ringSlotSize_pos (s : State) (h : HReg) : 0 < s.ringSlotSize h := by
  unfold State.ringSlotSize
  cases s.ringNamed h with
  | none => exact Nat.one_pos
  | some p => exact Nat.two_pow_pos _

theorem ringPieces_slots (s : State) (h : HReg) (producer : Bool) (n : Nat) :
    let ps := s.ringPieces h producer n
    (ps.map (·.len)).sum = n ∧ ∀ i p, ps[i]? = some p → p.key = s.ringSlotKey h producer i ∧ p.len ≤ s.ringSlotSize h := by
  refine ⟨slotPieces_sum _ (ringSlotSize_pos s h) n 0 (Nat.le_refl n), fun i p hp => ?_⟩
  have := slotPieces_getElem? _ _ _ _ _ hp
  rwa [Nat.zero_add] at this

/-- Settles O29: definition and pointers by their changes of one entry, accesses by their actions on the slots named. -/
theorem ringsAndTheirOperands : Obligations.RingsAndTheirOperands := by
  unfold Obligations.RingsAndTheirOperands
  refine ⟨fun s h a tc hi hslip hc => ?_, fun s h n e r hring hn hroom => ⟨fun hi => ?_, fun hi => ?_⟩,
    fun s d h wd e r hi hring => rqry_reports hring hi,
    fun s ty d vd r => ⟨ldRing_reaches, vldRing_reaches, fun hi hl ⟨tc, hc⟩ hready => ldRing_waits hi hl hc hready⟩,
    fun s ty a va r hs => ⟨stRing_reaches, vstRing_reaches hs⟩, ringPieces_slots⟩
  · cases hw : (s.cx.rs a).getLsbD 37 with
    | true =>
      obtain ⟨t, ht, hmem, hcores, hh⟩ := rdef_binds hi hslip hc hw
      exact ⟨t, ht, hmem, fun g hg => by rw [hh, if_neg hg], fun _ => ⟨hcores, by rw [hh, if_pos rfl]⟩, nofun⟩
    | false =>
      obtain ⟨t, ht, hmem, hcores, hh⟩ := rdef_defines hi hslip hc hw
      have hrings (e : BitVec 6) : t.ringAt s.myCore e =
          (s.mapRing s.myCore (s.ownEntry h) (fun _ => ringFrom (s.cx.rs a) s.myRegion)).ringAt s.myCore e := by
        simp only [State.ringAt, State.core, hcores]
      exact ⟨t, ht, hmem, fun g hg => by rw [hh, if_neg hg], nofun, fun _ => ⟨by rw [hh, if_pos rfl],
        by rw [hrings, ringAt_mapRing], fun e he => by rw [hrings, ringAt_mapRing_ne s _ _ he]⟩⟩
  · have hb := issuesInOrder_slipped hi
    obtain ⟨hmem, hctxs⟩ := advance_leaves hring hb (fun r => r.advp n.toNat)
    refine ⟨_, exec_advp hring hn hi, hmem, hctxs, ?_⟩
    rw [ringAt_advance hring hb]
    exact advp_fields r n.toNat hroom
  · have hb := issuesInOrder_slipped hi
    obtain ⟨hmem, hctxs⟩ := advance_leaves hring hb (fun r => r.advc n.toNat)
    refine ⟨_, exec_advc hring hn hi, hmem, hctxs, ?_⟩
    rw [ringAt_advance hring hb]
    exact advc_fields r n.toNat hroom

end Sys2Proof.Machine
end

section
/-!
O30: copies are accepted by the dray, or wait for room (spec/05 R137, R138, R165; spec/10 R280 to R283).
-/
namespace Sys2Proof.Machine

/-! ## What changes of an object leave (R148, R288, R290) -/

/-- The states differ at most in what a change of a barrier or event object may change: storage, what it releases, the buffered
reductions that it applies, the samples that it ends and the phases that it closes (R161, R173, R288, R290). -/
def ObjectsOnly (s t : State) : Prop :=
  t = { s.withStores t with agenda := t.agenda, reds := t.reds, writes := t.writes, phases := t.phases }

namespace ObjectsOnly

theorem refl (s : State) : ObjectsOnly s s := rfl

theorem trans {s t u : State} (h : ObjectsOnly s t) (k : ObjectsOnly t u) : ObjectsOnly s u :=
  calc u = { t.withStores u with agenda := u.agenda, reds := u.reds, writes := u.writes, phases := u.phases } := k
    _ = { s.withStores u with agenda := u.agenda, reds := u.reds, writes := u.writes, phases := u.phases } :=
      congrArg (fun w : State =>
        { w.withStores u with agenda := u.agenda, reds := u.reds, writes := u.writes, phases := u.phases }) h

theorem foldl {α : Type} {f : State → α → State} (hf : ∀ t x, ObjectsOnly t (f t x)) (l : List α) (s : State) :
    ObjectsOnly s (l.foldl f s) := foldl_related refl trans hf l s

theorem of_stores {s t : State} (h : StoresOnly s t) : ObjectsOnly s t :=
  calc t = s.withStores t := h
    _ = { s.withStores t with agenda := t.agenda, reds := t.reds, writes := t.writes, phases := t.phases } := by
      conv_rhs => rw [h]
      rfl

variable {s t : State} (h : ObjectsOnly s t)
include h

theorem ctxs : t.ctxs = s.ctxs := (congrArg State.ctxs h).trans rfl
theorem env : t.env = s.env := (congrArg State.env h).trans rfl
theorem copies : t.copies = s.copies := (congrArg State.copies h).trans rfl
theorem cx : t.cx = s.cx := by simp only [State.cx, State.ctx, h.env, h.ctxs]

end ObjectsOnly

theorem objectsOnly_wakeOn (s : State) (ps : List Piece) : ObjectsOnly s (s.wakeOn ps) := rfl

theorem objectsOnly_putBarrier (s : State) (k : Nat) (b : Barrier) : ObjectsOnly s (s.putBarrier k b) :=
  .of_stores ((storesOnly_putNat ..).trans (storesOnly_putNat ..))

theorem objectsOnly_reduce (s : State) (r : Red) : ObjectsOnly s (s.reduce r) :=
  (ObjectsOnly.of_stores ((storesOnly_readErrors ..).trans (storesOnly_putNat ..))).trans (objectsOnly_wakeOn ..)

theorem objectsOnly_applyBuffered (s : State) (k : Nat) (ph : BitVec 32) : ObjectsOnly s (s.applyBuffered k ph) := by
  have hleave : ObjectsOnly s { s with reds := s.reds.filter (fun r => !r.inPhase k ph) } := rfl
  exact hleave.trans (.foldl (fun _ _ => objectsOnly_reduce ..) _ _)

theorem objectsOnly_completePhases (s : State) (k n : Nat) : ObjectsOnly s (s.completePhases k n) := by
  induction n generalizing s with
  | zero => exact .refl s
  | succ n ih =>
    unfold State.completePhases
    dsimp only
    split
    · have hend (u : State) : ObjectsOnly u (({ u with writes := u.writes.filter (fun w => w.barrier != k) } : State).endPhases k) := rfl
      exact ((objectsOnly_applyBuffered s k _).trans (hend _)).trans
        (((objectsOnly_putBarrier ..).trans (objectsOnly_wakeOn ..)).trans (ih _))
    · exact .refl s

theorem objectsOnly_settleBarrier (s : State) (k : Nat) : ObjectsOnly s (s.settleBarrier k) := objectsOnly_completePhases ..

theorem objectsOnly_addPending (s : State) (k n : Nat) : ObjectsOnly s (s.addPending k n) := objectsOnly_putBarrier ..

theorem objectsOnly_subPending (s : State) (k n : Nat) : ObjectsOnly s (s.subPending k n) := by
  unfold State.subPending
  exact (objectsOnly_putBarrier ..).trans (objectsOnly_settleBarrier ..)

theorem objectsOnly_holdsDue (s : State) (p : BitVec 4) : ObjectsOnly s (s.holdsDue p) := by
  unfold State.holdsDue
  split <;> exact rfl

theorem objectsOnly_eventPut (s : State) (r : Reader) (key : Nat) (st : BitVec 3) : ObjectsOnly s (s.eventPut r key st) := by
  have hread : ObjectsOnly s (s.readErrors r [⟨key, 16⟩]) := .of_stores (storesOnly_readErrors ..)
  unfold State.eventPut
  dsimp only
  split
  · exact hread
  · exact hread.trans ((ObjectsOnly.of_stores (storesOnly_putBytes ..)).trans
      ((objectsOnly_wakeOn ..).trans (objectsOnly_holdsDue ..)))

/-! ## Copies by their numbers (R137, R142) -/

theorem copyOf_map (s : State) (f : Copy → Copy) (hid : ∀ k, (f k).id = k.id) (id : Nat) :
    ({ s with copies := s.copies.map f } : State).copyOf id = (s.copyOf id).map f := by
  simp only [State.copyOf, List.find?_map]
  congr 2
  funext k
  simp [hid]

/-- The status of the copy with a number. -/
def State.copyStatus (s : State) (id : Nat) : Option CopySt := (s.copyOf id).map (·.st)

theorem copyStatus_congr {s t : State} (h : t.copies = s.copies) (id : Nat) : t.copyStatus id = s.copyStatus id := by
  simp only [State.copyStatus, State.copyOf, h]

theorem copyStatus_mapRingOf (s : State) (o : Owner) (e : BitVec 6) (f : Ring → Ring) (id : Nat) :
    (s.mapRingOf o e f).copyStatus id = s.copyStatus id := by
  refine copyStatus_congr ?_ id
  unfold State.mapRingOf
  split <;> rfl

theorem copyStatus_markPublished (s : State) (n id : Nat) : (s.markPublished n).copyStatus id = s.copyStatus id := by
  have hmap := copyOf_map s (fun k => if k.id = n then { k with published := true } else k) (fun k => by split <;> rfl) id
  have hcopies : (s.markPublished n).copyOf id = _ := hmap
  rw [State.copyStatus, hcopies, Option.map_map]
  refine congrArg (fun f => Option.map f (s.copyOf id)) (funext fun k => ?_)
  simp only [Function.comp_apply]
  split <;> rfl

/-- Publications leave the contexts, the instruction in the environment and the status of every copy (R141). -/
theorem publishFrom_leaves (s : State) (o : Owner) (e : BitVec 6) (n : Nat) :
    (s.publishFrom o e n).ctxs = s.ctxs ∧ (s.publishFrom o e n).env = s.env ∧
    ∀ id, (s.publishFrom o e n).copyStatus id = s.copyStatus id := by
  induction n generalizing s with
  | zero => exact ⟨rfl, rfl, fun _ => rfl⟩
  | succ n ih =>
    unfold State.publishFrom
    split
    · rename_i id ns _
      obtain ⟨hctxs, henv, hst⟩ := ih ((s.mapRingOf o e (fun r => r.publish ns)).markPublished id)
      have hring : (s.mapRingOf o e (fun r => r.publish ns)).ctxs = s.ctxs ∧ (s.mapRingOf o e (fun r => r.publish ns)).env = s.env := by
        unfold State.mapRingOf
        split <;> exact ⟨rfl, rfl⟩
      exact ⟨hctxs.trans hring.1, henv.trans hring.2, fun n =>
        (hst n).trans ((copyStatus_markPublished ..).trans (copyStatus_mapRingOf ..))⟩
    · exact ⟨rfl, rfl, fun _ => rfl⟩

theorem publish_leaves (s : State) (o : Owner) (ring : Option (BitVec 6)) :
    (s.publish o ring).ctxs = s.ctxs ∧ (s.publish o ring).env = s.env ∧ ∀ id, (s.publish o ring).copyStatus id = s.copyStatus id := by
  cases ring with
  | none => exact ⟨rfl, rfl, fun _ => rfl⟩
  | some e => exact publishFrom_leaves ..

/-! ## Completion (R140) -/

/-- The context with some flags of WFL set, and nothing else changed. -/
def Ctx.FlagsOnly (x y : Ctx) : Prop := y = { x with ctl := y.ctl }

theorem flagsOnly_setFlag (s : State) (c : CtxId) (serial : Nat) (b : BitVec 3) (d : CtxId) :
    (s.ctx d).FlagsOnly ((s.setFlag c serial b).ctx d) := by
  unfold State.setFlag
  split
  · split
    · by_cases hd : d = c
      · subst hd
        rw [ctx_mapCtx_self]
        rfl
      · rw [ctx_mapCtx_ne _ _ hd]
        rfl
    · rfl
  · rfl

theorem setFlag_leaves (s : State) (c : CtxId) (serial : Nat) (b : BitVec 3) :
    (s.setFlag c serial b).env = s.env ∧ (s.setFlag c serial b).copies = s.copies ∧ (s.setFlag c serial b).mem = s.mem := by
  unfold State.setFlag
  split
  · split <;> exact ⟨rfl, rfl, rfl⟩
  · exact ⟨rfl, rfl, rfl⟩

theorem ctx_congr {s t : State} (h : t.ctxs = s.ctxs) (c : CtxId) : t.ctx c = s.ctx c := by
  simp only [State.ctx, h]

/-- The barrier bytes of a copy that completes are taken off (R165). -/
def State.tagEnds (s : State) (k : Copy) : State :=
  match k.cmd.barrier with
  | some b => s.subPending b k.cmd.dbytes
  | none => s

/-- The flag of a copy that completes is set, if it names one (R160). -/
def State.flagEnds (s : State) (k : Copy) : State :=
  match k.cmd.flag with
  | some b => s.setFlag k.cid k.serial b
  | none => s

/-- The event of a copy that completes is counted, if it names one (R290). -/
def State.eventEnds (s : State) (k : Copy) : State :=
  match k.cmd.event with
  | some key => s.eventPut (s.ownerAt k.toOwner k.cmd.dst) key 0
  | none => s

theorem completeCopy_eq (s : State) (k : Copy) (fl : Flags) :
    s.completeCopy k fl =
      ((((s.mapCopy k.id (fun x => { x with st := .ok, flags := fl })).publish k.toOwner k.cmd.ring).tagEnds k).flagEnds k).eventEnds k :=
  rfl

theorem objectsOnly_tagEnds (s : State) (k : Copy) : ObjectsOnly s (s.tagEnds k) := by
  unfold State.tagEnds
  split
  · exact objectsOnly_subPending ..
  · exact .refl s

theorem objectsOnly_eventEnds (s : State) (k : Copy) : ObjectsOnly s (s.eventEnds k) := by
  unfold State.eventEnds
  split
  · exact objectsOnly_eventPut ..
  · exact .refl s

theorem flagEnds_leaves (s : State) (k : Copy) :
    (s.flagEnds k).env = s.env ∧ (s.flagEnds k).copies = s.copies ∧ ∀ c, (s.ctx c).FlagsOnly ((s.flagEnds k).ctx c) := by
  unfold State.flagEnds
  split
  · obtain ⟨henv, hcopies, -⟩ := setFlag_leaves s k.cid k.serial ‹_›
    exact ⟨henv, hcopies, flagsOnly_setFlag s k.cid k.serial _⟩
  · exact ⟨rfl, rfl, fun _ => rfl⟩

/-- A copy that is known has the status OK once it is marked so. -/
theorem copyStatus_marked {s : State} {id : Nat} (hk : (s.copyOf id).isSome = true) (fl : Flags) :
    (s.mapCopy id (fun x => { x with st := .ok, flags := fl })).copyStatus id = some .ok := by
  have hmap := copyOf_map s (fun x => if x.id = id then { x with st := .ok, flags := fl } else x) (fun x => by split <;> rfl) id
  obtain ⟨x, hx⟩ := Option.isSome_iff_exists.mp hk
  have hid : x.id = id := by simpa using List.find?_some hx
  refine (congrArg (Option.map (·.st)) hmap).trans ?_
  rw [hx, Option.map_some, if_pos hid]
  rfl

/-- Its own completion gives a copy the status OK; of the contexts, only flags of WFL change (R140). -/
theorem completeCopy_leaves (s : State) {k : Copy} (fl : Flags) (hk : (s.copyOf k.id).isSome = true) :
    (s.completeCopy k fl).env = s.env ∧ (∀ c, (s.ctx c).FlagsOnly ((s.completeCopy k fl).ctx c)) ∧
    (s.completeCopy k fl).copyStatus k.id = some .ok := by
  let u := (s.mapCopy k.id (fun x => { x with st := .ok, flags := fl })).publish k.toOwner k.cmd.ring
  obtain ⟨hctxs, henv, hst⟩ := publish_leaves (s.mapCopy k.id (fun x => { x with st := .ok, flags := fl })) k.toOwner k.cmd.ring
  have hbar : ObjectsOnly u (u.tagEnds k) := objectsOnly_tagEnds u k
  obtain ⟨fenv, fcopies, fctx⟩ := flagEnds_leaves (u.tagEnds k) k
  have hev := objectsOnly_eventEnds ((u.tagEnds k).flagEnds k) k
  rw [completeCopy_eq]
  refine ⟨hev.env.trans (fenv.trans (hbar.env.trans henv)), fun c => ?_, ?_⟩
  · have hfirst : (u.tagEnds k).ctx c = s.ctx c := ctx_congr (hbar.ctxs.trans hctxs) c
    have hlast : (((u.tagEnds k).flagEnds k).eventEnds k).ctx c = ((u.tagEnds k).flagEnds k).ctx c := ctx_congr hev.ctxs c
    rw [hlast, ← hfirst]
    exact fctx c
  · exact (copyStatus_congr (hev.copies.trans (fcopies.trans hbar.copies)) k.id).trans ((hst k.id).trans (copyStatus_marked hk fl))

/-! ## Acceptance (R137, R138, R165) -/

/-- A PLAIN or CONV copy of no bytes, which completes at once (R282). -/
def CopyPlan.empty (p : CopyPlan) : Bool := p.cmd.len == 0 && (p.cmd.kind == .plain || p.cmd.kind == .conv)

/-- The copy that the dray accepts, with its promise (R137, R138). -/
def State.copyAsked (s : State) (p : CopyPlan) (promise : Word) : Copy :=
  { s.owner with
    id := s.nextId, num := s.cx.copyNum,
    cmd := { p.cmd with wptr := match p.cmd.ring with | some e => (s.ringAt s.env.cid.core e).wptr | none => 0 },
    st := .run, promise := promise, pms := false, stopped := false, revoked := none,
    published := p.cmd.ring.isNone, joined := false, flags := Flags.none,
    bph := (p.cmd.barrier.map (fun b => (s.barrierAt b).ph)).getD 0, ahead := [], done := [] }

/-- A copy joins those of the dray and has a number of its context. -/
def State.withCopy (s : State) (k : Copy) : State :=
  ({ s with nextId := s.nextId + 1, copies := s.copies ++ [k] } : State).mapCx (fun x => { x with copyNum := x.copyNum + 1 })

/-- The slots of a copy's ring are reserved, if it names one (R134). -/
def State.reserveSlots (s : State) (p : CopyPlan) : State :=
  match p.cmd.ring with
  | some e => s.mapRing s.env.cid.core e (fun r => r.reserve p.cmd.ns)
  | none => s

/-- The pending bytes of a tagged copy are added (R165). -/
def State.addTag (s : State) (p : CopyPlan) : State :=
  match p.cmd.barrier with
  | some b => s.addPending b p.cmd.dbytes
  | none => s

theorem acceptCopy_of_bytes (s : State) (d : SReg) {p : CopyPlan} (h : p.empty = false) :
    let promise := s.gcc + BitVec.ofNat 64 (Config.promiseDelay s.free)
    s.acceptCopy d p =
      (((({ s with free := s.free + 1 } : State).withCopy (s.copyAsked p promise)).reserveSlots p).addTag p).deliverS 6 d promise := by
  intro promise
  unfold State.acceptCopy
  dsimp only
  unfold CopyPlan.empty at h
  rw [h]
  rfl

theorem acceptCopy_of_empty (s : State) (d : SReg) {p : CopyPlan} (h : p.empty = true) :
    s.acceptCopy d p =
      ((((s.withCopy (s.copyAsked p s.gcc)).reserveSlots p).addTag p).completeCopy (s.copyAsked p s.gcc) Flags.none).deliverS 6 d
        s.gcc := by
  unfold State.acceptCopy
  dsimp only
  unfold CopyPlan.empty at h
  rw [h]
  rfl

/-- A reservation and a tag leave the copies, the contexts and the environment, and without a tag every byte. -/
theorem reserve_tag_leaves (s : State) (p : CopyPlan) :
    let t := (s.reserveSlots p).addTag p
    t.copies = s.copies ∧ t.ctxs = s.ctxs ∧ t.env = s.env ∧ (p.cmd.barrier = none → t.mem = s.mem) := by
  have hring : (s.reserveSlots p).copies = s.copies ∧ (s.reserveSlots p).ctxs = s.ctxs ∧ (s.reserveSlots p).env = s.env ∧
      (s.reserveSlots p).mem = s.mem := by
    unfold State.reserveSlots
    split <;> exact ⟨rfl, rfl, rfl, rfl⟩
  obtain ⟨h1, h2, h3, h4⟩ := hring
  have htag : ObjectsOnly (s.reserveSlots p) ((s.reserveSlots p).addTag p) := by
    unfold State.addTag
    split
    · exact objectsOnly_addPending ..
    · exact .refl _
  refine ⟨htag.copies.trans h1, htag.ctxs.trans h2, htag.env.trans h3, fun hnone => ?_⟩
  simp only [State.addTag, hnone, h4]

theorem withCopy_cx (s : State) (k : Copy) : (s.withCopy k).cx = { s.cx with copyNum := s.cx.copyNum + 1 } := cx_mapCx ..

/-- Contexts and environment together give the issuing context. -/
theorem cx_congr {s t : State} (hx : t.ctxs = s.ctxs) (he : t.env = s.env) : t.cx = s.cx := by
  simp only [State.cx, State.ctx, hx, he]

theorem acceptCopy_runs {s : State} (hb : s.env.slipped = none) (d : SReg) {p : CopyPlan} (h : p.empty = false) :
    let promise := s.gcc + BitVec.ofNat 64 (Config.promiseDelay s.free)
    let t := s.acceptCopy d p
    ∃ r : Result, t.copies = s.copies ++ [s.copyAsked p promise] ∧ t.cx.copyNum = s.cx.copyNum + 1 ∧
      t.cx.results = s.cx.results ++ [r] ∧ r.dest = .s d ∧ toWord r.val = promise ∧ r.due = s.env.ctm + 6 ∧
      (p.cmd.barrier = none → t.mem = s.mem) := by
  intro promise t
  let v : State := { s with free := s.free + 1 }
  obtain ⟨hcopies, hctxs, henv, hmem⟩ := reserve_tag_leaves (v.withCopy (s.copyAsked p promise)) p
  have hcx := (cx_congr hctxs henv).trans (withCopy_cx v (s.copyAsked p promise))
  have ht : t = _ := (acceptCopy_of_bytes s d h).trans (deliverS_of_bundle ((congrArg Env.slipped henv).trans hb) 6 d promise)
  generalize ((v.withCopy (s.copyAsked p promise)).reserveSlots p).addTag p = u at hcopies hctxs henv hmem hcx ht
  have htcx : t.cx = { u.cx with
      results := u.cx.results ++ [({ Result.base with dest := .s d, val := ofWord promise } : Result).issue u.env 6 u.cx.nextRid],
      nextRid := u.cx.nextRid + 1 } := by
    rw [ht]
    exact cx_mapCx ..
  refine ⟨({ Result.base with dest := .s d, val := ofWord promise } : Result).issue u.env 6 u.cx.nextRid, ?_, ?_, ?_, rfl,
    toWord_ofWord _, ?_, fun hnone => ?_⟩
  · rw [ht]; exact hcopies
  · rw [htcx, hcx]; rfl
  · rw [htcx, hcx]; rfl
  · rw [henv]; rfl
  · rw [ht]; exact hmem hnone

theorem acceptCopy_completes {s : State} (hb : s.env.slipped = none) (d : SReg) {p : CopyPlan} (h : p.empty = true) :
    let t := s.acceptCopy d p
    ∃ r : Result, t.copyStatus s.nextId = some .ok ∧ t.cx.copyNum = s.cx.copyNum + 1 ∧
      t.cx.results = s.cx.results ++ [r] ∧ r.dest = .s d ∧ toWord r.val = s.gcc := by
  intro t
  obtain ⟨hcopies, hctxs, henv, -⟩ := reserve_tag_leaves (s.withCopy (s.copyAsked p s.gcc)) p
  have hcx := (cx_congr hctxs henv).trans (withCopy_cx s (s.copyAsked p s.gcc))
  have ht : t = _ := acceptCopy_of_empty s d h
  generalize ((s.withCopy (s.copyAsked p s.gcc)).reserveSlots p).addTag p = u at hcopies hctxs henv hcx ht
  have hfound : (u.copyOf (s.copyAsked p s.gcc).id).isSome = true := by
    rw [State.copyOf, hcopies, List.find?_isSome]
    exact ⟨_, List.mem_append_right _ (List.mem_singleton_self _), by simp⟩
  obtain ⟨kenv, kctx, kst⟩ := completeCopy_leaves u Flags.none hfound
  rw [deliverS_of_bundle (((congrArg Env.slipped kenv).trans (congrArg Env.slipped henv)).trans hb)] at ht
  generalize u.completeCopy (s.copyAsked p s.gcc) Flags.none = w at kenv kctx kst ht
  have hwcx : w.cx = { s.cx with copyNum := s.cx.copyNum + 1, ctl := w.cx.ctl } := by
    have hflags : u.cx.FlagsOnly w.cx := by
      simp only [State.cx, kenv]
      exact kctx _
    rw [hcx] at hflags
    exact hflags
  have htcx : t.cx = { w.cx with
      results := w.cx.results ++ [({ Result.base with dest := .s d, val := ofWord s.gcc } : Result).issue w.env 6 w.cx.nextRid],
      nextRid := w.cx.nextRid + 1 } := by
    rw [ht]
    exact cx_mapCx ..
  refine ⟨({ Result.base with dest := .s d, val := ofWord s.gcc } : Result).issue w.env 6 w.cx.nextRid, ?_, ?_, ?_, rfl,
    toWord_ofWord _⟩
  · rw [ht]; exact kst
  · rw [htcx, hwcx]
  · rw [htcx, hwcx]

/-! ## The instruction (R280 to R282) -/

section
variable {s : State} {d a b c : SReg} {ssp dsp : Space} {kind : CopyKind} {sfmt dfmt : Fmt} {h : HReg} {re : Bool} {ns : BitVec 6}
  {tag : Bool} {zc : BitVec 2} {p : CopyPlan} {tc : List Touch}

/-- The operands that gate a copy (R281, R282). -/
def copyGates (a b : SReg) (m : CmdWord) (c : SReg) (re : Bool) (kind : CopyKind) : List Src :=
  [.s a, .s c] ++ (if re then [] else [.s b]) ++ (if m.bt then [.s m.br] else []) ++ (if m.ev then [.s m.er] else []) ++
    (if kind = .encb ∨ kind = .dxp then [.s m.xr] else [])

/-- A copy as its slot issues it. -/
def copyShape (s : State) (d a b c : SReg) (ssp dsp : Space) (kind : CopyKind) (sfmt dfmt : Fmt) (h : HReg) (re : Bool)
    (ns : BitVec 6) (tag : Bool) (zc : BitVec 2) : Shape :=
  ⟨.copy d a b c ssp dsp kind sfmt dfmt h re ns tag zc, copyGates a b (cmdWord (s.cx.rs c)) c re kind, [], [(.s d, 6)], false, 0⟩

theorem exec_copy
    (hi : s.issuesInOrder (.copy d a b c ssp dsp kind sfmt dfmt h re ns tag zc) (copyGates a b (cmdWord (s.cx.rs c)) c re kind))
    (hsrc : s.frameOut ssp (s.cx.rs a) = false) (hdst : re = true ∨ s.frameOut dsp (s.cx.rs b) = false)
    (hp : s.copyPlan a c b ssp dsp kind sfmt dfmt h re ns tag zc = some p) (hc : s.checkCopy h (some p) tag re = .ok tc) :
    exec (.copy d a b c ssp dsp kind sfmt dfmt h re ns tag zc) s = .next
      (s.implicitWait (copyShape s d a b c ssp dsp kind sfmt dfmt h re ns tag zc) tc (s.copyReady h re (p.tagged tc))
        (fun u => u.acceptCopy d (p.tagged tc))) := by
  have hb := issuesInOrder_slipped hi
  show execCopy d a b c ssp dsp kind sfmt dfmt h re ns tag zc s = _
  unfold execCopy
  dsimp only
  have hdst' : ¬ (s.env.slipped.isNone = true ∧ re = false ∧ s.frameOut dsp (s.rs b) = true) := by
    rw [rs_of_bundle hb]
    rintro ⟨-, h1, h2⟩
    cases hdst <;> simp_all
  rw [if_neg (by rw [rs_of_bundle hb, hsrc]; simp), if_neg hdst', hp, hc, rs_of_bundle hb]
  exact congrArg Host.Outcome.next (operate_ok (sh := copyShape s d a b c ssp dsp kind sfmt dfmt h re ns tag zc)
    (by rw [copyShape, List.append_nil]; exact hi.1) hi.2)

end

/-- Settles O30: a copy that finds room is accepted, and one that does not waits under DLW. -/
theorem copyAcceptance : Obligations.CopyAcceptance := by
  unfold Obligations.CopyAcceptance
  intro s d a b c ssp dsp kind sfmt dfmt h re ns tag zc p tc i m q hi hsrc hdst hp hc haway
  have hb := issuesInOrder_slipped hi
  have hexec := exec_copy hi hsrc hdst hp hc
  have hready (hr : s.copyReady h re q = true) : exec i s = .next (s.acceptCopy d q) :=
    hexec.trans (congrArg Host.Outcome.next (implicitWait_ready _ _ hb hr haway))
  refine ⟨fun hr hbytes => ?_, fun hr hlen hkind => ?_, fun hr hlimit => ?_⟩
  · have hempty : q.empty = false := by
      simpa [CopyPlan.empty, q, CopyPlan.tagged, Classical.not_and_iff_not_or_not] using hbytes
    obtain ⟨r, hcopies, hnum, hresults, hdest, hval, hdue, hmem⟩ := acceptCopy_runs hb d hempty
    exact ⟨_, _, r, hready hr, hcopies, owner_cid s, rfl, rfl, rfl, rfl, rfl, rfl, rfl, rfl, hnum, hresults, hdest, hval, hdue, hmem⟩
  · have hempty : q.empty = true := by
      simpa [CopyPlan.empty, q, CopyPlan.tagged, hlen] using hkind
    obtain ⟨r, hst, hnum, hresults, hdest, hval⟩ := acceptCopy_completes hb d hempty
    exact ⟨_, r, hready hr, hst, hnum, hresults, hdest, hval⟩
  · refine ⟨_, hexec.trans (congrArg Host.Outcome.next (implicitWait_waits _ _ hb hlimit ?_)),
      waitsUnder_slipIn (copyShape s d a b c ssp dsp kind sfmt dfmt h re ns tag zc) tc s.cx.ctl.dlw none hi.1.2.2.1⟩
    rw [show s.copyReady h re (p.tagged tc) = false from hr]
    rfl

end Sys2Proof.Machine
end

section
/-!
O31: a plain copy completes; its frame; the query of recent copies (spec/05 R137, R140, R160; spec/10 R283, R284).
-/
namespace Sys2Proof.Machine

/-! ## What a copy writes (R127, R149, R177) -/

/-- Tags that are filled leave memory, the copies and the contexts. -/
theorem fillTags_leaves (s : State) (l : List (Nat × Carried)) :
    ((s.fillTags l).mem, (s.fillTags l).copies, (s.fillTags l).ctxs) = (s.mem, s.copies, s.ctxs) :=
  foldl_keeps (f := fun u (c : Nat × Carried) => u.changeTag c.1 true) (fun t : State => (t.mem, t.copies, t.ctxs)) (fun _ _ => rfl) _ s

/-- Cells that a copy writes change their bytes; of the contexts, only what the sampling of conflicts may change. -/
theorem writeCells_leaves (s : State) (k : Copy) (dst : List Piece) (l : List (Nat × Carried)) :
    (s.writeCells k dst l).mem = memPuts s.mem (l.map (fun w => (w.1, w.2.1))) ∧
    (s.writeCells k dst l).copies = s.copies ∧
    ∀ c, (s.writeCells k dst l).ctx c = (s.ctx c).withSample ((s.writeCells k dst l).ctx c) := by
  let u := if k.cmd.tag then (s.putCells l).fillTags l else (s.putCells l).wakeOn dst
  have hu : (u.mem, u.copies, u.ctxs) = ((s.putCells l).mem, s.copies, s.ctxs) := by
    dsimp only [u]
    split
    · exact fillTags_leaves (s.putCells l) l
    · rfl
  obtain ⟨hmem, hrest⟩ := Prod.mk.inj hu
  obtain ⟨hcopies, hctxs⟩ := Prod.mk.inj hrest
  have hsample : SamplesOnly u (s.writeCells k dst l) := by
    unfold State.writeCells
    dsimp only
    split
    · exact samplesOnly_sampleCells ..
    · exact .refl u
  refine ⟨hsample.mem.trans hmem, (congrArg State.copies hsample.1).trans hcopies, fun c => ?_⟩
  rw [← ctx_congr hctxs c]
  exact hsample.2 c

/-- What a transfer carries of a byte: what was read ahead, where it was, and what memory holds elsewhere (R160). -/
def State.carried (s : State) (ahead : List (Nat × Carried)) (key : Nat) : Carried :=
  match ahead.find? (fun c => c.1 == key) with
  | some c => c.2
  | none => (memRead s.mem key, s.poison.contains (poisonBase key))

theorem carriedFrom_single (s : State) (ahead : List (Nat × Carried)) (src n : Nat) :
    s.carriedFrom ahead [⟨src, n⟩] = (List.range n).map (fun j => s.carried ahead (src + j)) := by
  show List.map _ (List.flatMap _ [_]) = _
  rw [List.flatMap_singleton, List.map_map]
  rfl

/-- What stands in memory once a copy has written the rest of one run. -/
theorem memRead_restCells {m : List Host.Cell} (w : Memory.wf m = true) (done : List Nat) (dst n : Nat) (f : Nat → Carried) (key : Nat) :
    memRead (memPuts m ((restCells done [⟨dst, n⟩] ((List.range n).map f)).map (fun x => (x.1, x.2.1)))) key =
      if dst ≤ key ∧ key < dst + n ∧ done.contains (key / 8) = false then (f (key - dst)).1 else memRead m key := by
  let bs := (List.range n).map (fun j => (f j).1)
  have hlen : bs.length = n := by simp [bs]
  have hcells : (restCells done [⟨dst, n⟩] ((List.range n).map f)).map (fun x => (x.1, x.2.1)) =
      (((List.range bs.length).map (dst + ·)).zip bs).filter (fun x => !done.contains (x.1 / 8)) := by
    rw [hlen, restCells, pieceKeys, List.flatMap_singleton, List.zip_map', List.zip_map', List.filter_map, List.filter_map,
      List.map_map]
    rfl
  rw [hcells]
  cases hdone : done.contains (key / 8) with
  | true =>
    rw [memRead_memPuts_filter_out (p := fun a => !done.contains (a / 8)) w _ (by rw [hdone]; rfl), if_neg (by simp)]
  | false =>
    rw [memRead_memPuts_filter (p := fun a => !done.contains (a / 8)) w w _ (by rw [hdone]; rfl) rfl, ← memStore_eq_memPuts,
      memRead_memStore w, hlen]
    by_cases hin : dst ≤ key ∧ key < dst + n
    · rw [if_pos hin, if_pos ⟨hin.1, hin.2, rfl⟩]
      have hj : key - dst < n := by omega
      simp [bs, List.getD, hj]
    · rw [if_neg hin, if_neg (fun h => hin ⟨h.1, h.2.1⟩)]

theorem piecesOverlap_runs {src dst n : Nat} (h : src + n ≤ dst ∨ dst + n ≤ src) : piecesOverlap [⟨src, n⟩] [⟨dst, n⟩] = false := by
  simp only [piecesOverlap, List.any_cons, List.any_nil, Bool.or_false, Bool.and_eq_false_iff, decide_eq_false_iff_not]
  omega

/-! ## Completion of a PLAIN copy (R140, R283) -/

/-- The marking of a copy as completed, with its flag: what is left of completion without a barrier, an event or a ring. -/
theorem completeCopy_alone {s : State} {k : Copy} (fl : Flags) (hb : k.cmd.barrier = none) (he : k.cmd.event = none)
    (hr : k.cmd.ring = none) :
    s.completeCopy k fl = (s.mapCopy k.id (fun x => { x with st := .ok, flags := fl })).flagEnds k := by
  rw [completeCopy_eq, hr]
  simp only [State.eventEnds, he, State.tagEnds, hb]
  rfl

theorem mem_flagEnds (s : State) (k : Copy) : (s.flagEnds k).mem = s.mem := by
  unfold State.flagEnds
  split
  · exact (setFlag_leaves ..).2.2
  · rfl

/-- The flag that a copy names is set while its task runs. -/
theorem flagEnds_sets {s : State} {k : Copy} {b : BitVec 3} {task : Task} (hf : k.cmd.flag = some b)
    (ht : (s.ctx k.cid).task = some task) (hs : task.serial = k.serial) :
    ((s.flagEnds k).ctx k.cid).ctl.wfl.getLsbD b.toNat = true := by
  have hb := b.isLt
  simp only [State.flagEnds, hf, State.setFlag, ht, if_pos hs, ctx_mapCtx_self, BitVec.getLsbD_or, BitVec.getLsbD_shiftLeft]
  simp
  omega

section
variable {s : State} {id : Nat} {k : Copy} {src dst n : Nat}

/-- A running PLAIN copy from one run to another writes what it carries and completes (R140, R283). -/
theorem exec_copyCompletion_plain (hk : s.copyOf id = some k) (hrun : k.st = .run) (hstop : k.stopped = false)
    (hrev : k.revoked = none) (hkind : k.cmd.kind = .plain) (hb : k.cmd.barrier = none)
    (hsrc : s.copySources k = some ([⟨src, n⟩], [])) (hdst : s.copyDest k = some [⟨dst, n⟩])
    (hapart : src + n ≤ dst ∨ dst + n ≤ src) :
    let u := s.readErrors (s.ownerAt k.toOwner k.cmd.src) [⟨src, n⟩]
    exec (.copyCompletion id) s = .next
      ((u.writeCells k [⟨dst, n⟩] (restCells k.done [⟨dst, n⟩] ((List.range n).map (fun j => u.carried k.ahead (src + j))))).completeCopy
        k Flags.none) := by
  intro u
  have hwrite (l : List Carried) : u.writeCopy k [⟨src, n⟩] [⟨dst, n⟩] [] l [] =
      u.writeCells k [⟨dst, n⟩] (restCells k.done [⟨dst, n⟩] l) := by
    simp [State.writeCopy, piecesOverlap_runs hapart, hkind]
  have hplain : transform k.cmd (u.carriedFrom k.ahead [⟨src, n⟩]) (carriedLanes (u.carriedFrom k.ahead [])) =
      some (u.carriedFrom k.ahead [⟨src, n⟩], [], Flags.none) := by simp [transform, hkind]
  show execCopyCompletion id s = _
  unfold execCopyCompletion
  simp only [hk]
  rw [if_neg (by simp [hrun, hstop, hrev, Copy.barrierAway, hb])]
  simp only [hsrc, hdst, State.runCopy, List.append_nil]
  simp only [show s.readErrors (s.ownerAt k.toOwner k.cmd.src) [⟨src, n⟩] = u from rfl, hplain]
  rw [hwrite, carriedFrom_single]

end

/-! ## cpqry (R284) -/

theorem copyReport_eq (k : Copy) :
    copyReport k = (k.promise <<< 8) ||| (if k.pms then 8 else 0) |||
      (match k.st with | .run => 0 | .ok => 1 | .zfit => 2 | .fault => 3 | .cancelled => 4) := by
  have hpms : (if k.pms then 8 else 0 : Word) = ((BitVec.ofBool k.pms).setWidth 64) <<< 3 := by cases k.pms <;> rfl
  have hst : (match k.st with | .run => 0 | .ok => 1 | .zfit => 2 | .fault => 3 | .cancelled => 4 : Word) = k.st.code.setWidth 64 := by
    cases k.st <;> rfl
  rw [hpms, hst]
  apply BitVec.eq_of_getLsbD_eq
  intro i hi
  have hbit : (copyReport k).getLsbD i = if i < 3 then k.st.code.getLsbD i else if i - 3 < 1 then (BitVec.ofBool k.pms).getLsbD (i - 3)
      else if i - 3 - 1 < 4 then (0#4).getLsbD (i - 3 - 1) else (k.promise.setWidth 56 : BitVec 56).getLsbD (i - 3 - 1 - 4) := by
    refine (BitVec.getLsbD_append ..).trans ?_
    simp only [BitVec.getLsbD_append]
  have hcode (j : Nat) (hj : ¬ j < 3) : k.st.code.getLsbD j = false := BitVec.getLsbD_of_ge _ _ (by omega)
  rw [hbit]
  by_cases h3 : i < 3
  · simp [h3, hi, show i < 8 by omega]
  by_cases h4 : i = 3
  · subst h4
    simp
  by_cases h8 : i < 8
  · simp [h3, h8, hcode, show ¬ i - 3 = 0 by omega, show i - 3 - 1 < 4 by omega]
  · simp [h3, h8, hi, hcode, show ¬ i - 3 = 0 by omega, show ¬ i - 3 - 1 < 4 by omega, show i - 3 - 1 - 4 = i - 8 by omega,
      show i - 8 < 56 by omega, BitVec.getLsbD_eq_getElem (show i - 8 < 64 by omega)]

/-- The answer on a number that names no recent copy: its status is one of five codes, and the bits between are zero (R284). -/
theorem freeReport_fields (w : Word) :
    let st : BitVec 3 := BitVec.ofNat 3 ((w.setWidth 3 : BitVec 3).toNat % 5)
    let r : Word := (w &&& ~~~ 0xF7#64) ||| st.setWidth 64
    r.extractLsb' 4 4 = 0 ∧ (r.extractLsb' 0 3).toNat ≤ 4 := by
  intro st r
  have hst : st.toNat ≤ 4 := by
    simp only [st, BitVec.toNat_ofNat]
    omega
  have hlow : r.extractLsb' 0 3 = st := by
    apply BitVec.eq_of_getLsbD_eq
    intro i hi
    have : i = 0 ∨ i = 1 ∨ i = 2 := by omega
    rcases this with rfl | rfl | rfl <;> simp [r]
  refine ⟨?_, hlow ▸ hst⟩
  apply BitVec.eq_of_getLsbD_eq
  intro i hi
  have : i = 0 ∨ i = 1 ∨ i = 2 ∨ i = 3 := by omega
  rcases this with rfl | rfl | rfl | rfl <;> simp [r]

section
variable {s : State} {d a : SReg}

theorem exec_cpqry (h : s.issuesInOrder (.cpqry d a) [.s a]) :
    exec (.cpqry d a) s = .next (match s.recentCopy ((s.cx.rs a).setWidth 16) with
      | some k => (if k.st = .ok then s.joinCopies 6 (fun x => x.id == k.id) else s).deliverS 6 d (copyReport k)
      | none => ({ s with free := s.free + 1 } : State).deliverS 6 d ((Config.freeWord s.free &&& ~~~ 0xF7#64) |||
          (BitVec.ofNat 3 (((Config.freeWord s.free).setWidth 3 : BitVec 3).toNat % 5)).setWidth 64)) := by
  have hexec : exec (.cpqry d a) s = execCpqry d a s := rfl
  rw [hexec, execCpqry, compute_issues (g := [.s a]) (d := []) h.1 h.2, rs_of_bundle h.1.1]
  cases s.recentCopy ((s.cx.rs a).setWidth 16) <;> rfl

end

/-- Settles O31: the copy writes what it carries where nothing was written yet and completes; the M slip buffer hands its head
on; cpqry reports what the dray holds of a copy. -/
theorem copyCompletesAndQueries : Obligations.CopyCompletesAndQueries := by
  unfold Obligations.CopyCompletesAndQueries
  refine ⟨?_, ?_, fun s d a hi => ⟨fun k hk => ?_, fun hnone => ?_⟩⟩
  · intro s id k src dst n hs hk hrun hstop hrev hkind hbar hev hring hsrc hdst hapart u
    have hus : StoresOnly s u := storesOnly_readErrors ..
    have hu : u.sound := sound_readErrors hs _ _
    have hexec := (exec_copyCompletion_plain hk hrun hstop hrev hkind hbar hsrc hdst hapart).trans
      (congrArg Host.Outcome.next (completeCopy_alone Flags.none hbar hev hring))
    let cells := restCells k.done [⟨dst, n⟩] ((List.range n).map (fun j => u.carried k.ahead (src + j)))
    let w := u.writeCells k [⟨dst, n⟩] cells
    let v := w.mapCopy k.id (fun x => { x with st := .ok, flags := Flags.none })
    obtain ⟨wmem, wcopies, wctx⟩ := writeCells_leaves u k [⟨dst, n⟩] cells
    obtain ⟨-, fcopies, fctx⟩ := flagEnds_leaves v k
    have hid : k.id = id := by simpa using List.find?_some hk
    have hbyte (key : Nat) : memRead (v.flagEnds k).mem key =
        if dst ≤ key ∧ key < dst + n ∧ k.done.contains (key / 8) = false then (u.carried k.ahead (src + (key - dst))).1
        else memRead u.mem key := by
      rw [mem_flagEnds, show v.mem = w.mem from rfl, wmem]
      exact memRead_restCells hu k.done dst n _ key
    have hwctx (c : CtxId) : w.ctx c = (s.ctx c).withSample (w.ctx c) := by
      rw [← ctx_congr hus.ctxs c]
      exact wctx c
    refine ⟨v.flagEnds k, hexec, fun a ha => ?_, fun hahead hdone => ?_, fun j hj => ?_, ?_, fun b task hf ht hser => ?_, fun c => ?_⟩
    · rw [hbyte, if_neg (by omega)]
    · apply List.ext_getElem (by simp [State.bytesAt, length_memBytes])
      intro i h1 h2
      have hi : i < n := by simpa [State.bytesAt, length_memBytes] using h1
      simp only [State.bytesAt, getElem_memBytes, hbyte, hdone]
      rw [if_pos ⟨by omega, by omega, rfl⟩, Nat.add_sub_cancel_left]
      simp [State.carried, hahead]
    · rw [hbyte, Nat.add_sub_cancel_left, State.carried]
      cases hdone : k.done.contains ((dst + j) / 8) with
      | true => simp
      | false =>
        rw [if_pos ⟨by omega, by omega, rfl⟩]
        cases k.ahead.find? (fun a => a.1 == src + j) <;> rfl
    · have hfound : (w.copyOf k.id).isSome = true := by
        rw [State.copyOf, wcopies, hid]
        exact Option.isSome_of_eq_some ((congrArg (fun l => List.find? _ l) (ObjectsOnly.of_stores hus).copies).trans hk)
      exact hid ▸ (copyStatus_congr fcopies k.id).trans (copyStatus_marked hfound Flags.none)
    · refine flagEnds_sets hf ?_ hser
      exact ((congrArg Ctx.task (hwctx k.cid)).trans rfl).trans ht
    · have hf : (v.flagEnds k).ctx c = { w.ctx c with ctl := ((v.flagEnds k).ctx c).ctl } := fctx c
      rw [hf, hwctx c]
      exact ⟨rfl, rfl, rfl⟩
  · rintro s c e l i hfront ⟨d, a, b, r, ssp, dsp, kind, sfmt, dfmt, h, re, ns, tag, zc, rfl⟩ hinstr
    show execCopyAcceptance c s = _
    simp only [execCopyAcceptance, hfront, hinstr, State.stageFront]
  · intro w
    have hb := issuesInOrder_slipped (s := s) hi
    have hjoined : (if k.st = .ok then s.joinCopies 6 (fun x => x.id == k.id) else s).env.slipped = none := by
      split
      · rw [joinCopies_env hb, hb]
      · exact hb
    rw [exec_cpqry hi]
    simp only [hk]
    exact congrArg Host.Outcome.next ((deliverS_of_bundle hjoined ..).trans (congrArg (State.gainsWord _ 6 d) (copyReport_eq k)))
  · refine ⟨_, ?_, freeReport_fields (Config.freeWord s.free)⟩
    have hb : ({ s with free := s.free + 1 } : State).env.slipped = none := issuesInOrder_slipped (s := s) hi
    rw [exec_cpqry hi]
    simp only [hnone]
    exact congrArg Host.Outcome.next (deliverS_of_bundle hb ..)

end Sys2Proof.Machine
end

section
/-!
O35: the stream instructions of the tile engine (spec/12 R317 to R320, R324 to R330).
-/
namespace Sys2Proof.Machine

/-! ## Sums of rows (R43, R318, R325, R330) -/

/-- The accumulators differ at most in what summing rows may change: the tile, its companion sums and depths, and the row
cursor. -/
structure Acc.SumsOnly (a b : Acc) : Prop where
  keeps : b = { a with tile := b.tile, cerr := b.cerr, crem := b.crem, rowdepth := b.rowdepth, depth := b.depth, rc := b.rc }

namespace Acc.SumsOnly

theorem refl (a : Acc) : a.SumsOnly a := ⟨rfl⟩

theorem trans {a b c : Acc} (h : a.SumsOnly b) (k : b.SumsOnly c) : a.SumsOnly c :=
  ⟨calc c = { b with tile := c.tile, cerr := c.cerr, crem := c.crem, rowdepth := c.rowdepth, depth := c.depth, rc := c.rc } := k.keeps
    _ = { a with tile := c.tile, cerr := c.cerr, crem := c.crem, rowdepth := c.rowdepth, depth := c.depth, rc := c.rc } :=
      congrArg (fun x : Acc =>
        { x with tile := c.tile, cerr := c.cerr, crem := c.crem, rowdepth := c.rowdepth, depth := c.depth, rc := c.rc }) h.keeps⟩

theorem foldl {α : Type} {f : Acc × Flags → α → Acc × Flags} (hf : ∀ (x : Acc × Flags) y, x.1.SumsOnly (f x y).1) (l : List α)
    (x : Acc × Flags) : x.1.SumsOnly (l.foldl f x).1 := by
  induction l generalizing x with
  | nil => exact refl _
  | cons y l ih => exact (hf x y).trans (ih _)

variable {a b : Acc} (h : a.SumsOnly b)
include h

theorem seq : b.seq = a.seq := (congrArg Acc.seq h.keeps).trans rfl
theorem dc : b.dc = a.dc := (congrArg Acc.dc h.keeps).trans rfl

end Acc.SumsOnly

theorem sumsOnly_pass (st : Stream) (b : Bank) (q : BitVec 6) (a : Acc) (es : List (Option Nat)) :
    a.SumsOnly (st.pass b q a es).1 := by
  unfold Stream.pass
  split
  · exact ⟨rfl⟩
  split
  · exact ⟨rfl⟩
  · dsimp only
    split <;> exact ⟨rfl⟩

theorem sumsOnly_row (st : Stream) (banks : Bool → Bank) (q : BitVec 6) (x : Acc × Flags) (ps : List (Bool × List (Option Nat))) :
    x.1.SumsOnly (st.row banks q x ps).1 := by
  induction ps generalizing x with
  | nil => exact .refl _
  | cons p ps ih =>
    have hfirst : x.1.SumsOnly (st.pass (banks p.1) q x.1 p.2).1 := sumsOnly_pass ..
    have hrow : st.row banks q x (p :: ps) =
        st.row banks q ((st.pass (banks p.1) q x.1 p.2).1, x.2.or (st.pass (banks p.1) q x.1 p.2).2) ps := by
      simp only [Stream.row, List.foldl_cons]
    rw [hrow]
    exact hfirst.trans (ih ((st.pass (banks p.1) q x.1 p.2).1, x.2.or (st.pass (banks p.1) q x.1 p.2).2))

theorem sumsOnly_rows (st : Stream) (banks : Bool → Bank) (a : Acc) (l : List (List (Bool × List (Option Nat)))) :
    a.SumsOnly (st.rows banks a l).1 := by
  have hfold : a.SumsOnly ((l.zip (List.range l.length)).foldl
      (fun x p => st.row banks (a.rc + BitVec.ofNat 6 p.2) x p.1) (a, Flags.none)).1 :=
    .foldl (fun x (p : List (Bool × List (Option Nat)) × Nat) => sumsOnly_row st banks (a.rc + BitVec.ofNat 6 p.2) x p.1) _ (a, Flags.none)
  unfold Stream.rows
  dsimp only
  split
  · exact hfold
  · exact hfold.trans ⟨rfl⟩

/-- The cursor moves past the rows, except in ABS mode (R325, R330). -/
theorem rc_rows (st : Stream) (banks : Bool → Bank) (a : Acc) (l : List (List (Bool × List (Option Nat)))) (h : st.abs = false) :
    (st.rows banks a l).1.rc = a.rc + BitVec.ofNat 6 l.length := by
  simp [Stream.rows, h]

/-! ## The checks and the issue of a stream instruction (R317, R319, R320) -/

theorem ra_mapAcc (x : Ctx) (a b : AReg) (f : Acc → Acc) : (x.mapAcc a f).ra b = if b = a then f (x.ra a) else x.ra b := by
  simp only [Ctx.ra, Ctx.mapAcc, Vector.getElem_set]
  by_cases h : b = a
  · simp [h]
  · have : a.toNat ≠ b.toNat := fun e => h (BitVec.eq_of_toNat_eq e.symm)
    simp [h, this]

theorem checksThen_of_pass {l : List (Bool × IssueTrap)} (h : ∀ p ∈ l, p.1 = true) (k : Except IssueTrap (List Touch)) :
    checksThen l k = k := by
  have hnone : l.find? (fun p => !p.1) = none := List.find?_eq_none.mpr (fun p hp => by simp [h p hp])
  simp [checksThen, hnone]

theorem streamChecks_pass {s : State} {ac : AReg} {p : Pair} {bks : List Bool} (h : s.streamReady ac p bks)
    {third : List (Bool × IssueTrap)} (ht : ∀ q ∈ third, q.1 = true) : ∀ q ∈ s.streamChecks ac p third bks, q.1 = true := by
  obtain ⟨-, hholder, ⟨task, htask, hacc⟩, hkind, hbanks⟩ := h
  intro q hq
  simp only [State.streamChecks, List.mem_append, List.mem_cons, List.not_mem_nil, or_false, List.mem_map] at hq
  rcases hq with ((((rfl | rfl) | hq) | ⟨bk, hbk, rfl⟩) | rfl) | ⟨bk, hbk, rfl⟩
  · simp [State.holderCheck, hholder]
  · simp [State.naccCheck, htask, hacc]
  · exact ht q hq
  · simp [State.formatCheck, (hbanks bk hbk).1]
  · simpa [State.kindCheck] using hkind
  · simp [State.readyCheck, (hbanks bk hbk).2]

/-- A change at issue is made to what an instruction of a bundle leaves when it has issued. -/
theorem atIssue_of_issued {s t : State} (hb : s.env.slipped = none) (hu : s.unraised) (ht : t.env = s.env) (f : State → State) :
    s.atIssue t f = f t := by
  simp [State.atIssue, hb, ht, hu.1, hu.2]

theorem tag_of_bundle {s : State} (hb : s.env.slipped = none) (sh : Shape) : s.tag sh = sh.ctl := by
  simp [State.tag, State.view?, hb]

/-- The banks that the beats of an instruction read until its due time (R322). -/
def State.busyBanks (s : State) (bks : List Bool) (due : Word) : State :=
  bks.foldl (fun (u : State) bk =>
    u.mapCore u.myCore (fun k => k.mapBank bk (fun b => if b.busy.toNat < due.toNat then { b with busy := due } else b))) s

theorem busyBanks_leaves (s : State) (bks : List Bool) (due : Word) :
    ((s.busyBanks bks due).mem, (s.busyBanks bks due).ctxs, (s.busyBanks bks due).env) = (s.mem, s.ctxs, s.env) := by
  unfold State.busyBanks
  exact foldl_keeps (fun t : State => (t.mem, t.ctxs, t.env)) (fun _ _ => by rfl) bks s

/-- An accumulator once a stream instruction that has summed its rows stands in flight (R99, R317). -/
def Acc.inFlight (a : Acc) (ctm : Word) (kind : BitVec 2) (lat : Nat) : Acc :=
  { a with
    kind, seq := a.seq + 1,
    flight := a.flight.filter (fun p => decide (ctm.toNat < p.2.toNat)) ++ [(a.seq + 1, ctm + BitVec.ofNat 64 lat)] }

theorem streamIssued_leaves (s : State) (ac : AReg) (p : Pair) (bks : List Bool) (lat : Nat) :
    let t := s.streamIssued ac p bks lat
    t.mem = s.mem ∧ t.cx = s.cx.mapAcc ac (fun a => a.inFlight s.env.ctm (kindOf p) lat) := by
  intro t
  have hbusy := busyBanks_leaves s bks (s.env.ctm + BitVec.ofNat 64 lat)
  have ht : t = (s.busyBanks bks (s.env.ctm + BitVec.ofNat 64 lat)).countSeq ac (some lat) (fun a => { a with kind := kindOf p }) := rfl
  generalize s.busyBanks bks (s.env.ctm + BitVec.ofNat 64 lat) = u at hbusy ht
  obtain ⟨hmem, hrest⟩ := Prod.mk.inj hbusy
  obtain ⟨hctxs, henv⟩ := Prod.mk.inj hrest
  refine ⟨by rw [ht]; exact hmem, ?_⟩
  rw [ht, State.countSeq, cx_mapCx, cx_congr hctxs henv, henv]
  rfl

/-! ## The effect of a stream instruction (R319, R325 to R330) -/

/-- The accumulator whose rows a stream instruction sums: its cursor at row 0 first where the instruction says so (R329). -/
def Acc.from (a : Acc) (rc0 : Bool) (st : Stream) : Acc := if rc0 ∧ !st.abs then { a with rc := 0 } else a

theorem seq_from (a : Acc) (rc0 : Bool) (st : Stream) : (a.from rc0 st).seq = a.seq ∧ (a.from rc0 st).dc = a.dc := by
  unfold Acc.from
  split <;> exact ⟨rfl, rfl⟩

theorem cx_consume (s : State) (poison : Bool) : (s.consume poison).1.cx = { s.cx with unwind := (s.consume poison).1.cx.unwind } := by
  unfold State.consume
  split
  · rfl
  split
  · dsimp only
    rw [cx_mapCx]
  · rfl

theorem mem_consume (s : State) (poison : Bool) : (s.consume poison).1.mem = s.mem := by
  unfold State.consume
  split
  · rfl
  split <;> rfl

/-- An accumulator stored by a stream instruction, with its flags and consumed poison (R319, R451). -/
def State.storesRows (s : State) (ac : AReg) (a : Acc) (fl : Flags) (poison : Bool) (lat : Nat) : State :=
  let p := (s.mapCx (fun x => x.mapAcc ac (fun _ => a))).consume poison
  p.1.deliverR lat { Result.base with flags := fl, mayFlag := true, peng := p.2 }

theorem stream_eq (s : State) (ac : AReg) (st : Stream) (rc0 inv poison : Bool) (lat : Nat) (l : List (List (Bool × List (Option Nat)))) :
    s.stream ac st rc0 inv poison lat l =
      s.storesRows ac (st.rows s.banks ((s.cx.ra ac).from rc0 st) l).1
        ((st.rows s.banks ((s.cx.ra ac).from rc0 st) l).2.or (Flags.invIf inv)) poison lat := rfl

section
variable {s : State} (hb : s.env.slipped = none) (ac : AReg) (a : Acc) (fl : Flags) (poison : Bool) (lat : Nat)
include hb

/-- A stored accumulator changes that of its context, and beside it what records the instruction. -/
theorem storesRows_leaves :
    let t := s.storesRows ac a fl poison lat
    t.mem = s.mem ∧ t.env = s.env ∧
      ∃ w rs n, t.cx = { s.cx.mapAcc ac (fun _ => a) with unwind := w, results := rs, nextRid := n } := by
  intro t
  let u := s.mapCx (fun x => x.mapAcc ac (fun _ => a))
  have henv : (u.consume poison).1.env = s.env := consume_env u poison
  have hmem : (u.consume poison).1.mem = s.mem := mem_consume u poison
  obtain ⟨w, hw⟩ : ∃ w, (u.consume poison).1.cx = { s.cx.mapAcc ac (fun _ => a) with unwind := w } :=
    ⟨_, (cx_consume u poison).trans (by rw [cx_mapCx])⟩
  have ht : t = (u.consume poison).1.gains lat { Result.base with flags := fl, mayFlag := true, peng := (u.consume poison).2 } :=
    deliverR_of_bundle ((congrArg Env.slipped henv).trans hb) ..
  generalize (u.consume poison).1 = v at henv hmem hw ht
  refine ⟨by rw [ht]; exact hmem, by rw [ht]; exact henv, w,
    v.cx.results ++ [({ Result.base with flags := fl, mayFlag := true, peng := (u.consume poison).2 } : Result).issue v.env lat v.cx.nextRid],
    v.cx.nextRid + 1, ?_⟩
  rw [ht, State.gains, cx_mapCx, hw]

/-- What it leaves once the instruction has issued: its accumulator counted and in flight, and nothing else (R319). -/
theorem storesRows_issued (p : Pair) (bks : List Bool) :
    let t := (s.storesRows ac a fl poison lat).streamIssued ac p bks lat
    s.onlyAccumulator t ac ∧ t.cx.ra ac = a.inFlight s.env.ctm (kindOf p) lat := by
  intro t
  obtain ⟨hmem, henv, w, rs, n, hcx⟩ := storesRows_leaves hb ac a fl poison lat
  obtain ⟨tmem, tcx⟩ := streamIssued_leaves (s.storesRows ac a fl poison lat) ac p bks lat
  rw [hcx, henv] at tcx
  have htra (b : AReg) : t.cx.ra b = if b = ac then a.inFlight s.env.ctm (kindOf p) lat else s.cx.ra b := by
    rw [show t.cx = _ from tcx, ra_mapAcc]
    have hra (c : AReg) : ({ s.cx.mapAcc ac (fun _ => a) with unwind := w, results := rs, nextRid := n } : Ctx).ra c =
        if c = ac then a else s.cx.ra c := ra_mapAcc s.cx ac c (fun _ => a)
    rw [hra, hra, if_pos rfl]
    split <;> rfl
  refine ⟨⟨tmem.trans hmem, ?_, ?_, ?_, fun b hne => ?_⟩, ?_⟩
  · exact (congrArg Ctx.s tcx).trans rfl
  · exact (congrArg Ctx.v tcx).trans rfl
  · exact (congrArg Ctx.p tcx).trans rfl
  · rw [htra b, if_neg hne]
  · rw [htra ac, if_pos rfl]

end

/-- What a stream instruction counts and keeps of its accumulator (R99, R317). -/
theorem streamed_inFlight (a : Acc) (rc0 : Bool) (st : Stream) (banks : Bool → Bank) (l : List (List (Bool × List (Option Nat))))
    (ctm : Word) (kind : BitVec 2) (lat : Nat) :
    a.streamed (((st.rows banks (a.from rc0 st) l).1).inFlight ctm kind lat) kind (ctm + BitVec.ofNat 64 lat) := by
  have hsum := sumsOnly_rows st banks (a.from rc0 st) l
  obtain ⟨hseq, hdc⟩ := seq_from a rc0 st
  refine ⟨congrArg (· + 1) (hsum.seq.trans hseq), rfl, hsum.dc.trans hdc, ?_⟩
  simp [Acc.inFlight, hsum.seq, hseq]

/-! ## Rows from vector registers (R325 to R327) -/

section
variable {s : State} {i : Instr} {pair : Pair} {ac : AReg} {k : Nat} {enc : Bool} {data : List Src}

theorem mmaOp_issues (h : s.issues data) (hf : s.follows i = false) (eb : State → Word) (rows : State → List (List (Option Nat)))
    (hready : s.streamReady ac (s.pairNow pair) [(s.core s.myCore).act]) :
    let p := s.pairNow pair
    let act := (s.core s.myCore).act
    let e := ebWord p (eb s)
    s.mmaOp i pair ac k enc data eb rows = .next
      ((s.stream ac ⟨p, enc, false, e.1⟩ false e.2 false (k + 10) ((rows s).map (fun r => [(act, r)]))).streamIssued ac p [act] (k + 10)) := by
  intro p act e
  have hb := h.1
  have htag (sh : Shape) (hctl : sh.ctl = if act then 1 else 0) : (s.tag sh).getLsbD 0 = act := by
    rw [tag_of_bundle hb, hctl]
    cases act <;> rfl
  have hchecks := checksThen_of_pass (streamChecks_pass hready (third := []) (by simp)) (.ok [])
  unfold State.mmaOp
  dsimp only
  rw [hchecks, operate_ok (sh := ⟨i, [], data, [(.none, k + 10)], true, if (s.core s.myCore).act then 1 else 0⟩) h
    (conflict_of_unordered s hf), htag _ rfl]
  exact congrArg Host.Outcome.next (atIssue_of_issued hb hready.1 (storesRows_leaves hb ..).2.1 _)

end

/-- What a stream instruction leaves of its accumulator and beside it, in the words of the model's own sum of rows. -/
theorem stream_issued {s : State} (hb : s.env.slipped = none) (ac : AReg) (st : Stream) (rc0 inv poison : Bool) (lat : Nat)
    (l : List (List (Bool × List (Option Nat)))) (p : Pair) (bks : List Bool) :
    let t := (s.stream ac st rc0 inv poison lat l).streamIssued ac p bks lat
    s.onlyAccumulator t ac ∧
      t.cx.ra ac = ((st.rows s.banks ((s.cx.ra ac).from rc0 st) l).1).inFlight s.env.ctm (kindOf p) lat := by
  rw [stream_eq]
  exact storesRows_issued hb ..

/-- The same of an instruction on rows of vector registers, whose cursor stands where it stood (R325 to R327). -/
theorem stream_issued_registers {s : State} (hb : s.env.slipped = none) (ac : AReg) (st : Stream) (inv : Bool) (lat : Nat)
    (l : List (List (Bool × List (Option Nat)))) (p : Pair) (bks : List Bool) :
    let t := (s.stream ac st false inv false lat l).streamIssued ac p bks lat
    let sum := (st.rows s.banks (s.cx.ra ac) l).1
    s.onlyAccumulator t ac ∧ (t.cx.ra ac).tile = sum.tile ∧ (t.cx.ra ac).cerr = sum.cerr ∧ (t.cx.ra ac).rc = sum.rc ∧
      (s.cx.ra ac).streamed (t.cx.ra ac) (kindOf p) (s.env.ctm + BitVec.ofNat 64 lat) := by
  intro t sum
  obtain ⟨honly, hacc⟩ := stream_issued hb ac st false inv false lat l p bks
  have hstreamed := streamed_inFlight (s.cx.ra ac) false st s.banks l s.env.ctm (kindOf p) lat
  have hfrom : (s.cx.ra ac).from false st = s.cx.ra ac := by simp [Acc.from]
  rw [hfrom] at hacc hstreamed
  rw [show t.cx.ra ac = _ from hacc]
  exact ⟨honly, rfl, rfl, rfl, hstreamed⟩

/-! ## Rows from PM or a ring (R328 to R330) -/

theorem joinCopies_leaves {s : State} (hb : s.env.slipped = none) (lat : Nat) (test : Copy → Bool) (ac : AReg) :
    (s.joinCopies lat test).cores = s.cores ∧ (s.joinCopies lat test).cx.ra ac = s.cx.ra ac := by
  have hflags (l : List Copy) (fl : Flags) : ((({ s with copies := l } : State).addFlags lat fl).cores = s.cores) ∧
      (({ s with copies := l } : State).addFlags lat fl).cx.ra ac = s.cx.ra ac := by
    unfold State.addFlags
    split
    · rw [deliverR_of_bundle (s := { s with copies := l }) hb, State.gains, cx_mapCx]
      exact ⟨rfl, rfl⟩
    · exact ⟨rfl, rfl⟩
  unfold State.joinCopies
  split
  · exact ⟨rfl, rfl⟩
  · exact hflags _ _

theorem joinRing_leaves {s : State} (hb : s.env.slipped = none) (lat : Nat) (h : HReg) (ac : AReg) :
    (s.joinRing lat h).cores = s.cores ∧ (s.joinRing lat h).cx.ra ac = s.cx.ra ac := by
  unfold State.joinRing
  split
  · exact joinCopies_leaves hb ..
  · exact ⟨rfl, rfl⟩

theorem banks_congr {s t : State} (hc : t.cores = s.cores) (he : t.env = s.env) : t.banks = s.banks := by
  funext bk
  simp only [State.banks, State.core, State.myCore, hc, he]

theorem readsAt_leaves (s : State) (ps : List Piece) :
    (s.readsAt ps).cores = s.cores ∧ (s.readsAt ps).env = s.env ∧ (s.readsAt ps).cx = s.cx := ⟨rfl, rfl, rfl⟩

section
variable {s : State} {ac : AReg} {a : SOpd} {b c : SReg} {rc0 : Bool} {nm : BitVec 6} {pair : Pair} {mode : MmasMode} {rot rg : Bool}
  {h : HReg} {rn : BitVec 6} {tc : List Touch} {ps : List Piece}

/-- The operand that the passes of mmas read, once its errors are found (R135, R148, R329). -/
def State.mmasRead (s : State) (rg : Bool) (h : HReg) (ps : List Piece) : State := (if rg then s.joinRing 1 h else s).readsAt ps

theorem mmasRead_leaves (hb : s.env.slipped = none) :
    (s.mmasRead rg h ps).env = s.env ∧ (s.mmasRead rg h ps).banks = s.banks ∧ (s.mmasRead rg h ps).cx.ra ac = s.cx.ra ac := by
  obtain ⟨hcores, henv, hcx⟩ := readsAt_leaves (if rg then s.joinRing 1 h else s) ps
  have hjoin : (if rg then s.joinRing 1 h else s).env = s.env ∧ (if rg then s.joinRing 1 h else s).cores = s.cores ∧
      (if rg then s.joinRing 1 h else s).cx.ra ac = s.cx.ra ac := by
    split
    · exact ⟨joinRing_env hb .., joinRing_leaves hb ..⟩
    · exact ⟨rfl, rfl, rfl⟩
  obtain ⟨jenv, jcores, jra⟩ := hjoin
  exact ⟨henv.trans jenv, banks_congr (hcores.trans jcores) (henv.trans jenv), (congrArg (Ctx.ra · ac) hcx).trans jra⟩

/-- The pieces that mmas reads: those of its slots, or those that its checks fixed (R329). -/
def State.mmasPieces (s : State) (rg : Bool) (h : HReg) (tc : List Touch) (offs : List Nat) (bytes : Nat) : List Piece :=
  if rg then
    match s.ringNamed h with
    | some (_, r) => offs.map (fun o => ⟨s.ringSlotKey h false (o / r.slotSize) + o % r.slotSize, bytes⟩)
    | none => []
  else piecesOf tc

/-- The passes of mmas over the pieces that it has read, against the bank that was ACT at issue and, with ROT, the other
(R329). -/
def State.streamsPieces (u : State) (sh : Shape) (ac : AReg) (st : Stream) (rc0 inv : Bool) (lat : Nat) (rot : Bool) (esz : Nat)
    (ps : List Piece) : State :=
  u.stream ac st rc0 inv (u.piecesPoisoned ps) lat
    (rowPasses rot ((u.tag sh).getLsbD 0) (ps.map (fun q => (elements 64 esz (u.bytesAt q.key q.len)).map some)))

/-- mmas as its slot issues it. -/
def mmasShape (s : State) (ac : AReg) (a : SOpd) (b c : SReg) (rc0 : Bool) (nm : BitVec 6) (pair : Pair) (mode : MmasMode)
    (rot rg : Bool) (h : HReg) (rn : BitVec 6) : Shape :=
  ⟨.mmas ac a b c rc0 nm pair mode rot rg h rn, .s b :: (if rg then [] else SOpd.src a), if pair.hasEb then [.s c] else [],
    (if rg then [(.none, 1)] else []) ++ [(.none, (if rot then 2 * (nm.toNat + 1) else nm.toNat + 1) + 14)], true,
    if (s.core s.myCore).act then 1 else 0⟩

/-- An mmas whose checks pass, and whose operand is satisfied, streams the rows that it reads (R328 to R330). -/
theorem exec_mmas
    (hi : s.issuesInOrder (.mmas ac a b c rc0 nm pair mode rot rg h rn)
      ((.s b :: if rg then [] else SOpd.src a) ++ if pair.hasEb then [.s c] else []))
    (hready : s.streamReady ac (s.pairNow pair) (if rot then [(s.core s.myCore).act, !(s.core s.myCore).act] else [(s.core s.myCore).act]))
    (hhigh : (s.cx.rs b).extractLsb' 48 16 = 0) (hrp : ((s.cx.rs b).extractLsb' 0 24).toNat % 8 = 0)
    (htp : ((s.cx.rs b).extractLsb' 24 24).toNat % 8 = 0) (hhall : (rg && s.hallRing h) = false)
    {esz : Nat} (hesz : esz = if mode == .abs then 4 else (s.pairNow pair).acts.bytes) {offs : List Nat}
    (hoffs : offs = mmasOffsets (nm.toNat + 1) ((s.cx.rs b).extractLsb' 0 24).toNat ((s.cx.rs b).extractLsb' 24 24).toNat rot)
    (hlast : (if rg then s.checkMmasRing h rn.toNat offs (64 * esz) else s.checkRows (s.operandS a) offs (64 * esz)) = .ok tc)
    (hring : rg = true → s.ringReady h false rn.toNat = true) (haway : tc.any (·.away) = false)
    (hps : ps = s.mmasPieces rg h tc offs (64 * esz)) :
    let p := s.pairNow pair
    let act := (s.core s.myCore).act
    let lat := (if rot then 2 * (nm.toNat + 1) else nm.toNat + 1) + 14
    let u := s.mmasRead rg h ps
    exec (.mmas ac a b c rc0 nm pair mode rot rg h rn) s = .next
      ((u.stream ac ⟨p, mode != .plain, mode == .abs, (ebWord p (s.cx.rs c)).1⟩ rc0 (ebWord p (s.cx.rs c)).2 (u.piecesPoisoned ps) lat
        (rowPasses rot act (ps.map (fun q => (elements 64 esz (u.bytesAt q.key q.len)).map some)))).streamIssued ac p
          (if rot then [act, !act] else [act]) lat) := by
  intro p act lat u
  have hb := issuesInOrder_slipped hi
  have huenv : u.env = s.env := (mmasRead_leaves (ac := ac) hb).1
  have htag : (u.tag (mmasShape s ac a b c rc0 nm pair mode rot rg h rn)).getLsbD 0 = act := by
    rw [tag_of_bundle ((congrArg Env.slipped huenv).trans hb)]
    show BitVec.getLsbD (if act then 1 else 0) 0 = act
    cases act <;> rfl
  have hchecks := checksThen_of_pass (streamChecks_pass hready (third :=
    [((s.cx.rs b).extractLsb' 48 16 == 0 && decide (((s.cx.rs b).extractLsb' 0 24).toNat % 8 = 0) &&
      decide (((s.cx.rs b).extractLsb' 24 24).toNat % 8 = 0) && !(rg && s.hallRing h), ⟨.ill, 0, 0⟩)])
    (fun q hq => by
      obtain rfl := List.mem_singleton.mp hq
      simp only [hhigh, hrp, htp, hhall]
      rfl)) (.ok tc)
  have hsat : (!rg || s.ringReady h false rn.toNat) = true := by
    cases rg
    · rfl
    · simp [hring rfl]
  show execMmas ac a b c rc0 nm pair mode rot rg h rn s = _
  unfold execMmas
  dsimp only
  rw [rs_of_bundle hb, rso_of_bundle hb, ← hesz, ← hoffs, hlast, hchecks, operate_ok, implicitWait_ready _ _ hb hsat haway,
    rs_of_bundle hb]
  · show Host.Outcome.next (s.atIssue ((s.mmasRead rg h (s.mmasPieces rg h tc offs (64 * esz))).streamsPieces
      (mmasShape s ac a b c rc0 nm pair mode rot rg h rn) ac ⟨p, mode != .plain, mode == .abs, (ebWord p (s.cx.rs c)).1⟩ rc0
      (ebWord p (s.cx.rs c)).2 lat rot esz (s.mmasPieces rg h tc offs (64 * esz))) _) = _
    rw [← hps, State.streamsPieces, htag]
    exact congrArg Host.Outcome.next (atIssue_of_issued hb hready.1
      ((storesRows_leaves ((congrArg Env.slipped huenv).trans hb) ..).2.1.trans huenv) _)
  · exact hi.1
  · exact hi.2

end

/-- Settles O35: an instruction whose checks pass streams its rows into the accumulator alone. -/
theorem tileStreams : Obligations.TileStreams := by
  unfold Obligations.TileStreams
  refine ⟨?_, ?_, ?_⟩
  · intro s pair ac v km eb rs p act hi hready st sum
    have hexec : exec (.mma pair ac v km eb) s = _ :=
      mmaOp_issues (k := km.toNat + 1) (enc := false) hi rfl (fun t => t.rso eb) (fun t => rs.map (fun r => rowOf (t.rv r))) hready
    simp only [rso_of_bundle hi.1, rv_of_bundle hi.1, List.map_map] at hexec
    obtain ⟨honly, htile, -, hrc, hstreamed⟩ := stream_issued_registers hi.1 ac st (ebWord p (s.operandS eb)).2 (km.toNat + 11)
      (rs.map (fun r => [(act, rowOf (s.cx.rv r))])) p [act]
    refine ⟨_, hexec, honly, htile, hrc.trans ?_, hstreamed⟩
    rw [rc_rows _ _ _ _ rfl]
    simp [rs, vregs]
  · intro s pair ac v km rs p act heb hready st
    have heb0 (w : Word) : ebWord p w = (0, false) := by simp [ebWord, heb]
    refine ⟨fun hi => ?_, fun hi => ?_⟩
    · have hexec : exec (.mmaE pair ac v km) s = _ :=
        mmaOp_issues (k := km.toNat + 1) (enc := true) hi rfl (fun _ => 0) (fun t => rs.map (fun r => rowOf (t.rv r))) hready
      simp only [rv_of_bundle hi.1, List.map_map] at hexec
      rw [heb0] at hexec
      obtain ⟨honly, htile, hcerr, -, hstreamed⟩ := stream_issued_registers hi.1 ac st false (km.toNat + 11)
        (rs.map (fun r => [(act, rowOf (s.cx.rv r))])) p [act]
      exact ⟨_, hexec, honly, htile, hcerr, hstreamed⟩
    · have hexec : exec (.mmaD pair ac v km) s = _ :=
        mmaOp_issues (k := km.toNat + 1) (enc := true) hi rfl (fun _ => 0)
          (fun t => (List.range (km.toNat + 1)).map (fun i => diagRow (t.rv v) (lane (t.rv (v + 1)) i))) hready
      simp only [rv_of_bundle hi.1, List.map_map] at hexec
      rw [heb0] at hexec
      obtain ⟨honly, htile, hcerr, -, hstreamed⟩ := stream_issued_registers hi.1 ac st false (km.toNat + 11)
        ((List.range (km.toNat + 1)).map (fun i => [(act, diagRow (s.cx.rv v) (lane (s.cx.rv (v + 1)) i))])) p [act]
      exact ⟨_, hexec, honly, htile, hcerr, hstreamed⟩
  · intro s ac a b c rc0 nm pair mode rot rg h rn tc ps p act esz n pitch offs i hi hready hhigh hrp htp hrows hring haway u st a0 sum
    have hb := issuesInOrder_slipped hi
    have hesz : esz = if (mode == .abs) = true then 4 else p.acts.bytes := by simp [esz]
    have hhall : (rg && s.hallRing h) = false := by
      cases hrg : rg
      · rfl
      · simp [(hring hrg).1]
    have hlast : (if rg then s.checkMmasRing h rn.toNat offs (64 * esz) else s.checkRows (s.operandS a) offs (64 * esz)) = .ok tc := by
      cases hrg : rg
      · exact (hrows hrg).1
      · exact (hring hrg).2.1
    have hps : ps = s.mmasPieces rg h tc offs (64 * esz) := by
      cases hrg : rg
      · exact (hrows hrg).2
      · obtain ⟨-, -, -, e, r, hr, hps⟩ := hring hrg
        rw [hps]
        simp only [State.mmasPieces, if_true, ringNamed_of_bundle hb, hr]
    have hexec := exec_mmas hi hready hhigh hrp htp hhall hesz rfl hlast (fun hrg => (hring hrg).2.2.1) haway hps
    obtain ⟨huenv, hbanks, hra⟩ : u.env = s.env ∧ u.banks = s.banks ∧ u.cx.ra ac = s.cx.ra ac :=
      mmasRead_leaves (rg := rg) (h := h) (ps := ps) hb
    have hfrom : (u.cx.ra ac).from rc0 st = a0 := by
      rw [hra]
      cases mode <;> cases rc0 <;> rfl
    let l := rowPasses rot act (ps.map (fun q => (elements 64 esz (u.bytesAt q.key q.len)).map some))
    let lat := (if rot then 2 * n else n) + 14
    obtain ⟨honly, hacc⟩ := stream_issued ((congrArg Env.slipped huenv).trans hb) ac st rc0 (ebWord p (s.cx.rs c)).2
      (u.piecesPoisoned ps) lat l p (if rot then [act, !act] else [act])
    have hstreamed := streamed_inFlight (u.cx.ra ac) rc0 st u.banks l u.env.ctm (kindOf p) lat
    rw [← hacc, hra, huenv] at hstreamed
    rw [hfrom, hbanks] at hacc
    exact ⟨_, hexec, honly, (congrArg Acc.tile hacc).trans rfl, (congrArg Acc.cerr hacc).trans rfl,
      (congrArg Acc.crem hacc).trans rfl, (congrArg Acc.rc hacc).trans rfl, hstreamed⟩

end Sys2Proof.Machine
end

section
/-!
O6: what every step keeps: memory, results, slip buffers, and the issue of bundles (spec/05 R123, R150).
-/
namespace Sys2Proof.Machine

/-! ## Answers that are sound (R123, R150) -/

/-- The next state that an operation answers, where it answers one, has its memory in canonical form. -/
def soundOut (o : Out) : Prop := ∀ t, o = .next t → t.sound

/-- The state that a partial operation gives, where it gives one, has its memory in canonical form. -/
def soundIn (o : Option State) : Prop := ∀ t, o = some t → t.sound

/-- What a check lets act keeps the canonical form. -/
def soundChk (c : Except IssueTrap (State → State)) : Prop := ∀ k, c = .ok k → ∀ t, t.sound → (k t).sound

theorem soundOut_next {t : State} (h : t.sound) : soundOut (.next t) := by
  rintro _ ⟨⟩
  exact h

theorem soundOut_fault (f : Fault) : soundOut (.fault f) := by
  rintro _ ⟨⟩

theorem soundOut_refused (r : Refusal) : soundOut (.refused r) := by
  rintro _ ⟨⟩

theorem soundIn_some {t : State} (h : t.sound) : soundIn (some t) := by
  rintro _ ⟨⟩
  exact h

theorem soundIn_none : soundIn none := fun t h => absurd h (Option.some_ne_none t).symm

theorem soundChk_ok {k : State → State} (h : ∀ t, t.sound → (k t).sound) : soundChk (.ok k) := by
  rintro _ ⟨⟩
  exact h

theorem soundChk_error (t : IssueTrap) : soundChk (.error t) := by
  rintro _ ⟨⟩

theorem soundIn_map {α : Type} {o : Option α} {f : α → State} (hf : ∀ x, (f x).sound) : soundIn (o.map f) := by
  cases o with
  | none => exact soundIn_none
  | some x => exact soundIn_some (hf x)

theorem soundIn_bind {α : Type} {o : Option α} {f : α → Option State} (hf : ∀ x, soundIn (f x)) : soundIn (o.bind f) := by
  cases o with
  | none => exact soundIn_none
  | some x => exact hf x

theorem soundChk_orTrap {ok : Bool} {t : IssueTrap} {k : Except IssueTrap (State → State)} (h : soundChk k) :
    soundChk (orTrap ok t k) := by
  cases ok
  · exact soundChk_error t
  · exact h

/-- A state with the same memory is sound as well: so are the changes of every other part of the machine. -/
theorem State.sound.keep {s t : State} (h : s.sound) (hmem : t.mem = s.mem) : t.sound :=
  (congrArg (fun m => Memory.wf m = true) hmem).mpr h

theorem State.sound.foldl {α : Type} {f : State → α → State} {s : State} {l : List α} (h : s.sound)
    (hf : ∀ t x, t.sound → (f t x).sound) : (l.foldl f s).sound := sound_foldl hf l h

theorem State.sound.ite {a b : State} {p : Prop} [Decidable p] (ha : a.sound) (hb : b.sound) : (if p then a else b).sound := by
  split
  · exact ha
  · exact hb

theorem soundOut_ite {a b : Out} {p : Prop} [Decidable p] (ha : soundOut a) (hb : soundOut b) :
    soundOut (if p then a else b) := by
  split
  · exact ha
  · exact hb

section
variable {s : State} (hs : s.sound)
include hs

/-! ## Changes of other parts of the state -/

theorem State.sound.withAgenda {agenda} : ({ s with agenda := agenda } : State).sound := hs

theorem State.sound.withConds {conds} : ({ s with conds := conds } : State).sound := hs

theorem State.sound.withCondsPosts {conds posts} : ({ s with conds := conds, posts := posts } : State).sound := hs

theorem State.sound.withCopiesCondsPosts {copies conds posts} :
    ({ s with copies := copies, conds := conds, posts := posts } : State).sound := hs

theorem State.sound.withEmptiesPoison {empties poison} : ({ s with empties := empties, poison := poison } : State).sound := hs

theorem State.sound.withEnv {env} : ({ s with env := env } : State).sound := hs

theorem State.sound.withFrames {frames} : ({ s with frames := frames } : State).sound := hs

theorem State.sound.withFree {free} : ({ s with free := free } : State).sound := hs

theorem State.sound.withGccFreeVanPorchMgmt {gcc free van porch mgmt} :
    ({ s with gcc := gcc, free := free, van := van, porch := porch, mgmt := mgmt } : State).sound := hs

theorem State.sound.withGroups {groups} : ({ s with groups := groups } : State).sound := hs

theorem State.sound.withGroupsFrames {groups frames} : ({ s with groups := groups, frames := frames } : State).sound := hs

theorem State.sound.withGroupsSched {groups sched} : ({ s with groups := groups, sched := sched } : State).sound := hs

theorem State.sound.withHostOut {hostOut} : ({ s with hostOut := hostOut } : State).sound := hs

theorem State.sound.withLaunches {launches} : ({ s with launches := launches } : State).sound := hs

theorem State.sound.withMgmt {mgmt} : ({ s with mgmt := mgmt } : State).sound := hs

theorem State.sound.withNextIdPhases {nextId phases} : ({ s with nextId := nextId, phases := phases } : State).sound := hs

theorem State.sound.withPoison {poison} : ({ s with poison := poison } : State).sound := hs

theorem State.sound.withPorch {porch} : ({ s with porch := porch } : State).sound := hs

theorem State.sound.withPreempts {preempts} : ({ s with preempts := preempts } : State).sound := hs

theorem State.sound.withReds {reds} : ({ s with reds := reds } : State).sound := hs

theorem State.sound.withRedsPhasesFaults {reds phases faults} :
    ({ s with reds := reds, phases := phases, faults := faults } : State).sound := hs

theorem State.sound.withRgns {rgns} : ({ s with rgns := rgns } : State).sound := hs

theorem State.sound.withSched {sched} : ({ s with sched := sched } : State).sound := hs

theorem State.sound.withSigs {sigs} : ({ s with sigs := sigs } : State).sound := hs

theorem State.sound.withStageEnv {stage env} : ({ s with stage := stage, env := env } : State).sound := hs

theorem State.sound.withTlb {tlb} : ({ s with tlb := tlb } : State).sound := hs

theorem State.sound.withTlbLaunchesRgnsRcbCopies {tlb launches rgns rcbCopies} :
    ({ s with tlb := tlb, launches := launches, rgns := rgns, rcbCopies := rcbCopies } : State).sound := hs

theorem State.sound.withTurn {turn} : ({ s with turn := turn } : State).sound := hs

theorem State.sound.withVanMgmt {van mgmt} : ({ s with van := van, mgmt := mgmt } : State).sound := hs

/-! ## Memory -/

theorem State.sound.putBytes {key bs} : (s.putBytes key bs).sound := sound_putBytes hs key bs

theorem State.sound.putNat {key n v} : (s.putNat key n v).sound := sound_putNat hs key n v

theorem State.sound.putPieces {ps bs} : (s.putPieces ps bs).sound := sound_putPieces hs ps bs

theorem State.sound.putCells {l} : (s.putCells l).sound := sound_putCells hs l

theorem State.sound.putWide {c size va ps bs} : (s.putWide c size va ps bs).sound := sound_putWide hs c size va ps bs

theorem State.sound.setTag {key full} : (s.setTag key full).sound := hs

/-! ## Global memory -/

theorem State.sound.globalPut {p c va bs} : (s.globalPut p c va bs).sound := sound_globalPut hs p c va bs

theorem State.sound.globalPutAll {p c ws} : (s.globalPutAll p c ws).sound := sound_globalPutAll hs p c ws

/-! ## Records, results and the slip buffers -/

theorem State.sound.setCtx {c x} : (s.setCtx c x).sound := hs

theorem State.sound.mapCtx {c f} : (s.mapCtx c f).sound := hs.setCtx

theorem State.sound.mapCx {f} : (s.mapCx f).sound := hs.mapCtx

theorem State.sound.mapCore {c f} : (s.mapCore c f).sound := hs

theorem State.sound.mapPart {p f} : (s.mapPart p f).sound := hs

theorem State.sound.drawWord : (s.drawWord).2.sound := hs

theorem State.sound.putRecord {part q ln tail bs} : (s.putRecord part q ln tail bs).sound := hs.globalPutAll

theorem State.sound.post {p q bs} : (s.post p q bs).sound := sound_post hs p q bs

theorem State.sound.flushHeld {n} : (s.flushHeld n).sound := by
  induction n generalizing s with
  | zero => exact hs
  | succ n ih =>
    unfold State.flushHeld
    split
    · exact hs
    · split
      · exact ih (hs.keep (by rfl))
      · split
        · exact ih (hs.keep (by rfl)).putRecord
        · exact ih (hs.keep (by rfl))

theorem State.sound.mapVan {f} : (s.mapVan f).sound := hs

theorem State.sound.putLog {r} : soundIn (s.putLog r) := by
  unfold State.putLog
  dsimp only
  split
  · exact soundIn_some hs.putBytes.putNat
  · exact soundIn_none

theorem State.sound.flushOne : soundIn s.flushOne := by
  unfold State.flushOne
  split
  · exact soundIn_none
  · next r rest _ =>
    rintro _ ht
    obtain ⟨t, hput, rfl⟩ := Option.map_eq_some_iff.mp ht
    exact (hs.putLog t hput).keep (by rfl)

theorem State.sound.flushLog {n} : (s.flushLog n).sound := by
  induction n generalizing s with
  | zero => exact hs
  | succ n ih =>
    unfold State.flushLog
    cases hf : s.flushOne with
    | none => exact hs
    | some t => exact ih (hs.flushOne t hf)

theorem State.sound.putTrace {part cfg bs} : (s.putTrace part cfg bs).sound := by
  unfold State.putTrace
  dsimp only
  split
  · exact hs.putBytes.putNat
  · exact hs.mapPart

theorem State.sound.trace {c kind ctm addr cnt} : (s.trace c kind ctm addr cnt).sound := by
  unfold State.trace
  dsimp only
  split
  · exact hs
  · split
    · exact hs
    · refine State.sound.putTrace ?_
      split
      · exact hs.mapPart.putTrace
      · exact hs

theorem State.sound.postEvent {r kind ctx core cnt det} : (s.postEvent r kind ctx core cnt det).sound := hs.post

theorem State.sound.escalate {c} : (s.escalate c).sound := by
  unfold State.escalate
  split
  · exact hs
  · dsimp only
    split
    · exact hs.setCtx
    · exact hs.setCtx.postEvent

theorem State.sound.endWait {c bits} : (s.endWait c bits).sound := by
  unfold State.endWait
  dsimp only
  split
  · exact hs.setCtx.escalate
  · exact hs.setCtx

theorem State.sound.applyResult {c r} : (s.applyResult c r).sound := by
  unfold State.applyResult
  dsimp only
  split
  · exact hs.setCtx
  · split
    · exact hs.setCtx.endWait
    · exact hs.setCtx

theorem State.sound.applyDue {c} : (s.applyDue c).sound := hs.setCtx.foldl fun _ _ ht => ht.applyResult

theorem State.sound.arrive {c rid} : (s.arrive c rid).sound := hs.setCtx.applyDue

theorem State.sound.deliverR {lat r} : (s.deliverR lat r).sound := by
  unfold State.deliverR
  split
  · split
    · dsimp only
      split
      · exact hs.mapCx.arrive
      · exact hs.mapCx
    · exact hs
  · exact hs.mapCx

theorem State.sound.deliver {lat d val} : (s.deliver lat d val).sound := hs.deliverR

theorem State.sound.deliverS {lat d w} : (s.deliverS lat d w).sound := hs.deliver

theorem State.sound.deliverF {lat d val mask fl} : (s.deliverF lat d val mask fl).sound := hs.deliverR

theorem State.sound.consume {poison} : (s.consume poison).1.sound := by
  unfold State.consume
  split
  · exact hs
  · split
    · exact hs.keep rfl
    · exact hs

theorem State.sound.deliverLoad {lat d val static poison} : (s.deliverLoad lat d val static poison).sound := hs.consume.deliverR

theorem State.sound.hflt {c entered own kind tad} : (s.hflt c entered own kind tad).sound := by
  unfold State.hflt
  dsimp only
  split
  · exact (hs.foldl fun _ _ ht => ht.mapCtx).postEvent
  · exact hs.foldl fun _ _ ht => ht.mapCtx

theorem State.sound.holdBanks {c} : (s.holdBanks c).sound := hs.mapCore

theorem State.sound.thawBanks {c ctm l} : (s.thawBanks c ctm l).sound := hs.mapCore

theorem State.sound.enterHandler {c t} : (s.enterHandler c t).sound := by
  unfold State.enterHandler
  dsimp only
  split
  · exact hs.setCtx.hflt
  · split
    · exact hs.setCtx.hflt
    · split
      · exact hs.setCtx.hflt
      · exact hs.setCtx.putBytes.trace.holdBanks.setCtx

theorem State.sound.returnHandler {c} : (s.returnHandler c).sound := by
  unfold State.returnHandler
  dsimp only
  split
  · exact hs.hflt
  · split
    · exact hs.hflt
    · exact hs.trace.thawBanks.setCtx

theorem State.sound.raise {mask t} : (s.raise mask t).sound := hs.enterHandler.withEnv

theorem State.sound.block {h} : (s.block h).sound := hs

theorem State.sound.blockFor {l} : (s.blockFor l).sound := hs.block

theorem State.sound.blockFull : (s.blockFull).sound := hs.block

theorem State.sound.blockBehind {l} : (s.blockBehind l).sound := hs.block

theorem State.sound.blockAway {va} : (s.blockAway va).sound := hs.block

theorem State.sound.raiseScore {cls unit inc ev} : (s.raiseScore cls unit inc ev).sound := hs

theorem State.sound.parityRead {i l lat} : (s.parityRead i l lat).sound := by
  unfold State.parityRead
  dsimp only
  split
  · exact hs
  · refine State.sound.deliverR (State.sound.consume ?_)
    exact (hs.keep (by rfl)).foldl fun _ _ ht => ht.raiseScore

theorem State.sound.slipIn {sh need touch wait} : (s.slipIn sh need touch wait).sound := by
  unfold State.slipIn
  dsimp only
  split
  · exact hs.blockFull
  · exact hs.setCtx

theorem State.sound.expireImplicit {i} : (s.expireImplicit i).sound := hs.mapCx.endWait

theorem State.sound.putBack {e} : (s.putBack e).sound := hs.mapCx

theorem State.sound.dropRid {rid} : (s.dropRid rid).sound := hs.mapCx

theorem State.sound.endJoin {e} : (s.endJoin e).sound := by
  unfold State.endJoin
  split
  · exact hs
  · split
    · exact hs.dropRid
    · exact hs

theorem State.sound.resume {e k} (hk : ∀ t, t.sound → (k t).sound) : (s.resume e k).sound := by
  unfold State.resume
  dsimp only
  split
  · split
    · exact hs.mapCx.expireImplicit
    · exact hs.mapCx.putBack
  · split
    · exact hs.mapCx.putBack
    · exact (hk _ (hs.keep (by rfl))).endJoin

theorem State.sound.operate {sh chk k} (hk : ∀ x t, t.sound → (k x t).sound) : (s.operate sh chk k).sound := by
  unfold State.operate
  split
  · exact hs.resume (fun _ ht => hk _ _ ht)
  · split
    · exact hs.blockFor
    · split
      · exact hs.raise
      · dsimp only
        split
        · exact hk _ _ hs.parityRead
        · split
          · exact hs.parityRead.expireImplicit
          · exact hs.parityRead.slipIn

theorem State.sound.operateNow {sh chk k} (hk : ∀ t, t.sound → (k t).sound) : (s.operateNow sh chk k).sound := by
  unfold State.operateNow
  split
  · exact hs.mapCx
  · split
    · exact hs.blockFor
    · split
      · exact hs.raise
      · dsimp only
        split
        · exact hk _ hs.parityRead
        · split
          · exact hs.blockFull
          · exact hk _ hs.parityRead.slipIn

theorem State.sound.issueOrBlock {i gates chk} (hk : soundChk chk) : (s.issueOrBlock i gates chk).sound := by
  unfold State.issueOrBlock
  split
  · exact hs.blockFor
  · split
    · exact hs.blockBehind
    · split
      · exact hs.raise
      · next k => exact hk k rfl _ hs.parityRead

theorem State.sound.compute {i gates data dests mayFlag k} (hk : ∀ t, t.sound → (k t).sound) :
    (s.compute i gates data dests mayFlag k).sound :=
  hs.operate (fun _ _ ht => hk _ ht)

theorem State.sound.stall {sh touch w} : (s.stall sh touch w).sound := by
  unfold State.stall
  split
  · exact hs.putBack
  · exact hs.slipIn

theorem State.sound.implicitWait {sh touch cond k} (hk : ∀ t, t.sound → (k t).sound) :
    (s.implicitWait sh touch cond k).sound := by
  unfold State.implicitWait
  dsimp only
  split
  · split
    · split
      · exact (hk _ hs).endWait
      · exact hk _ hs
    · exact hk _ hs
  · split
    · exact hs.expireImplicit
    · exact hs.stall

theorem State.sound.explicitWait {sh touch limit q cond ok timeout} (hok : ∀ t, t.sound → (ok t).sound)
    (htimeout : ∀ t, t.sound → (timeout t).sound) :
    (s.explicitWait sh touch limit q cond ok timeout).sound := by
  unfold State.explicitWait
  dsimp only
  split
  · exact hok _ hs
  · split
    · exact htimeout _ hs
    · exact hs.stall

theorem State.sound.dropDest {d} : (s.dropDest d).sound := by
  unfold State.dropDest
  split
  · exact hs
  · exact hs.dropRid

theorem State.sound.finishWait {st cls} : (s.finishWait st cls).sound := hs.deliver

theorem State.sound.finishStatus {d st cls} : (s.finishStatus d st cls).sound := hs.deliverS.finishWait

theorem State.sound.fresh : (s.fresh).2.sound := hs

/-! ## Operand forms -/

theorem State.sound.mapRing {c e f} : (s.mapRing c e f).sound := hs.mapCore

theorem State.sound.addFlags {lat fl} : (s.addFlags lat fl).sound := by
  unfold State.addFlags
  split
  · exact hs.deliverR
  · exact hs

theorem State.sound.joinCopies {lat test} : (s.joinCopies lat test).sound := by
  unfold State.joinCopies
  split
  · exact hs
  · exact (hs.keep (by rfl)).addFlags

theorem State.sound.joinRing {lat h} : (s.joinRing lat h).sound := by
  unfold State.joinRing
  split
  · exact hs.joinCopies
  · exact hs

/-! ## Storage and its errors -/

theorem State.sound.scoreError {k} : (s.scoreError k).sound := sound_scoreError hs k

theorem State.sound.recordError {k who} : (s.recordError k who).sound := sound_recordError hs k who

theorem State.sound.foundError {k b who} : (s.foundError k b who).sound := sound_foundError hs k b who

theorem State.sound.errorsFound {r ps} : (s.errorsFound r ps).sound := (hs.keep (by rfl)).foldl fun _ _ ht => ht.foundError

theorem State.sound.readErrors {r ps} : (s.readErrors r ps).sound := sound_readErrors hs r ps

theorem State.sound.noteTlb {core r} : (s.noteTlb core r).sound := by
  unfold State.noteTlb
  split
  · exact hs
  · dsimp only
    split
    · exact hs.readErrors.withTlb
    · exact hs.readErrors

theorem State.sound.noteRange {core r n} : (s.noteRange core r n).sound := hs.foldl fun _ _ ht => ht.noteTlb

theorem State.sound.noteAccess {sp va n} : (s.noteAccess sp va n).sound := by
  unfold State.noteAccess
  split
  · exact hs.noteRange
  · exact hs

theorem State.sound.noteIssue {before sp va n} : (s.noteIssue before sp va n).sound := by
  unfold State.noteIssue
  split
  · exact hs
  · exact hs.noteAccess

theorem State.sound.readLane {l p} : (s.readLane l p).sound := sound_readLane hs l p

theorem State.sound.perform {l} : (s.perform l).sound := sound_perform hs l

theorem State.sound.readWide {rid size va f l} : (s.readWide rid size va f l).sound := hs

theorem State.sound.settle {c} : (s.settle c).sound := sound_settle hs c

theorem State.sound.performSome {n} : (s.performSome n).sound := by
  unfold State.performSome
  split
  · exact hs
  · exact (hs.keep (by rfl)).perform

/-! ## Bundles, members and the turn of a core -/

theorem State.sound.noteMissed {c} : (s.noteMissed c).sound := by
  unfold State.noteMissed
  split
  · exact hs
  · exact (hs.keep (by rfl)).mapCtx

theorem State.sound.enterWith {d cause tad} : (s.enterWith d cause tad).sound := hs.enterHandler

theorem State.sound.enterPending {d t} : (s.enterPending d t).sound := hs.mapCtx.enterHandler

theorem State.sound.takeBTrap {c t} : (s.takeBTrap c t).sound := by
  unfold State.takeBTrap
  refine hs.foldl fun _ _ ht => ?_
  split
  · exact ht.enterPending
  · split
    · exact ht.enterPending
    · exact ht.enterWith

theorem State.sound.takePending {c cause} : (s.takePending c cause).sound := by
  unfold State.takePending
  split
  · exact hs.takeBTrap
  · exact hs

theorem State.sound.commitCtx {c before} : (s.commitCtx c before).sound := by
  unfold State.commitCtx
  dsimp only
  split
  · exact hs.mapCtx.applyDue
  · split
    · refine State.sound.ite ?_ ?_
      · exact hs.mapCtx.applyDue.mapCtx.setCtx
      · split <;> exact hs.mapCtx.applyDue.mapCtx.setCtx
    · split
      · split
        · exact hs.mapCtx.applyDue.mapCtx.setCtx
        · split <;> exact hs.mapCtx.applyDue.mapCtx.setCtx
      · exact hs.mapCtx.applyDue.mapCtx.setCtx

theorem State.sound.forSlot {i} : (s.forSlot i).sound := by
  unfold State.forSlot
  dsimp only
  refine State.sound.withEnv ?_
  split
  · exact hs.settle
  · exact hs

theorem State.sound.trapMembers {l} : (s.trapMembers l).sound := by
  unfold State.trapMembers
  split
  · exact hs
  · refine hs.foldl fun _ _ ht => ?_
    split
    · exact ht.enterHandler
    · exact ht.enterWith

theorem State.sound.stampReady {k} : (s.stampReady k).sound := (hs.keep (by rfl)).foldl fun _ _ ht => ht.mapCtx

omit hs in
theorem sound_runSlots {exec readers bc l} {a b : Issued} (hexec : ∀ i t, t.sound → soundOut (exec i t)) (ha : a.st.sound)
    (hb : runSlots exec readers bc l a = .next b) : b.st.sound := by
  induction l generalizing a with
  | nil =>
    obtain rfl : a = b := by simpa [runSlots] using hb
    exact ha
  | cons i l ih =>
    unfold runSlots at hb
    split at hb
    · exact ih ha hb
    · split at hb
      · next t hslot =>
        have ht : t.sound := hexec _ _ ha.forSlot t hslot
        split at hb
        · cases hb
          exact ht
        · split at hb
          · refine ih ?_ hb
            exact ha.withEnv
          · exact ih ht hb
      · cases hb
      · cases hb

omit hs in
theorem sound_runMembers {exec l readers cs} {a b : Ran} (hexec : ∀ i t, t.sound → soundOut (exec i t)) (ha : a.st.sound)
    (hb : runMembers exec l readers cs a = .next b) : b.st.sound := by
  induction cs generalizing a with
  | nil =>
    obtain rfl : a = b := by simpa [runMembers] using hb
    exact ha
  | cons c cs ih =>
    unfold runMembers at hb
    dsimp only at hb
    split at hb
    · next r hrun =>
      have hr : r.st.sound := sound_runSlots hexec ha.withEnv hrun
      exact ih hr.commitCtx hb
    · cases hb
    · cases hb

theorem sound_issueBundle {exec c b l} (hexec : ∀ i t, t.sound → soundOut (exec i t)) :
    soundOut (issueBundle exec c b l s) := by
  unfold issueBundle
  dsimp only
  split
  · exact soundOut_fault _
  · exact soundOut_refused _
  · next a hrun =>
    have ha : a.st.sound := sound_runMembers hexec hs hrun
    split
    · refine hexec _ _ ?_
      exact hs.foldl fun _ _ ht => ht.mapCtx
    · split
      · refine soundOut_next ?_
        exact hs.foldl fun _ _ ht => ht.enterHandler
      · split
        · exact soundOut_next hs.trapMembers
        · exact soundOut_next ha.withEnv.mapCore

theorem sound_nextBundle {exec c} (hexec : ∀ x t, t.sound → soundOut (exec x t)) : soundOut (nextBundle exec c s) := by
  unfold nextBundle
  dsimp only
  split
  · exact hexec _ _ hs
  · split
    · exact hexec _ _ hs
    · split
      · split
        · exact hexec _ _ hs
        · exact sound_issueBundle hs (fun _ _ ht => hexec _ _ ht)
      · exact hexec _ _ hs

theorem sound_coreTurn {exec k} (hexec : ∀ i t, t.sound → soundOut (exec i t)) : soundOut (coreTurn exec k s) := by
  have hbound (l : List CtxId) : (l.foldl (fun u d => (u.settle d).noteMissed d) (s.stampReady k)).sound :=
    hs.stampReady.foldl fun _ _ ht => ht.settle.noteMissed
  unfold coreTurn
  dsimp only
  split
  · exact hexec _ _ hs.stampReady
  · split
    · exact hexec _ _ (hbound _)
    · exact hexec _ _ (hbound _)
    · exact hexec _ _ (hbound _)
    · exact hexec _ _ (hbound _)
    · exact hexec _ _ (hbound _)
    · exact soundOut_next (hbound _).takePending
    · split
      · exact hexec _ _ (hbound _)
      · split
        · exact hexec _ _ (hbound _)
        · exact sound_nextBundle (hbound _) hexec

theorem State.sound.tick : (s.tick).sound := (hs.keep (by rfl)).flushHeld.flushLog

end

end Sys2Proof.Machine
end

section
/-!
O6: the memory engines keep the canonical form (spec/05 R123, R150).
-/
namespace Sys2Proof.Machine

section
variable {s : State} (hs : s.sound)
include hs

/-! ## Landings, barriers and events -/

theorem State.sound.wakeOn {ps} : (s.wakeOn ps).sound := hs

theorem State.sound.wake {key} : (s.wake key).sound := hs.wakeOn

theorem State.sound.changeTag {key full} : (s.changeTag key full).sound := hs.setTag.wake

theorem State.sound.mapTask {c serial f} : (s.mapTask c serial f).sound := by
  unfold State.mapTask
  dsimp only
  split <;> exact hs

theorem State.sound.setDcf {c serial va} : (s.setDcf c serial va).sound := hs.mapTask

theorem State.sound.sampleGranule {w} : (s.sampleGranule w).sound := by
  unfold State.sampleGranule
  dsimp only
  split
  · split
    · exact hs
    · exact hs.keep rfl
  · refine State.sound.foldl ?_ fun _ _ ht => ?_
    · split
      · exact hs
      · exact hs.keep rfl
    · exact ht.setDcf

theorem State.sound.sampleWrites {phase l} : (s.sampleWrites phase l).sound := by
  unfold State.sampleWrites
  split
  · exact hs
  · exact hs.foldl fun _ _ ht => ht.sampleGranule

theorem State.sound.sampleCells {phase l gs} : (s.sampleCells phase l gs).sound := by
  unfold State.sampleCells
  split
  · exact hs
  · exact hs.foldl fun _ _ ht => ht.sampleGranule

theorem State.sound.reduce {r} : (s.reduce r).sound := hs.readErrors.putNat.wakeOn

theorem State.sound.applyBuffered {barrier ph} : (s.applyBuffered barrier ph).sound :=
  (hs.keep (by rfl)).foldl fun _ _ ht => ht.reduce

theorem State.sound.putBarrier {k b} : (s.putBarrier k b).sound := hs.putNat.putNat

theorem State.sound.endPhases {barrier} : (s.endPhases barrier).sound := hs

theorem State.sound.completePhases {k n} : (s.completePhases k n).sound := by
  induction n generalizing s with
  | zero => exact hs
  | succ n ih =>
    unfold State.completePhases
    dsimp only
    split
    · exact ih (hs.applyBuffered.keep (by rfl)).endPhases.putBarrier.wake
    · exact hs

theorem State.sound.settleBarrier {k} : (s.settleBarrier k).sound := by
  unfold State.settleBarrier
  dsimp only
  exact hs.completePhases

theorem State.sound.barrierArrive {k} : (s.barrierArrive k).2.sound := by
  unfold State.barrierArrive
  dsimp only
  exact hs.putBarrier.withReds.settleBarrier

theorem State.sound.barrierWithdraw {k q} : (s.barrierWithdraw k q).sound := by
  unfold State.barrierWithdraw
  dsimp only
  exact hs.putBarrier.withReds.settleBarrier

theorem State.sound.addPending {k n} : (s.addPending k n).sound := hs.putBarrier

theorem State.sound.subPending {k n} : (s.subPending k n).sound := by
  unfold State.subPending
  dsimp only
  exact hs.putBarrier.settleBarrier

theorem State.sound.holdsDue {part} : (s.holdsDue part).sound := by
  unfold State.holdsDue
  split
  · exact hs.keep rfl
  · exact hs

theorem State.sound.eventPut {r key st} : (s.eventPut r key st).sound := by
  unfold State.eventPut
  dsimp only
  split
  · exact hs.readErrors
  · exact hs.readErrors.putBytes.wake.holdsDue

/-! ## Accesses -/

theorem State.sound.markHost {tc n} : (s.markHost tc n).sound := by
  unfold State.markHost
  split
  · exact hs.mapCx
  · exact hs

theorem State.sound.accessed {a va ps} : (s.accessed a va ps).sound := by
  unfold State.accessed
  split
  · exact hs.readErrors
  · exact hs

theorem State.sound.memOp {sh sp a va n align k} (hk : ∀ x t, t.sound → (k x t).sound) :
    soundOut (s.memOp sh sp a va n align k) := by
  unfold State.memOp
  split
  · exact soundOut_next hs.blockAway
  · exact soundOut_next (hs.operate (fun _ _ ht => (hk _ _ ht.accessed).markHost)).noteIssue

theorem State.sound.ringOp {sh a r n k} (hk : ∀ x t, t.sound → (k x t).sound) : soundOut (s.ringOp sh a r n k) :=
  soundOut_next (hs.operate (fun _ _ ht => ht.implicitWait (fun _ hu => (hk _ _ hu.accessed).joinRing)))

theorem State.sound.laneOp {sh sp a vas e k} (hk : ∀ x t, t.sound → (k x t).sound) : soundOut (s.laneOp sh sp a vas e k) := by
  unfold State.laneOp
  dsimp only
  split
  · exact soundOut_next hs.blockAway
  · exact soundOut_next ((hs.operate (fun _ _ ht => (hk _ _ ht.accessed).markHost)).foldl fun _ _ ht => ht.noteIssue)

theorem State.sound.loadScalar {f d static ps} : (s.loadScalar f d static ps).sound := hs.deliverLoad

theorem sound_execLd {sp ty d ba off} : soundOut (execLd sp ty d ba off s) := by
  unfold execLd
  dsimp only
  exact hs.memOp (fun _ _ ht => ht.loadScalar)

theorem sound_execLdRing {ty d r} : soundOut (execLdRing ty d r s) := by
  unfold execLdRing
  dsimp only
  exact hs.ringOp (fun _ _ ht => ht.loadScalar)

theorem State.sound.storeAt {va tc bs} : (s.storeAt va tc bs).sound := hs.putPieces.wakeOn.sampleWrites

theorem sound_execSt {sp ty a ba off} : soundOut (execSt sp ty a ba off s) := by
  unfold execSt
  dsimp only
  exact hs.memOp (fun _ _ ht => ht.storeAt)

theorem sound_execStRing {ty a r} : soundOut (execStRing ty a r s) := by
  unfold execStRing
  dsimp only
  exact hs.ringOp (fun _ _ ht => ht.putPieces.wakeOn)

theorem State.sound.loadVector {f vd static va ps} : (s.loadVector f vd static va ps).sound := hs.deliverLoad.readWide

theorem sound_execVld {sp ty vd ba off} : soundOut (execVld sp ty vd ba off s) := by
  unfold execVld
  dsimp only
  exact hs.memOp (fun _ _ ht => ht.loadVector)

theorem sound_execVldRing {ty vd r} : soundOut (execVldRing ty vd r s) := by
  unfold execVldRing
  dsimp only
  exact hs.ringOp (fun _ _ ht => ht.loadVector)

theorem State.sound.storeWide {size runs bs} : (s.storeWide size runs bs).sound := hs.putWide.wakeOn.sampleWrites

theorem sound_execVst {sp ty va ba off} : soundOut (execVst sp ty va ba off s) := by
  unfold execVst
  dsimp only
  exact hs.memOp (fun _ _ ht => ht.storeWide)

theorem sound_execVstRing {ty va r} : soundOut (execVstRing ty va r s) := by
  unfold execVstRing
  dsimp only
  exact hs.ringOp (fun _ _ ht => ht.putWide.wakeOn)

theorem State.sound.gatherLanes {f vd sp va l} : (s.gatherLanes f vd sp va l).sound := hs.deliverLoad.readWide

theorem sound_execVlds {sp ty vd ba sr} : soundOut (execVlds sp ty vd ba sr s) := by
  unfold execVlds
  dsimp only
  exact hs.laneOp (fun _ _ ht => ht.gatherLanes)

theorem sound_execVsts {sp ty va ba sr} : soundOut (execVsts sp ty va ba sr s) := by
  unfold execVsts
  dsimp only
  exact hs.laneOp (fun _ _ ht => ht.storeWide)

theorem sound_execGath {sp ty vd vi ba} : soundOut (execGath sp ty vd vi ba s) := by
  unfold execGath
  dsimp only
  exact hs.laneOp (fun _ _ ht => ht.gatherLanes)

theorem sound_execScat {sp ty va vi ba} : soundOut (execScat sp ty va vi ba s) := by
  unfold execScat
  dsimp only
  exact hs.laneOp (fun _ _ ht => ht.storeWide)

theorem sound_execPref {_hint _ba _off} : soundOut (execPref _hint _ba _off s) := soundOut_next hs

/-! ## Rings -/

theorem State.sound.loseRing {e} : (s.loseRing e).sound := hs.mapCx

theorem sound_execRdef {h a} : soundOut (execRdef h a s) := by
  unfold execRdef
  dsimp only
  split
  · exact soundOut_next hs.blockBehind
  · refine soundOut_next ?_
    refine hs.operateNow (fun _ ht => ?_)
    split
    · exact ht.mapCx
    · exact ht.mapRing.mapCx.loseRing

theorem State.sound.advance {h f} : (s.advance h f).sound := by
  unfold State.advance
  split
  · exact hs.mapRing
  · exact hs

theorem sound_execAdvp {h n} : soundOut (execAdvp h n s) := soundOut_next (hs.operate (fun _ _ ht => ht.advance))

theorem sound_execAdvc {h n} : soundOut (execAdvc h n s) := soundOut_next (hs.operate (fun _ _ ht => ht.advance))

theorem sound_execRqry {d h wd} : soundOut (execRqry d h wd s) := by
  unfold execRqry
  dsimp only
  refine soundOut_next ?_
  refine hs.operate (fun _ _ ht => ?_)
  split
  · exact ht.joinRing.deliverS
  · exact ht.deliverS

/-! ## Copies -/

theorem State.sound.drawPromise : (s.drawPromise).2.sound := hs

theorem State.sound.setFlag {c serial b} : (s.setFlag c serial b).sound := by
  unfold State.setFlag
  split
  · split
    · exact hs.mapCtx
    · exact hs
  · exact hs

theorem State.sound.mapCopy {id f} : (s.mapCopy id f).sound := hs

theorem State.sound.mapRingOf {o e f} : (s.mapRingOf o e f).sound := by
  unfold State.mapRingOf
  split
  · exact hs.keep rfl
  · exact hs.mapRing

theorem State.sound.markPublished {id} : (s.markPublished id).sound := hs

theorem State.sound.publishFrom {o e n} : (s.publishFrom o e n).sound := by
  induction n generalizing s with
  | zero => exact hs
  | succ n ih =>
    unfold State.publishFrom
    split
    · exact ih hs.mapRingOf.markPublished
    · exact hs

theorem State.sound.publish {o ring} : (s.publish o ring).sound := by
  unfold State.publish
  split
  · exact hs.publishFrom
  · exact hs

theorem State.sound.completeCopy {k fl} : (s.completeCopy k fl).sound := by
  unfold State.completeCopy
  dsimp only
  split
  · refine State.sound.eventPut ?_
    split
    · refine State.sound.setFlag ?_
      split
      · exact hs.mapCopy.publish.subPending
      · exact hs.mapCopy.publish
    · split
      · exact hs.mapCopy.publish.subPending
      · exact hs.mapCopy.publish
  · split
    · refine State.sound.setFlag ?_
      split
      · exact hs.mapCopy.publish.subPending
      · exact hs.mapCopy.publish
    · split
      · exact hs.mapCopy.publish.subPending
      · exact hs.mapCopy.publish

theorem State.sound.returnBytes {k} : (s.returnBytes k).sound := by
  unfold State.returnBytes
  split
  · exact hs
  · split
    · exact hs
    · exact hs.mapCopy.subPending

theorem State.sound.closeCopy {k st} : (s.closeCopy k st).sound := by
  unfold State.closeCopy
  dsimp only
  refine State.sound.returnBytes ?_
  split
  · exact hs.mapCopy.mapRingOf.publish
  · exact hs.mapCopy

theorem State.sound.withCopy {k} : (s.withCopy k).sound := hs

theorem State.sound.reserveSlots {p} : (s.reserveSlots p).sound := by
  unfold State.reserveSlots
  split <;> exact hs

theorem State.sound.addTag {p} : (s.addTag p).sound := by
  unfold State.addTag
  split
  · exact hs.addPending
  · exact hs

theorem State.sound.acceptCopy {d p} : (s.acceptCopy d p).sound := by
  cases hp : p.empty with
  | false =>
    rw [acceptCopy_of_bytes s d hp]
    exact (hs.keep (by rfl)).withCopy.reserveSlots.addTag.deliverS
  | true =>
    rw [acceptCopy_of_empty s d hp]
    exact hs.withCopy.reserveSlots.addTag.completeCopy.deliverS

theorem sound_execCopy {d a b c ssp dsp kind sfmt dfmt h re ns tag zc} :
    soundOut (execCopy d a b c ssp dsp kind sfmt dfmt h re ns tag zc s) := by
  unfold execCopy
  dsimp only
  split
  · exact soundOut_next hs.blockAway
  · split
    · exact soundOut_next hs.blockAway
    · refine soundOut_next ?_
      refine hs.operate (fun _ _ ht => ?_)
      split
      · exact ht
      · exact ht.implicitWait (fun _ hu => hu.acceptCopy)

theorem sound_execCpqry {d a} : soundOut (execCpqry d a s) := by
  unfold execCpqry
  refine soundOut_next ?_
  refine hs.compute (fun _ ht => ?_)
  split
  · dsimp only
    refine State.sound.deliverS ?_
    split
    · exact ht.joinCopies
    · exact ht
  · exact ht.drawWord.deliverS

theorem State.sound.fillTags {l} : (s.fillTags l).sound := hs.foldl fun _ _ ht => ht.changeTag

theorem State.sound.writeCells {k dst l} : (s.writeCells k dst l).sound := by
  unfold State.writeCells
  dsimp only
  split
  · refine State.sound.sampleCells ?_
    split
    · exact hs.putCells.fillTags
    · exact hs.putCells.wakeOn
  · split
    · exact hs.putCells.fillTags
    · exact hs.putCells.wakeOn

theorem State.sound.copyPart {id} : (s.copyPart id).sound := by
  unfold State.copyPart
  split
  · exact hs
  · split
    · exact hs.readErrors.withFree.withFree.writeCells.mapCopy
    · exact hs

theorem State.sound.failCopy {k st} : (s.failCopy k st).sound := hs.copyPart.closeCopy

theorem State.sound.overlapped {id n} : (State.overlapped id n s).sound := by
  induction n generalizing s with
  | zero => exact hs
  | succ n ih => exact ih hs.copyPart

theorem State.sound.writeCopy {k src dst res bytes acc} : (s.writeCopy k src dst res bytes acc).sound := by
  unfold State.writeCopy
  dsimp only
  split
  · refine State.sound.putCells ?_
    split
    · exact hs.overlapped
    · exact hs.writeCells
  · split
    · exact hs.overlapped
    · exact hs.writeCells

theorem State.sound.runCopy {k src dst res} : (s.runCopy k src dst res).sound := by
  unfold State.runCopy
  dsimp only
  split
  · exact hs.readErrors.failCopy
  · exact hs.readErrors.writeCopy.completeCopy

theorem State.sound.stageFront {c p} : (s.stageFront c p).sound := by
  unfold State.stageFront
  split
  · exact hs.keep rfl
  · exact hs

theorem sound_execCopyAcceptance {c} : soundOut (execCopyAcceptance c s) := by
  unfold execCopyAcceptance
  refine soundOut_next ?_
  split
  · split
    · exact hs.stageFront
    · exact hs
  · exact hs

theorem sound_execCopyCompletion {id} : soundOut (execCopyCompletion id s) := by
  unfold execCopyCompletion
  refine soundOut_next ?_
  split
  · exact hs
  · split
    · exact hs
    · split
      · exact hs.runCopy
      · split
        · exact hs.failCopy
        · exact hs

/-! ## Atomics and reductions -/

theorem sound_execAtom {op sp d ba a} : soundOut (execAtom op sp d ba a s) := by
  unfold execAtom
  dsimp only
  exact hs.memOp (fun _ _ ht => ht.consume.putNat.wakeOn.sampleWrites.deliverR)

theorem State.sound.forkRed {ordered op sp va key f v} : (s.forkRed ordered op sp va key f v).sound := (hs.keep (by rfl)).mapCx

theorem State.sound.reduction {i ordered op sp ba a} : soundOut (s.reduction i ordered op sp ba a) := by
  unfold State.reduction
  dsimp only
  split
  · exact soundOut_next hs.blockAway
  · exact soundOut_next (hs.operate (fun _ _ ht => ht.implicitWait (fun _ hu => hu.forkRed))).noteIssue

theorem sound_execRedo {op sp ba a} : soundOut (execRedo op sp ba a s) := hs.reduction

theorem sound_execRed {op sp ba a} : soundOut (execRed op sp ba a s) := hs.reduction

theorem State.sound.mapRed {id f} : (s.mapRed id f).sound := hs

theorem State.sound.bufferRed {r} : (s.bufferRed r).sound := by
  unfold State.bufferRed
  dsimp only
  split
  · exact (hs.keep (by rfl)).mapTask
  · exact hs.keep rfl

theorem State.sound.dropRed {r} : (s.dropRed r).sound := by
  unfold State.dropRed
  dsimp only
  split
  · exact (hs.keep (by rfl)).mapTask.settleBarrier
  · exact (hs.keep (by rfl)).mapTask

theorem sound_execReductionAcceptance {id} : soundOut (execReductionAcceptance id s) := by
  unfold execReductionAcceptance
  refine soundOut_next ?_
  split
  · exact hs
  · split
    · exact hs
    · split
      · split
        · exact hs.dropRed
        · exact hs
      · dsimp only
        split
        · exact hs.bufferRed.settleBarrier
        · exact hs.bufferRed

theorem sound_execReductionApplication {id} : soundOut (execReductionApplication id s) := by
  unfold execReductionApplication
  refine soundOut_next ?_
  split
  · exact hs
  · split
    · exact hs
    · split
      · split
        · exact hs.dropRed
        · exact hs
      · exact (hs.keep (by rfl)).reduce

theorem sound_execPhaseBookkeeping {id} : soundOut (execPhaseBookkeeping id s) := by
  unfold execPhaseBookkeeping
  refine soundOut_next ?_
  split
  · exact hs.keep rfl
  · exact hs

end

end Sys2Proof.Machine
end

section
/-!
O6: control, synchronisation and transport keep the canonical form (spec/05 R123, R150).
-/
namespace Sys2Proof.Machine

section
variable {s : State} (hs : s.sound)
include hs

/-! ## The C slot -/

theorem sound_execNop : soundOut (execNop s) := soundOut_next hs

theorem State.sound.outcomeIs {w} : (s.outcomeIs w).sound := hs

theorem State.sound.branchTo {target} : (s.branchTo target).sound := hs.mapCx

theorem State.sound.transfer {target} : (s.transfer target).sound := hs.branchTo.trace

theorem State.sound.notTaken : (s.notTaken).sound := hs.mapCx

theorem sound_execBr {a z sd ix} : soundOut (execBr a z sd ix s) := by
  unfold execBr
  dsimp only
  refine soundOut_next ?_
  refine hs.outcomeIs.operate (fun _ _ ht => ?_)
  refine State.sound.ite ?_ ?_
  · exact ht.transfer
  · exact ht.notTaken

theorem sound_execJmp {sd ix} : soundOut (execJmp sd ix s) := by
  unfold execJmp
  dsimp only
  exact soundOut_next (hs.operate (fun _ _ ht => ht.transfer))

theorem sound_execJmpr {a} : soundOut (execJmpr a s) := by
  unfold execJmpr
  dsimp only
  exact soundOut_next (hs.outcomeIs.operate (fun _ _ ht => ht.transfer))

theorem sound_execCall {sd ix} : soundOut (execCall sd ix s) := by
  unfold execCall
  dsimp only
  exact soundOut_next (hs.operate (fun _ _ ht => ht.transfer.deliverS))

theorem State.sound.retFollows {target} : (s.retFollows target).sound := hs.foldl fun _ _ ht => ht.mapCtx

theorem sound_execRet : soundOut (execRet s) := by
  unfold execRet
  refine soundOut_next ?_
  refine hs.operate (fun _ _ ht => ?_)
  dsimp only
  split
  · exact ht.transfer.retFollows
  · exact ht.transfer

theorem sound_execJmpl {addr} : soundOut (execJmpl addr s) := by
  unfold execJmpl
  dsimp only
  exact soundOut_next (hs.operate (fun _ _ ht => ht.transfer))

theorem State.sound.startLoop {lv nm count} : (s.startLoop lv nm count).sound := by
  unfold State.startLoop
  dsimp only
  split
  · exact hs.keep rfl
  · exact hs.mapCx

theorem sound_execLoop {lv a nm} : soundOut (execLoop lv a nm s) := by
  unfold execLoop
  dsimp only
  exact soundOut_next (hs.outcomeIs.operate (fun _ _ ht => ht.startLoop))

theorem sound_execLoopi {lv nm cnt} : soundOut (execLoopi lv nm cnt s) :=
  soundOut_next (hs.operate (fun _ _ ht => ht.startLoop))

theorem sound_execLbrk {lv} : soundOut (execLbrk lv s) := by
  unfold execLbrk
  dsimp only
  exact soundOut_next (hs.operate (fun _ _ ht => ht.transfer.mapCx))

theorem sound_execLstr {lv target step} : soundOut (execLstr lv target step s) := by
  unfold execLstr
  dsimp only
  refine soundOut_next ?_
  refine hs.operate (fun _ _ ht => ?_)
  refine State.sound.mapCx ?_
  split
  · split
    · exact ht
    · exact ht.mapCx
  · exact ht

theorem sound_execGate {lv fm lm} : soundOut (execGate lv fm lm s) := by
  unfold execGate
  dsimp only
  exact soundOut_next (hs.operate (fun _ _ ht => ht.keep (by rfl)))

theorem sound_execHalt : soundOut (execHalt s) := soundOut_next (hs.operate (fun _ _ ht => ht.branchTo.mapCx))

theorem State.sound.pend {cause sfm det} : (s.pend cause sfm det).sound := hs.mapCx

theorem sound_execTrap {imm} : soundOut (execTrap imm s) := soundOut_next (hs.compute (fun _ ht => ht.pend))

theorem sound_execTret : soundOut (execTret s) := by
  unfold execTret
  split
  · exact soundOut_next hs.raise
  · split
    · exact soundOut_next hs.blockBehind
    · exact soundOut_next hs.returnHandler.withEnv

theorem State.sound.endSleep {d st} : (s.endSleep d st).sound := hs.deliverS.deliver

theorem sound_execSleep {d a b} : soundOut (execSleep d a b s) := by
  unfold execSleep
  dsimp only
  refine soundOut_next ?_
  refine hs.operate (fun _ _ ht => ?_)
  refine ht.explicitWait (fun _ hu => ?_) (fun _ hu => hu.endSleep)
  refine State.sound.endSleep ?_
  split
  · exact hu.joinRing
  · exact hu

theorem sound_execYield : soundOut (execYield s) := by
  unfold execYield
  refine soundOut_next ?_
  refine hs.compute (fun _ ht => ?_)
  split
  · exact ht
  · exact (ht.keep (by rfl)).mapCx.mapCore

theorem sound_execWaitf {m} : soundOut (execWaitf m s) := by
  unfold execWaitf
  dsimp only
  split
  · exact soundOut_next hs
  · split
    · exact soundOut_next hs.mapCx.joinCopies.endWait
    · split
      · exact soundOut_next (hs.keep (by rfl)).endWait
      · exact soundOut_next hs.mapCx.block

theorem sound_execCregOpen {addr} : soundOut (execCregOpen addr s) := soundOut_next (hs.operate (fun _ _ ht => ht.mapCx))

theorem sound_execCregClose : soundOut (execCregClose s) := soundOut_next (hs.operate (fun _ _ ht => ht.mapCx))

theorem sound_execChkerr {d a} : soundOut (execChkerr d a s) := by
  unfold execChkerr
  dsimp only
  exact soundOut_next (hs.operate (fun _ _ ht => ht.deliverS.deliver))

/-- The health score of the core that a mismatch of two results is laid to (R254). -/
theorem State.sound.raiseScoreOfPair {a b} :
    (if isPair a b then s.raiseScore .core s.myCore.toNat 64 2 else s).sound := hs.raiseScore.ite hs

theorem sound_execCmpt {a b} : soundOut (execCmpt a b s) := by
  unfold execCmpt
  refine soundOut_next ?_
  refine hs.operateNow (fun _ ht => ?_)
  split
  · exact ht
  · exact ht.pend.raiseScoreOfPair

theorem sound_execCapack {d a} : soundOut (execCapack d a s) := by
  unfold execCapack
  refine soundOut_next ?_
  refine hs.compute (fun _ ht => ?_)
  dsimp only
  split
  · exact ht.mapCx.deliverS
  · exact ht.deliverS

/-! ## Synchronisation -/

theorem State.sound.takeWord {d sp k} : (s.takeWord d sp k).sound := hs.deliverLoad.finishWait

theorem sound_execLdf {sp d ba lim} : soundOut (execLdf sp d ba lim s) := by
  unfold execLdf
  dsimp only
  exact hs.memOp (fun _ _ ht => ht.explicitWait (fun _ hu => hu.takeWord) (fun _ hu => hu.dropDest.finishWait))

theorem sound_execLdfEmpty {sp d ba lim} : soundOut (execLdfEmpty sp d ba lim s) := by
  unfold execLdfEmpty
  dsimp only
  exact hs.memOp (fun _ _ ht => ht.explicitWait (fun _ hu => hu.takeWord.changeTag) (fun _ hu => hu.dropDest.finishWait))

theorem sound_execSte {sp a ba lim} : soundOut (execSte sp a ba lim s) := by
  unfold execSte
  dsimp only
  exact hs.memOp (fun _ _ ht => ht.explicitWait (fun _ hu => hu.putNat.changeTag.finishWait) (fun _ hu => hu.finishWait))

theorem sound_execFetag {sp d ba} : soundOut (execFetag sp d ba s) := by
  unfold execFetag
  exact hs.memOp (fun _ _ ht => ht.deliverR)

theorem sound_execFetagSet {sp a ba} : soundOut (execFetagSet sp a ba s) := by
  unfold execFetagSet
  dsimp only
  refine hs.memOp (fun _ _ ht => ?_)
  split
  · exact ht.slipIn
  · exact ht.changeTag

theorem sound_execBarinit {sp d ba a} : soundOut (execBarinit sp d ba a s) := by
  unfold execBarinit
  dsimp only
  split
  · exact soundOut_next hs.raise
  · refine hs.memOp (fun _ _ ht => ?_)
    split
    · exact ht.putBarrier.settleBarrier.deliverS
    · exact ht.deliverS

theorem sound_execBararr {sp d ba} : soundOut (execBararr sp d ba s) := by
  unfold execBararr
  dsimp only
  refine hs.memOp (fun _ _ ht => ?_)
  refine ht.implicitWait (fun _ hu => ?_)
  split
  · exact hu.deliverS
  · exact hu.barrierArrive.deliverS

theorem State.sound.joinBarrier {k q} : (s.joinBarrier k q).sound := hs.joinCopies

theorem sound_execBarwait {sp d ba lim} : soundOut (execBarwait sp d ba lim s) := by
  unfold execBarwait
  dsimp only
  refine hs.memOp (fun _ _ ht => ?_)
  refine ht.explicitWait (fun _ hu => ?_) (fun _ hu => hu.finishStatus)
  split
  · exact hu.finishStatus
  · exact hu.joinBarrier.finishStatus

theorem sound_execBaraw {sp d ba lim} : soundOut (execBaraw sp d ba lim s) := by
  unfold execBaraw
  dsimp only
  refine hs.memOp (fun _ _ ht => ?_)
  split
  · split
    · exact ht.stall
    · split
      · exact ht.joinBarrier.finishStatus
      · split
        · exact ht.barrierWithdraw.finishStatus
        · exact ht.stall
  · split
    · split
      · exact ht.finishStatus
      · exact ht.stall
    · split
      · exact ht.finishStatus
      · split
        · exact ht.finishStatus
        · split
          · split
            · exact ht.finishStatus
            · exact ht.stall
          · split
            · exact ht.barrierArrive.joinBarrier.finishStatus
            · split
              · exact ht.barrierArrive.barrierWithdraw.finishStatus
              · exact ht.barrierArrive.stall

theorem sound_execEvsig {sp ba a} : soundOut (execEvsig sp ba a s) := by
  unfold execEvsig
  refine hs.memOp (fun _ _ ht => ?_)
  dsimp only
  split
  · exact ht
  · exact ht.putNat.wake

theorem sound_execEvwait {sp d ba lim} : soundOut (execEvwait sp d ba lim s) := by
  unfold execEvwait
  dsimp only
  refine hs.memOp (fun _ _ ht => ?_)
  refine ht.explicitWait (fun _ hu => ?_) (fun _ hu => hu.finishStatus)
  split
  · exact hu.finishStatus
  · split
    · exact hu.finishStatus
    · exact hu.joinCopies.finishStatus

theorem State.sound.joinFence {cls} : (s.joinFence cls).sound := by
  unfold State.joinFence
  split
  · exact hs.joinCopies
  · exact hs

theorem sound_execFence {d lim mask} : soundOut (execFence d lim mask s) := by
  unfold execFence
  dsimp only
  exact soundOut_next (hs.operate (fun _ _ ht => ht.explicitWait (fun _ hu => hu.joinFence.finishStatus) (fun
      _ hu => hu.joinFence.finishStatus)))

theorem sound_execPhase {sp ba} : soundOut (execPhase sp ba s) := by
  unfold execPhase
  dsimp only
  split
  · exact soundOut_next hs.blockFor
  · split
    · exact soundOut_next hs.blockAway
    · split
      · exact soundOut_next hs.blockBehind
      · split
        · exact soundOut_next hs.raise
        · split
          · exact soundOut_next hs.accessed.raise
          · split
            · exact soundOut_next hs.accessed.noteAccess.withNextIdPhases.mapCx
            · exact soundOut_next hs.accessed.noteAccess

theorem State.sound.closePhase {c ctm} : (s.closePhase c ctm).sound := by
  unfold State.closePhase
  split
  · exact hs
  · exact (hs.keep (by rfl)).mapCtx

theorem sound_execPhend : soundOut (execPhend s) := soundOut_next (hs.operate (fun _ _ ht => ht.closePhase))

theorem sound_execDgst {sp ba a} : soundOut (execDgst sp ba a s) := by
  unfold execDgst
  dsimp only
  split
  · next t hstore =>
    have ht : t.sound := hs.memOp (fun _ _ hu => hu.storeAt) t hstore
    split
    · exact soundOut_next ht
    · exact soundOut_next ht.deliver
  · exact hs.memOp (fun _ _ hu => hu.storeAt)

/-! ## The pantry -/

theorem State.sound.mapSym {job id f} : (s.mapSym job id f).sound := hs

theorem State.sound.tensorErrors {t} : (s.tensorErrors t).sound := hs.readErrors

theorem State.sound.mint {d job region t slab} : (s.mint d job region t slab).sound := (hs.keep (by rfl)).globalPutAll.deliverS

omit hs in
theorem soundChk_symNewAnswer {d va slab} : soundChk (s.symNewAnswer d va slab) := by
  unfold State.symNewAnswer
  dsimp only
  split
  · exact soundChk_error _
  · split
    · exact soundChk_error _
    · split
      · split
        · exact soundChk_ok fun _ ht => ht.tensorErrors.deliverS
        · split
          · exact soundChk_error _
          · exact soundChk_orTrap (soundChk_orTrap (soundChk_orTrap (soundChk_ok fun _ ht => ht.tensorErrors.mint)))
      · exact soundChk_ok fun _ ht => ht.tensorErrors.deliverS

theorem sound_execSymNew {d a b} : soundOut (execSymNew d a b s) :=
  soundOut_next (hs.issueOrBlock (soundChk_orTrap soundChk_symNewAnswer))

theorem sound_execSymSig {a b c} : soundOut (execSymSig a b c s) := by
  refine soundOut_next (hs.issueOrBlock (soundChk_orTrap ?_))
  split
  · exact soundChk_error _
  · exact soundChk_orTrap (soundChk_orTrap (soundChk_orTrap (soundChk_orTrap (soundChk_ok fun _ ht => ht.keep (by rfl)))))

theorem sound_execSymQry {d a b} : soundOut (execSymQry d a b s) :=
  soundOut_next (hs.issueOrBlock (soundChk_orTrap (soundChk_orTrap (soundChk_ok fun _ ht => ht.deliverS))))

theorem sound_execSymRel {a b c} : soundOut (execSymRel a b c s) :=
  soundOut_next (hs.issueOrBlock (soundChk_orTrap (soundChk_orTrap (soundChk_orTrap (soundChk_orTrap (soundChk_orTrap
    (soundChk_ok fun _ ht => ht.keep (by rfl))))))))

theorem sound_execSignificanceContribution {id} : soundOut (execSignificanceContribution id s) := by
  unfold execSignificanceContribution
  refine soundOut_next ?_
  split
  · exact hs
  · split
    · exact hs
    · exact hs.readErrors.withSigs.foldl fun _ _ ht => ht.mapSym

theorem sound_execReferenceUpdate {id} : soundOut (execReferenceUpdate id s) := by
  unfold execReferenceUpdate
  refine soundOut_next ?_
  split
  · exact hs
  · exact (hs.keep (by rfl)).foldl fun _ _ ht => ht.mapSym

/-! ## The attic -/

theorem State.sound.acceptCond {d a b c event h re} : (s.acceptCond d a b c event h re).sound := by
  unfold State.acceptCond
  dsimp only
  refine State.sound.deliverS ?_
  split
  · exact (hs.keep (by rfl)).mapCx.mapRing
  · exact (hs.keep (by rfl)).mapCx

theorem sound_execCond {d a b c e h re} : soundOut (execCond d a b c e h re s) := by
  unfold execCond
  dsimp only
  exact soundOut_next (hs.operate (fun _ _ ht => ht.implicitWait (fun _ hu => hu.acceptCond))).noteIssue.noteIssue

theorem sound_execCondQry {d a} : soundOut (execCondQry d a s) := by
  unfold execCondQry
  refine soundOut_next ?_
  refine hs.compute (fun _ ht => ?_)
  split
  · exact ht.deliverS
  · exact ht.drawWord.deliverS

theorem State.sound.finishCond {k st mc} : (s.finishCond k st mc).sound := by
  unfold State.finishCond
  dsimp only
  split
  · refine State.sound.eventPut ?_
    split
    · split
      · exact (hs.keep (by rfl)).publish
      · exact (hs.keep (by rfl)).mapRingOf.markPublished.publish
    · exact hs.keep rfl
  · split
    · split
      · exact (hs.keep (by rfl)).publish
      · exact (hs.keep (by rfl)).mapRingOf.markPublished.publish
    · exact hs.keep rfl

theorem State.sound.writeCond {k ws l} : (s.writeCond k ws l).sound := hs.putCells.wakeOn.sampleCells

theorem State.sound.condPart {k ws} : (s.condPart k ws).sound := (hs.keep (by rfl)).writeCond.withConds

theorem State.sound.condUnspecified {k} : (s.condUnspecified k).sound := by
  unfold State.condUnspecified
  split
  · exact hs.condPart
  · split
    · exact hs.condPart
    · exact hs

theorem State.sound.cancelCond {k} : (s.cancelCond k).sound := hs.condUnspecified.finishCond

theorem State.sound.noteReach {o l} : (s.noteReach o l).sound := hs.foldl fun _ _ ht => ht.noteRange

theorem State.sound.condBegin {k} : (s.condBegin k).sound := by
  unfold State.condBegin
  split
  · exact hs.finishCond
  · split
    · split
      · exact hs.finishCond
      · exact hs
    · dsimp only
      split
      · exact hs.readErrors.noteReach.finishCond
      · exact hs.readErrors.noteReach.withConds

theorem State.sound.condEnd {k w} : (s.condEnd k w).sound := (hs.writeCond.foldl fun _ _ ht => ht.mapSym).finishCond

theorem sound_execCondensation {id} : soundOut (execCondensation id s) := by
  unfold execCondensation
  refine soundOut_next ?_
  split
  · exact hs
  · split
    · exact hs
    · split
      · exact hs.condEnd
      · split
        · exact hs
        · exact hs.condBegin

/-! ## The V slot -/

theorem State.sound.laneWise {i data vd p lat mayFlag f} : soundOut (s.laneWise i data vd p lat mayFlag f) :=
  soundOut_next (hs.compute (fun _ ht => ht.deliverR))

theorem State.sound.allLanes {i data vd lat f} : soundOut (s.allLanes i data vd lat f) :=
  soundOut_next (hs.compute (fun _ ht => ht.deliver))

theorem sound_execVadd {vd va vb p} : soundOut (execVadd vd va vb p s) := hs.laneWise

theorem sound_execVsub {vd va vb p} : soundOut (execVsub vd va vb p s) := hs.laneWise

theorem sound_execVmul {vd va vb p} : soundOut (execVmul vd va vb p s) := hs.laneWise

theorem sound_execVfma {vd va vb p} : soundOut (execVfma vd va vb p s) := hs.laneWise

theorem sound_execVfms {vd va vb p} : soundOut (execVfms vd va vb p s) := hs.laneWise

theorem sound_execVmin {vd va vb p} : soundOut (execVmin vd va vb p s) := hs.laneWise

theorem sound_execVmax {vd va vb p} : soundOut (execVmax vd va vb p s) := hs.laneWise

theorem sound_execVabs {vd va p} : soundOut (execVabs vd va p s) := hs.laneWise

theorem sound_execVneg {vd va p} : soundOut (execVneg vd va p s) := hs.laneWise

theorem sound_execVabsacc {vd va vb p} : soundOut (execVabsacc vd va vb p s) := hs.laneWise

theorem sound_execVcmp {cc pd va vb p} : soundOut (execVcmp cc pd va vb p s) := by
  unfold execVcmp
  dsimp only
  exact soundOut_next (hs.compute (fun _ ht => ht.deliver))

theorem sound_execVsel {vd va vb p} : soundOut (execVsel vd va vb p s) := hs.allLanes

theorem sound_execVmov {vd vb p} : soundOut (execVmov vd vb p s) := hs.laneWise

theorem sound_execVperm {vd va vb p} : soundOut (execVperm vd va vb p s) := hs.laneWise

theorem sound_execVidx {vd vb p} : soundOut (execVidx vd vb p s) := hs.laneWise

theorem sound_execVcnt {vd p} : soundOut (execVcnt vd p s) := hs.allLanes

theorem sound_execVpart {vd p} : soundOut (execVpart vd p s) := hs.allLanes

theorem sound_execViadd {vd va vb p} : soundOut (execViadd vd va vb p s) := hs.laneWise

theorem sound_execVisub {vd va vb p} : soundOut (execVisub vd va vb p s) := hs.laneWise

theorem sound_execVimul {vd va vb p} : soundOut (execVimul vd va vb p s) := hs.laneWise

theorem sound_execVand {vd va vb p} : soundOut (execVand vd va vb p s) := hs.laneWise

theorem sound_execVor {vd va vb p} : soundOut (execVor vd va vb p s) := hs.laneWise

theorem sound_execVxor {vd va vb p} : soundOut (execVxor vd va vb p s) := hs.laneWise

theorem sound_execVandn {vd va vb p} : soundOut (execVandn vd va vb p s) := hs.laneWise

theorem sound_execVshl {vd va vb p} : soundOut (execVshl vd va vb p s) := hs.laneWise

theorem sound_execVshr {vd va vb p} : soundOut (execVshr vd va vb p s) := hs.laneWise

theorem sound_execVsar {vd va vb p} : soundOut (execVsar vd va vb p s) := hs.laneWise

theorem State.sound.predOp {i data pd f} : soundOut (s.predOp i data pd f) :=
  soundOut_next (hs.compute (fun _ ht => ht.deliver))

theorem sound_execPand {pd pa pb} : soundOut (execPand pd pa pb s) := hs.predOp

theorem sound_execPor {pd pa pb} : soundOut (execPor pd pa pb s) := hs.predOp

theorem sound_execPxor {pd pa pb} : soundOut (execPxor pd pa pb s) := hs.predOp

theorem sound_execPnot {pd pa} : soundOut (execPnot pd pa s) := hs.predOp

theorem sound_execVcvt {vd va dst p} : soundOut (execVcvt vd va dst p s) := by
  unfold execVcvt
  dsimp only
  exact hs.laneWise

theorem sound_execVqnt {vd va vb p} : soundOut (execVqnt vd va vb p s) := by
  unfold execVqnt
  dsimp only
  exact hs.laneWise

theorem sound_execVdqnt {vd va vb p} : soundOut (execVdqnt vd va vb p s) := by
  unfold execVdqnt
  dsimp only
  exact hs.laneWise

theorem sound_execVred {op vd va p} : soundOut (execVred op vd va p s) := by
  unfold execVred
  dsimp only
  exact soundOut_next (hs.compute (fun _ ht => ht.deliverF))

theorem sound_execVfn {f vd va p} : soundOut (execVfn f vd va p s) := hs.laneWise

theorem sound_execVcmpt {va vb} : soundOut (execVcmpt va vb s) := by
  unfold execVcmpt
  refine soundOut_next ?_
  refine hs.operateNow (fun _ ht => ?_)
  split
  · exact ht
  · exact ht.pend.raiseScoreOfPair

/-! ## Ports -/

theorem State.sound.mapPort {p f} : (s.mapPort p f).sound := by
  unfold State.mapPort
  split
  · exact hs.keep rfl
  · exact hs

theorem State.sound.sendFlit {f} : (s.sendFlit f).sound := by
  unfold State.sendFlit
  split
  · exact hs.mapPort
  · exact hs

theorem State.sound.answerTo {vc chip tag kind} : (s.answerTo vc chip tag kind).sound := hs.sendFlit

theorem State.sound.answer {f kind} : (s.answer f kind).sound := hs.answerTo

theorem State.sound.returnCredits {vc chip n} : (s.returnCredits vc chip n).sound := by
  unfold State.returnCredits
  split
  · exact hs.mapPort
  · exact hs

/-! ## Exchanges -/

theorem State.sound.request {n vc chip use poison} : (s.request n vc chip use poison).sound :=
  (hs.keep (by rfl)).foldl fun _ _ ht => ht.sendFlit

theorem State.sound.leavePort {w val} : (s.leavePort w val).sound := by
  unfold State.leavePort
  dsimp only
  split
  · exact hs.keep rfl
  · split
    · exact hs.keep rfl
    · exact (hs.keep (by rfl)).request

theorem sound_execSend {v a} : soundOut (execSend v a s) := by
  unfold execSend
  dsimp only
  exact soundOut_next (hs.operate (fun _ _ ht => ht.implicitWait (fun _ hu => hu.leavePort)))

theorem sound_execSends {a b} : soundOut (execSends a b s) := by
  unfold execSends
  dsimp only
  exact soundOut_next (hs.operate (fun _ _ ht => ht.implicitWait (fun _ hu => hu.leavePort)))

theorem State.sound.endSend {id} : (s.endSend id).sound := hs

theorem State.sound.answerSend {x} : (s.answerSend x).sound := by
  unfold State.answerSend
  split
  · exact hs
  · exact (hs.keep (by rfl)).answerTo.returnCredits

theorem sound_execSendArrival {id} : soundOut (execSendArrival id s) := by
  unfold execSendArrival
  refine soundOut_next ?_
  split
  · exact hs
  · split
    · exact hs
    · split
      · exact hs.endSend
      · split
        · exact hs
        · split
          · split
            · exact hs
            · exact hs.mapCtx.endSend.answerSend
          · exact hs.endSend.answerSend

theorem State.sound.answerRequest {f kind} : (s.answerRequest f kind).sound := (hs.keep (by rfl)).answer

theorem State.sound.endTransfer {f} : (s.endTransfer f).sound := by
  unfold State.endTransfer
  dsimp only
  split
  · exact (hs.keep (by rfl)).answerRequest.returnCredits
  · split
    · exact (hs.keep (by rfl)).answerRequest.returnCredits
    · exact (hs.keep (by rfl)).returnCredits

theorem State.sound.fileFlit {f} : (s.fileFlit f).sound := by
  unfold State.fileFlit
  dsimp only
  split
  · exact (hs.keep (by rfl)).endTransfer
  · exact hs.keep rfl

theorem State.sound.popEntry {sh q k} (hk : ∀ e t, t.sound → (k e t).sound) : soundOut (s.popEntry sh q k) := by
  refine soundOut_next (hs.operate fun _ t ht => ?_)
  split
  · exact ht.implicitWait (fun _ hu => hu)
  · exact ht.implicitWait (fun _ hu => hk _ _ (hu.keep (by rfl)))

theorem sound_execRecv {v q} : soundOut (execRecv v q s) := hs.popEntry (fun _ _ ht => ht.deliverLoad)

theorem sound_execRecvs {d q} : soundOut (execRecvs d q s) := hs.popEntry (fun _ _ ht => ht.deliverLoad)

theorem sound_execRecva {v q} : soundOut (execRecva v q s) := by
  unfold execRecva
  dsimp only
  exact hs.popEntry (fun _ _ ht => ht.consume.deliverR)

theorem sound_execRecvm {v q} : soundOut (execRecvm v q s) := hs.popEntry (fun _ _ ht => ht.deliverLoad)

/-! ## The omnibus -/

theorem State.sound.dropContribs {die gid inst} : (s.dropContribs die gid inst).sound := hs

theorem State.sound.mapPost {id f} : (s.mapPost id f).sound := hs

theorem State.sound.dropRequests {id} : (s.dropRequests id).sound := hs

theorem State.sound.writePost {p ps l} : (s.writePost p ps l).sound := hs.putCells.wakeOn.sampleCells

theorem State.sound.postPart {p ps cs} : (s.postPart p ps cs).sound := (hs.keep (by rfl)).writePost.mapPost

theorem State.sound.postUnspecified {p} : (s.postUnspecified p).sound := by
  unfold State.postUnspecified
  split
  · split
    · exact hs
    · exact hs.postPart
  · exact hs

theorem State.sound.closePost {p st rsn} : (s.closePost p st rsn).sound := hs.mapPost.dropContribs.dropRequests.eventPut

theorem State.sound.endPost {p st rsn} : (s.endPost p st rsn).sound := by
  unfold State.endPost
  split
  · exact hs
  · exact hs.postUnspecified.closePost

theorem State.sound.endMember {gid inst st rsn die} : (s.endMember gid inst st rsn die).sound := by
  unfold State.endMember
  split
  · exact hs.endPost
  · dsimp only
    split
    · exact hs.dropContribs
    · exact hs.keep rfl

theorem State.sound.reportAbroad {p} : (s.reportAbroad p).sound := hs.foldl fun _ _ ht => ht.request

theorem State.sound.endInstance {p st rsn} : (s.endInstance p st rsn).sound := by
  unfold State.endInstance
  dsimp only
  refine State.sound.reportAbroad ?_
  refine hs.endPost.foldl fun _ _ ht => ?_
  split
  · exact ht
  · exact ht.endMember

theorem State.sound.settlePost {die gid inst} : (s.settlePost die gid inst).sound := by
  unfold State.settlePost
  split
  · exact hs
  · split
    · exact hs
    · split
      · exact hs.endInstance
      · exact hs

theorem State.sound.acceptPost {b es rank} : (s.acceptPost b es rank).sound := by
  unfold State.acceptPost
  dsimp only
  split
  · split
    · exact (hs.keep (by rfl)).mapCx.endPost
    · exact (hs.keep (by rfl)).mapCx.closePost
  · exact (hs.keep (by rfl)).mapCx.settlePost

theorem State.sound.postNow {d a tc} : (s.postNow d a tc).sound := by
  unfold State.postNow
  dsimp only
  split
  · exact hs.accessed.noteAccess.deliverS
  · exact hs.accessed.noteAccess.acceptPost.deliverS

theorem sound_execXpost {d a} : soundOut (execXpost d a s) := by
  unfold execXpost
  dsimp only
  refine soundOut_ite ?_ ?_
  · exact soundOut_next hs.blockBehind
  · exact soundOut_next (hs.operateNow (fun _ ht => ht.postNow))

theorem sound_execXqry {d a} : soundOut (execXqry d a s) := by
  unfold execXqry
  refine soundOut_next ?_
  refine hs.operate (fun _ _ ht => ?_)
  dsimp only
  split
  · exact ht.deliverS
  · exact ht.deliverS
  · split
    · exact ht.deliverS
    · exact ht.drawWord.deliverS

theorem sound_execXcanc {d a} : soundOut (execXcanc d a s) := by
  unfold execXcanc
  refine soundOut_next ?_
  refine hs.operate (fun _ _ ht => ?_)
  split
  · exact ht.deliverS
  · split
    · exact ht.endInstance.deliverS
    · exact ht.deliverS

theorem State.sound.landContrib {c} : (s.landContrib c).sound := by
  unfold State.landContrib
  split
  · exact hs
  · exact hs.keep rfl

theorem State.sound.askGrants {p} : (s.askGrants p).sound := (hs.foldl fun _ _ ht => ht.request).mapPost

theorem State.sound.sendData {p data} : (s.sendData p data).sound := hs.foldl fun _ _ ht => ht.request

theorem State.sound.stepData {p ps} : (s.stepData p ps).sound := by
  unfold State.stepData
  dsimp only
  split
  · exact (hs.readErrors.mapPost.foldl fun _ _ ht => ht.landContrib).sendData.foldl fun _ _ ht => ht.settlePost
  · exact hs

theorem sound_execOmnibusStep {id} : soundOut (execOmnibusStep id s) := by
  unfold execOmnibusStep
  refine soundOut_next ?_
  split
  · exact hs
  · dsimp only
    split
    · exact hs
    · split
      · exact hs
      · split
        · exact hs.endInstance
        · split
          · exact hs.endInstance
          · split
            · exact hs.askGrants
            · split
              · split
                · exact hs.endInstance
                · exact hs
              · exact hs.stepData

theorem sound_execEarlyArrival {die gid inst rank block entries data} :
    soundOut (execEarlyArrival die gid inst rank block entries data s) := by
  unfold execEarlyArrival
  dsimp only
  refine soundOut_next ?_
  split
  · exact hs.landContrib.settlePost
  · exact hs

theorem State.sound.postFlags {p fl} : (s.postFlags p fl).2.sound := by
  unfold State.postFlags
  split
  · exact hs
  · exact hs.keep rfl

theorem sound_execCollectiveCompletion {id} : soundOut (execCollectiveCompletion id s) := by
  unfold execCollectiveCompletion
  refine soundOut_next ?_
  split
  · exact hs
  · split
    · exact hs
    · split
      · split
        · exact hs.endInstance
        · exact hs
      · dsimp only
        refine State.sound.eventPut ?_
        refine State.sound.dropContribs ?_
        refine State.sound.mapPost ?_
        refine State.sound.postFlags ?_
        split
        · exact hs.postPart
        · exact hs.writePost

theorem sound_execInstanceTimeout {id} : soundOut (execInstanceTimeout id s) := by
  unfold execInstanceTimeout
  refine soundOut_next ?_
  split
  · exact hs
  · split
    · exact hs.endInstance
    · exact hs

theorem sound_execPeer {die gid inst} : soundOut (execPeer die gid inst s) := by
  unfold execPeer
  refine soundOut_next ?_
  split
  · split
    · exact hs.endInstance
    · exact hs
  · exact hs.endMember

theorem sound_execCancellationReport {die gid inst} : soundOut (execCancellationReport die gid inst s) :=
  soundOut_next hs.endMember

end

end Sys2Proof.Machine
end

section
/-!
O6: traps, placement, scheduling and engine events keep the canonical form (spec/05 R123, R150).
-/
namespace Sys2Proof.Machine

section
variable {s : State} (hs : s.sound)
include hs

/-! ## Traps -/

theorem sound_execBundleDecodeFailure {c} : soundOut (execBundleDecodeFailure c s) := by
  unfold execBundleDecodeFailure
  refine soundOut_next ?_
  split
  · exact hs
  · dsimp only
    split
    · exact hs
    · split
      · exact hs
      · exact hs.foldl fun _ _ ht => ht.enterHandler

theorem sound_execSegmentExpansion {c seg} : soundOut (execSegmentExpansion c seg s) := by
  unfold execSegmentExpansion
  refine soundOut_next ?_
  split
  · exact hs
  · exact hs.readErrors.noteTlb.mapCtx

theorem sound_execFetchFault {c} : soundOut (execFetchFault c s) := by
  unfold execFetchFault
  refine soundOut_next ?_
  split
  · exact hs
  · split
    · exact hs
    · dsimp only
      split
      · split
        · exact hs.mapCtx.hflt
        · exact hs.mapCtx.foldl fun _ _ ht => ht.enterHandler
      · exact hs.mapCtx.foldl fun _ _ ht => ht.enterHandler

theorem State.sound.takeAt {c cause} : (s.takeAt c cause).sound := by
  unfold State.takeAt
  split
  · exact hs.takePending
  · exact hs

theorem sound_execFpx {c} : soundOut (execFpx c s) := soundOut_next hs.takeAt

theorem sound_execSwt {c} : soundOut (execSwt c s) := soundOut_next hs.takeAt

theorem sound_execPmiss {c} : soundOut (execPmiss c s) := soundOut_next hs.noteMissed.takeAt

theorem sound_execCapc {c} : soundOut (execCapc c s) := by
  unfold execCapc
  dsimp only
  exact soundOut_next hs.mapCtx.takeAt

theorem State.sound.unwindCoach {c} : (s.unwindCoach c).sound := by
  unfold State.unwindCoach
  split
  · refine hs.foldl fun _ _ ht => ?_
    split
    · exact ht.settle.mapCtx
    · exact ht.mapCtx
  · exact hs

theorem sound_execContainmentUnwinding {c} : soundOut (execContainmentUnwinding c s) := by
  unfold execContainmentUnwinding
  refine soundOut_next ?_
  split
  · exact hs.unwindCoach
  · exact hs

theorem sound_execPendingValueArrival {c rid} : soundOut (execPendingValueArrival c rid s) := by
  unfold execPendingValueArrival
  refine soundOut_next ?_
  split
  · split
    · exact hs.settle.arrive
    · exact hs
  · exact hs

theorem sound_execSlipBufferRelease {c slot} : soundOut (execSlipBufferRelease c slot s) := by
  unfold execSlipBufferRelease
  refine soundOut_next ?_
  split
  · exact hs.stageFront
  · exact hs

theorem sound_execSleepWake {c} : soundOut (execSleepWake c s) := by
  unfold execSleepWake
  refine soundOut_next ?_
  split
  · exact hs.stageFront
  · exact hs

theorem sound_execWaitExpiry {c slot} : soundOut (execWaitExpiry c slot s) := by
  unfold execWaitExpiry
  dsimp only
  refine soundOut_next ?_
  split
  · exact hs
  · split
    · split
      · split
        · exact hs.mapCtx.stageFront
        · exact hs
      · exact hs
    · split
      · split
        · exact hs.mapCtx
        · exact hs
      · exact hs

theorem State.sound.leave {c} : (s.leave c).sound := (hs.keep (by rfl)).mapCtx

theorem sound_execContextSwitch {core} : soundOut (execContextSwitch core s) := by
  unfold execContextSwitch
  dsimp only
  refine soundOut_next ?_
  split <;> exact hs.stampReady.leave.mapCore

/-! ## Placement -/

theorem State.sound.mapRgn {id f} : (s.mapRgn id f).sound := hs

theorem State.sound.notice {region} : (s.notice region).sound := by
  unfold State.notice
  dsimp only
  split
  · exact hs
  · refine State.sound.withGroups ?_
    refine hs.mapRgn.foldl fun _ _ ht => ?_
    split
    · split
      · exact ht.mapCtx
      · exact ht
    · exact ht

theorem State.sound.clearPm {k} : (s.clearPm k).sound := wf_filter hs _

theorem State.sound.giveCore {k region} : (s.giveCore k region).sound := by
  unfold State.giveCore
  split
  · exact hs
  · exact hs.clearPm.mapCore

theorem State.sound.startTask {l r lead lidx pos o} : (s.startTask l r lead lidx pos o).sound := hs.giveCore.fresh.setCtx

theorem State.sound.startMembers {l r lead base pos os} : (s.startMembers l r lead base pos os).sound := by
  induction os generalizing s pos with
  | nil => exact hs
  | cons o os ih => exact ih hs.startTask

theorem State.sound.startTasks {l r base cs} : (s.startTasks l r base cs).sound := by
  induction cs generalizing s base with
  | nil => exact hs
  | cons c cs ih => exact ih hs.startMembers

theorem State.sound.grant {c} : (s.grant c).sound := by
  unfold State.grant
  split
  · exact hs
  · exact hs.mapCore.mapCtx

theorem State.sound.startCoaches {l r base place} : (s.startCoaches l r base place).sound := by
  unfold State.startCoaches
  dsimp only
  refine State.sound.foldl ?_ fun _ _ ht => ?_
  · split
    · exact hs.startTasks
    · exact hs.startTasks.foldl fun _ _ ht => ht.grant
  · exact ht.mapCtx

theorem State.sound.mapLaunch {id f} : (s.mapLaunch id f).sound := hs

theorem State.sound.writeSlot {r slot k holder images} : (s.writeSlot r slot k holder images).sound :=
  hs.readErrors.globalPut.withPoison.foldl fun _ _ ht => (ht.keep (by rfl)).globalPut

theorem State.sound.rekey {f} : (s.rekey f).sound := hs

theorem State.sound.settleBoundary {c} : (s.settleBoundary c).sound := by
  unfold State.settleBoundary
  dsimp only
  split
  · exact (hs.foldl fun _ _ ht => ht.noteMissed).unwindCoach
  · exact (hs.foldl fun _ _ ht => ht.noteMissed).takePending
  · exact hs.foldl fun _ _ ht => ht.noteMissed

theorem State.sound.stopEngines {region k} : (s.stopEngines region k).sound :=
  (hs.foldl fun _ _ ht => ht.copyPart).withCopiesCondsPosts

theorem State.sound.freezeCore {r k withdrawn kept} : (s.freezeCore r k withdrawn kept).sound := by
  unfold State.freezeCore
  dsimp only
  refine State.sound.ite ?_ ?_
  · exact (hs.foldl fun _ _ ht => ht.settle).stopEngines
  · exact ((hs.foldl fun _ _ ht => ht.settle).stopEngines.fresh.writeSlot.withGroupsFrames.foldl
      fun _ _ ht => ht.mapCtx).mapCore.rekey

theorem State.sound.preemptRegion {r withdraw} : (s.preemptRegion r withdraw).sound := by
  unfold State.preemptRegion
  split
  · exact hs
  · exact ((hs.foldl fun _ _ ht => ht.settleBoundary).foldl fun _ _ ht => ht.freezeCore).withGroupsSched

theorem State.sound.rebind {region serials a b} : (s.rebind region serials a b).sound := hs

theorem State.sound.restorePm {k pm tags} : (s.restorePm k pm tags).sound := hs.clearPm.putBytes.withEmptiesPoison

theorem State.sound.restartEngines {before region} : (s.restartEngines before region).sound :=
  ((hs.foldl fun _ _ ht => ht.drawPromise.mapCopy).foldl fun _ _ ht => ht.returnBytes).withCondsPosts

theorem State.sound.placeGroup {r g k pm tags} : (s.placeGroup r g k pm tags).sound := by
  unfold State.placeGroup
  dsimp only
  refine (hs.restorePm.withGroupsFrames.mapCore.foldl fun _ _ ht => ht.setCtx.trace).rebind.rekey.restartEngines.foldl
      fun _ _ ht => ?_
  split
  · exact ht
  · split
    · exact ht.foldl fun _ _ hu => hu.mapCtx
    · split
      · exact ht.mapCtx
      · exact ht

theorem State.sound.refuseGroup {r g} : (s.refuseGroup r g).sound := (hs.keep (by rfl)).postEvent

/-! ## The scheduler -/

theorem State.sound.mapQueue {p q f} : (s.mapQueue p q f).sound := hs.mapPart

theorem State.sound.advanceHead {p q n} : (s.advanceHead p q n).sound := by
  induction n generalizing s with
  | zero => exact hs
  | succ n ih =>
    unfold State.advanceHead
    dsimp only
    split
    · exact ih (hs.keep (by rfl)).putNat
    · exact hs

theorem State.sound.wakeScheduler : (s.wakeScheduler).sound := hs

theorem State.sound.signalEnd {l st} : (s.signalEnd l st).sound := by
  unfold State.signalEnd
  dsimp only
  split
  · exact hs
  · split
    · exact hs.eventPut
    · exact hs

theorem State.sound.endLaunch {l st} : (s.endLaunch l st).sound :=
  hs.mapLaunch.globalPut.signalEnd.advanceHead.withFrames.wakeScheduler

theorem State.sound.leaveCtx {c} : (s.leaveCtx c).sound := (hs.foldl fun _ _ ht => ht.mapRing).mapCore.setCtx

theorem State.sound.cancelThreads {launch} : (s.cancelThreads launch).sound := by
  unfold State.cancelThreads
  dsimp only
  refine State.sound.foldl ?_ fun _ _ ht => ?_
  · refine State.sound.withRedsPhasesFaults ?_
    refine ((hs.foldl fun _ _ ht => ht.failCopy).foldl fun _ _ ht => ht.cancelCond).foldl fun _ _ ht => ?_
    split
    · split
      · exact ht.endInstance
      · exact ht
    · exact ht
  · split
    · exact ht
    · exact ht.settleBarrier

theorem State.sound.dropImages {l} : (s.dropImages l).sound := (hs.keep (by rfl)).foldl fun _ _ ht => ht.restartEngines

theorem State.sound.killLaunch {l st} : (s.killLaunch l st).sound :=
  (hs.foldl fun _ _ ht => ht.settle.leaveCtx).cancelThreads.dropImages.endLaunch

theorem State.sound.putReplica {p off n v} : (s.putReplica p off n v).sound := hs.globalPut

theorem State.sound.tearDown {p fdom} : (s.tearDown p fdom).sound := hs.foldl fun _ _ ht => ht.killLaunch

theorem State.sound.judge {l} : (s.judge l).sound := by
  unfold State.judge
  dsimp only
  split
  · exact hs
  · split
    · exact hs.putReplica.putReplica.putReplica.endLaunch
    · split
      · refine State.sound.foldl ?_ fun _ _ ht => ?_
        · split
          · exact (hs.putReplica.foldl fun _ _ ht => ht.raiseScore).tearDown
          · exact hs.putReplica.foldl fun _ _ ht => ht.raiseScore
        · exact ht.killLaunch
      · exact hs

theorem State.sound.testHeld {l} : (s.testHeld l).sound := by
  unfold State.testHeld
  dsimp only
  refine State.sound.ite ?_ ?_
  · exact hs.endLaunch
  · refine State.sound.ite ?_ ?_
    · exact hs.mapLaunch.wakeScheduler
    · exact hs

theorem State.sound.holdRound {p} : (s.holdRound p).sound := by
  unfold State.holdRound
  dsimp only
  refine (hs.foldl fun _ _ ht => ht.judge).foldl fun _ _ ht => ?_
  split
  · split
    · exact ht.testHeld
    · exact ht
  · exact ht

theorem State.sound.holdTests {p n} : (s.holdTests p n).sound := by
  induction n generalizing s with
  | zero => exact hs
  | succ n ih => exact ih hs.holdRound

theorem State.sound.retest {p} : (s.retest p).sound := hs.holdTests

theorem State.sound.doorbellError {p q tail} : (s.doorbellError p q tail).sound := by
  unfold State.doorbellError
  split
  · exact hs
  · exact hs.post

theorem State.sound.submit {p q i} : (s.submit p q i).sound := hs.fresh.withLaunches

theorem sound_execTail {p q val} : soundOut (execTail p q val s) := by
  unfold execTail
  dsimp only
  refine soundOut_next ?_
  split
  · exact hs
  · split
    · exact hs.doorbellError.retest
    · exact (hs.foldl fun _ _ ht => ht.submit).mapQueue.wakeScheduler.retest

theorem sound_execCancelDoorbell {p q val} : soundOut (execCancelDoorbell p q val s) := by
  unfold execCancelDoorbell
  dsimp only
  refine soundOut_next ?_
  split
  · exact hs
  · split
    · exact hs.killLaunch.wakeScheduler.retest
    · exact hs.wakeScheduler.retest

theorem State.sound.decideLaunch {l} : (s.decideLaunch l).sound := by
  unfold State.decideLaunch
  dsimp only
  split
  · exact hs.endLaunch
  · split
    · exact hs.endLaunch
    · split
      · exact hs.endLaunch
      · split
        · split
          · exact hs.endLaunch
          · split
            · exact hs.fresh.withRgns.mapLaunch.testHeld
            · exact hs.fresh.withRgns.mapLaunch.endLaunch
        · exact hs.endLaunch

theorem sound_execAdmission {p q} : soundOut (execAdmission p q s) := by
  unfold execAdmission
  refine soundOut_next ?_
  split
  · split
    · exact hs.decideLaunch.wakeScheduler.retest
    · exact hs
  · exact hs

theorem sound_execHoldTest {p} : soundOut (execHoldTest p s) := soundOut_next hs.retest

theorem State.sound.newRound {lv} : (s.newRound lv).sound := by
  unfold State.newRound
  dsimp only
  refine State.sound.withSched ?_
  refine hs.foldl fun _ _ ht => ?_
  split
  · exact ht
  · exact ht.mapQueue

/-- What one place of a round leaves (R410). -/
def soundRound : Sum (Option (Launch × Rgn × List (List Occ)) × State) State → Prop
  | .inl p => p.2.sound
  | .inr t => t.sound

theorem State.sound.roundAt {top} : soundRound (s.roundAt top) := by
  unfold State.roundAt
  dsimp only
  split
  · exact hs.keep rfl
  · split
    · split
      · exact hs.newRound
      · split
        · exact hs.keep rfl
        · (repeat' split) <;> exact hs.keep rfl
    · split
      · exact hs.newRound
      · exact hs

theorem State.sound.roundNext {n} : (s.roundNext n).2.sound := by
  induction n generalizing s with
  | zero => exact hs
  | succ n ih =>
    unfold State.roundNext
    generalize s.topLevel = top
    have hat := hs.roundAt (top := top)
    generalize s.roundAt top = r at hat ⊢
    cases r with
    | inl p =>
      have hp : p.2.sound := hat
      rw [Sum.elim_inl]
      exact hp
    | inr t =>
      have ht : t.sound := hat
      rw [Sum.elim_inr]
      exact ih ht

theorem sound_execTaskStart {p q} : soundOut (execTaskStart p q s) := by
  have hround := hs.roundNext (n := 4096)
  unfold execTaskStart
  generalize s.roundNext 4096 = r at hround ⊢
  obtain ⟨o, t⟩ := r
  replace hround : t.sound := hround
  refine soundOut_next ?_
  cases o with
  | none => exact hround
  | some x =>
    dsimp only
    split
    · exact hround.startCoaches.keep rfl
    · exact hround

theorem sound_execAging {p q} : soundOut (execAging p q s) := by
  unfold execAging
  refine soundOut_next ?_
  split
  · split
    · split
      · exact hs.mapLaunch.wakeScheduler
      · exact hs
    · exact hs
  · exact hs

theorem State.sound.postCivr {c civ rcb} : (s.postCivr c civ rcb).sound := hs.post

theorem State.sound.drainResults {c} : (s.drainResults c).sound := hs.mapCtx.foldl fun _ _ ht => ht.applyResult

theorem sound_execTaskRetirement {c} : soundOut (execTaskRetirement c s) := by
  unfold execTaskRetirement
  refine soundOut_next ?_
  split
  · exact hs
  · split
    · exact hs
    · dsimp only
      refine State.sound.wakeScheduler ?_
      refine State.sound.leaveCtx ?_
      refine State.sound.mapLaunch ?_
      split
      · exact hs.settle.drainResults.closePhase.withReds
      · exact hs.settle.drainResults.closePhase.withReds.postCivr

theorem sound_execLaunchEnd {id} : soundOut (execLaunchEnd id s) := by
  unfold execLaunchEnd
  refine soundOut_next ?_
  split
  · exact hs
  · split
    · exact hs.endLaunch.retest
    · split
      · exact hs.killLaunch.retest
      · exact hs

theorem sound_execStepDigest {id} : soundOut (execStepDigest id s) := by
  unfold execStepDigest
  refine soundOut_next ?_
  split
  · exact hs
  · split
    · exact hs.putReplica.putReplica.putReplica.putReplica.mapLaunch
    · exact hs

theorem sound_execTeardown {p fdom} : soundOut (execTeardown p fdom s) := soundOut_next hs.tearDown.wakeScheduler.retest

theorem sound_execPreemption {region} : soundOut (execPreemption region s) := by
  unfold execPreemption
  refine soundOut_next ?_
  split
  · exact hs
  · split
    · exact hs.preemptRegion.withPreempts
    · exact hs

theorem State.sound.resumeOne {r g} : soundIn (s.resumeOne r g) := by
  unfold State.resumeOne
  split
  · exact soundIn_some hs.placeGroup
  · exact soundIn_none

theorem State.sound.resumeAll {r l} : soundIn (s.resumeAll r l) := by
  have hstep (l : List Group) (o : Option State) (ho : soundIn o) :
      soundIn (l.foldl (fun t g => t.bind (fun u => u.resumeOne r g)) o) := by
    induction l generalizing o with
    | nil => exact ho
    | cons g l ih =>
      refine ih _ ?_
      cases o with
      | none => exact soundIn_none
      | some t => exact (ho t rfl).resumeOne
  exact hstep l (some s) (soundIn_some hs)

theorem State.sound.resumeGroups {r l} : soundIn (s.resumeGroups r l) := by
  unfold State.resumeGroups
  split
  · exact soundIn_some hs.refuseGroup
  · exact hs.resumeAll

theorem sound_execRegionResume {group} : soundOut (execRegionResume group s) := by
  unfold execRegionResume
  refine soundOut_next ?_
  split
  · exact hs
  · split
    · exact hs
    · refine State.sound.ite hs ?_
      split
      · exact hs
      · next t hresumed =>
        have ht : t.sound := hs.resumeGroups t hresumed
        split
        · exact ht.notice.wakeScheduler
        · exact ht

/-! ## Events of the engines -/

theorem State.sound.recordFault {o e redo num a kind va} : (s.recordFault o e redo num a kind va).sound :=
  (hs.keep (by rfl)).post

theorem sound_execLateFault {e} : soundOut (execLateFault e s) := by
  unfold execLateFault
  refine soundOut_next ?_
  split
  · exact hs
  · split
    · split
      · exact hs
      · split
        · exact hs
        · split
          · exact hs.failCopy
          · split
            · exact hs.copyPart.mapCopy.recordFault
            · exact hs
          · exact hs
    · split
      · exact hs
      · split
        · exact hs
        · split
          · exact hs.dropRed
          · split
            · exact hs.mapRed.recordFault
            · exact hs
          · exact hs
    · split
      · exact hs
      · split
        · exact hs
        · split
          · exact hs.endInstance
          · split
            · exact hs.recordFault
            · exact hs
          · exact hs
    · split
      · exact hs
      · split
        · exact hs
        · split
          · exact hs.finishCond
          · split
            · exact (hs.keep (by rfl)).recordFault
            · exact hs
          · exact hs

theorem State.sound.heldAgain {r} : (s.heldAgain r).sound := hs

theorem State.sound.retryFault {e} : (s.retryFault e).sound := by
  unfold State.retryFault
  split
  · split
    · split
      · exact hs
      · exact hs.drawPromise.mapCopy
    · exact hs
  · split
    · dsimp only
      split
      · exact hs.heldAgain.mapRed.settleBarrier
      · exact hs.heldAgain.mapRed
    · exact hs
  · exact hs
  · exact hs.keep rfl

theorem State.sound.declineFault {e} : (s.declineFault e).sound := by
  unfold State.declineFault
  split
  · split
    · exact hs.failCopy
    · exact hs
  · split
    · exact hs.heldAgain.dropRed
    · exact hs
  · split
    · split
      · exact hs.endInstance
      · exact hs
    · exact hs
  · split
    · exact hs.finishCond
    · exact hs

theorem State.sound.hostError {part} : (s.hostError part).sound := hs.mapPart

theorem State.sound.writeFres {part val} : (s.writeFres part val).sound := by
  unfold State.writeFres
  split
  · exact hs
  · split
    · exact hs.hostError
    · split
      · exact hs
      · dsimp only
        split
        · exact (hs.keep (by rfl)).declineFault
        · exact (hs.keep (by rfl)).retryFault

theorem State.sound.postWork {p} : (s.postWork p).sound := by
  unfold State.postWork
  split
  · exact hs
  · split
    · split
      · exact hs.postPart
      · exact hs
    · split
      · exact hs
      · split
        · exact hs.readErrors.withFree.mapPost
        · exact hs

theorem State.sound.engines : (s.engines).sound := by
  unfold State.engines
  split
  · exact hs
  · dsimp only
    split
    · split
      · exact (hs.keep (by rfl)).copyPart
      · exact hs.keep rfl
    · split
      · split
        · exact (hs.keep (by rfl)).condPart
        · exact hs.keep rfl
      · exact hs.keep rfl
    · exact (hs.keep (by rfl)).postWork
    · exact (hs.keep (by rfl)).performSome

theorem sound_execRetry {part val} : soundOut (execRetry part val s) := soundOut_next hs.writeFres

theorem sound_execDecline {part val} : soundOut (execDecline part val s) := soundOut_next hs.writeFres

end

end Sys2Proof.Machine
end

section
/-!
O6: the other units, the host, links and management keep the canonical form (spec/05 R123, R150).
-/
namespace Sys2Proof.Machine

section
variable {s : State} (hs : s.sound)
include hs

/-! ## The S slot -/

theorem State.sound.scalarOp {i data d lat f} : soundOut (s.scalarOp i data d lat f) :=
  soundOut_next (hs.compute (fun _ ht => ht.deliverS))

theorem State.sound.scalar2 {i d a b f} : soundOut (s.scalar2 i d a b f) := hs.scalarOp

theorem State.sound.scalar1 {i d a f} : soundOut (s.scalar1 i d a f) := hs.scalarOp

theorem sound_execAdd {d a b} : soundOut (execAdd d a b s) := hs.scalarOp

theorem sound_execSub {d a b} : soundOut (execSub d a b s) := hs.scalarOp

theorem sound_execAnd {d a b} : soundOut (execAnd d a b s) := hs.scalar2

theorem sound_execOr {d a b} : soundOut (execOr d a b s) := hs.scalar2

theorem sound_execXor {d a b} : soundOut (execXor d a b s) := hs.scalar2

theorem sound_execAndn {d a b} : soundOut (execAndn d a b s) := hs.scalar2

theorem sound_execOrn {d a b} : soundOut (execOrn d a b s) := hs.scalar2

theorem sound_execXnor {d a b} : soundOut (execXnor d a b s) := hs.scalar2

theorem sound_execShl {d a b} : soundOut (execShl d a b s) := hs.scalar2

theorem sound_execShr {d a b} : soundOut (execShr d a b s) := hs.scalar2

theorem sound_execSar {d a b} : soundOut (execSar d a b s) := hs.scalar2

theorem sound_execRol {d a b} : soundOut (execRol d a b s) := hs.scalar2

theorem sound_execSeq {d a b} : soundOut (execSeq d a b s) := hs.scalar2

theorem sound_execSne {d a b} : soundOut (execSne d a b s) := hs.scalar2

theorem sound_execSlt {d a b} : soundOut (execSlt d a b s) := hs.scalar2

theorem sound_execSle {d a b} : soundOut (execSle d a b s) := hs.scalar2

theorem sound_execSltw {d a b} : soundOut (execSltw d a b s) := hs.scalar2

theorem sound_execSlew {d a b} : soundOut (execSlew d a b s) := hs.scalar2

theorem sound_execMin {d a b} : soundOut (execMin d a b s) := hs.scalar2

theorem sound_execMax {d a b} : soundOut (execMax d a b s) := hs.scalar2

theorem sound_execMinw {d a b} : soundOut (execMinw d a b s) := hs.scalar2

theorem sound_execMaxw {d a b} : soundOut (execMaxw d a b s) := hs.scalar2

theorem sound_execMul {d a b} : soundOut (execMul d a b s) := hs.scalarOp

theorem sound_execMulh {d a b} : soundOut (execMulh d a b s) := hs.scalarOp

theorem sound_execMulhw {d a b} : soundOut (execMulhw d a b s) := hs.scalarOp

theorem sound_execLea {d a b x} : soundOut (execLea d a b x s) := hs.scalarOp

theorem sound_execSel {d a b c} : soundOut (execSel d a b c s) := hs.scalarOp

theorem sound_execAddi {d a imm} : soundOut (execAddi d a imm s) := hs.scalarOp

theorem sound_execAndi {d a imm} : soundOut (execAndi d a imm s) := hs.scalar1

theorem sound_execOri {d a imm} : soundOut (execOri d a imm s) := hs.scalar1

theorem sound_execXori {d a imm} : soundOut (execXori d a imm s) := hs.scalar1

theorem sound_execSlti {d a imm} : soundOut (execSlti d a imm s) := hs.scalar1

theorem sound_execShli {d a sh} : soundOut (execShli d a sh s) := hs.scalar1

theorem sound_execShri {d a sh} : soundOut (execShri d a sh s) := hs.scalar1

theorem sound_execSari {d a sh} : soundOut (execSari d a sh s) := hs.scalar1

theorem State.sound.divide {i data d lat mayFlag k} (hk : ∀ t, t.sound → (k t).sound) :
    (s.divide i data d lat mayFlag k).sound := by
  unfold State.divide
  dsimp only
  split
  · split
    · exact hs.expireImplicit
    · exact hs.slipIn
  · exact hs.operate (fun _ _ ht => hk _ ht.mapCx)

theorem State.sound.intDivide {i d a b f} : soundOut (s.intDivide i d a b f) :=
  soundOut_next (hs.divide (fun _ ht => ht.deliverS))

theorem sound_execDiv {d a b} : soundOut (execDiv d a b s) := hs.intDivide

theorem sound_execDivw {d a b} : soundOut (execDivw d a b s) := hs.intDivide

theorem sound_execRem {d a b} : soundOut (execRem d a b s) := hs.intDivide

theorem sound_execRemw {d a b} : soundOut (execRemw d a b s) := hs.intDivide

theorem sound_execPopc {d a} : soundOut (execPopc d a s) := hs.scalar1

theorem sound_execClz {d a} : soundOut (execClz d a s) := hs.scalar1

theorem sound_execCtz {d a} : soundOut (execCtz d a s) := hs.scalar1

theorem sound_execBrev {d a} : soundOut (execBrev d a s) := hs.scalar1

theorem sound_execBswap {d a} : soundOut (execBswap d a s) := hs.scalar1

theorem sound_execBfx {d a pos lm} : soundOut (execBfx d a pos lm s) := hs.scalar1

theorem sound_execBfi {d a pos lm} : soundOut (execBfi d a pos lm s) := hs.scalar2

theorem sound_execMovi {d imm} : soundOut (execMovi d imm s) := hs.scalarOp

theorem sound_execMovhi {d q imm} : soundOut (execMovhi d q imm s) := hs.scalar1

theorem sound_execLi48 {d imm} : soundOut (execLi48 d imm s) := hs.scalarOp

theorem State.sound.joinFlags {cr w} : (s.joinFlags cr w).sound := by
  unfold State.joinFlags
  split
  · exact hs.joinCopies
  · exact hs

theorem State.sound.readControl {i d cr} : soundOut (s.readControl i d cr) :=
  soundOut_next (hs.operate (fun _ _ ht => ht.deliverS.joinFlags))

theorem sound_execMfc {d cr} : soundOut (execMfc d cr s) := hs.readControl

theorem sound_execMtc {cr a} : soundOut (execMtc cr a s) := by
  unfold execMtc
  dsimp only
  exact soundOut_next (hs.operateNow (fun _ ht => ht.deliver))

theorem sound_execBcast {a} : soundOut (execBcast a s) := soundOut_next (hs.operate (fun _ _ ht => ht.keep (by rfl)))

theorem sound_execRdclk {d clk} : soundOut (execRdclk d clk s) := by
  unfold execRdclk
  dsimp only
  exact hs.readControl

/-! ## Floating point -/

theorem State.sound.deliverFp {lat d r} : (s.deliverFp lat d r).sound := hs.deliverF

theorem State.sound.floatOp {i data d f} : soundOut (s.floatOp i data d f) :=
  soundOut_next (hs.compute (fun _ ht => ht.deliverFp))

theorem sound_execFadd {d a b} : soundOut (execFadd d a b s) := hs.floatOp

theorem sound_execFsub {d a b} : soundOut (execFsub d a b s) := hs.floatOp

theorem sound_execFmul {d a b} : soundOut (execFmul d a b s) := hs.floatOp

theorem sound_execFfma {d a b c} : soundOut (execFfma d a b c s) := hs.floatOp

theorem sound_execFmin {d a b} : soundOut (execFmin d a b s) := hs.floatOp

theorem sound_execFmax {d a b} : soundOut (execFmax d a b s) := hs.floatOp

theorem sound_execFcmp {cc d a b} : soundOut (execFcmp cc d a b s) := hs.scalarOp

theorem sound_execFcvt {d a src dst} : soundOut (execFcvt d a src dst s) := by
  unfold execFcvt
  dsimp only
  exact soundOut_next (hs.compute (fun _ ht => ht.deliverF))

theorem sound_execFdiv {d a b} : soundOut (execFdiv d a b s) := soundOut_next (hs.divide (fun _ ht => ht.deliverFp))

theorem sound_execFsqrt {d a} : soundOut (execFsqrt d a s) := soundOut_next (hs.divide (fun _ ht => ht.deliverFp))

/-! ## The host -/

theorem State.sound.invalidate {p val} : (s.invalidate p val).sound := (hs.keep (by rfl)).mapPart

theorem State.sound.writeTinv {p val} : (s.writeTinv p val).sound := by
  unfold State.writeTinv
  split
  · exact hs
  · split
    · exact hs.hostError
    · split
      · exact hs
      · exact hs.invalidate

theorem sound_execTinv {p val} : soundOut (execTinv p val s) := soundOut_next hs.writeTinv

theorem sound_execInvalidationCompletion {p} : soundOut (execInvalidationCompletion p s) := by
  unfold execInvalidationCompletion
  dsimp only
  refine soundOut_next ?_
  split
  · exact hs.mapPart
  · exact hs

theorem State.sound.mailboxDone {st} : (s.mailboxDone st).sound := hs

theorem State.sound.writeMailbox {off val} : (s.writeMailbox off val).sound := by
  unfold State.writeMailbox
  split
  · exact hs
  · split
    · exact hs.keep rfl
    · split
      · split
        · exact hs
        · dsimp only
          split
          · exact hs.keep rfl
          · exact (hs.keep (by rfl)).mailboxDone
      · exact hs

theorem sound_outState {o} (ho : soundOut o) : (Out.state o s).sound := by
  unfold Out.state
  split
  · next t => exact ho t rfl
  · exact hs
  · exact hs

theorem sound_execRegisterWrite {fn off val} : soundOut (execRegisterWrite fn off val s) := by
  unfold execRegisterWrite
  refine soundOut_next ?_
  split
  · exact hs.writeMailbox
  · split
    · exact hs
    · dsimp only
      split
      · exact hs
      · split
        · exact sound_outState hs (sound_execTail hs)
        · exact sound_outState hs (sound_execCancelDoorbell hs)
        · split
          · exact hs.writeTinv
          · split
            · exact hs.writeFres
            · split
              · split
                · exact hs.hostError
                · exact hs.mapPart
              · exact hs

theorem sound_execBar4Read {p off len} : soundOut (execBar4Read p off len s) := by
  unfold execBar4Read
  refine soundOut_next ?_
  split
  · exact hs.keep rfl
  · split
    · exact hs.readErrors.withHostOut
    · exact hs.keep rfl

theorem sound_execBar4Write {p off bytes} : soundOut (execBar4Write p off bytes s) := by
  unfold execBar4Write
  refine soundOut_next ?_
  split
  · exact hs
  · split
    · exact hs.putPieces.wakeOn
    · exact hs.hostError

theorem State.sound.valueTimeout {c rid} : (s.valueTimeout c rid).sound := by
  unfold State.valueTimeout
  dsimp only
  split
  · exact hs
  · split
    · split
      · exact (hs.keep (by rfl)).setCtx.foldl fun _ _ ht => ht.arrive
      · exact hs
    · split
      · split
        · exact hs.settle.withFree.setCtx.foldl fun _ _ ht => ht.arrive
        · exact hs
      · exact hs

theorem State.sound.fetchTimeout {c} : (s.fetchTimeout c).sound := by
  unfold State.fetchTimeout
  dsimp only
  split
  · exact hs.mapCtx
  · exact hs

theorem State.sound.engineTimeout {c e} : (s.engineTimeout c e).sound := by
  unfold State.engineTimeout
  dsimp only
  split
  · split
    · split
      · split
        · exact (hs.keep (by rfl)).mapCopy
        · exact hs
      · exact hs
    · exact hs
  · split
    · split
      · split
        · exact (hs.keep (by rfl)).mapPost
        · exact hs
      · exact hs
    · exact hs
  · exact hs

theorem sound_execCompletionTimeout {c r} : soundOut (execCompletionTimeout c r s) := by
  unfold execCompletionTimeout
  refine soundOut_next ?_
  split
  · exact hs.valueTimeout
  · exact hs.fetchTimeout
  · exact hs.engineTimeout

theorem sound_execMdpw {block writers} : soundOut (execMdpw block writers s) := by
  unfold execMdpw
  dsimp only
  refine soundOut_next ?_
  split
  · exact hs
  · split
    · split
      · exact (hs.keep (by rfl)).post
      · exact hs.keep rfl
    · exact (hs.keep (by rfl)).post

theorem State.sound.queueError {c q i correctable} : (s.queueError c q i correctable).sound := by
  unfold State.queueError
  split
  · exact hs.raiseScore
  · exact hs.mapCtx.post

theorem State.sound.cellarError {key correctable} : (s.cellarError key correctable).sound := by
  unfold State.cellarError
  split
  · exact hs
  · split
    · exact hs.keep rfl
    · exact hs.foundError

theorem State.sound.arrayError {ok e} : (s.arrayError ok e).sound := by
  unfold State.arrayError
  split
  · exact hs.foundError
  · exact hs.cellarError
  · split
    · exact hs.keep rfl
    · split <;> exact hs.keep rfl
  · exact hs.queueError
  · exact hs.keep rfl
  · split
    · dsimp only
      split <;> exact hs.keep rfl
    · exact hs
  · split <;> exact hs.keep rfl

theorem sound_execPatrolScrubbing {e correctable} : soundOut (execPatrolScrubbing e correctable s) := by
  unfold execPatrolScrubbing
  refine soundOut_next ?_
  split
  · split
    · exact (hs.keep (by rfl)).arrayError
    · exact hs.arrayError
  · exact hs

/-! ## Leases -/

theorem State.sound.setService {k v} : (s.setService k v).sound := hs.mapCore

theorem State.sound.withdrawCore {k} : (s.withdrawCore k).1.sound := by
  unfold State.withdrawCore
  split
  · exact hs.setService
  · dsimp only
    exact hs.preemptRegion.setService.notice

theorem State.sound.noticePort {p} : (s.noticePort p).sound := hs.foldl fun _ _ ht => ht.notice

theorem State.sound.sendControl {p kind} : (s.sendControl p kind).sound := hs.mapPort

theorem State.sound.moveHeld {p} : (s.moveHeld p).sound := by
  unfold State.moveHeld
  split
  · exact hs
  · exact hs.mapPort.foldl fun _ _ ht => ht.sendFlit

theorem State.sound.withdrawPort {p} : (s.withdrawPort p).sound := by
  unfold State.withdrawPort
  dsimp only
  refine State.sound.noticePort ?_
  split
  · exact hs.mapPort.moveHeld
  · exact hs.sendControl.mapPort

theorem State.sound.startLease {cls unit forced} : (s.startLease cls unit forced).sound := by
  unfold State.startLease
  dsimp only
  split
  · exact hs.withdrawCore.keep rfl
  · exact hs.withdrawPort.keep rfl
  · exact hs.keep rfl

theorem State.sound.scheduledLease {cls bit} : (s.scheduledLease cls bit).sound := by
  unfold State.scheduledLease
  dsimp only
  split
  · exact hs
  · split
    · exact hs
    · exact hs.startLease.mapVan

theorem sound_execCoreLease : soundOut (execCoreLease s) := soundOut_next hs.scheduledLease

theorem sound_execLinkPortLease : soundOut (execLinkPortLease s) := soundOut_next hs.scheduledLease

theorem sound_execMemoryChannelLease : soundOut (execMemoryChannelLease s) := soundOut_next hs.scheduledLease

theorem sound_execForcedLease {cls} : soundOut (execForcedLease cls s) := by
  unfold execForcedLease
  dsimp only
  refine soundOut_next ?_
  split
  · exact hs
  · split
    · exact hs.mapVan
    · split
      · exact hs.mapVan.startLease
      · exact hs

theorem State.sound.logLease {r} : (s.logLease r).sound := by
  unfold State.logLease
  dsimp only
  split
  · exact hs.mapVan
  · split
    · exact hs.mapVan.flushLog.putBytes
    · exact hs.mapVan.flushLog.mapVan.flushLog

theorem State.sound.recordRetirement {cls unit reason pat fdet} : (s.recordRetirement cls unit reason pat fdet).sound :=
  hs.mapVan

theorem State.sound.noticeRetired {k} : (s.noticeRetired k).sound := hs.foldl fun _ _ ht => ht.mapRgn.notice

theorem State.sound.unroute {p} : (s.unroute p).sound := hs

theorem State.sound.returnPort {p} : (s.returnPort p).sound := hs.sendControl.mapPort

theorem State.sound.closeRequest {f} : (s.closeRequest f).sound := hs

theorem State.sound.failRequest {f} : (s.failRequest f).sound := by
  unfold State.failRequest
  split
  · exact hs
  · dsimp only
    split
    · exact hs.closeRequest.endSend
    · split
      · split
        · exact hs.closeRequest.endInstance
        · exact hs.closeRequest
      · exact hs.closeRequest
    · exact hs.closeRequest

theorem State.sound.rerouteFlit {f} : (s.rerouteFlit f).sound := by
  unfold State.rerouteFlit
  split
  · exact hs.sendFlit
  · split
    · exact hs.failRequest
    · exact hs.answer

theorem State.sound.retirePort {p} : (s.retirePort p).sound := by
  unfold State.retirePort
  split
  · exact hs
  · exact hs.mapPort.unroute.foldl fun _ _ ht => ht.rerouteFlit

theorem State.sound.closeLease {cls unit retire} : (s.closeLease cls unit retire).sound := by
  unfold State.closeLease
  split
  · dsimp only
    split
    · exact hs.clearPm.mapCore.wakeScheduler.noticeRetired
    · exact hs.clearPm.mapCore.wakeScheduler
  · split
    · exact hs.retirePort.noticePort
    · exact hs.returnPort.noticePort
  · exact hs

theorem sound_execLeaseEnd {cls o pat fdet} : soundOut (execLeaseEnd cls o pat fdet s) := by
  unfold execLeaseEnd
  refine soundOut_next ?_
  split
  · exact hs
  · dsimp only
    refine State.sound.logLease ?_
    refine State.sound.closeLease ?_
    split
    · refine State.sound.mapVan ?_
      split
      · refine State.sound.recordRetirement ?_
        split
        · exact hs.mapVan.raiseScore
        · exact hs.mapVan
      · split
        · exact hs.mapVan.raiseScore
        · exact hs.mapVan
    · split
      · refine State.sound.recordRetirement ?_
        split
        · exact hs.mapVan.raiseScore
        · exact hs.mapVan
      · split
        · exact hs.mapVan.raiseScore
        · exact hs.mapVan

theorem sound_execHourlyHalving : soundOut (execHourlyHalving s) := by
  unfold execHourlyHalving
  refine soundOut_next ?_
  split
  · exact hs
  · exact hs.mapVan

theorem sound_execCapcRecord {c} : soundOut (execCapcRecord c s) := by
  unfold execCapcRecord
  refine soundOut_next ?_
  split
  · split
    · exact hs.mapRgn.postEvent
    · exact hs
  · exact hs

/-! ## Links -/

theorem State.sound.requestReplay {p seq} : (s.requestReplay p seq).sound := hs.mapPort

theorem State.sound.receive {port kind f k} (hk : ∀ t, t.sound → (k t).sound) : (s.receive port kind f k).sound := by
  unfold State.receive
  split
  · exact hs
  · split
    · exact hs
    · split
      · exact hk _ hs.mapPort
      · split
        · exact hs.requestReplay
        · exact hs

theorem State.sound.took {f} : (s.took f).sound := hs.returnCredits

theorem State.sound.deliverFlit {f mine} (hmine : ∀ t, t.sound → (mine t).sound) : (s.deliverFlit f mine).sound := by
  unfold State.deliverFlit
  split
  · exact hmine _ hs
  · split
    · exact hs.answer.took
    · exact hs.sendFlit.took

theorem sound_execIdle {port f} : soundOut (execIdle port f s) := soundOut_next (hs.receive (fun _ ht => ht))

theorem sound_execReq {port f} : soundOut (execReq port f s) := by
  unfold execReq
  refine soundOut_next ?_
  refine hs.receive (fun _ ht => ?_)
  refine ht.deliverFlit (fun _ hu => ?_)
  split
  · exact hu.answer.took
  · split
    · exact hu.answer.took
    · exact (hu.keep (by rfl)).fileFlit

theorem sound_execData {port f} : soundOut (execData port f s) := by
  unfold execData
  refine soundOut_next ?_
  refine hs.receive (fun _ ht => ?_)
  refine ht.deliverFlit (fun _ hu => ?_)
  split
  · exact hu.fileFlit
  · exact hu.took

theorem sound_execRsp {port f} : soundOut (execRsp port f s) := by
  unfold execRsp
  refine soundOut_next ?_
  refine hs.receive (fun _ ht => ?_)
  refine ht.deliverFlit (fun _ hu => ?_)
  split
  · exact hu.took
  · split
    · exact hu.closeRequest.endSend.took
    · exact hu.closeRequest.took

theorem sound_execCred {port f} : soundOut (execCred port f s) := soundOut_next (hs.receive (fun _ ht => ht.mapPort))

theorem sound_execHold {port f} : soundOut (execHold port f s) := soundOut_next (hs.receive (fun _ ht => ht.mapPort))

theorem sound_execResume {port f} : soundOut (execResume port f s) := soundOut_next (hs.receive (fun _ ht => ht.mapPort))

theorem sound_execEpa {port f} : soundOut (execEpa port f s) :=
  soundOut_next (hs.receive (fun _ ht => ht.deliverFlit (fun _ hu => hu.failRequest.took)))

theorem State.sound.releaseInbound {f} : (s.releaseInbound f).sound := (hs.keep (by rfl)).returnCredits

theorem sound_execErr {port f} : soundOut (execErr port f s) := by
  unfold execErr
  refine soundOut_next ?_
  refine hs.receive (fun _ ht => ?_)
  refine ht.deliverFlit (fun _ hu => ?_)
  refine State.sound.took ?_
  split
  · exact hu.failRequest
  · exact hu.releaseInbound

theorem sound_execReplay {port f} : soundOut (execReplay port f s) := by
  unfold execReplay
  refine soundOut_next ?_
  split
  · exact hs
  · split
    · exact hs
    · exact hs.mapPort.raiseScore

theorem sound_execFlitCrcFailure {port seq} : soundOut (execFlitCrcFailure port seq s) := by
  unfold execFlitCrcFailure
  refine soundOut_next ?_
  split
  · exact hs
  · split
    · exact hs.requestReplay
    · exact hs

theorem sound_execDiscardedFlit {port f} : soundOut (execDiscardedFlit port f s) := by
  unfold execDiscardedFlit
  refine soundOut_next ?_
  split
  · exact hs.mapPort
  · exact hs

theorem sound_execLossOfLock {port} : soundOut (execLossOfLock port s) := by
  unfold execLossOfLock
  dsimp only
  split
  · split
    · exact sound_execLeaseEnd hs.mapPort.drawWord
    · exact soundOut_next hs.mapPort
  · exact soundOut_next hs.mapPort

theorem State.sound.resetCompute : s.resetCompute.sound := wf_filter hs _

theorem State.sound.dropInbound : (s.dropInbound).sound := by
  unfold State.dropInbound
  dsimp only
  refine (hs.foldl fun _ _ ht => ht.took).foldl fun _ _ ht => ?_
  split
  · exact ht.returnCredits
  · exact ht

theorem sound_execComputeDomainReset : soundOut (execComputeDomainReset s) := by
  unfold execComputeDomainReset
  dsimp only
  exact soundOut_next (((hs.keep (by rfl)).foldl fun _ _ ht => ht.answer).foldl
      fun _ _ ht => ht.sendFlit).dropInbound.withPorch.resetCompute.withMgmt

theorem sound_execComputeDomainBringUp : soundOut (execComputeDomainBringUp s) := by
  unfold execComputeDomainBringUp
  refine soundOut_next ?_
  split
  · exact hs
  · exact hs.keep rfl

theorem sound_execPorchDomainReset : soundOut (execPorchDomainReset s) := by
  unfold execPorchDomainReset
  dsimp only
  exact soundOut_next (hs.foldl fun _ _ ht => ht.failRequest).withPorch

theorem sound_execPorchUp : soundOut (execPorchUp s) := by
  unfold execPorchUp
  refine soundOut_next ?_
  split
  · exact hs.keep rfl
  · exact hs

/-! ## Management -/

omit hs in
theorem sound_kept : s.kept.sound := rfl

theorem State.sound.abortLeases : s.abortLeases.sound := hs.foldl fun _ _ ht => sound_outState ht (sound_execLeaseEnd ht)

omit hs in
theorem sound_execDeviceReset : soundOut (execDeviceReset s) := by
  unfold execDeviceReset
  dsimp only
  exact soundOut_next sound_kept.withVanMgmt

theorem State.sound.holdOut {cls unit} : (s.holdOut cls unit).sound := by
  unfold State.holdOut
  dsimp only
  split
  · exact hs.mapVan.setService
  · exact hs.mapVan.mapPort
  · exact hs.mapVan

theorem State.sound.holdStored : (s.holdStored).sound := hs.foldl fun _ _ ht => (ht.foldl fun _ _ hu => hu.holdOut)

theorem State.sound.retireAtBoot {cls unit pat fdet} : (s.retireAtBoot cls unit pat fdet).sound := by
  unfold State.retireAtBoot
  split
  · exact hs
  · exact hs.recordRetirement.holdOut

theorem State.sound.bootUnits {b ran} : (s.bootUnits b ran).sound := by
  unfold State.bootUnits
  dsimp only
  split
  · exact hs.holdStored.foldl fun _ _ ht => ht.retireAtBoot
  · exact hs.holdStored

theorem State.sound.bootPorch {b ok} : (s.bootPorch b ok).sound := by
  unfold State.bootPorch
  split
  · refine hs.foldl fun _ _ ht => ?_
    split
    · exact ht.mapPort
    · exact ht.retireAtBoot
  · exact hs

omit hs in
theorem sound_execPowerOn {b} : soundOut (execPowerOn b s) := by
  unfold execPowerOn
  dsimp only
  exact soundOut_next sound_kept.withMgmt.bootUnits.bootPorch.withGccFreeVanPorchMgmt

theorem State.sound.command {code k} (hk : ∀ t, t.sound → soundIn (k t)) : (s.command code k).sound := by
  unfold State.command
  split
  · exact hs
  · split
    · exact hs.mailboxDone
    · split
      · next t hdone => exact (hk s hs t hdone).mailboxDone
      · exact hs.mailboxDone

theorem State.sound.replyWith {code bs} : (s.replyWith code bs).sound := by
  unfold State.replyWith
  split
  · exact hs
  · exact hs.putBytes.withHostOut.mailboxDone

theorem State.sound.registerPart {a} : soundIn (s.registerPart a) := by
  unfold State.registerPart
  dsimp only
  split
  · exact soundIn_none
  · refine soundIn_some ?_
    refine State.sound.ite ?_ ?_
    · exact hs.keep rfl
    · exact (hs.keep (by rfl)).putReplica.putReplica

theorem sound_execRegisterPartition {a} : soundOut (execRegisterPartition a s) := by
  unfold execRegisterPartition
  refine soundOut_next (hs.command fun _ ht => ?_)
  exact ht.registerPart

theorem sound_execDeregisterPartition {p} : soundOut (execDeregisterPartition p s) := by
  unfold execDeregisterPartition
  refine soundOut_next ?_
  refine hs.command (fun _ ht => ?_)
  split
  · exact soundIn_none
  · exact soundIn_some (ht.foldl fun _ _ hu => hu.killLaunch).withTlbLaunchesRgnsRcbCopies.mapPart

theorem sound_execAccessTableEntry {tg master ranges} : soundOut (execAccessTableEntry tg master ranges s) := by
  unfold execAccessTableEntry
  refine soundOut_next ?_
  refine hs.command (fun _ ht => ?_)
  dsimp only
  split
  · exact soundIn_none
  · exact soundIn_some (ht.keep (by rfl))

theorem sound_execLeaseConfiguration {buf} : soundOut (execLeaseConfiguration buf s) := by
  unfold execLeaseConfiguration
  refine soundOut_next ?_
  split
  · exact hs
  · refine hs.command (fun _ ht => ?_)
    dsimp only
    split
    · exact soundIn_some ht.mapVan
    · exact soundIn_none

theorem sound_execTraceConfiguration {p cfg} : soundOut (execTraceConfiguration p cfg s) := by
  unfold execTraceConfiguration
  refine soundOut_next ?_
  refine hs.command (fun _ ht => ?_)
  split
  · exact soundIn_some ht.mapPart
  · exact soundIn_none

theorem sound_execPreemptRegion {r} : soundOut (execPreemptRegion r s) := by
  unfold execPreemptRegion
  exact soundOut_next (hs.command (fun _ ht => soundIn_map fun _ => ht.keep (by rfl)))

theorem State.sound.setMode {region mode} : (s.setMode region mode).sound := by
  unfold State.setMode
  dsimp only
  split
  · exact hs.mapRgn
  · refine State.sound.withGroups ?_
    refine hs.mapRgn.foldl fun _ _ ht => ?_
    split
    · split
      · exact ht.mapCtx
      · exact ht
    · exact ht

theorem sound_execNoticeMode {r mode} : soundOut (execNoticeMode r mode s) := by
  unfold execNoticeMode
  exact soundOut_next (hs.command (fun _ ht => soundIn_map fun _ => ht.setMode))

theorem sound_execCommit : soundOut (execCommit s) := by
  unfold execCommit
  exact soundOut_next (hs.command (fun _ ht => soundIn_some (ht.keep (by rfl))))

theorem sound_execSelfTestRecordRead : soundOut (execSelfTestRecordRead s) := soundOut_next hs.replyWith

theorem sound_execScoresRead : soundOut (execScoresRead s) := by
  unfold execScoresRead
  dsimp only
  exact soundOut_next hs.replyWith

theorem sound_execLeaseRecordsRead : soundOut (execLeaseRecordsRead s) := soundOut_next hs.replyWith

theorem sound_execRetirementStoreRead : soundOut (execRetirementStoreRead s) := soundOut_next hs.replyWith

theorem sound_execIslandClocksRead : soundOut (execIslandClocksRead s) := by
  unfold execIslandClocksRead
  dsimp only
  exact soundOut_next (hs.keep (by rfl)).replyWith

theorem sound_execCerts : soundOut (execCerts s) := soundOut_next hs.replyWith

theorem sound_execQuote {nonce} : soundOut (execQuote nonce s) := soundOut_next (hs.keep (by rfl)).replyWith

theorem sound_execClockBinMove {c bin} : soundOut (execClockBinMove c bin s) := by
  unfold execClockBinMove
  refine soundOut_next ?_
  split
  · exact hs
  · exact hs.keep rfl

theorem sound_execSample {c} : soundOut (execSample c s) := by
  unfold execSample
  dsimp only
  refine soundOut_next ?_
  split
  · exact hs.trace
  · exact hs

/-! ## The X slot -/

theorem State.sound.deliverTriple {lat vd mask l} : (s.deliverTriple lat vd mask l).sound := hs.foldl fun _ _ ht => ht.deliverR

theorem sound_execRlxb {vd va vb p} : soundOut (execRlxb vd va vb p s) := by
  unfold execRlxb
  dsimp only
  exact soundOut_next (hs.compute (fun _ ht => ht.deliverTriple))

theorem sound_execRlx {vd vl p fs ut ta ar} : soundOut (execRlx vd vl p fs ut ta ar s) := by
  unfold execRlx
  dsimp only
  refine soundOut_ite ?_ ?_
  · exact soundOut_next hs.blockBehind
  · refine soundOut_next ?_
    refine hs.operate (fun _ _ ht => ?_)
    refine State.sound.foldl ?_ fun _ _ hu => ?_
    · refine State.sound.consume ?_
      split
      · exact ht.accessed
      · exact ht
    · exact hu.deliverR

/-! ## The tile engine -/

omit hs in
theorem State.sound.atIssue {t f} (ht : t.sound) (hf : ∀ u, u.sound → (f u).sound) : (s.atIssue t f).sound := by
  unfold State.atIssue
  split
  · exact ht
  · exact hf t ht

theorem State.sound.countSeq {ac due f} : (s.countSeq ac due f).sound := hs.mapCx

theorem State.sound.stream {ac st rc0 ebInv poison lat l} : (s.stream ac st rc0 ebInv poison lat l).sound :=
  hs.mapCx.consume.deliverR

theorem State.sound.streamIssued {ac p bks lat} : (s.streamIssued ac p bks lat).sound :=
  (hs.foldl fun _ _ ht => ht.mapCore).countSeq

theorem State.sound.mmaOp {i pair ac k enc data eb rows} : soundOut (s.mmaOp i pair ac k enc data eb rows) :=
  soundOut_next ((hs.operate (fun _ _ ht => ht.stream)).atIssue (fun _ ht => ht.streamIssued))

theorem sound_execMma {pair ac v km eb} : soundOut (execMma pair ac v km eb s) := by
  unfold execMma
  dsimp only
  exact hs.mmaOp

theorem sound_execMmaE {pair ac v km} : soundOut (execMmaE pair ac v km s) := by
  unfold execMmaE
  dsimp only
  exact hs.mmaOp

theorem sound_execMmaD {pair ac v km} : soundOut (execMmaD pair ac v km s) := hs.mmaOp

theorem State.sound.readsAt {ps} : (s.readsAt ps).sound := hs.readErrors

theorem sound_execMmas {ac a b c rc0 nm pair mode rot rg h rn} :
    soundOut (execMmas ac a b c rc0 nm pair mode rot rg h rn s) := by
  unfold execMmas
  dsimp only
  refine soundOut_next ?_
  refine State.sound.atIssue ?_ (fun _ ht => ht.streamIssued)
  refine hs.operate (fun _ _ ht => ?_)
  refine ht.implicitWait (fun _ hu => ?_)
  refine State.sound.stream ?_
  refine State.sound.readsAt ?_
  split
  · exact hu.joinRing
  · exact hu

theorem sound_execWld {bk ty a} : soundOut (execWld bk ty a s) := by
  unfold execWld
  dsimp only
  refine soundOut_next ?_
  refine State.sound.atIssue ?_ (fun _ ht => ht.mapCore)
  refine hs.operate (fun _ _ ht => ?_)
  split
  · exact ht.slipIn
  · exact ht.readsAt.mapCore.consume.deliverR

theorem sound_execWswap : soundOut (execWswap s) :=
  soundOut_next ((hs.operate (fun _ _ ht => ht)).atIssue (fun _ ht => ht.mapCore))

theorem sound_execAclr {ac} : soundOut (execAclr ac s) :=
  soundOut_next ((hs.operate (fun _ _ ht => ht.mapCx)).atIssue (fun _ ht => ht.countSeq))

theorem sound_execAdrn {ac v nr} : soundOut (execAdrn ac v nr s) := by
  unfold execAdrn
  dsimp only
  exact soundOut_next ((hs.operate (fun _ _ ht => (ht.foldl fun _ _ hu => hu.deliver).mapCx)).atIssue (fun _ ht => ht.countSeq))

theorem sound_execAdrnC {ac v nr} : soundOut (execAdrnC ac v nr s) := by
  unfold execAdrnC
  dsimp only
  refine soundOut_next ?_
  refine State.sound.atIssue ?_ (fun _ ht => ht.countSeq)
  refine hs.operate (fun _ _ ht => ?_)
  split
  · exact ht.deliver
  · exact ht.deliver.deliver

theorem sound_execAst {ac a} : soundOut (execAst ac a s) :=
  soundOut_next ((hs.operate (fun _ _ ht => ht.putWide.wakeOn)).atIssue (fun _ ht => ht.countSeq))

theorem sound_execAqry {d ac} : soundOut (execAqry d ac s) := by
  unfold execAqry
  dsimp only
  exact soundOut_next ((hs.operate (fun _ _ ht => ht.deliverS)).atIssue (fun _ ht => ht.countSeq))

end

end Sys2Proof.Machine
end

section
/-!
O6: every instruction and every step keep the canonical form of memory (spec/05 R123, R150).
-/
namespace Sys2Proof.Machine

section
variable {s : State} (hs : s.sound)
include hs

/-- Every instruction and every event of another agent keeps the canonical form of memory. -/
theorem sound_exec (i : Instr) : soundOut (exec i s) := by
  unfold exec
  split
  exacts [sound_execNop hs, sound_execBr hs, sound_execJmp hs, sound_execJmpr hs, sound_execCall hs, sound_execRet hs,
    sound_execLoop hs, sound_execLoopi hs, sound_execLbrk hs, sound_execLstr hs, sound_execGate hs, sound_execHalt hs,
    sound_execTrap hs, sound_execTret hs, sound_execSleep hs, sound_execYield hs, sound_execWaitf hs, sound_execCregOpen hs,
    sound_execCregClose hs, sound_execChkerr hs, sound_execCmpt hs, sound_execCapack hs, sound_execJmpl hs, sound_execAdd hs,
    sound_execSub hs, sound_execAnd hs, sound_execOr hs, sound_execXor hs, sound_execAndn hs, sound_execOrn hs,
    sound_execXnor hs, sound_execShl hs, sound_execShr hs, sound_execSar hs, sound_execRol hs, sound_execSeq hs,
    sound_execSne hs, sound_execSlt hs, sound_execSle hs, sound_execSltw hs, sound_execSlew hs, sound_execMin hs,
    sound_execMax hs, sound_execMinw hs, sound_execMaxw hs, sound_execMul hs, sound_execMulh hs, sound_execMulhw hs,
    sound_execDiv hs, sound_execDivw hs, sound_execRem hs, sound_execRemw hs, sound_execPopc hs, sound_execClz hs,
    sound_execCtz hs, sound_execBrev hs, sound_execBswap hs, sound_execBfx hs, sound_execBfi hs, sound_execSel hs,
    sound_execLea hs, sound_execAddi hs, sound_execAndi hs, sound_execOri hs, sound_execXori hs, sound_execSlti hs,
    sound_execShli hs, sound_execShri hs, sound_execSari hs, sound_execMovi hs, sound_execMovhi hs, sound_execLi48 hs,
    sound_execFadd hs, sound_execFsub hs, sound_execFmul hs, sound_execFfma hs, sound_execFmin hs, sound_execFmax hs,
    sound_execFcmp hs, sound_execFcvt hs, sound_execFdiv hs, sound_execFsqrt hs, sound_execMfc hs, sound_execMtc hs,
    sound_execBcast hs, sound_execRdclk hs, sound_execLd hs, sound_execLdRing hs, sound_execSt hs, sound_execStRing hs,
    sound_execVld hs, sound_execVldRing hs, sound_execVst hs, sound_execVstRing hs, sound_execVlds hs, sound_execVsts hs,
    sound_execGath hs, sound_execScat hs, sound_execLdf hs, sound_execLdfEmpty hs, sound_execSte hs, sound_execFetag hs,
    sound_execFetagSet hs, sound_execRdef hs, sound_execAdvp hs, sound_execAdvc hs, sound_execRqry hs, sound_execCopy hs,
    sound_execCpqry hs, sound_execAtom hs, sound_execRedo hs, sound_execRed hs, sound_execBararr hs, sound_execBarwait hs,
    sound_execBaraw hs, sound_execBarinit hs, sound_execEvsig hs, sound_execEvwait hs, sound_execFence hs,
    sound_execPhase hs, sound_execPhend hs, sound_execDgst hs, sound_execPref hs, sound_execSymNew hs, sound_execSymSig hs,
    sound_execSymQry hs, sound_execSymRel hs, sound_execCond hs, sound_execCondQry hs, sound_execVadd hs, sound_execVsub hs,
    sound_execVmul hs, sound_execVfma hs, sound_execVfms hs, sound_execVmin hs, sound_execVmax hs, sound_execVabs hs,
    sound_execVneg hs, sound_execVcmp hs, sound_execVsel hs, sound_execVand hs, sound_execVor hs, sound_execVxor hs,
    sound_execVandn hs, sound_execVshl hs, sound_execVshr hs, sound_execVsar hs, sound_execViadd hs, sound_execVisub hs,
    sound_execVimul hs, sound_execVcvt hs, sound_execVqnt hs, sound_execVdqnt hs, sound_execVred hs, sound_execVpart hs,
    sound_execVperm hs, sound_execVmov hs, sound_execVfn hs, sound_execVidx hs, sound_execVcnt hs, sound_execRlxb hs,
    sound_execRlx hs, sound_execVabsacc hs, sound_execVcmpt hs, sound_execPand hs, sound_execPor hs, sound_execPxor hs,
    sound_execPnot hs, sound_execMma hs, sound_execMmaE hs, sound_execMmas hs, sound_execWld hs, sound_execWswap hs,
    sound_execAclr hs, sound_execAdrn hs, sound_execAdrnC hs, sound_execAst hs, sound_execMmaD hs, sound_execAqry hs,
    sound_execSend hs, sound_execRecv hs, sound_execRecva hs, sound_execRecvm hs, sound_execSends hs, sound_execRecvs hs,
    sound_execXqry hs, sound_execXpost hs, sound_execXcanc hs, sound_execBundleDecodeFailure hs,
    sound_execSegmentExpansion hs, sound_execFetchFault hs, sound_execFpx hs, sound_execPmiss hs, sound_execSwt hs,
    sound_execCapc hs, sound_execContainmentUnwinding hs, sound_execPendingValueArrival hs, sound_execSlipBufferRelease hs,
    sound_execContextSwitch hs, sound_execWaitExpiry hs, sound_execSleepWake hs, sound_execTaskStart hs,
    sound_execTaskRetirement hs, sound_execCopyAcceptance hs, sound_execCopyCompletion hs, sound_execLateFault hs,
    sound_execReductionAcceptance hs, sound_execReductionApplication hs, sound_execPhaseBookkeeping hs,
    sound_execSignificanceContribution hs, sound_execReferenceUpdate hs, sound_execCondensation hs, sound_execSendArrival hs,
    sound_execOmnibusStep hs, sound_execEarlyArrival hs, sound_execInstanceTimeout hs, sound_execPeer hs,
    sound_execCollectiveCompletion hs, sound_execCancellationReport hs, sound_execTail hs, sound_execCancelDoorbell hs,
    sound_execAdmission hs, sound_execHoldTest hs, sound_execAging hs, sound_execPreemption hs, sound_execRegionResume hs,
    sound_execLaunchEnd hs, sound_execTeardown hs, sound_execTinv hs, sound_execInvalidationCompletion hs,
    sound_execRetry hs, sound_execDecline hs, sound_execRegisterWrite hs, sound_execBar4Read hs, sound_execBar4Write hs,
    sound_execCompletionTimeout hs, sound_execMdpw hs, sound_execPatrolScrubbing hs, sound_execStepDigest hs,
    sound_execCoreLease hs, sound_execLinkPortLease hs, sound_execMemoryChannelLease hs, sound_execForcedLease hs,
    sound_execLeaseEnd hs, sound_execHourlyHalving hs, sound_execCapcRecord hs, sound_execIdle hs, sound_execReq hs,
    sound_execData hs, sound_execRsp hs, sound_execCred hs, sound_execHold hs, sound_execResume hs, sound_execEpa hs,
    sound_execErr hs, sound_execReplay hs, sound_execComputeDomainReset hs, sound_execPorchDomainReset hs, sound_execPowerOn,
    sound_execClockBinMove hs, sound_execSample hs, sound_execRegisterPartition hs, sound_execDeregisterPartition hs,
    sound_execAccessTableEntry hs, sound_execLeaseConfiguration hs, sound_execTraceConfiguration hs,
    sound_execPreemptRegion hs, sound_execNoticeMode hs, sound_execCommit hs, sound_execSelfTestRecordRead hs,
    sound_execScoresRead hs, sound_execLeaseRecordsRead hs, sound_execRetirementStoreRead hs, sound_execIslandClocksRead hs,
    sound_execCerts hs, sound_execQuote hs, sound_execDeviceReset, sound_execFlitCrcFailure hs, sound_execDiscardedFlit hs,
    sound_execLossOfLock hs, sound_execComputeDomainBringUp hs, sound_execPorchUp hs]

theorem sound_stepWith {exec} (hexec : ∀ i t, t.sound → soundOut (exec i t)) : soundOut (stepWith exec s) := by
  unfold stepWith
  dsimp only
  split
  · exact hexec _ _ (hs.tick.settle.keep (by rfl))
  · split
    · exact hexec _ _ (hs.tick.keep (by rfl))
    · exact sound_coreTurn (hs.tick.keep (by rfl)) hexec

end

/-- Settles O6: what a step runs is an instruction, an event or a turn of a core, and each keeps the canonical form. -/
theorem memoryStaysCanonical : Obligations.MemoryStaysCanonical := by
  unfold Obligations.MemoryStaysCanonical
  intro s s' hs hstep
  exact sound_stepWith (State.sound.engines hs) (fun i _ ht => sound_exec ht i) s' hstep

end Sys2Proof.Machine
end

section
/-!
O28: fences, the phases of exact mode, and the digest (spec/06 R171; spec/10 R292 to R296).
-/
namespace Sys2Proof.Machine

/-- Nothing waits in the slot of an instruction that issues (R96). -/
theorem slotSlip_of_issues {s : State} {l : List Src} (h : s.issues l) : s.cx.slotSlip s.env.pos = [] := by
  obtain ⟨-, -, hslot, -⟩ := h
  exact hslot

/-! ## Fences (R171, R292) -/

/-- The bits that a fold sets are those of the numbers that pass its test. -/
theorem getLsbD_foldl_range (p : Nat → Bool) (n k : Nat) (hk : k < 8) :
    ((List.range n).foldl (fun (m : BitVec 8) i => if p i then m ||| (1#8 <<< i) else m) 0).getLsbD k =
      (decide (k < n) && p k) := by
  induction n with
  | zero => simp
  | succ n ih =>
    rw [List.range_succ, List.foldl_append, List.foldl_cons, List.foldl_nil]
    generalize List.foldl _ _ (List.range n) = m at ih ⊢
    by_cases hkn : k = n
    · subst hkn
      have hmk : m.getLsbD k = false := by simpa using ih
      cases hp : p k
      · simpa using hmk
      · simp [hk]
    · have hlt : decide (k < n + 1) = decide (k < n) := decide_eq_decide.mpr (by omega)
      have hbit : (1#8 <<< n).getLsbD k = false := by
        simp only [BitVec.getLsbD_shiftLeft, BitVec.getLsbD_one]
        by_cases h : k < n
        · simp [h]
        · simp [show k - n ≠ 0 by omega]
      rw [hlt, ← ih]
      split
      · rw [BitVec.getLsbD_or, hbit, Bool.or_false]
      · rfl

theorem getLsbD_fenceCls (s : State) (mask : BitVec 8) {k : Nat} (hk : k < 8) :
    (s.fenceCls mask).getLsbD k = (mask.getLsbD k && s.classEnded k) := by
  rw [State.fenceCls, getLsbD_foldl_range (fun k => mask.getLsbD k && s.classEnded k) 8 k hk]
  simp [hk]

/-- A fence has ended when every class that it names has. -/
theorem fenceCls_eq_mask (s : State) (mask : BitVec 8) :
    s.fenceCls mask = mask ↔ ∀ k, k < 8 → mask.getLsbD k = true → s.classEnded k = true := by
  constructor
  · intro h k hk hbit
    have hcls := getLsbD_fenceCls s mask hk
    rw [h, hbit] at hcls
    simpa using hcls.symm
  · intro h
    refine BitVec.eq_of_getLsbD_eq (fun k hk => ?_)
    rw [getLsbD_fenceCls s mask hk]
    cases hbit : mask.getLsbD k
    · rfl
    · rw [h k hk hbit]; rfl

/-- A wait of a bundle's instruction that names a status register ends with its status and WST (R119, R270). -/
theorem finishStatus_of_bundle {s : State} (h : s.env.slipped = none) (d : SReg) (st : WaitSt) (cls : BitVec 8) :
    s.finishStatus d st cls =
      (s.gainsWord 6 d (BitVec.ofNat 64 st.code)).gainsValue 6 .wait (ofWord (wstBits st cls s.env.pos)) := by
  rw [State.finishStatus, deliverS_of_bundle h]
  exact deliver_of_bundle (s := s.gainsWord 6 d (BitVec.ofNat 64 st.code)) h ..

theorem joinFence_env {s : State} (h : s.env.slipped = none) (cls : BitVec 8) : (s.joinFence cls).env = s.env := by
  unfold State.joinFence
  split
  · exact joinCopies_env h ..
  · rfl

theorem joinFence_finishes {s : State} (h : s.env.slipped = none) (mask cls : BitVec 8) (d : SReg) (st : WaitSt) :
    (s.joinFence mask).finishStatus d st cls =
      ((s.joinFence mask).gainsWord 6 d (BitVec.ofNat 64 st.code)).gainsValue 6 .wait (ofWord (wstBits st cls s.env.pos)) := by
  have henv := joinFence_env h mask
  rw [finishStatus_of_bundle ((congrArg Env.slipped henv).trans h), henv]

/-- fence as its slot issues it. -/
def fenceShape (d lim : SReg) (mask : BitVec 8) : Shape :=
  ⟨.fence d lim mask, [.s lim], [], [(.s d, 6), (.wait, 6), (.none, 1)], false, 0⟩

section
variable {s : State} {d lim : SReg} {mask : BitVec 8} (h : s.issuesInOrder (.fence d lim mask) [.s lim])
include h

theorem exec_fence : exec (.fence d lim mask) s = .next
    (s.explicitWait (fenceShape d lim mask) [] (s.cx.rs lim) none (s.fenceCls mask == mask)
      (fun u => (u.joinFence mask).finishStatus d .ok 0)
      (fun u => (u.joinFence (s.fenceCls mask)).finishStatus d .partly (s.fenceCls mask))) := by
  rw [← rs_of_bundle (issuesInOrder_slipped h)]
  exact congrArg Host.Outcome.next (operate_ok (sh := fenceShape d lim mask) h.1 h.2)

theorem fence_ends (hall : ∀ k, k < 8 → mask.getLsbD k = true → s.classEnded k = true) :
    exec (.fence d lim mask) s = .next ((s.joinFence mask).endsWait d .ok) := by
  have hcls : (s.fenceCls mask == mask) = true := by simpa using (fenceCls_eq_mask s mask).mpr hall
  have hb := issuesInOrder_slipped h
  rw [exec_fence h, explicitWait_ends _ _ _ _ _ hb hcls rfl, joinFence_finishes hb, ← joinFence_env hb mask]
  rfl

section
variable {k : Nat} (hk : k < 8) (hbit : mask.getLsbD k = true) (hopen : s.classEnded k = false)
include hk hbit hopen

omit h in
theorem fence_open : (s.fenceCls mask == mask) = false := by
  have hne : s.fenceCls mask ≠ mask := fun heq => by
    have := (fenceCls_eq_mask s mask).mp heq k hk hbit
    rw [hopen] at this
    cases this
  simpa using hne

theorem fence_waits (hl : s.mayWait (s.cx.rs lim)) :
    ∃ t : State, exec (.fence d lim mask) s = .next t ∧ s.waitsUnder t (.fence d lim mask) (s.cx.rs lim) := by
  refine ⟨_, ?_, waitsUnder_slipIn (fenceShape d lim mask) [] (s.cx.rs lim) none (slotSlip_of_issues h.1)⟩
  rw [exec_fence h, explicitWait_waits _ _ _ _ _ (issuesInOrder_slipped h) hl (by rw [fence_open hk hbit hopen]; rfl)]

theorem fence_partly (hl : ¬ s.mayWait (s.cx.rs lim)) :
    exec (.fence d lim mask) s = .next (((s.joinFence (s.fenceCls mask)).gainsWord 6 d 3).gainsValue 6 .wait
      (ofWord (wstBits .partly (s.fenceCls mask) s.env.pos))) := by
  have hb := issuesInOrder_slipped h
  rw [exec_fence h, explicitWait_expires _ _ _ _ hb hl (by rw [fence_open hk hbit hopen]; rfl), joinFence_finishes hb]
  rfl

end
end

/-! ## Exact-mode phases (R293 to R295) -/

/-- The phases, the next number, the contexts and the environment. -/
def State.phaseView (s : State) : List Phase × Nat × Vector Ctx 2048 × Env := (s.phases, s.nextId, s.ctxs, s.env)

theorem of_phaseView {s t : State} (h : t.phaseView = s.phaseView) :
    t.phases = s.phases ∧ t.nextId = s.nextId ∧ t.ctxs = s.ctxs ∧ t.env = s.env := by
  simpa only [State.phaseView, Prod.mk.injEq] using h

theorem phaseView_noteTlb (s : State) (core : CoreId) (r : Reader) : (s.noteTlb core r).phaseView = s.phaseView := by
  unfold State.noteTlb
  split
  · rfl
  · dsimp only
    split <;> rfl

theorem phaseView_noteAccess (s : State) (sp : Space) (va : Word) (n : Nat) : (s.noteAccess sp va n).phaseView = s.phaseView := by
  cases sp
  case glob => exact foldl_keeps State.phaseView (fun _ _ => phaseView_noteTlb ..) _ s
  all_goals rfl

theorem phaseView_reading (s : State) (a : Access) (va : Word) (tc : List Touch) : (s.reading a va tc).phaseView = s.phaseView := by
  unfold State.reading State.accessed
  split <;> rfl

/-- The phase that the task in the environment opens (R293, R294). -/
def State.newPhase (s : State) (bk : Nat) (rd wr : List (Nat × Range)) : Phase :=
  { id := s.nextId, cid := s.env.cid, serial := (s.cx.task.map (·.serial)).getD 0, cluster := s.myCore.cluster,
    launch := (s.cx.task.map (·.launch)).getD 0, barrier := bk, rd := rd, wr := wr, isOpen := true, closed := 0 }

/-- A phase of the issuing context is registered and open (R294). -/
def State.withPhase (s : State) (p : Phase) : State :=
  ({ s with nextId := s.nextId + 1, phases := s.phases ++ [p] } : State).mapCx (fun x => { x with phase := some p.id, redSeq := 0 })

section
variable {s : State} {sp : Space} {ba : SOpd} {tc : List Touch} {bk : Nat} {rd wr : List (Nat × Range)}

/-- A phase whose record is sound opens in an EXACT region, and is an access to its record alone in every other (R294). -/
theorem exec_phase (h : s.issuesInOrder (.phase sp ba) (SOpd.src ba)) (hframe : s.frameOut sp (s.operandS ba) = false)
    (hc : s.checkAccess sp .read 0 1 (s.operandS ba) 1088 64 = .ok tc)
    (hr : (s.reading .read (s.operandS ba) tc).checkRecord ((s.reading .read (s.operandS ba) tc).valueAt tc) = .ok (bk, rd, wr)) :
    let u := (s.reading .read (s.operandS ba) tc).noteAccess sp (s.operandS ba) 1088
    exec (.phase sp ba) s = .next (if s.isExact s.env.cid then u.withPhase (s.newPhase bk rd wr) else u) := by
  intro u
  obtain ⟨⟨hb, hneeds, hslot, -⟩, horder⟩ := h
  obtain ⟨-, hid, -⟩ := of_phaseView (t := u) ((phaseView_noteAccess ..).trans (phaseView_reading s .read (s.operandS ba) tc))
  have hr' : (s.accessed .read (s.operandS ba) (piecesOf tc)).checkRecord
      (leNat ((s.accessed .read (s.operandS ba) (piecesOf tc)).piecesBytes (piecesOf tc))) = .ok (bk, rd, wr) := hr
  show execPhase sp ba s = _
  unfold execPhase
  dsimp only
  rw [rso_of_bundle hb, if_neg (by simp [hneeds]), if_neg (by simp [hframe]), if_neg (by simp [hslot, horder]), hc]
  dsimp only
  rw [hr']
  dsimp only
  rw [show s.newPhase bk rd wr = { s.newPhase bk rd wr with id := u.nextId } from by rw [hid]; rfl]
  split <;> rfl

theorem phase_opens (h : s.issuesInOrder (.phase sp ba) (SOpd.src ba)) (hframe : s.frameOut sp (s.operandS ba) = false)
    (hc : s.checkAccess sp .read 0 1 (s.operandS ba) 1088 64 = .ok tc)
    (hr : (s.reading .read (s.operandS ba) tc).checkRecord ((s.reading .read (s.operandS ba) tc).valueAt tc) = .ok (bk, rd, wr)) :
    ∃ t : State, exec (.phase sp ba) s = .next t ∧
      t.mem = ((s.reading .read (s.operandS ba) tc).noteAccess sp (s.operandS ba) 1088).mem ∧
      (s.isExact s.env.cid = false → t.phases = s.phases ∧ t.cx = s.cx) ∧
      (s.isExact s.env.cid = true → t.cx = { s.cx with phase := some s.nextId, redSeq := 0 } ∧
        ∃ p : Phase, t.phases = s.phases ++ [p] ∧ p.id = s.nextId ∧ p.cid = s.env.cid ∧ p.barrier = bk ∧ p.rd = rd ∧
          p.wr = wr ∧ p.isOpen = true) := by
  have hexec : exec (.phase sp ba) s = .next _ := exec_phase h hframe hc hr
  generalize hu : (s.reading .read (s.operandS ba) tc).noteAccess sp (s.operandS ba) 1088 = u at hexec ⊢
  have hview : u.phaseView = s.phaseView := by rw [← hu]; exact (phaseView_noteAccess ..).trans (phaseView_reading ..)
  obtain ⟨hphases, -, hctxs, henv⟩ := of_phaseView hview
  have hcx : u.cx = s.cx := cx_congr hctxs henv
  cases hexact : s.isExact s.env.cid
  · rw [hexact, if_neg nofun] at hexec
    exact ⟨u, hexec, rfl, fun _ => ⟨hphases, hcx⟩, nofun⟩
  · rw [hexact, if_pos rfl] at hexec
    refine ⟨_, hexec, rfl, nofun, fun _ => ⟨?_, s.newPhase bk rd wr, ?_, rfl, rfl, rfl, rfl, rfl, rfl⟩⟩
    · rw [← hcx]
      exact cx_mapCx ..
    · rw [← hphases]
      rfl

end

/-- phend without an open phase is an error (R295). -/
theorem phend_traps {s : State} (h : s.issuesInOrder .phend []) (hnone : s.cx.phaseNow = none) :
    exec .phend s = .next (s.traps .phend .ill 0 0) := by
  show Host.Outcome.next (s.operate ⟨.phend, [], [], [], false, 0⟩ (checkThat s.cx.phaseNow.isSome ⟨.ill, 0, 0⟩) _) = _
  rw [hnone]
  obtain ⟨⟨hb, hneeds, -⟩, -⟩ := h
  exact congrArg Host.Outcome.next (operate_error hb hneeds)

theorem phaseNow_of_open {x : Ctx} {id : Nat} (hid : x.phase = some id) (hslip : ∀ e ∈ x.slip, e.ins.instr ≠ .phend) :
    x.phaseNow = some id := by
  have hnone : x.slip.any (fun e => e.ins.instr == .phend) = false :=
    List.any_eq_false.mpr (fun e he => by simpa using hslip e he)
  simp [Ctx.phaseNow, hnone, hid]

/-- A phase when the one with a number closes (R295). -/
def Phase.closing (id : Nat) (ctm : Word) (p : Phase) : Phase := if p.id = id then { p with isOpen := false, closed := ctm } else p

theorem closing_closes {id : Nat} {ctm : Word} {p : Phase} (hid : (p.closing id ctm).id = id) : (p.closing id ctm).isOpen = false := by
  unfold Phase.closing at hid ⊢
  split at hid
  · rw [if_pos ‹_›]
  · exact absurd hid ‹_›

/-- The phase with a number closes, and the issuing context has none (R295). -/
def State.closesPhase (s : State) (id : Nat) : State :=
  ({ s with phases := s.phases.map (fun p => p.closing id s.env.ctm) } : State).mapCx (fun x => { x with phase := none })

theorem closePhase_of_open {s : State} {id : Nat} (hid : s.cx.phase = some id) :
    s.closePhase s.env.cid s.env.ctm = s.closesPhase id := by
  unfold State.closePhase
  rw [show (s.ctx s.env.cid).phase = some id from hid]
  rfl

/-- phend closes the open phase of its context (R295). -/
theorem phend_closes {s : State} (h : s.issuesInOrder .phend []) {id : Nat} (hid : s.cx.phase = some id)
    (hslip : ∀ e ∈ s.cx.slip, e.ins.instr ≠ .phend) :
    ∃ t : State, exec .phend s = .next t ∧ t.mem = s.mem ∧ t.cx = { s.cx with phase := none } ∧
      ∀ p ∈ t.phases, p.id = id → p.isOpen = false := by
  refine ⟨s.closesPhase id, ?_, rfl, cx_mapCx .., fun p hp hpid => ?_⟩
  · show Host.Outcome.next (s.operate ⟨.phend, [], [], [], false, 0⟩ (checkThat s.cx.phaseNow.isSome ⟨.ill, 0, 0⟩) _) = _
    rw [phaseNow_of_open hid hslip, ← closePhase_of_open hid]
    exact congrArg Host.Outcome.next (operate_ok (sh := ⟨.phend, [], [], [], false, 0⟩) h.1 h.2)
  · obtain ⟨q, -, rfl⟩ := List.mem_map.mp hp
    exact closing_closes hpid

/-! ## The digest (R296) -/

theorem noteIssue_env (t s : State) (sp : Space) (va : Word) (n : Nat) : (t.noteIssue s sp va n).env = t.env := by
  unfold State.noteIssue
  split
  · rfl
  · obtain ⟨-, -, -, henv⟩ := of_phaseView (phaseView_noteAccess t sp va n)
    exact henv

theorem accessDone_env (s t : State) (sp : Space) (va : Word) (n : Nat) (tc : List Touch) :
    (s.accessDone sp va n tc t).env = t.env := (noteIssue_env ..).trans (markHost_env ..)

/-- A digested store acts as a store, and its address and value are folded into DGA (R296). -/
theorem dgst_reaches {s : State} {sp : Space} {ba : SOpd} {a : SReg} {key : Nat} (hs : s.sound)
    (h : s.issuesInOrder (.dgst sp ba a) (.s a :: SOpd.src ba)) (hu : s.unraised)
    (hr : s.reaches sp .write (s.operandS ba) 8 8 [⟨true, key, 8⟩]) :
    ∃ t : State, exec (.dgst sp ba a) s =
        .next ((s.accessDone sp (s.operandS ba) 8 [⟨true, key, 8⟩] t).gainsValue 1 (.ctl .dga)
        (ofWord (dgaFold s.cx.ctl.dga (leBytes 8 (s.operandS ba).toNat ++ leBytes 8 (s.cx.rs a).toNat)))) ∧
      t.natAt key 8 = (s.cx.rs a).toNat ∧ sameOutside s t key 8 ∧ t.cx.results = s.cx.results := by
  have hb := issuesInOrder_slipped h
  let va := s.operandS ba
  let tc : List Touch := [⟨true, key, 8⟩]
  let bs := leBytes 8 (s.cx.rs a).toNat
  let t := s.storeAt va tc bs
  have hmem : t.mem = (s.putNat key 8 (s.cx.rs a).toNat).mem := by
    rw [show t.mem = _ from storeAt_mem ..]
    simp only [tc, bs, piecesOf, List.map_cons, List.map_nil, State.putPieces,
      List.take_of_length_le (Nat.le_of_eq (length_leBytes 8 _))]
    rfl
  obtain ⟨-, -, -, -, -, -, hresults, -⟩ := storeAt_frame s va tc bs
  have htenv : t.env = s.env := (storeAt_samples s va tc bs).env.trans ((storesOnly_putPieces ..).keeps State.env rfl)
  have hdenv : (s.accessDone sp va 8 tc t).env = s.env := (accessDone_env ..).trans htenv
  refine ⟨t, ?_, ?_, fun k hk => ?_, hresults⟩
  · show execDgst sp ba a s = _
    unfold execDgst
    dsimp only
    rw [rso_of_bundle hb, memOp_reaches _ (by simpa using h.1) h.2 hr, rs_of_bundle hb]
    have hacts : s.accessDone sp va 8 tc ((s.reading .write va tc).storeAt va tc (leBytes 8 ((s.reading .write va tc).rs a).toNat)) =
        s.accessDone sp va 8 tc t := by
      show s.accessDone sp va 8 tc (s.storeAt va tc (leBytes 8 (s.rs a).toNat)) = _
      rw [rs_of_bundle hb]
    dsimp only
    rw [hacts, if_neg (by rw [hdenv, hb, hu.1, hu.2]; simp)]
    exact congrArg Host.Outcome.next (deliver_of_bundle ((congrArg Env.slipped hdenv).trans hb) ..)
  · rw [show t.natAt key 8 = (s.putNat key 8 (s.cx.rs a).toNat).natAt key 8 from natAt_congr (fun k _ _ => by rw [hmem]),
      natAt_putNat hs]
    exact Nat.mod_eq_of_lt (s.cx.rs a).isLt
  · rw [hmem]
    exact sameOutside_putNat hs key 8 _ k hk

/-- Settles O28: fences by the classes that have ended, phases by what they register, the digest as a store and a result. -/
theorem fencesPhasesAndDigest : Obligations.FencesPhasesAndDigest := by
  unfold Obligations.FencesPhasesAndDigest
  refine ⟨fun s d lim mask h =>
      ⟨fence_ends h, fun k hk hbit hopen => ⟨fence_waits h hk hbit hopen, fence_partly h hk hbit hopen⟩⟩,
    ?_,
    fun s h => ⟨phend_traps h, fun id hid hslip => phend_closes h hid hslip⟩,
    fun s sp ba a key hs h hu hr => dgst_reaches hs h hu hr⟩
  intro s sp ba tc bk rd wr h hframe hc u hr
  exact phase_opens h hframe hc hr

end Sys2Proof.Machine
end

section
/-!
O33: returning atomics (spec/06 R157; spec/10 R285).
-/
namespace Sys2Proof.Machine

/-! ## What the new value is (R285) -/

theorem atomApply_values (w old v e : Nat) (rm : RMode) :
    (atomApply .add w rm old v e).1 = (old + v) % 2 ^ (8 * w) ∧ (atomApply .and w rm old v e).1 = old &&& v ∧
    (atomApply .or w rm old v e).1 = old ||| v ∧ (atomApply .xor w rm old v e).1 = old ^^^ v ∧
    (atomApply .exch w rm old v e).1 = v ∧ (atomApply .cas w rm old v e).1 = (if old = e then v else old) ∧
    (atomApply .minw w rm old v e).1 = min old v ∧ (atomApply .maxw w rm old v e).1 = max old v := by
  refine ⟨rfl, rfl, rfl, rfl, rfl, rfl, ?_, ?_⟩
  · show (if v < old then v else old) = min old v
    split <;> omega
  · show (if old < v then v else old) = max old v
    split <;> omega

/-- s[d] of an atom is the old value, extended (R285). -/
theorem atomResult_eq_extended {f : Fmt} {v : Nat} (h : v < 2 ^ (8 * f.bytes)) :
    atomResult f v = if f = .i32 then extended .i32 v else BitVec.ofNat 64 v := by
  unfold atomResult
  split
  · subst f
    exact extScalar_eq_extended h
  · rfl

/-! ## The access (R157, R285) -/

/-- The result of an atom: the old value, which arrives later (R285). -/
def atomAnswer (op : AtomOp) (d : SReg) (f : Fmt) (old : Nat) (fl : Flags) (preg : Bool) : Result :=
  { Result.base with
    dest := .s d, val := ofWord (atomResult f old), arrived := false, flags := fl, preg := preg, mayFlag := op == .fadd }

/-- An atom at the storage that its checks fixed: a new value stands in memory, poison of the old one is consumed, and waits and
samples follow as after a store (R149, R157, R177, R290). -/
def State.replaces (s : State) (va : Word) (tc : List Touch) (n new : Nat) : State :=
  (((s.consume (s.poisoned (keyOf tc) n)).1.putNat (keyOf tc) n new).wakeOn (piecesOf tc)).sampleWrites s.cx.phase (withVa va tc)

theorem replaces_samples (s : State) (va : Word) (tc : List Touch) (n new : Nat) :
    SamplesOnly (((s.consume (s.poisoned (keyOf tc) n)).1.putNat (keyOf tc) n new).wakeOn (piecesOf tc)) (s.replaces va tc n new) :=
  samplesOnly_sampleWrites ..

/-- Poison inside a containment region unwinds the bundle, and is counted nowhere else (R252, R451). -/
theorem consume_counts (s : State) (poison : Bool) :
    (s.consume poison).2 = (poison && decide (s.cx.cregs = [])) ∧
    (poison = true → s.cx.cregs ≠ [] → (s.consume poison).1.cx.unwind.isSome = true) := by
  unfold State.consume
  by_cases hc : s.cx.cregs = []
  · simp [hc]
  · cases poison
    · simp [hc]
    · simp [hc, cx_mapCx]

/-- An atom writes its new value over the old one and no other byte, and leaves what records its context's results (R157). -/
theorem replaces_leaves {s : State} (hs : s.sound) (va : Word) (tc : List Touch) (n new : Nat) :
    let t := s.replaces va tc n new
    t.natAt (keyOf tc) n = new % 2 ^ (8 * n) ∧ sameOutside s t (keyOf tc) n ∧ t.env = s.env ∧
      t.cx.results = s.cx.results ∧
      (s.poisoned (keyOf tc) n = true → s.cx.cregs ≠ [] → t.cx.unwind.isSome = true) := by
  intro t
  have hsample := replaces_samples s va tc n new
  obtain ⟨-, hunwind⟩ := consume_counts s (s.poisoned (keyOf tc) n)
  have hvenv := consume_env s (s.poisoned (keyOf tc) n)
  have hvmem := mem_consume s (s.poisoned (keyOf tc) n)
  have hvcx := cx_consume s (s.poisoned (keyOf tc) n)
  generalize (s.consume (s.poisoned (keyOf tc) n)).1 = v at hsample hunwind hvenv hvmem hvcx
  have hv : v.sound := hs.keep hvmem
  have hmem : t.mem = (v.putNat (keyOf tc) n new).mem := hsample.mem
  have htcx : t.cx = v.cx.withSample t.cx := hsample.cx
  refine ⟨?_, fun k hk => ?_, hsample.env.trans hvenv, ?_, fun hp hc => ?_⟩
  · rw [natAt_congr (s := v.putNat (keyOf tc) n new) (fun k _ _ => by rw [hmem]), natAt_putNat hv]
  · rw [hmem, sameOutside_putNat hv (keyOf tc) n new k hk, hvmem]
  · rw [htcx]
    exact (congrArg Ctx.results hvcx).trans rfl
  · rw [htcx]
    exact hunwind hp hc

section
variable {s : State} {op : AtomOp} {sp : Space} {d ba a : SReg} {tc : List Touch}

/-- The new value and flags of an atom on an old value (R285). -/
def State.atomNew (s : State) (op : AtomOp) (d a : SReg) (n old : Nat) : Nat × Flags :=
  atomApply op n (effMode s.env.pfx s.cx.ctl.fpc) old ((s.cx.rs a).toNat % 2 ^ (8 * n)) ((s.cx.rs d).toNat % 2 ^ (8 * n))

/-- An atom that stands ready replaces the value that it finds, and answers it. -/
theorem exec_atom (h : s.issuesInOrder (.atom op sp d ba a) (.s ba :: .s a :: (if op = .cas then [.s d] else [])))
    (hr : s.reaches sp .atomic (s.cx.rs ba) (s.atomFmt op).bytes (s.atomFmt op).bytes tc) :
    let f := s.atomFmt op
    let u := s.reading .atomic (s.cx.rs ba) tc
    let old := u.natAt (keyOf tc) f.bytes
    let new := s.atomNew op d a f.bytes old
    exec (.atom op sp d ba a) s = .next (s.accessDone sp (s.cx.rs ba) f.bytes tc
      ((u.replaces (s.cx.rs ba) tc f.bytes new.1).gains 6
        (atomAnswer op d f old new.2 (u.poisoned (keyOf tc) f.bytes && decide (s.cx.cregs = []))))) := by
  intro f u old new
  have hb := issuesInOrder_slipped h
  have hub : u.env.slipped = none := reading_slipped hb ..
  have hucx : u.cx = s.cx := reading_cx ..
  have hmode : u.rmode = effMode s.env.pfx s.cx.ctl.fpc := by rw [rmode_of_bundle hub, hucx, reading_env]
  have hnew : atomApply op f.bytes u.rmode old ((u.rs a).toNat % 2 ^ (8 * f.bytes)) ((u.rs d).toNat % 2 ^ (8 * f.bytes)) = new := by
    rw [hmode, rs_of_bundle hub, rs_of_bundle hub, hucx]
    rfl
  have hcount := (consume_counts u (u.poisoned (keyOf tc) f.bytes)).1
  rw [hucx] at hcount
  show execAtom op sp d ba a s = _
  unfold execAtom
  dsimp only
  rw [rs_of_bundle hb, memOp_reaches _ h.1 h.2 hr]
  refine congrArg (fun t => Host.Outcome.next (s.accessDone sp (s.cx.rs ba) f.bytes tc t)) ?_
  show ((((u.consume (u.poisoned (keyOf tc) f.bytes)).1.putNat (keyOf tc) f.bytes (atomApply op f.bytes u.rmode old
    ((u.rs a).toNat % 2 ^ (8 * f.bytes)) ((u.rs d).toNat % 2 ^ (8 * f.bytes))).1).wakeOn (piecesOf tc)).sampleWrites u.cx.phase
      (withVa (s.cx.rs ba) tc)).deliverR 6 _ = _
  rw [hnew, hcount]
  refine deliverR_of_bundle (s := u.replaces (s.cx.rs ba) tc f.bytes new.1) ?_ 6 _
  exact (congrArg Env.slipped ((replaces_samples ..).env.trans (consume_env ..))).trans hub

end

/-- Settles O33: an atom is one replacement at the storage of its checks, and one result. -/
theorem atomicReadModifyWrite : Obligations.AtomicReadModifyWrite := by
  unfold Obligations.AtomicReadModifyWrite
  refine ⟨?_, atomApply_values⟩
  intro s op sp d ba a key hs h f n tc hr u new
  have hcx : u.cx = s.cx := reading_cx ..
  obtain ⟨hnat, hout, henv, hresults, hunwind⟩ := replaces_leaves (s := u) (State.sound.accessed hs) (s.cx.rs ba) tc n new.1
  let t := u.replaces (s.cx.rs ba) tc n new.1
  let r := atomAnswer op d f (u.natAt key n) new.2 (u.poisoned key n && decide (s.cx.cregs = []))
  have htcx : (t.gains 6 r).cx =
      { t.cx with results := t.cx.results ++ [r.issue t.env 6 t.cx.nextRid], nextRid := t.cx.nextRid + 1 } := cx_mapCx ..
  refine ⟨t.gains 6 r, r.issue t.env 6 t.cx.nextRid, exec_atom h hr, hnat, hout, ?_, rfl, ?_, rfl, rfl, ?_, rfl, fun hp hc => ?_⟩
  · rw [htcx]
    exact congrArg (· ++ _) (hresults.trans (congrArg Ctx.results hcx))
  · show t.env.ctm + 6 = _
    rw [show t.env = u.env from henv, reading_env]
  · have hlt : u.natAt key n < 2 ^ (8 * f.bytes) := by
      have := leNat_lt (u.bytesAt key n)
      rwa [State.bytesAt, length_memBytes] at this
    exact (toWord_ofWord _).trans (atomResult_eq_extended hlt)
  · rw [htcx]
    exact hunwind hp (by rw [hcx]; exact hc)

end Sys2Proof.Machine
end

section
/-!
O34: reductions: how they are forked, applied outside exact mode and buffered within it (spec/06 R158, R159, R173; spec/10 R286).
-/
namespace Sys2Proof.Machine

/-! ## A read does not ask for reductions (R148, R432) -/

/-- A state with other reductions on their way. -/
def State.withReds (s : State) (l : List Red) : State := { s with reds := l }

theorem walkFrom_withReds (s : State) (l : List Red) (va : Word) (fuel table level : Nat) :
    (s.withReds l).walkFrom va fuel table level = s.walkFrom va fuel table level := by
  induction fuel generalizing table level with
  | zero => rfl
  | succ fuel ih => simp only [State.walkFrom, ih]; rfl

theorem leafOf_withReds (s : State) (l : List Red) (core : Option CoreId) (p : BitVec 4) (va : Word) :
    (s.withReds l).leafOf core p va = s.leafOf core p va := by
  unfold State.leafOf
  rw [walkFrom_withReds]
  rfl

theorem translate_withReds (s : State) (l : List Red) (core : Option CoreId) (p : BitVec 4) (a : Access) (fuel : Nat) (va : Word)
    (n : Nat) : (s.withReds l).translate core p a fuel va n = s.translate core p a fuel va n := by
  induction fuel generalizing va n with
  | zero => rfl
  | succ fuel ih => simp only [State.translate, leafOf_withReds, ih]

theorem globalPieces_withReds (s : State) (l : List Red) (p c : BitVec 4) (a : Access) (va : Word) (n : Nat) :
    (s.withReds l).globalPieces p c a va n = s.globalPieces p c a va n := by
  unfold State.globalPieces State.piecesFor State.translateAll
  rw [translate_withReds]
  rfl

theorem queueHeader_withReds (s : State) (l : List Red) (p : BitVec 4) (q : Word) :
    (s.withReds l).queueHeader p q = s.queueHeader p q := by
  unfold State.queueHeader State.globalNat
  rw [globalPieces_withReds]
  rfl

/-- Updates that do not ask for reductions, one after another. -/
theorem foldl_withReds {α : Type} {f : State → α → State} {l : List Red} (hf : ∀ t x, f (t.withReds l) x = (f t x).withReds l)
    (xs : List α) (s : State) : xs.foldl f (s.withReds l) = (xs.foldl f s).withReds l := by
  induction xs generalizing s with
  | nil => rfl
  | cons x xs ih => rw [List.foldl_cons, hf, ih, List.foldl_cons]

theorem putPieces_withReds (s : State) (l : List Red) (ps : List Piece) (bs : List Byte) :
    (s.withReds l).putPieces ps bs = (s.putPieces ps bs).withReds l := by
  induction ps generalizing s bs with
  | nil => rfl
  | cons p ps ih => exact ih (s.putBytes p.key (bs.take p.len)) _

theorem globalPut_withReds (s : State) (l : List Red) (p c : BitVec 4) (va : Word) (bs : List Byte) :
    (s.withReds l).globalPut p c va bs = (s.globalPut p c va bs).withReds l := by
  unfold State.globalPut
  rw [globalPieces_withReds]
  split
  · exact putPieces_withReds ..
  · rfl

theorem globalPutAll_withReds (s : State) (l : List Red) (p c : BitVec 4) (ws : List (Word × List Byte)) :
    (s.withReds l).globalPutAll p c ws = (s.globalPutAll p c ws).withReds l := by
  unfold State.globalPutAll
  simp only [globalPieces_withReds]
  refine foldl_withReds (fun t x => ?_) _ s
  split
  · exact putPieces_withReds ..
  · rfl

theorem post_withReds (s : State) (l : List Red) (p : BitVec 4) (q : Word) (bs : List Byte) :
    (s.withReds l).post p q bs = (s.post p q bs).withReds l := by
  unfold State.post
  rw [queueHeader_withReds]
  split
  · rfl
  · rw [show (s.withReds l).held = s.held from rfl]
    dsimp only
    split
    · exact globalPutAll_withReds ..
    · split
      · rfl
      · exact globalPut_withReds ..

theorem scoreError_withReds (s : State) (l : List Red) (k : Nat) : (s.withReds l).scoreError k = (s.scoreError k).withReds l := by
  unfold State.scoreError
  split
  · rfl
  · split <;> rfl

theorem foundError_withReds (s : State) (l : List Red) (k : Nat) (b : Bool) (r : Reader) :
    (s.withReds l).foundError k b (some r) = (s.foundError k b (some r)).withReds l := by
  unfold State.foundError
  split
  · rfl
  · split
    · exact scoreError_withReds ..
    · exact post_withReds { s with poison := keyAdd s.poison (poisonBase k) } ..

theorem readErrors_withReds (s : State) (l : List Red) (r : Reader) (ps : List Piece) :
    (s.withReds l).readErrors r ps = (s.readErrors r ps).withReds l := by
  have hfound : (s.withReds l).errorsFound r ps = (s.errorsFound r ps).withReds l :=
    foldl_withReds (fun _ d => foundError_withReds ..) _ { s with damaged := s.damaged.filter (fun d => !unitTouched ps d.1) }
  unfold State.readErrors
  rw [hfound]
  rfl

theorem reduce_withReds (s : State) (l : List Red) (r : Red) : (s.withReds l).reduce r = (s.reduce r).withReds l := by
  unfold State.reduce
  dsimp only
  rw [show (s.withReds l).ownerAt r.toOwner r.va = s.ownerAt r.toOwner r.va from rfl, readErrors_withReds]
  rfl

/-! ## Forking (R158, R173, R286) -/

theorem checkRed_detout {s : State} {sp : Space} {va : Word} {n : Nat} {tc : List Touch} (hr : s.reaches sp .atomic va n n tc)
    (hexact : s.isExact s.env.cid = true) (hphase : s.cx.phaseNow = none) : s.checkRed sp va n = .error ⟨.detout, 0, va⟩ := by
  obtain ⟨-, hc, -⟩ := hr
  rw [State.checkRed, hc, hexact, hphase]
  rfl

theorem checkRed_ok {s : State} {sp : Space} {va : Word} {n : Nat} {tc : List Touch} (hr : s.reaches sp .atomic va n n tc)
    (hopen : s.isExact s.env.cid = false ∨ s.cx.phaseNow ≠ none) : s.checkRed sp va n = .ok tc := by
  obtain ⟨-, hc, -⟩ := hr
  have hno : (s.isExact s.env.cid && s.cx.phaseNow.isNone) = false := by
    rcases hopen with h | h
    · simp [h]
    · simp [Option.isNone_eq_false_iff.mpr (Option.isSome_iff_ne_none.mpr h)]
  rw [State.checkRed, hc, hno]
  rfl

/-- A red or redo as its slot issues it. -/
def redShape (i : Instr) (ba a : SReg) : Shape := ⟨i, [.s ba], [.s a], [], false, 0⟩

/-- The instruction of a reduction. -/
def redInstr (ordered : Bool) (op : AtomOp) (sp : Space) (ba a : SReg) : Instr :=
  if ordered then .redo op sp ba a else .red op sp ba a

section
variable {s : State} {op : AtomOp} {sp : Space} {ba a : SReg} {ordered : Bool} {tc : List Touch}
  (h : s.issuesInOrder (redInstr ordered op sp ba a) [.s ba, .s a])
  (hr : s.reaches sp .atomic (s.cx.rs ba) (s.atomFmt op).bytes (s.atomFmt op).bytes tc)
include h hr

theorem exec_reduction : exec (redInstr ordered op sp ba a) s = .next
    ((s.operate (redShape (redInstr ordered op sp ba a) ba a) (s.checkRed sp (s.cx.rs ba) (s.atomFmt op).bytes) (fun tc t =>
      t.implicitWait (redShape (redInstr ordered op sp ba a) ba a) tc (t.landingTakes (keyOf tc)) (fun u =>
        u.forkRed ordered op sp (s.cx.rs ba) (keyOf tc) (s.atomFmt op) (u.rs a)))).noteIssue s sp (s.cx.rs ba) (s.atomFmt op).bytes) := by
  obtain ⟨hframe, -, -⟩ := hr
  have hexec : exec (redInstr ordered op sp ba a) s = s.reduction (redInstr ordered op sp ba a) ordered op sp ba a := by
    cases ordered <;> rfl
  rw [hexec, State.reduction, rs_of_bundle (issuesInOrder_slipped h)]
  dsimp only
  rw [if_neg (by simp [hframe])]
  rfl

theorem reduction_detout (hexact : s.isExact s.env.cid = true) (hphase : s.cx.phaseNow = none) :
    exec (redInstr ordered op sp ba a) s = .next (s.traps (redInstr ordered op sp ba a) .detout 0 (s.cx.rs ba)) := by
  obtain ⟨hgate, -⟩ := issues_append (a := [.s ba]) (b := [.s a]) h.1
  rw [exec_reduction h hr, checkRed_detout hr hexact hphase, operate_error hgate.1 hgate.2.1, noteIssue_of_raised (raise_raised ..)]
  rfl

/-- A reduction whose checks pass asks its landing for room. -/
theorem reduction_asks (hopen : s.isExact s.env.cid = false ∨ s.cx.phaseNow ≠ none) : exec (redInstr ordered op sp ba a) s = .next
    ((s.implicitWait (redShape (redInstr ordered op sp ba a) ba a) tc (s.landingTakes (keyOf tc)) (fun u =>
      u.forkRed ordered op sp (s.cx.rs ba) (keyOf tc) (s.atomFmt op) (u.rs a))).noteIssue s sp (s.cx.rs ba) (s.atomFmt op).bytes) := by
  rw [exec_reduction h hr, checkRed_ok hr hopen, operate_ok h.1 h.2]

theorem reduction_forks (hopen : s.isExact s.env.cid = false ∨ s.cx.phaseNow ≠ none) (hroom : s.landingTakes (keyOf tc) = true) :
    ∃ (t : State) (r : Red), exec (redInstr ordered op sp ba a) s = .next (t.noteIssue s sp (s.cx.rs ba) (s.atomFmt op).bytes) ∧
      t.mem = s.mem ∧ t.reds = s.reds ++ [r] ∧ r.ordered = ordered ∧ r.op = op ∧ r.val = s.cx.rs a ∧ r.va = s.cx.rs ba ∧
      r.cid = s.env.cid ∧ r.seq = s.cx.redSeq ∧ r.st = .issued ∧ t.cx = { s.cx with redSeq := s.cx.redSeq + 1 } := by
  obtain ⟨-, -, haway⟩ := id hr
  have hexec := reduction_asks h hr hopen
  rw [implicitWait_ready _ _ (issuesInOrder_slipped h) hroom haway] at hexec
  exact ⟨_, _, hexec, rfl, rfl, rfl, rfl, rs_of_bundle (issuesInOrder_slipped h) a, rfl, owner_cid s, rfl, rfl, cx_mapCx ..⟩

theorem reduction_waits (hopen : s.isExact s.env.cid = false ∨ s.cx.phaseNow ≠ none) (hroom : s.landingTakes (keyOf tc) = false)
    (hl : s.mayWait s.cx.ctl.dlw) :
    ∃ t : State, exec (redInstr ordered op sp ba a) s = .next (t.noteIssue s sp (s.cx.rs ba) (s.atomFmt op).bytes) ∧
      s.waitsUnder t (redInstr ordered op sp ba a) s.cx.ctl.dlw := by
  have hexec := reduction_asks h hr hopen
  rw [implicitWait_waits _ _ (issuesInOrder_slipped h) hl (by rw [hroom]; rfl)] at hexec
  exact ⟨_, hexec, waitsUnder_slipIn (redShape (redInstr ordered op sp ba a) ba a) tc s.cx.ctl.dlw none
    (slotSlip_of_issues h.1)⟩

end

/-! ## The landings (R158, R159, R173) -/

section
variable {s : State} {r : Red} {key : Nat} (hfind : s.redOf r.id = some r) (hst : r.st = .issued) (hrevoked : r.revoked = none)
  (htarget : s.redTarget r = some key)
include hfind hst hrevoked htarget

/-- The application of a reduction is its read-modify-write, and its end (R158, R159). -/
theorem exec_reductionApplication (hexact : r.exact = false) (hheld : s.redoHeld r = false) :
    exec (.reductionApplication r.id) s =
      .next ((s.reduce { r with loc := key }).withReds (s.reds.filter (fun x => x.id != r.id))) := by
  rw [← reduce_withReds]
  show execReductionApplication r.id s = _
  unfold execReductionApplication
  rw [hfind]
  dsimp only
  rw [if_neg (by simp [hexact, hst, hrevoked, hheld]), htarget]
  rfl

theorem reduction_applied (hs : s.sound) (hexact : r.exact = false) (hheld : s.redoHeld r = false) :
    let w := if r.wide then 8 else 4
    let u := s.readErrors (s.ownerAt r.toOwner r.va) [⟨key, w⟩]
    ∃ t : State, exec (.reductionApplication r.id) s = .next t ∧
      t.natAt key w = (atomApply r.op w (RMode.ofCode r.rm) (u.natAt key w) (r.val.toNat % 2 ^ (8 * w)) 0).1 % 2 ^ (8 * w) ∧
      sameOutside u t key w ∧ t.reds = s.reds.filter (fun x => x.id != r.id) ∧ t.ctxs = s.ctxs := by
  intro w u
  have hu : u.sound := sound_readErrors hs ..
  exact ⟨_, exec_reductionApplication hfind hst hrevoked htarget hexact hheld, natAt_putNat hu .., sameOutside_putNat hu _ _ _,
    rfl, (objectsOnly_reduce s { r with loc := key }).ctxs⟩

end

theorem mapTask_leaves (s : State) (c : CtxId) (serial : Nat) (f : Ctx → Ctx) :
    (s.mapTask c serial f).mem = s.mem ∧ (s.mapTask c serial f).reds = s.reds := by
  unfold State.mapTask
  dsimp only
  split <;> exact ⟨rfl, rfl⟩

/-- A change that keeps the numbers of reductions finds each under its own. -/
theorem find?_map_id (l : List Red) (f : Red → Red) (hid : ∀ x, (f x).id = x.id) (id : Nat) :
    (l.map f).find? (fun x => x.id == id) = (l.find? (fun x => x.id == id)).map f := by
  simp only [List.find?_map, Function.comp_def, hid]

/-- What a reduction becomes when r enters its landing: r stands there, and the others at its target may spill (R173, R174). -/
def Red.beside (r : Red) (spilled full : Bool) (atTarget : Red → Bool) (x : Red) : Red :=
  if x.id = r.id then { x with loc := r.loc, st := .buffered, spilled := spilled }
  else if full ∧ atTarget x then { x with spilled := true } else x

theorem beside_id (r : Red) (spilled full : Bool) (atTarget : Red → Bool) (x : Red) : (r.beside spilled full atTarget x).id = x.id := by
  unfold Red.beside
  split
  · rfl
  · split <;> rfl

theorem bufferRed_enters (s : State) (r : Red) : (s.bufferRed r).mem = s.mem ∧
    ∃ spilled full atTarget, (s.bufferRed r).reds = s.reds.map (r.beside spilled full atTarget) := by
  unfold State.bufferRed
  dsimp only
  split
  · exact ⟨(mapTask_leaves ..).1, _, _, _, (mapTask_leaves ..).2⟩
  · exact ⟨rfl, _, _, _, rfl⟩

/-- The reduction that enters its landing stands there at its target (R173, R174). -/
theorem bufferRed_buffers {s : State} {r : Red} (key : Nat) (hfind : s.redOf r.id = some r) :
    let t := s.bufferRed { r with loc := key }
    t.mem = s.mem ∧ (t.redOf r.id).map (fun x => (x.st, x.loc)) = some (.buffered, key) := by
  intro t
  obtain ⟨hmem, spilled, full, atTarget, hreds⟩ := bufferRed_enters s { r with loc := key }
  refine ⟨hmem, ?_⟩
  rw [State.redOf, hreds, find?_map_id _ _ (beside_id _ _ _ _), show s.reds.find? _ = some r from hfind, Option.map_some,
    Option.map_some, Red.beside, if_pos rfl]

theorem reduction_accepted {s : State} {r : Red} {key : Nat} (hfind : s.redOf r.id = some r) (hst : r.st = .issued)
    (hrevoked : r.revoked = none) (htarget : s.redTarget r = some key) (hexact : r.exact = true) :
    ∃ t : State, exec (.reductionAcceptance r.id) s = .next (if r.bphase.isSome then t.settleBarrier r.barrier else t) ∧
      t.mem = s.mem ∧ (t.redOf r.id).map (fun x => (x.st, x.loc)) = some (.buffered, key) := by
  refine ⟨s.bufferRed { r with loc := key }, ?_, bufferRed_buffers key hfind⟩
  show execReductionAcceptance r.id s = _
  unfold execReductionAcceptance
  rw [hfind]
  dsimp only
  rw [if_neg (by simp [hexact, hst, hrevoked]), htarget]

/-- A closed phase without threads is dropped (R295). -/
theorem phaseBookkeeping_ends {s : State} {id : Nat} (hclosed : ∃ p ∈ s.phases, p.id = id ∧ p.isOpen = false)
    (hended : s.phaseEnded id = true) :
    exec (.phaseBookkeeping id) s = .next { s with phases := s.phases.filter (fun p => p.id != id) } := by
  obtain ⟨p, hp, hid, hopen⟩ := hclosed
  have hany : s.phases.any (fun p => p.id == id && !p.isOpen) = true := List.any_eq_true.mpr ⟨p, hp, by simp [hid, hopen]⟩
  show Host.Outcome.next (if (s.phases.any (fun p => p.id == id && !p.isOpen) && s.phaseEnded id) = true then _ else _) = _
  rw [hany, hended]
  rfl

/-- Settles O34: forked where the landing has room, applied by one read-modify-write, buffered in exact mode. -/
theorem reductionsForkAndApply : Obligations.ReductionsForkAndApply := by
  unfold Obligations.ReductionsForkAndApply
  refine ⟨?_, ?_, fun s id hclosed hended => phaseBookkeeping_ends hclosed hended⟩
  · intro s op sp ba a ordered tc f i h hr
    exact ⟨reduction_detout h hr, fun hopen => ⟨reduction_forks h hr hopen, reduction_waits h hr hopen⟩⟩
  · intro s r key hs hfind hst hrevoked htarget
    exact ⟨reduction_applied hfind hst hrevoked htarget hs, reduction_accepted hfind hst hrevoked htarget⟩

end Sys2Proof.Machine
end

section
/-!
O38: weight banks, and clearing, draining, storing and inspecting accumulators (spec/06 R154; spec/11 R321, R322, R331 to R335).
-/
namespace Sys2Proof.Machine

/-! ## Issue with checks of the tile slot (R99, R317, R320) -/

theorem holderCheck_pass {s : State} (h : (s.core s.myCore).holder = some s.env.cid.num) : s.holderCheck.1 = true := by
  simp [State.holderCheck, h]

theorem naccCheck_pass {s : State} {ac : AReg} (h : s.hasAcc ac) : (s.naccCheck ac).1 = true := by
  obtain ⟨task, htask, hacc⟩ := h
  simp [State.naccCheck, htask, hacc]

theorem dueCheck_pass {s : State} {ac : AReg} (h : (s.cx.ra ac).undue s.env.ctm = none) : (s.dueCheck ac).1 = true := by
  simp [State.dueCheck, h]

/-- An instruction of the tile slot that stands ready and passes its checks acts, and is then counted or recorded. -/
theorem tileOp_issued {s : State} {sh : Shape} {checks : List (Bool × IssueTrap)} {tc : List Touch} {k : List Touch → State → State}
    (h : s.issues (sh.gates ++ sh.data)) (ho : s.conflict sh.instr = false) (hu : s.unraised) (hpass : ∀ p ∈ checks, p.1 = true)
    (henv : (k tc s).env = s.env) (f : State → State) :
    s.atIssue (s.operate sh (checksThen checks (.ok tc)) k) f = f (k tc s) := by
  rw [checksThen_of_pass hpass, operate_ok h ho]
  exact atIssue_of_issued h.1 hu henv f

/-- An accumulator that an instruction names: counted, changed, and in flight with the instruction where that has a latency. -/
def Acc.counted (a : Acc) (ctm : Word) (due : Option Nat) (f : Acc → Acc) : Acc :=
  { f a with
    seq := a.seq + 1,
    flight := a.flight.filter (fun p => decide (ctm.toNat < p.2.toNat)) ++
      (due.map (fun l => (a.seq + 1, ctm + BitVec.ofNat 64 l))).toList }

theorem cx_countSeq (s : State) (ac : AReg) (due : Option Nat) (f : Acc → Acc) :
    (s.countSeq ac due f).cx = s.cx.mapAcc ac (fun a => a.counted s.env.ctm due f) := by
  rw [State.countSeq, cx_mapCx]
  cases due
  · simp only [Acc.counted, Option.map_none, Option.toList_none, List.append_nil]
  · rfl

/-- A counted accumulator that nothing else changes. -/
theorem ra_countSeq (s : State) (ac : AReg) (due : Option Nat) (f : Acc → Acc) :
    (s.countSeq ac due f).cx.ra ac = (s.cx.ra ac).counted s.env.ctm due f := by
  rw [cx_countSeq, ra_mapAcc, if_pos rfl]

theorem results_countSeq (s : State) (ac : AReg) (due : Option Nat) (f : Acc → Acc) :
    (s.countSeq ac due f).cx.results = s.cx.results := by
  rw [cx_countSeq]
  rfl

/-! ## Weight banks (R321, R322) -/

theorem bankAt_mapBank (k : Core) (bk : Bool) (f : Bank → Bank) : (k.mapBank bk f).bankAt bk = f (k.bankAt bk) := by
  cases bk <;> simp [Core.bankAt, Core.mapBank]

theorem bankAt_mapBank_not (k : Core) (bk : Bool) (f : Bank → Bank) : (k.mapBank bk f).bankAt (!bk) = k.bankAt (!bk) := by
  cases bk <;> simp [Core.bankAt, Core.mapBank]

theorem mapBank_id (k : Core) (bk : Bool) : k.mapBank bk (fun b => b) = k := by
  cases bk <;> simp [Core.mapBank]

theorem act_mapBank (k : Core) (bk : Bool) (f : Bank → Bank) : (k.mapBank bk f).act = k.act := by
  cases bk <;> rfl

/-- The registers that programs read, as an instruction found them. -/
def Ctx.sameRegs (x y : Ctx) : Prop := y.s = x.s ∧ y.v = x.v ∧ y.p = x.p ∧ y.acc = x.acc

/-- A bank whose format and ready time are those of the wld that issues (R322). -/
def State.bankIssued (t : State) (bk : Bool) (f : Fmt) : State :=
  t.mapCore t.myCore (fun k => k.mapBank bk (fun b => { b with fmt := some f, ready := t.env.ctm + 36 }))

/-- A bank whose image has been read from its pieces of PM (R321). -/
def State.bankImage (u : State) (bk : Bool) (ps : List Piece) : State :=
  u.mapCore u.myCore (fun k => k.mapBank bk (fun b => { b with img := BitVec.ofNat 131072 (leNat (u.piecesBytes ps)) }))

/-- A bank whose image has been read, with the poison that the read consumes (R321, R451). -/
def State.bankLoaded (t : State) (bk : Bool) (ps : List Piece) : State :=
  let q := ((t.readsAt ps).bankImage bk ps).consume ((t.readsAt ps).piecesPoisoned ps)
  q.1.deliverR 36 { Result.base with peng := q.2 }

theorem core_bankIssued (t : State) (bk : Bool) (f : Fmt) : (t.bankIssued bk f).core t.myCore =
    (t.core t.myCore).mapBank bk (fun b => { b with fmt := some f, ready := t.env.ctm + 36 }) := by
  rw [State.bankIssued, core_mapCore, if_pos rfl]

theorem core_bankImage (u : State) (bk : Bool) (ps : List Piece) : (u.bankImage bk ps).core u.myCore =
    (u.core u.myCore).mapBank bk (fun b => { b with img := BitVec.ofNat 131072 (leNat (u.piecesBytes ps)) }) := by
  rw [State.bankImage, core_mapCore, if_pos rfl]

theorem cores_consume (s : State) (poison : Bool) : (s.consume poison).1.cores = s.cores := by
  unfold State.consume
  split
  · rfl
  · split <;> rfl

theorem core_congr {s t : State} (h : t.cores = s.cores) (k : CoreId) : t.core k = s.core k := by
  simp only [State.core, h]

theorem bankLoaded_leaves {s : State} (hb : s.env.slipped = none) (bk : Bool) (ps : List Piece) :
    let t := s.bankLoaded bk ps
    t.mem = (s.readsAt ps).mem ∧ t.env = s.env ∧ t.cores = ((s.readsAt ps).bankImage bk ps).cores ∧ s.cx.sameRegs t.cx := by
  intro t
  let u := (s.readsAt ps).bankImage bk ps
  have henv := consume_env u ((s.readsAt ps).piecesPoisoned ps)
  have hmem := mem_consume u ((s.readsAt ps).piecesPoisoned ps)
  have hcores := cores_consume u ((s.readsAt ps).piecesPoisoned ps)
  have hcx := cx_consume u ((s.readsAt ps).piecesPoisoned ps)
  have ht : t = (u.consume ((s.readsAt ps).piecesPoisoned ps)).1.gains 36
      { Result.base with peng := (u.consume ((s.readsAt ps).piecesPoisoned ps)).2 } :=
    deliverR_of_bundle ((congrArg Env.slipped henv).trans hb) ..
  generalize u.consume ((s.readsAt ps).piecesPoisoned ps) = q at henv hmem hcores hcx ht
  refine ⟨by rw [ht]; exact hmem, by rw [ht]; exact henv, by rw [ht]; exact hcores, ?_⟩
  rw [ht, State.gains, cx_mapCx, hcx]
  exact ⟨rfl, rfl, rfl, rfl⟩

theorem cx_setCtx (s : State) (x : Ctx) : (s.setCtx s.env.cid x).cx = x := ctx_setCtx_self ..

/-- An instruction that enters a slip buffer leaves the cores and the registers alone (R96). -/
theorem slipIn_leaves (s : State) (sh : Shape) (need : List Need) (touch : List Touch) (w : Option Wait) :
    (s.slipIn sh need touch w).cores = s.cores ∧ s.cx.sameRegs (s.slipIn sh need touch w).cx := by
  unfold State.slipIn
  dsimp only
  split
  · exact ⟨rfl, rfl, rfl, rfl, rfl⟩
  · rw [cx_setCtx]
    exact ⟨rfl, rfl, rfl, rfl, rfl⟩

/-- wld as its slot issues it. -/
def wldShape (bk : Bool) (ty : Fmt) (a : SOpd) : Shape := ⟨.wld bk ty a, SOpd.src a, [], [(.none, 36)], false, 0⟩

/-- A wld whose checks have passed reads its image, or stands in the slip buffer while a beat still reads its bank (R322). -/
def State.wldActs (t : State) (bk : Bool) (ty : Fmt) (a : SOpd) (busy : Word) (tc : List Touch) : State :=
  if t.env.slipped.isNone ∧ t.cx.ctm.toNat < busy.toNat then t.slipIn (wldShape bk ty a) [] tc none
  else t.bankLoaded bk (piecesOf tc)

theorem wldActs_env {s : State} {l : List Src} (h : s.issues l) (bk : Bool) (ty : Fmt) (a : SOpd) (busy : Word) (tc : List Touch) :
    (s.wldActs bk ty a busy tc).env = s.env := by
  unfold State.wldActs
  split
  · obtain ⟨-, -, -, -, -, -, -, -, henv⟩ :=
      slipIn_ok (wldShape bk ty a) [] tc none (show (s.cx.slotSlip s.env.pos).length < 8 by simp [slotSlip_of_issues h])
    exact henv
  · obtain ⟨-, henv, -⟩ := bankLoaded_leaves h.1 bk (piecesOf tc)
    exact henv

section
variable {s : State} {bk : Bool} {ty : Fmt} {a : SOpd} {tc : List Touch} (h : s.issuesInOrder (.wld bk ty a) (SOpd.src a))
  (hu : s.unraised) (hholder : (s.core s.myCore).holder = some s.env.cid.num)
  (hc : s.checkAccess .pm .read 0 4 (s.operandS a) (imageBytes (s.accessFmt ty)) 8 = .ok tc)
include h hu hholder hc

theorem exec_wld : exec (.wld bk ty a) s = .next
    ((s.wldActs bk ty a ((s.core s.myCore).bankAt bk).busy tc).bankIssued bk (s.accessFmt ty)) := by
  have hissue := tileOp_issued (sh := wldShape bk ty a) (tc := tc) (checks := [s.holderCheck])
    (k := fun tc t => t.wldActs bk ty a ((s.core s.myCore).bankAt bk).busy tc)
    (by simpa [wldShape] using h.1) h.2 hu (by simp [holderCheck_pass hholder]) (wldActs_env h.1 ..)
    (fun t => t.bankIssued bk (s.accessFmt ty))
  rw [← hissue, ← hc, ← rso_of_bundle (issuesInOrder_slipped h) a]
  rfl

theorem wld_loads (hfree : ((s.core s.myCore).bankAt bk).busy.toNat ≤ s.cx.ctm.toNat) :
    exec (.wld bk ty a) s = .next ((s.bankLoaded bk (piecesOf tc)).bankIssued bk (s.accessFmt ty)) := by
  rw [exec_wld h hu hholder hc, State.wldActs, if_neg (fun hbusy => Nat.not_lt.mpr hfree hbusy.2)]

theorem wld_waits (hbusy : s.cx.ctm.toNat < ((s.core s.myCore).bankAt bk).busy.toNat) :
    exec (.wld bk ty a) s = .next ((s.slipIn (wldShape bk ty a) [] tc none).bankIssued bk (s.accessFmt ty)) := by
  rw [exec_wld h hu hholder hc, State.wldActs, if_pos ⟨by simp [issuesInOrder_slipped h], hbusy⟩]

end

/-- What the issue of a wld leaves of a core and registers that stand as they did, but for the image (R322). -/
theorem bankIssued_leaves {s u : State} {bk : Bool} {f : Fmt} {img : Bank → BitVec 131072} (henv : u.env = s.env)
    (hcore : u.core s.myCore = (s.core s.myCore).mapBank bk (fun b => { b with img := img b })) (hregs : s.cx.sameRegs u.cx) :
    let t := u.bankIssued bk f
    ((t.core s.myCore).bankAt bk).fmt = some f ∧ ((t.core s.myCore).bankAt bk).ready = s.env.ctm + 36 ∧
      (t.core s.myCore).bankAt (!bk) = (s.core s.myCore).bankAt (!bk) ∧ (t.core s.myCore).act = (s.core s.myCore).act ∧
      s.cx.sameRegs t.cx ∧ ((t.core s.myCore).bankAt bk).img = img ((s.core s.myCore).bankAt bk) := by
  intro t
  have hmy : u.myCore = s.myCore := by simp only [State.myCore, henv]
  have hissued := core_bankIssued u bk f
  rw [hmy, hcore, henv] at hissued
  have hbank := congrArg (fun k => k.bankAt bk) hissued
  rw [bankAt_mapBank, bankAt_mapBank] at hbank
  exact ⟨congrArg Bank.fmt hbank, congrArg Bank.ready hbank,
    (congrArg (fun k => k.bankAt (!bk)) hissued).trans ((bankAt_mapBank_not ..).trans (bankAt_mapBank_not ..)),
    (congrArg Core.act hissued).trans ((act_mapBank ..).trans (act_mapBank ..)), hregs, congrArg Bank.img hbank⟩

/-- A wld that issues: what its bank holds, and where it stands until the bank is free (R321, R322). -/
theorem wld_issues {s : State} {bk : Bool} {ty : Fmt} {a : SOpd} {tc : List Touch} (h : s.issuesInOrder (.wld bk ty a) (SOpd.src a))
    (hu : s.unraised) (hholder : (s.core s.myCore).holder = some s.env.cid.num)
    (hc : s.checkAccess .pm .read 0 4 (s.operandS a) (imageBytes (s.accessFmt ty)) 8 = .ok tc) :
    let bank := (s.core s.myCore).bankAt bk
    let u := s.readsAt (piecesOf tc)
    ∃ t : State, exec (.wld bk ty a) s = .next t ∧
      ((t.core s.myCore).bankAt bk).fmt = some (s.accessFmt ty) ∧
      ((t.core s.myCore).bankAt bk).ready = s.env.ctm + 36 ∧
      (t.core s.myCore).bankAt (!bk) = (s.core s.myCore).bankAt (!bk) ∧ (t.core s.myCore).act = (s.core s.myCore).act ∧
      t.cx.s = s.cx.s ∧ t.cx.v = s.cx.v ∧ t.cx.p = s.cx.p ∧ t.cx.acc = s.cx.acc ∧
      (bank.busy.toNat ≤ s.cx.ctm.toNat → t.mem = u.mem ∧
        ((t.core s.myCore).bankAt bk).img = BitVec.ofNat 131072 (leNat (u.piecesBytes (piecesOf tc)))) ∧
      (s.cx.ctm.toNat < bank.busy.toNat → t.mem = s.mem ∧ ((t.core s.myCore).bankAt bk).img = bank.img ∧
        ∃ e, t.cx.slip = s.cx.slip ++ [e] ∧ e.slot = s.env.pos ∧ e.ins.instr = .wld bk ty a ∧ e.wait = none) := by
  intro bank u
  rcases Nat.lt_or_ge s.cx.ctm.toNat bank.busy.toNat with hbusy | hfree
  · have hroom : (s.cx.slotSlip s.env.pos).length < 8 := by simp [slotSlip_of_issues h.1]
    obtain ⟨e, hslip, hslot, hinstr, hwait, -, -, hmem, henv⟩ := slipIn_ok (wldShape bk ty a) [] tc none hroom
    obtain ⟨hcores, hregs⟩ := slipIn_leaves s (wldShape bk ty a) [] tc none
    have hexec := wld_waits h hu hholder hc hbusy
    generalize s.slipIn (wldShape bk ty a) [] tc none = v at hexec hslip hmem henv hcores hregs
    have hcore : v.core s.myCore = (s.core s.myCore).mapBank bk (fun b => { b with img := b.img }) :=
      (core_congr hcores _).trans (mapBank_id ..).symm
    obtain ⟨hfmt, hready, hother, hact, ⟨hrs, hrv, hrp, hra⟩, himg⟩ :=
      bankIssued_leaves (f := s.accessFmt ty) (img := Bank.img) henv hcore hregs
    exact ⟨_, hexec, hfmt, hready, hother, hact, hrs, hrv, hrp, hra, fun hle => absurd hbusy (Nat.not_lt.mpr hle),
      fun _ => ⟨hmem, himg, e, hslip, hslot, hinstr, hwait⟩⟩
  · obtain ⟨hmem, henv, hcores, hregs⟩ := bankLoaded_leaves (issuesInOrder_slipped h) bk (piecesOf tc)
    have hexec := wld_loads h hu hholder hc hfree
    generalize s.bankLoaded bk (piecesOf tc) = v at hexec hmem henv hcores hregs
    have hcore := (core_congr hcores s.myCore).trans (core_bankImage u bk (piecesOf tc))
    obtain ⟨hfmt, hready, hother, hact, ⟨hrs, hrv, hrp, hra⟩, himg⟩ :=
      bankIssued_leaves (f := s.accessFmt ty) (img := fun _ => BitVec.ofNat 131072 (leNat (u.piecesBytes (piecesOf tc)))) henv hcore hregs
    exact ⟨_, hexec, hfmt, hready, hother, hact, hrs, hrv, hrp, hra, fun _ => ⟨hmem, himg⟩,
      fun hlt => absurd hlt (Nat.not_lt.mpr hfree)⟩

/-! ## Clearing (R331) -/

/-- The tile of an accumulator cleared, before its count. -/
theorem cx_cleared (s : State) (ac : AReg) :
    (s.mapCx (fun x => x.mapAcc ac Acc.cleared)).cx = s.cx.mapAcc ac Acc.cleared := cx_mapCx ..

theorem exec_aclr {s : State} {ac : AReg} (h : s.issues []) (hu : s.unraised) (hacc : s.hasAcc ac) : exec (.aclr ac) s = .next
    ((s.mapCx (fun x => x.mapAcc ac Acc.cleared)).countSeq ac (some 1) (fun a => { a with kind := 0 })) :=
  congrArg Host.Outcome.next (tileOp_issued (sh := ⟨.aclr ac, [], [], [], false, 0⟩) h (conflict_of_unordered s rfl) hu
    (by simp [naccCheck_pass hacc]) rfl _)

theorem aclr_clears {s : State} {ac : AReg} (h : s.issues []) (hu : s.unraised) (hacc : s.hasAcc ac) :
    ∃ t : State, exec (.aclr ac) s = .next t ∧ s.onlyAccumulator t ac ∧ (t.cx.ra ac).tile = Vector.replicate 64 0 ∧
      (t.cx.ra ac).cerr = 0 ∧ (t.cx.ra ac).crem = 0 ∧ (t.cx.ra ac).rowdepth = 0 ∧ (t.cx.ra ac).depth = 0 ∧
      (t.cx.ra ac).rc = 0 ∧ (t.cx.ra ac).dc = 0 ∧ (t.cx.ra ac).kind = 0 ∧
      (t.cx.ra ac).seq = (s.cx.ra ac).seq + 1 := by
  refine ⟨_, exec_aclr h hu hacc, ⟨rfl, ?_⟩, ?_⟩
  · rw [cx_countSeq, cx_cleared]
    refine ⟨rfl, rfl, rfl, fun b hb => ?_⟩
    rw [ra_mapAcc, if_neg hb, ra_mapAcc, if_neg hb]
  · rw [ra_countSeq, cx_cleared, ra_mapAcc, if_pos rfl]
    exact ⟨rfl, rfl, rfl, rfl, rfl, rfl, rfl, rfl, rfl⟩

/-! ## Draining (R332, R333) -/

/-- The vector results of a drain, one after another: each is in flight, and beside the results nothing has changed. -/
theorem foldl_deliver_gains {α : Type} (g : α → VecWord) (lat : Nat) (l : List (VReg × α)) {s : State} (hb : s.env.slipped = none) :
    let t := l.foldl (fun u p => u.deliver lat (.v p.1) (g p.2)) s
    t.mem = s.mem ∧ t.env = s.env ∧ t.cx.acc = s.cx.acc ∧ (∀ r ∈ s.cx.results, r ∈ t.cx.results) ∧
      ∀ p ∈ l, ∃ r ∈ t.cx.results, r.dest = .v p.1 ∧ r.val = g p.2 ∧ r.due = s.env.ctm + BitVec.ofNat 64 lat := by
  induction l generalizing s with
  | nil => exact ⟨rfl, rfl, rfl, fun _ hr => hr, nofun⟩
  | cons p l ih =>
    intro t
    let u := s.gainsValue lat (.v p.1) (g p.2)
    let r : Result := ({ Result.base with dest := .v p.1, val := g p.2 } : Result).issue s.env lat s.cx.nextRid
    have hcx : u.cx = { s.cx with results := s.cx.results ++ [r], nextRid := s.cx.nextRid + 1 } := cx_mapCx ..
    have ht : t = l.foldl (fun u p => u.deliver lat (.v p.1) (g p.2)) u := by
      simp only [t, List.foldl_cons, deliver_of_bundle hb, u]
    obtain ⟨hmem, henv, hacc, hkept, hdrained⟩ := ih (s := u) hb
    rw [← ht] at hmem henv hacc hkept hdrained
    rw [hcx] at hacc hkept
    refine ⟨hmem, henv, hacc, fun x hx => hkept x (List.mem_append_left _ hx), fun q hq => ?_⟩
    rcases List.mem_cons.mp hq with rfl | hq
    · exact ⟨r, hkept r (List.mem_append_right _ (List.mem_singleton_self r)), rfl, rfl, rfl⟩
    · exact hdrained q hq

/-- A result for each of the consecutive registers. -/
theorem vregs_zip_range {v : VReg} {k i : Nat} (h : i < k) : (v + BitVec.ofNat 5 i, i) ∈ (vregs v k).zip (List.range k) :=
  List.mem_iff_getElem?.mpr ⟨i, by simp [vregs, h]⟩

/-- What adrn does with rows of its accumulator from the drain cursor on (R332). -/
def State.drainRows (t : State) (ac : AReg) (v : VReg) (rows : Nat) : State :=
  (((vregs v rows).zip (List.range rows)).foldl (fun u p =>
    u.deliver (6 * ((rows + 15) / 16)) (.v p.1) ((t.cx.ra ac).row ((t.cx.ra ac).dc + BitVec.ofNat 6 p.2))) t).mapCx
      (fun x => x.mapAcc ac (fun y => { y with dc := y.dc + BitVec.ofNat 6 rows }))

theorem drainRows_leaves {s : State} (hb : s.env.slipped = none) (ac : AReg) (v : VReg) (rows : Nat) :
    let t := s.drainRows ac v rows
    let a := s.cx.ra ac
    t.mem = s.mem ∧ t.env = s.env ∧ t.cx.ra ac = { a with dc := a.dc + BitVec.ofNat 6 rows } ∧
      ∀ i, i < rows → ∃ r ∈ t.cx.results, r.dest = .v (v + BitVec.ofNat 5 i) ∧ r.val = a.row (a.dc + BitVec.ofNat 6 i) ∧
        r.due = s.env.ctm + BitVec.ofNat 64 (6 * ((rows + 15) / 16)) := by
  intro t a
  obtain ⟨hmem, henv, haccs, -, hdrained⟩ := foldl_deliver_gains (fun i => a.row (a.dc + BitVec.ofNat 6 i))
    (6 * ((rows + 15) / 16)) ((vregs v rows).zip (List.range rows)) hb
  refine ⟨hmem, henv, ?_, fun i hi => ?_⟩
  · have hra : Ctx.ra (State.cx _) ac = a := congrArg (fun l : Vector Acc _ => l[ac.toNat]'(ac.isLt)) haccs
    rw [show t.cx = _ from cx_mapCx .., ra_mapAcc, if_pos rfl, hra]
  · rw [show t.cx = _ from cx_mapCx ..]
    exact hdrained _ (vregs_zip_range hi)

/-- What adrn.c does with the sums of its accumulator (R333). -/
def State.drainSums (t : State) (ac : AReg) (v : VReg) (nr : BitVec 5) : State :=
  let t1 := t.deliver 6 (.v v) (t.cx.ra ac).remainder
  if nr = 0 then t1 else t1.deliver 6 (.v (v + 1)) (splat (t.cx.ra ac).depth)

theorem drainSums_leaves {s : State} (hb : s.env.slipped = none) (ac : AReg) (v : VReg) (nr : BitVec 5) :
    let t := s.drainSums ac v nr
    let a := s.cx.ra ac
    t.mem = s.mem ∧ t.env = s.env ∧ t.cx.ra ac = a ∧ (∃ r ∈ t.cx.results, r.dest = .v v ∧ r.val = a.remainder) ∧
      (nr = 1 → ∃ r ∈ t.cx.results, r.dest = .v (v + 1) ∧ r.val = splat a.depth) := by
  intro t a
  let l : List (VReg × VecWord) := (v, a.remainder) :: if nr = 0 then [] else [(v + 1, splat a.depth)]
  have ht : t = l.foldl (fun u p => u.deliver 6 (.v p.1) (id p.2)) s := by
    dsimp only [t, State.drainSums, l]
    split <;> rfl
  obtain ⟨hmem, henv, haccs, -, hdrained⟩ := foldl_deliver_gains id 6 l hb
  rw [← ht] at hmem henv haccs hdrained
  refine ⟨hmem, henv, ?_, ?_, fun hnr => ?_⟩
  · simp only [Ctx.ra, haccs, a]
  · obtain ⟨r, hr, hdest, hval, -⟩ := hdrained (v, a.remainder) (List.mem_cons_self ..)
    exact ⟨r, hr, hdest, hval⟩
  · obtain ⟨r, hr, hdest, hval, -⟩ := hdrained (v + 1, splat a.depth) (by simp [l, hnr])
    exact ⟨r, hr, hdest, hval⟩

section
variable {s : State} {ac : AReg} (h : s.issues []) (hu : s.unraised) (hacc : s.hasAcc ac)
  (hdue : (s.cx.ra ac).undue s.env.ctm = none)
include h hu hacc hdue

theorem exec_adrn (v : VReg) (nr : BitVec 5) :
    exec (.adrn ac v nr) s = .next ((s.drainRows ac v (nr.toNat + 1)).countSeq ac none id) := by
  obtain ⟨-, henv, -⟩ := drainRows_leaves h.1 ac v (nr.toNat + 1)
  exact congrArg Host.Outcome.next (tileOp_issued
    (sh := ⟨.adrn ac v nr, [], [], (vregs v (nr.toNat + 1)).map (fun d => (.v d, 6 * ((nr.toNat + 1 + 15) / 16))), false, 0⟩)
    (tc := []) (k := fun _ t => t.drainRows ac v (nr.toNat + 1)) (checks := [s.naccCheck ac, s.dueCheck ac])
    h (conflict_of_unordered s rfl) hu (by simp [naccCheck_pass hacc, dueCheck_pass hdue]) henv _)

theorem adrn_drains (v : VReg) (nr : BitVec 5) : ∃ t : State, exec (.adrn ac v nr) s = .next t ∧ t.mem = s.mem ∧
    (t.cx.ra ac).tile = (s.cx.ra ac).tile ∧ (t.cx.ra ac).dc = (s.cx.ra ac).dc + BitVec.ofNat 6 (nr.toNat + 1) ∧
    ∀ i, i ≤ nr.toNat → ∃ r ∈ t.cx.results, r.dest = .v (v + BitVec.ofNat 5 i) ∧
      r.val = (s.cx.ra ac).row ((s.cx.ra ac).dc + BitVec.ofNat 6 i) ∧
      r.due = s.env.ctm + BitVec.ofNat 64 (6 * ((nr.toNat + 16) / 16)) := by
  obtain ⟨hmem, -, hra, hdrained⟩ := drainRows_leaves h.1 ac v (nr.toNat + 1)
  refine ⟨_, exec_adrn h hu hacc hdue v nr, hmem, ?_⟩
  rw [ra_countSeq, hra, results_countSeq]
  exact ⟨rfl, rfl, fun i hi => hdrained i (Nat.lt_succ_of_le hi)⟩

theorem exec_adrnC (v : VReg) (nr : BitVec 5) (hkind : (s.cx.ra ac).kind ≠ 2) :
    exec (.adrnC ac v nr) s = .next ((s.drainSums ac v nr).countSeq ac none id) := by
  obtain ⟨-, henv, -⟩ := drainSums_leaves h.1 ac v nr
  exact congrArg Host.Outcome.next (tileOp_issued
    (sh := ⟨.adrnC ac v nr, [], [], (.v v, 6) :: if nr = 0 then [] else [(.v (v + 1), 6)], false, 0⟩)
    (tc := []) (k := fun _ t => t.drainSums ac v nr)
    (checks := [s.naccCheck ac, ((s.cx.ra ac).kind != 2, ⟨.ill, 0, 0⟩), s.dueCheck ac])
    h (conflict_of_unordered s rfl) hu (by simpa using ⟨naccCheck_pass hacc, hkind, dueCheck_pass hdue⟩) henv _)

theorem adrnC_drains (v : VReg) (nr : BitVec 5) (hkind : (s.cx.ra ac).kind ≠ 2) :
    ∃ t : State, exec (.adrnC ac v nr) s = .next t ∧ t.mem = s.mem ∧ (t.cx.ra ac).tile = (s.cx.ra ac).tile ∧
      (∃ r ∈ t.cx.results, r.dest = .v v ∧ r.val = (s.cx.ra ac).remainder) ∧
      (nr = 1 → ∃ r ∈ t.cx.results, r.dest = .v (v + 1) ∧ r.val = ofLanes (List.replicate 64 (s.cx.ra ac).depth)) := by
  obtain ⟨hmem, -, hra, hsum, hdepth⟩ := drainSums_leaves h.1 ac v nr
  refine ⟨_, exec_adrnC h hu hacc hdue v nr hkind, hmem, ?_⟩
  rw [ra_countSeq, hra, results_countSeq]
  exact ⟨rfl, hsum, hdepth⟩

end

/-! ## Inspecting (R335) -/

/-- The answer of aqry (R335). -/
def aqryWord (seq : BitVec 16) (kind : BitVec 2) (dc rc : BitVec 6) (depth : BitVec 32) : Word :=
  seq ++ 0#2 ++ kind ++ dc ++ rc ++ depth

/-- A field of the high part of a word stands in the word above the low part. -/
theorem extractLsb'_append_high {m n start len : Nat} {x : BitVec m} (y : BitVec n) {z : BitVec len} (h : x.extractLsb' start len = z) :
    (x ++ y).extractLsb' (start + n) len = z := by
  rw [BitVec.extractLsb'_append_eq_of_le (Nat.le_add_left ..), Nat.add_sub_cancel, h]

theorem aqryWord_fields (seq : BitVec 16) (kind : BitVec 2) (dc rc : BitVec 6) (depth : BitVec 32) :
    let w := aqryWord seq kind dc rc depth
    w.extractLsb' 48 16 = seq ∧ w.extractLsb' 44 2 = kind ∧ w.extractLsb' 38 6 = dc ∧ w.extractLsb' 32 6 = rc ∧
      w.extractLsb' 0 32 = depth := by
  have hseq := extractLsb'_append_high depth (extractLsb'_append_high rc (extractLsb'_append_high dc
    (extractLsb'_append_high kind (BitVec.extractLsb'_append_eq_left (a := seq) (b := 0#2)))))
  have hkind := extractLsb'_append_high depth (extractLsb'_append_high rc (extractLsb'_append_high dc
    (BitVec.extractLsb'_append_eq_right (a := seq ++ 0#2) (b := kind))))
  have hdc := extractLsb'_append_high depth (extractLsb'_append_high rc
    (BitVec.extractLsb'_append_eq_right (a := seq ++ 0#2 ++ kind) (b := dc)))
  have hrc := extractLsb'_append_high depth (BitVec.extractLsb'_append_eq_right (a := seq ++ 0#2 ++ kind ++ dc) (b := rc))
  exact ⟨hseq, hkind, hdc, hrc, BitVec.extractLsb'_append_eq_right⟩

/-- aqry as its slot issues it, with SEQ and KIND captured (R335). -/
def aqryShape (d : SReg) (ac : AReg) (a : Acc) : Shape :=
  ⟨.aqry d ac, [], [], [(.s d, 6)], false, ((a.seq + 1) ++ a.kind : BitVec 18).setWidth 64⟩

/-- The word that aqry forms of what it captured and of its accumulator is its answer (R335). -/
theorem aqryWord_tag {s : State} (hb : s.env.slipped = none) (d : SReg) (ac : AReg) (a x : Acc) :
    let w := (s.tag (aqryShape d ac a)).setWidth 18
    (w.extractLsb' 2 16 ++ 0#2 ++ w.extractLsb' 0 2 ++ x.dc ++ x.rc ++ x.depth : BitVec 64) =
      aqryWord (a.seq + 1) a.kind x.dc x.rc x.depth := by
  intro w
  have hw : w = ((a.seq + 1) ++ a.kind : BitVec 18) := by
    dsimp only [w]
    rw [tag_of_bundle hb]
    exact (BitVec.setWidth_setWidth_of_le _ (by decide)).trans (BitVec.setWidth_eq _)
  rw [hw, BitVec.extractLsb'_append_eq_left, BitVec.extractLsb'_append_eq_right]
  rfl

theorem exec_aqry {s : State} {ac : AReg} (h : s.issues []) (hu : s.unraised) (hacc : s.hasAcc ac)
    (hdue : (s.cx.ra ac).undue s.env.ctm = none) (d : SReg) :
    let a := s.cx.ra ac
    exec (.aqry d ac) s = .next ((s.gainsWord 6 d (aqryWord (a.seq + 1) a.kind a.dc a.rc a.depth)).countSeq ac none id) := by
  intro a
  have hissue := tileOp_issued (sh := aqryShape d ac a) (tc := []) (k := fun _ t =>
      let x := t.cx.ra ac
      let w := (t.tag (aqryShape d ac a)).setWidth 18
      t.deliverS 6 d (w.extractLsb' 2 16 ++ 0#2 ++ w.extractLsb' 0 2 ++ x.dc ++ x.rc ++ x.depth : BitVec 64))
    (checks := [s.naccCheck ac, s.dueCheck ac]) h (conflict_of_unordered s rfl) hu
    (by simp [naccCheck_pass hacc, dueCheck_pass hdue]) (by rw [deliverS_of_bundle h.1]; rfl) (fun t => t.countSeq ac none id)
  dsimp only at hissue
  rw [aqryWord_tag h.1, deliverS_of_bundle h.1] at hissue
  exact congrArg Host.Outcome.next hissue

theorem aqry_answers {s : State} {ac : AReg} (h : s.issues []) (hu : s.unraised) (hacc : s.hasAcc ac)
    (hdue : (s.cx.ra ac).undue s.env.ctm = none) (d : SReg) :
    ∃ (t : State) (r : Result), exec (.aqry d ac) s = .next t ∧ t.mem = s.mem ∧ t.cx.results = s.cx.results ++ [r] ∧
      r.dest = .s d ∧
      toWord r.val = aqryWord ((s.cx.ra ac).seq + 1) (s.cx.ra ac).kind (s.cx.ra ac).dc (s.cx.ra ac).rc (s.cx.ra ac).depth := by
  let w := aqryWord ((s.cx.ra ac).seq + 1) (s.cx.ra ac).kind (s.cx.ra ac).dc (s.cx.ra ac).rc (s.cx.ra ac).depth
  let r : Result := ({ Result.base with dest := .s d, val := ofWord w } : Result).issue s.env 6 s.cx.nextRid
  have hcx : (s.gainsWord 6 d w).cx = { s.cx with results := s.cx.results ++ [r], nextRid := s.cx.nextRid + 1 } := cx_mapCx ..
  refine ⟨_, r, exec_aqry h hu hacc hdue d, rfl, ?_, rfl, toWord_ofWord w⟩
  rw [results_countSeq, hcx]

/-! ## Storing (R154, R334) -/

/-- The bytes of a tile, row by row (R334). -/
def Acc.tileBytes (a : Acc) : List Byte := a.tile.toList.flatMap (bytesOfLanes .fp32)

theorem length_tileBytes (a : Acc) : a.tileBytes.length = 16384 := by
  simp [Acc.tileBytes, List.length_flatMap, length_bytesOfLanes, Fmt.bytes]

/-- An element of a tile stands at its row and its column (R334). -/
theorem slice_tileBytes (a : Acc) (q : BitVec 6) {n : Nat} (hn : n < 64) :
    (a.tileBytes.drop (256 * q.toNat + 4 * n)).take 4 = leBytes 4 (lane (a.row q) n).toNat := by
  have hrow : (a.tileBytes.drop (q.toNat * 256)).take 256 = bytesOfLanes .fp32 (a.row q) :=
    flatMap_slice (fun v => length_bytesOfLanes .fp32 v) (by simp [Acc.row])
  have hlane : ((bytesOfLanes .fp32 (a.row q)).drop (n * 4)).take 4 = leBytes 4 (lane (a.row q) n).toNat :=
    slice_bytesOfLanes .fp32 _ hn
  rw [← hlane, ← hrow, List.drop_take, List.drop_drop, List.take_take, Nat.min_eq_left (by omega)]
  rw [Nat.mul_comm q.toNat, Nat.mul_comm n]

/-- What ast does with the bytes of its tile, at the storage of its checks (R154, R290, R334). -/
def State.storesTile (s : State) (va : Word) (ps : List Piece) (bs : List Byte) : State := (s.putWide s.env.cid 8 va ps bs).wakeOn ps

theorem storesTile_leaves (s : State) (va : Word) (ps : List Piece) (bs : List Byte) :
    (s.storesTile va ps bs).env = s.env ∧ (s.storesTile va ps bs).cx = s.cx := ⟨rfl, rfl⟩

theorem storesTile_storesWide {s : State} (hs : s.sound) (hset : s.settled) (va : Word) (ps : List Piece) (bs : List Byte) (ac : AReg) :
    s.storesWide ((s.storesTile va ps bs).countSeq ac none id) 8 ps bs :=
  storesWide_of_putWide hs hset (Nat.dvd_refl 8) (va := va) rfl rfl

section
variable {s : State} {ac : AReg} {a : SOpd} {tc : List Touch} (h : s.issuesInOrder (.ast ac a) (SOpd.src a)) (hu : s.unraised)
  (hacc : s.hasAcc ac) (hdue : (s.cx.ra ac).undue s.env.ctm = none)
include h hu hacc hdue

theorem exec_ast (hc : s.checkAccess .pm .write 0 4 (s.operandS a) 16384 8 = .ok tc) : exec (.ast ac a) s = .next
    ((s.storesTile (s.operandS a) (piecesOf tc) (s.cx.ra ac).tileBytes).countSeq ac none id) := by
  have hissue := tileOp_issued (sh := ⟨.ast ac a, SOpd.src a, [], [], false, 0⟩) (tc := tc)
    (k := fun tc t => t.storesTile (t.rso a) (piecesOf tc) (t.cx.ra ac).tileBytes)
    (by simpa using h.1) h.2 hu (checks := [s.naccCheck ac, s.dueCheck ac])
    (by simp [naccCheck_pass hacc, dueCheck_pass hdue]) (storesTile_leaves ..).1 (fun t => t.countSeq ac none id)
  rw [← hc, rso_of_bundle (issuesInOrder_slipped h)] at hissue
  show execAst ac a s = _
  unfold execAst
  rw [rso_of_bundle (issuesInOrder_slipped h)]
  exact congrArg Host.Outcome.next hissue

theorem ast_stores {key : Nat} (hc : s.checkAccess .pm .write 0 4 (s.operandS a) 16384 8 = .ok [⟨true, key, 16384⟩])
    (hs : s.sound) (hset : s.settled) : ∃ t : State, exec (.ast ac a) s = .next t ∧ sameOutside s t key 16384 ∧
    t.cx.s = s.cx.s ∧ t.cx.v = s.cx.v ∧ t.cx.p = s.cx.p ∧ (t.cx.ra ac).tile = (s.cx.ra ac).tile ∧
    ∀ (q : BitVec 6) (n : Nat), n < 64 →
      (t.settle s.env.cid).natAt (key + 256 * q.toNat + 4 * n) 4 = (lane ((s.cx.ra ac).row q) n).toNat := by
  let bs := (s.cx.ra ac).tileBytes
  have hwide := storesTile_storesWide hs hset (s.operandS a) [⟨key, 16384⟩] bs ac
  obtain ⟨-, -, hout⟩ := id hwide
  refine ⟨_, exec_ast h hu hacc hdue hc, fun k hk => hout k (by simpa [outsidePieces] using hk), ?_⟩
  rw [ra_countSeq, cx_countSeq, (storesTile_leaves ..).2]
  refine ⟨rfl, rfl, rfl, rfl, fun q n hn => ?_⟩
  have hlt : 256 * q.toNat + 4 * n + 4 ≤ bs.length := by
    rw [length_tileBytes]
    omega
  have hrun := natAt_putPieces_run hs key hlt
  rw [length_tileBytes, slice_tileBytes _ q hn, leNat_leBytes] at hrun
  rw [Nat.add_assoc]
  exact (natAt_settle hwide _ _).trans (hrun.trans (Nat.mod_eq_of_lt (lane ((s.cx.ra ac).row q) n).isLt))

end

/-- Settles O38: each instruction passes its checks, acts on its bank or accumulator, and is counted. -/
theorem tileBanksAndDrains : Obligations.TileBanksAndDrains := by
  unfold Obligations.TileBanksAndDrains
  refine ⟨?_, fun s h hu hholder => ?_, fun s ac h hu hacc => aclr_clears h hu hacc, fun s ac v nr h hu hacc hdue =>
    ⟨adrn_drains h hu hacc hdue v nr, fun hkind _ => adrnC_drains h hu hacc hdue v nr hkind⟩,
    fun s ac a key hs hset h hu hacc hdue hc => ast_stores h hu hacc hdue hc hs hset, fun s d ac h hu hacc hdue => ?_⟩
  · intro s bk ty a tc h hu hholder hc bank u
    exact wld_issues h hu hholder hc
  · exact congrArg Host.Outcome.next (tileOp_issued (sh := ⟨.wswap, [], [], [], false, 0⟩) (k := fun _ t => t) h
      (conflict_of_unordered s rfl) hu (by simp [holderCheck_pass hholder]) rfl _)
  · obtain ⟨t, r, hexec, hmem, hresults, hdest, hval⟩ := aqry_answers h hu hacc hdue d
    refine ⟨t, r, hexec, hmem, hresults, hdest, ?_⟩
    rw [hval]
    exact aqryWord_fields ..

end Sys2Proof.Machine
end

section
/-!
O40: sends leave their port, and arrive at receive queues in order (spec/06 R168; spec/13 R348 to R354).
-/
namespace Sys2Proof.Machine

/-! ## The port (R350, R354, R494) -/

/-- What the link ports do not hold, a state that differs in them alone has too. -/
theorem PortsOnly.keeps {β : Type} {s t : State} (h : PortsOnly s t) (f : State → β) (hf : f (s.withPorts t) = f s) : f t = f s :=
  (congrArg f (show t = s.withPorts t from h)).trans hf

/-- The entry that a task sends with a destination word and a value (R354). -/
def State.sendEntry (s : State) (w : Word) (val : VecWord) : Send :=
  let chip : BitVec 6 := w.setWidth 6
  let pidx := (w.extractLsb' 6 11).toNat
  let at' := s.placedAt ((s.cx.task.map (·.launch)).getD 0) pidx
  { s.owner with
    origin := none, id := s.nextId, chip := chip, dest := (at'.map (·.1)).getD 0,
    dserial := if chip = s.chip then (at'.map (·.2)).getD 0 else pidx, q := w.extractLsb' 17 3, val := val, poison := false }

/-- An entry is on its way (R354). -/
def State.withSend (s : State) (x : Send) : State := { s with nextId := s.nextId + 1, sends := s.sends ++ [x] }

theorem leavePort_eq (s : State) (w : Word) (val : VecWord) : s.leavePort w val =
    if w.setWidth 6 = s.chip then s.withSend (s.sendEntry w val)
    else if s.routeMask (w.setWidth 6) = 0 then { s with nextId := s.nextId + 1 }
    else (s.withSend (s.sendEntry w val)).request 6 (BitVec.ofNat 4 ((s.channelOf s.env.cid).getD 0)) (w.setWidth 6)
      (.send s.nextId) false := rfl

/-- The entry names the sender, its destination and, on this chip, the context of the task there. -/
theorem sendEntry_names (s : State) (w : Word) (val : VecWord) :
    let x := s.sendEntry w val
    x.id = s.nextId ∧ x.cid = s.env.cid ∧ x.chip = w.setWidth 6 ∧ x.q = w.extractLsb' 17 3 ∧ x.val = val ∧ x.poison = false ∧
      x.origin = none ∧ ∀ c n, w.setWidth 6 = s.chip →
        s.placedAt ((s.cx.task.map (·.launch)).getD 0) (w.extractLsb' 6 11).toNat = some (c, n) → x.dest = c ∧ x.dserial = n := by
  refine ⟨rfl, owner_cid s, rfl, rfl, rfl, rfl, rfl, fun c n hchip hplace => ?_⟩
  exact ⟨by simp only [State.sendEntry, hplace, Option.map_some, Option.getD_some],
    by simp only [State.sendEntry, hplace, hchip, if_true, Option.map_some, Option.getD_some]⟩

/-- The flits of a request change the link ports beside its number and the list of the outstanding ones (R494). -/
theorem request_leaves (s : State) (n : Nat) (vc : BitVec 4) (chip : BitVec 6) (use : LinkUse) (poison : Bool) :
    let t := s.request n vc chip use poison
    t.mem = s.mem ∧ t.ctxs = s.ctxs ∧ t.cores = s.cores ∧ t.sends = s.sends ∧ t.nextId = s.nextId + 1 := by
  intro t
  have h : PortsOnly
      { s with
        nextId := s.nextId + 1, free := s.free + n + 1,
        porch := { s.porch with outstanding := (BitVec.ofNat 16 s.nextId, vc, chip, use) :: s.porch.outstanding } } t :=
    PortsOnly.foldl (fun _ _ => portsOnly_sendFlit ..) _ _
  exact ⟨h.keeps State.mem rfl, h.keeps State.ctxs rfl, h.keeps State.cores rfl, h.keeps State.sends rfl, h.keeps State.nextId rfl⟩

/-- What leaves the port is on its way, or has ended where no route leads to its chip (R354, R497). -/
theorem leavePort_leaves (s : State) (w : Word) (val : VecWord) : s.leaves (s.leavePort w val) w val := by
  have hnames := sendEntry_names s w val
  rw [leavePort_eq]
  split
  case isTrue hchip =>
    exact ⟨rfl, rfl, rfl, Nat.lt_succ_self _, fun hne => absurd hchip hne, fun _ => ⟨_, rfl, hnames⟩⟩
  case isFalse hchip =>
    split
    case isTrue hroute =>
      exact ⟨rfl, rfl, rfl, Nat.lt_succ_self _, fun _ _ => rfl, fun h => absurd h (by simp [hchip, hroute])⟩
    case isFalse hroute =>
      obtain ⟨hmem, hctxs, hcores, hsends, hid⟩ := request_leaves (s.withSend (s.sendEntry w val)) 6
        (BitVec.ofNat 4 ((s.channelOf s.env.cid).getD 0)) (w.setWidth 6) (.send s.nextId) false
      refine ⟨hmem, hctxs, hcores, ?_, fun _ h => absurd h hroute, fun _ => ⟨_, hsends, hnames⟩⟩
      rw [hid]
      exact Nat.lt_succ_of_lt (Nat.lt_succ_self _)

/-! ## send and sends (R348, R350, R353) -/

theorem checkSend_reserved {s : State} {w : Word} (h : w.extractLsb' 20 44 ≠ 0) : s.checkSend w = .error ⟨.ill, 0, 0⟩ := by
  unfold State.checkSend
  dsimp only
  rw [if_pos h]

/-- The checks of a descriptor touch no storage. -/
theorem checkSend_touches {s : State} {w : Word} {tc : List Touch} (h : s.checkSend w = .ok tc) : tc = [] := by
  unfold State.checkSend at h
  dsimp only at h
  split at h
  · cases h
  · split at h
    · cases h
    · split at h
      · cases h; rfl
      · cases h

/-- A sending instruction by its descriptor and its value. -/
def State.sendOp (s : State) (sh : Shape) (w : State → Word) (val : State → VecWord) : State :=
  s.operate sh (s.checkSend (w s)) (fun tc t =>
    t.implicitWait sh tc (t.sendReady (w t)) (fun u => u.leavePort (w u) (val u)))

section
variable {s : State} {sh : Shape} {w : State → Word} {val : State → VecWord}

theorem sendOp_reserved (h : s.issues (sh.gates ++ sh.data)) (hw : (w s).extractLsb' 20 44 ≠ 0) :
    s.sendOp sh w val = s.traps sh.instr .ill 0 0 := by
  obtain ⟨hgate, -⟩ := issues_append h
  rw [State.sendOp, checkSend_reserved hw, operate_error hgate.1 hgate.2.1]
  rfl

variable (h : s.issues (sh.gates ++ sh.data)) (ho : s.conflict sh.instr = false) {tc : List Touch} (hc : s.checkSend (w s) = .ok tc)
include h ho hc

theorem sendOp_waits (hready : s.sendReady (w s) = false) (hl : s.mayWait s.cx.ctl.dlw) :
    s.waitsUnder (s.sendOp sh w val) sh.instr s.cx.ctl.dlw := by
  rw [State.sendOp, hc, operate_ok h ho, implicitWait_waits _ _ h.1 hl (by rw [hready]; rfl)]
  exact waitsUnder_slipIn sh tc s.cx.ctl.dlw none (slotSlip_of_issues h)

theorem sendOp_leaves (hready : s.sendReady (w s) = true) : s.leaves (s.sendOp sh w val) (w s) (val s) := by
  obtain rfl := checkSend_touches hc
  rw [State.sendOp, hc, operate_ok h ho, implicitWait_ready _ _ h.1 hready rfl]
  exact leavePort_leaves ..

end

/-- send as its slot issues it. -/
def sendShape (v : VReg) (a : SOpd) : Shape := ⟨.send v a, SOpd.src a, [.v v], [], false, 0⟩

/-- sends as its slot issues it. -/
def sendsShape (a b : SReg) : Shape := ⟨.sends a b, [.s a], [.s b], [], false, 0⟩

theorem exec_send (s : State) (v : VReg) (a : SOpd) :
    exec (.send v a) s = .next (s.sendOp (sendShape v a) (fun u => u.rso a) (fun u => u.rv v)) := rfl

theorem exec_sends (s : State) (a b : SReg) :
    exec (.sends a b) s = .next (s.sendOp (sendsShape a b) (fun u => u.rs a) (fun u => ofWord (u.rs b))) := rfl

theorem send_leaves_or_waits {s : State} {v : VReg} {a : SOpd} (h : s.issuesInOrder (.send v a) (SOpd.src a ++ [.v v])) :
    let w := s.operandS a
    (w.extractLsb' 20 44 ≠ 0 → exec (.send v a) s = .next (s.traps (.send v a) .ill 0 0)) ∧
    (∀ tc, s.checkSend w = .ok tc →
      (s.sendReady w = false → s.mayWait s.cx.ctl.dlw →
        ∃ t : State, exec (.send v a) s = .next t ∧ s.waitsUnder t (.send v a) s.cx.ctl.dlw) ∧
      (s.sendReady w = true → ∃ t : State, exec (.send v a) s = .next t ∧ s.leaves t w (s.cx.rv v))) := by
  intro w
  have hw : s.rso a = w := rso_of_bundle (issuesInOrder_slipped h) a
  rw [exec_send, ← hw, ← rv_of_bundle (issuesInOrder_slipped h)]
  refine ⟨fun hres => ?_, fun tc hc => ⟨fun hready hl => ⟨_, rfl, ?_⟩, fun hready => ⟨_, rfl, ?_⟩⟩⟩
  · exact congrArg Host.Outcome.next (sendOp_reserved (sh := sendShape v a) (w := fun u => u.rso a) h.1 hres)
  · exact sendOp_waits (sh := sendShape v a) (w := fun u => u.rso a) h.1 h.2 hc hready hl
  · exact sendOp_leaves (sh := sendShape v a) (w := fun u => u.rso a) (val := fun u => u.rv v) h.1 h.2 hc hready

theorem sends_leaves_or_waits {s : State} {a b : SReg} (h : s.issuesInOrder (.sends a b) [.s a, .s b]) :
    let w := s.cx.rs a
    (w.extractLsb' 20 44 ≠ 0 → exec (.sends a b) s = .next (s.traps (.sends a b) .ill 0 0)) ∧
    (∀ tc, s.checkSend w = .ok tc →
      (s.sendReady w = false → s.mayWait s.cx.ctl.dlw →
        ∃ t : State, exec (.sends a b) s = .next t ∧ s.waitsUnder t (.sends a b) s.cx.ctl.dlw) ∧
      (s.sendReady w = true → ∃ t : State, exec (.sends a b) s = .next t ∧ s.leaves t w (ofWord (s.cx.rs b)))) := by
  intro w
  have hw : s.rs a = w := rs_of_bundle (issuesInOrder_slipped h) a
  rw [exec_sends, ← hw, ← rs_of_bundle (issuesInOrder_slipped h) b]
  refine ⟨fun hres => ?_, fun tc hc => ⟨fun hready hl => ⟨_, rfl, ?_⟩, fun hready => ⟨_, rfl, ?_⟩⟩⟩
  · exact congrArg Host.Outcome.next (sendOp_reserved (sh := sendsShape a b) (w := fun u => u.rs a) h.1 hres)
  · exact sendOp_waits (sh := sendsShape a b) (w := fun u => u.rs a) h.1 h.2 hc hready hl
  · exact sendOp_leaves (sh := sendsShape a b) (w := fun u => u.rs a) (val := fun u => ofWord (u.rs b)) h.1 h.2 hc hready

/-! ## Arrivals (R168, R349, R352) -/

theorem queue_setQueue (x : Ctx) (p q : BitVec 3) (l : List (VecWord × Bool)) :
    (x.setQueue p l).queue q = if q = p then l else x.queue q := by
  simp only [Ctx.queue, Ctx.setQueue, Vector.getElem_set]
  by_cases h : q = p
  · simp [h]
  · have : p.toNat ≠ q.toNat := fun e => h (BitVec.eq_of_toNat_eq e.symm)
    simp [h, this]

theorem portsOnly_answerCredited (s : State) (vc : BitVec 4) (chip : BitVec 6) (tag : BitVec 16) (kind : BitVec 4) (n : Nat) :
    PortsOnly s ((s.answerTo vc chip tag kind).returnCredits vc chip n) :=
  (portsOnly_sendFlit ..).trans (portsOnly_returnCredits ..)

/-- The answer to an entry from another chip goes out by the link ports (R350, R499). -/
theorem answerSend_leaves (s : State) (x : Send) :
    (s.answerSend x).mem = s.mem ∧ (s.answerSend x).ctxs = s.ctxs ∧ (s.answerSend x).sends = s.sends := by
  unfold State.answerSend
  split
  · exact ⟨rfl, rfl, rfl⟩
  · exact ⟨(portsOnly_answerCredited ..).keeps State.mem rfl, (portsOnly_answerCredited ..).keeps State.ctxs rfl,
      (portsOnly_answerCredited ..).keeps State.sends rfl⟩

/-- An entry at the queue of the context that runs its task: it joins the tail, or stays where the queue is full (R349, R352). -/
def State.entersQueue (s : State) (x : Send) (c : CtxId) : State :=
  if 64 ≤ ((s.ctx c).queue x.q).length then s
  else ((s.mapCtx c (fun y => y.setQueue x.q (y.queue x.q ++ [(x.val, x.poison)]))).endSend x.id).answerSend x

section
variable {s : State} {x : Send} (hfind : s.sends.find? (fun y => y.id == x.id) = some x)
include hfind

theorem exec_sendArrival : exec (.sendArrival x.id) s = .next (
    if s.sendBehind x then s
    else if x.chip ≠ s.chip then s.endSend x.id
    else if s.destOut x then s
    else (s.runsTask x.dserial).elim ((s.endSend x.id).answerSend x) (s.entersQueue x)) := by
  show execSendArrival x.id s = _
  unfold execSendArrival
  rw [hfind]
  dsimp only
  cases s.runsTask x.dserial with
  | none => simp only [Option.elim_none]
  | some c => simp only [Option.elim_some, State.entersQueue]

theorem sendArrival_stays (hbehind : s.sendBehind x = true) : exec (.sendArrival x.id) s = .next s := by
  rw [exec_sendArrival hfind, if_pos hbehind]

variable (hbehind : s.sendBehind x = false)
include hbehind

theorem sendArrival_abroad (hchip : x.chip ≠ s.chip) : exec (.sendArrival x.id) s = .next (s.endSend x.id) := by
  rw [exec_sendArrival hfind, if_neg (by simp [hbehind]), if_pos hchip]

variable (hchip : x.chip = s.chip)
include hchip

theorem sendArrival_out (hout : s.destOut x = true) : exec (.sendArrival x.id) s = .next s := by
  rw [exec_sendArrival hfind, if_neg (by simp [hbehind]), if_neg (by simp [hchip]), if_pos hout]

variable (hout : s.destOut x = false)
include hout

theorem sendArrival_retired (hnone : s.runsTask x.dserial = none) :
    ∃ t : State, exec (.sendArrival x.id) s = .next t ∧ t.mem = s.mem ∧ t.ctxs = s.ctxs ∧
      t.sends = s.sends.filter (fun y => y.id != x.id) := by
  refine ⟨_, ?_, answerSend_leaves (s.endSend x.id) x⟩
  rw [exec_sendArrival hfind, if_neg (by simp [hbehind]), if_neg (by simp [hchip]), if_neg (by simp [hout]), hnone,
    Option.elim_none]

variable {c : CtxId} (hruns : s.runsTask x.dserial = some c)
include hruns

theorem sendArrival_full (hfull : 64 ≤ ((s.ctx c).queue x.q).length) : exec (.sendArrival x.id) s = .next s := by
  rw [exec_sendArrival hfind, if_neg (by simp [hbehind]), if_neg (by simp [hchip]), if_neg (by simp [hout]), hruns,
    Option.elim_some, State.entersQueue, if_pos hfull]

theorem sendArrival_joins (hroom : ((s.ctx c).queue x.q).length < 64) :
    ∃ t : State, exec (.sendArrival x.id) s = .next t ∧ t.mem = s.mem ∧
      (t.ctx c).queue x.q = (s.ctx c).queue x.q ++ [(x.val, x.poison)] ∧
      (∀ q, q ≠ x.q → (t.ctx c).queue q = (s.ctx c).queue q) ∧ (∀ d, d ≠ c → t.ctx d = s.ctx d) ∧
      t.sends = s.sends.filter (fun y => y.id != x.id) := by
  let u := s.mapCtx c (fun y => y.setQueue x.q (y.queue x.q ++ [(x.val, x.poison)]))
  obtain ⟨hmem, hctxs, hsends⟩ := answerSend_leaves (u.endSend x.id) x
  have hctx (d : CtxId) : ((u.endSend x.id).answerSend x).ctx d = u.ctx d := ctx_congr hctxs d
  have hc : u.ctx c = (s.ctx c).setQueue x.q ((s.ctx c).queue x.q ++ [(x.val, x.poison)]) := ctx_mapCtx_self ..
  refine ⟨(u.endSend x.id).answerSend x, ?_, hmem, ?_, fun q hq => ?_, fun d hd => ?_, hsends⟩
  · rw [exec_sendArrival hfind, if_neg (by simp [hbehind]), if_neg (by simp [hchip]), if_neg (by simp [hout]), hruns,
      Option.elim_some, State.entersQueue, if_neg (by omega)]
  · rw [hctx, hc, queue_setQueue, if_pos rfl]
  · rw [hctx, hc, queue_setQueue, if_neg hq]
  · rw [hctx]
    exact ctx_mapCtx_ne s _ hd

end

/-- Settles O40: a granted entry leaves by the port, an arriving one joins its queue, and each way to wait or end is a branch. -/
theorem sendsLeaveAndArrive : Obligations.SendsLeaveAndArrive := by
  unfold Obligations.SendsLeaveAndArrive
  refine ⟨fun s v a ra b => ⟨send_leaves_or_waits, sends_leaves_or_waits⟩,
    fun s x hfind => ⟨sendArrival_stays hfind, ?_, ?_⟩⟩
  · intro hbehind hchip
    exact ⟨_, sendArrival_abroad hfind hbehind hchip, rfl, rfl, rfl⟩
  · intro hbehind hchip
    exact ⟨sendArrival_out hfind hbehind hchip, sendArrival_retired hfind hbehind hchip,
      fun c hout hruns => ⟨sendArrival_full hfind hbehind hchip hout hruns, sendArrival_joins hfind hbehind hchip hout hruns⟩⟩

end Sys2Proof.Machine
end
